-- ==== Sys2Proof/Word.lean ====
section
/-! DEFINITION. The word type and its plainest arithmetic: the names of the widths the manual uses (02 R25, 03 R49). -/

namespace Sys2Proof

/-- One byte of memory or of a message. -/
abbrev Byte := BitVec 8

/-- A 32-bit register value (00 R1). -/
abbrev Word := BitVec 32

/-- A 64-bit value: a register pair or an address operand (03 R50). -/
abbrev DWord := BitVec 64

/-- A 96-bit instruction word (02 R25). -/
abbrev IWord := BitVec 96

end Sys2Proof
end

