-- ==== Sys2Proof/Config.lean ====
section
/-! DEFINITION. What the part fixes (00 R1 and the tables of figures) and the free values: constants without a body, so
that no proof can see them. -/

namespace Sys2Proof.Config

/-- Dies, logical cores per die, partitions per core (00 R1, R2). -/
def dies : Nat := 8
def coresPerDie : Nat := 72
def cores : Nat := 576
def partsPerCore : Nat := 6
/-- Spare cores of a die's 80 physical ones (04 R81). -/
def physicalCores : Nat := 80

/-- Registers and thread places of a partition (00 R1). -/
def partRegs : Nat := 65536
def partPlaces : Nat := 1024
/-- Bins and issue-group positions of a partition (06 R118, R122). -/
def bins : Nat := 64
def groupPositions : Nat := 16

/-- The top of DRAM (08 R177). -/
def dramTop : Nat := 0x9000000000
/-- The host coherent window (08 R174). -/
def windowBase : Nat := 0x00F0000000000000
def windowSize : Nat := 0x800000

/-- Slots of a DSM phase (06 R133) and the completion distance of R131. -/
def phaseSlots : Nat := 1024
def dsmLatency : Nat := 64

/-- Buffers of a core (08 R192). -/
def wbufSize : Nat := 0x100000
def tileSize : Nat := 0x10000
/-- A-buffer size by `lr.carve` (05 R87). -/
def abufSize (carve : Nat) : Nat :=
  match carve with
  | 0 => 640 * 1024
  | 1 => 512 * 1024
  | 2 => 384 * 1024
  | _ => 256 * 1024

/-- Core TLB and die TLB entries (08 R179). -/
def coreTlbEntries : Nat := 128
def dieTlbEntries : Nat := 16384
def dieTlbWays : Nat := 8
/-- Lines of an instruction cache, a constant cache, an L2, and of the L1 a carve-out leaves (06 R116, 09 R201, 00 R1). -/
def icacheLines : Nat := 256
def icacheWays : Nat := 4
def kcacheLines : Nat := 128
def l2Lines : Nat := 786432
def l1Lines (carve : Nat) : Nat := (768 * 1024 - abufSize carve) / 128

/-- PRESUMED (log 8): the set, of n, in which a cache or TLB keeps a line or page; 06 R116 and 08 R179 give the ways only. -/
def cacheSet (n k : Nat) : Nat := k % n

/-- Ticks of the device, one per clk; nanoseconds since phase 6 are clk * 20 / 21 at 1.05 GHz (00 R5, 18 R335). -/
def nsOfClk (clk : Nat) : Nat := clk * 20 / 21
/-- clk of one microsecond and of one millisecond at 1.05 GHz (04 R84, 20 R358). -/
def clkPerUs : Nat := 1050
def clkPerMs : Nat := 1050000

/-- Free, log 7: whether a flash image's signature verifies against the vendor key (04 R75). -/
opaque imageSigned : List Byte → Bool
/-- Free, log 7: the version a flash image carries (04 R75). -/
opaque imageVersion : List Byte → Nat
/-- Free, log 5: what a committed image fixes (04 R75): the alarm level per source (R82), the power cap in mW (R84), the interval and
the area of checkpoints (20 R362). -/
opaque imagePolicy : List Byte → Nat → Nat
opaque imageCap : List Byte → Nat
opaque imageInterval : List Byte → Nat
opaque imageTier : List Byte → DWord
/-- Free, log 5: the IPv4, IPv6 and UET fabric addresses that an image gives a port (24 R387). -/
opaque imageV4 : List Byte → Nat → BitVec 32
opaque imageV6 : List Byte → Nat → BitVec 128
opaque imageFabric : List Byte → Nat → BitVec 64
/-- Free, log 7: the link-local address formed from the module's serial number (04 R80). -/
opaque linkLocal : BitVec 128
/-- Free, log 7: whether a session open's credential chain and signature verify (24 R393). -/
opaque credentialOk : List Byte → Bool
/-- Free, log 7: whether a credential carries the management attribute (24 R393). -/
opaque credentialManagement : List Byte → Bool
/-- Free, log 7: the hash of a credential's owner-key certificate (24 R394). -/
opaque credentialHash : List Byte → DWord
/-- Free, log 8: which of n lines or entries a full cache or set replaces (no replacement rule is given but for the core TLB). -/
opaque victim : Nat → Nat
/-- Free, log 7: a value that the manual leaves open: a byte of an A-buffer whose carve-out has changed (08 R193), a byte of a context image
(log 60), the nearest sample of an infinite coordinate (log 41). -/
opaque freeWord : Nat → Word
/-- Free, log 7: the key share and signature with which the device answers an open (24 R393). -/
opaque openAnswer : Nat → List DWord
/-- Free, log 7: a byte that a peer device returns (24 R390). -/
opaque peerByte : Nat → Nat → Byte

end Sys2Proof.Config
end

