-- ==== Sys2Proof/Syntax.lean ====
section
/-! DEFINITION. The syntax: operand classes (02 R27-R32), modifier fields (02 R40, R41), the clause header (01 R22)
and Instr, one constructor per row of the opcode table: instruction words, device events and Bluith messages. -/

namespace Sys2Proof

/-- The sixteen formats of `mod.type` (03 R48), in code order. -/
inductive Ty where
  | i32 | n32 | i64 | n64 | i16 | n16 | i8 | n8 | f32 | f64 | f16 | bf16 | f8e4 | f8e5 | lq2 | se8
deriving DecidableEq, Repr

/-- `mod.cmp` (02 R41). -/
inductive Cmp where
  | eq | ne | lt | le | gt | ge | ord | unord
deriving DecidableEq, Repr

/-- The combine field of the comparisons (07 R152); code 3 is reserved. -/
inductive Comb where
  | none | and | or
deriving DecidableEq, Repr

/-- `mod.scope` (02 R41); codes 6 and 7 are reserved. -/
inductive Scope where
  | th | pg | cg | dg | dev | sys
deriving DecidableEq, Repr

/-- `mod.ord` (02 R41). -/
inductive MemOrd where
  | rlx | acq | rel | ar
deriving DecidableEq, Repr

/-- Rounding direction of FRND and DRND (07 R158). -/
inductive RMode where
  | rne | rz | rd | ru
deriving DecidableEq, Repr

/-- XLANE modes (07 R155). -/
inductive LaneMode where
  | idx | up | down | xor
deriving DecidableEq, Repr

/-- VOTE forms (07 R156); code 3 is reserved. -/
inductive VoteForm where
  | any | all | ballot
deriving DecidableEq, Repr

/-- Operations of ATOM and RED (14 R304); codes 9-15 are reserved. -/
inductive AtomOp where
  | add | min | max | and | or | xor | exch | fmin | fmax
deriving DecidableEq, Repr

/-- What an access needs of a page (08 R177). `readOrWrite` is the need of CFLUSH and CINV (09 R208). -/
inductive Need where
  | read | write | readWrite | fetch | readOrWrite
deriving DecidableEq, Repr

/-- The alarm sources of 04 R82, in the order of its table. -/
inductive AlarmSource where
  | tamper | secureElement | supply | clock | junction | auth
deriving DecidableEq, Repr

/-- The resource kinds of 02 R29, in code order. -/
inductive ResKind where
  | q | aq | tag | pb | cb | db | gb | dc
deriving DecidableEq, Repr

/-- An operand field (02 R27), one constructor per class. -/
inductive Opd where
  | v (n : BitVec 8) (neg abs : Bool)
  | p (n : BitVec 3) (inv : Bool)
  | k (n : BitVec 6) (neg abs : Bool)
  | sr (n : BitVec 8)
  | imm (x : BitVec 19)
  | role (n : BitVec 8)
  | res (kind : ResKind) (n : BitVec 12)
  | none
deriving DecidableEq, Repr

/-- Guard and hints of a word (02 R25): `fa` and `fb` are the two bits of `h.flag`. -/
structure Ctl where
  neg : Bool
  pred : BitVec 3
  yield : Bool
  fa : Bool
  fb : Bool
  stall : BitVec 3
deriving DecidableEq, Repr

/-- What every normal word carries beside its opcode and modifier. -/
structure Wd where
  ctl : Ctl
  a : Opd
  b : Opd
  c : Opd
deriving DecidableEq, Repr

/-- What a wide word carries (02 R31). -/
structure WideWd where
  ctl : Ctl
  a : Opd
  imm : Word
deriving DecidableEq, Repr

/-- The clause header (01 R22): `wait` bit i names flag i; 15 in `fa` or `fb` stands for none. -/
structure Header where
  wait : BitVec 12
  fa : BitVec 4
  fb : BitVec 4
  count : BitVec 5
  region : Bool
deriving DecidableEq, Repr

/-- A Bluith message as its class unit receives it (24 R389): the connection, the header's tag and address, the payload,
and the class and operation bytes of the header. -/
structure Msg where
  conn : Nat
  cls : BitVec 8
  op : BitVec 7
  big : Bool
  tag : Word
  addr : DWord
  payload : List Byte
deriving DecidableEq, Repr

/-- One step of the device: a row of the opcode table. The words come first, in opcode order; then the events with
parameters, then the events and Bluith messages without: a message constructor names the row, and the message itself stands
in the port's receive register, State.rx. (Constructors with fields stand first because the runtime has few tags for them.) -/
inductive Instr where
  | illz (rest : BitVec 86)
  | nop (w : Wd)
  | braD (w : WideWd)
  | braU (w : WideWd)
  | brx (w : Wd)
  | call (w : WideWd)
  | ret (w : Wd)
  | reform (w : Wd)
  | exit (w : Wd)
  | yield (w : Wd)
  | waitf (w : Wd)
  | trap (w : Wd)
  | bkpt (w : Wd)
  | iadd (w : Wd) (ty : Ty) (sat : Bool)
  | isub (w : Wd) (ty : Ty) (sat : Bool)
  | imul (w : Wd) (ty : Ty) (sat : Bool)
  | imulh (w : Wd) (ty : Ty)
  | imad (w : Wd) (ty : Ty) (sat : Bool)
  | imin (w : Wd) (ty : Ty)
  | imax (w : Wd) (ty : Ty)
  | iabs (w : Wd) (sat : Bool)
  | iadd64 (w : Wd) (ty : Ty) (sat : Bool)
  | imul64 (w : Wd) (ty : Ty) (sat : Bool)
  | lea (w : Wd) (ty : Ty) (sh : BitVec 3)
  | idivn (w : Wd) (ty : Ty) (sat : Bool) (rem : Bool)
  | and (w : Wd)
  | or (w : Wd)
  | xor (w : Wd)
  | andn (w : Wd)
  | bfn3 (w : Wd)
  | shl (w : Wd)
  | shr (w : Wd) (arith : Bool)
  | rotr (w : Wd)
  | bfe (w : Wd) (ty : Ty)
  | bfi (w : Wd)
  | popc (w : Wd)
  | clz (w : Wd)
  | brev (w : Wd)
  | bsel (w : Wd)
  | icmp (w : Wd) (ty : Ty) (cmp : Cmp) (comb : Comb)
  | sel (w : Wd) (ty : Ty) (inv : Bool) (pn : BitVec 3)
  | mov (w : Wd)
  | movi (w : WideWd)
  | pset (w : Wd) (cmp : Cmp) (comb : Comb)
  | p2v (w : Wd)
  | v2p (w : Wd)
  | xlane (w : Wd) (ty : Ty) (pn : BitVec 3) (mode : LaneMode)
  | vote (w : Wd) (form : VoteForm)
  | teamid (w : Wd)
  | fadd (w : Wd)
  | fsub (w : Wd)
  | fmul (w : Wd)
  | ffma (w : Wd)
  | fmin (w : Wd)
  | fmax (w : Wd)
  | fcmp (w : Wd) (cmp : Cmp) (comb : Comb)
  | frnd (w : Wd) (rm : RMode)
  | fchk (w : Wd)
  | fflags (w : Wd)
  | dadd (w : Wd)
  | dmul (w : Wd)
  | dfma (w : Wd)
  | dmin (w : Wd)
  | dmax (w : Wd)
  | dcmp (w : Wd) (cmp : Cmp) (comb : Comb)
  | drnd (w : Wd) (rm : RMode)
  | hadd2 (w : Wd) (ty : Ty)
  | hmul2 (w : Wd) (ty : Ty)
  | hfma2 (w : Wd) (ty : Ty)
  | hmin2 (w : Wd) (ty : Ty)
  | hmax2 (w : Wd) (ty : Ty)
  | hdot2 (w : Wd) (ty : Ty)
  | idot4 (w : Wd) (ty : Ty) (sat : Bool)
  | rcp (w : Wd) (ty : Ty)
  | rsq (w : Wd) (ty : Ty)
  | sqrt (w : Wd) (ty : Ty)
  | exp2 (w : Wd)
  | log2 (w : Wd)
  | sin (w : Wd)
  | cos (w : Wd)
  | tanh (w : Wd)
  | cvt (w : Wd) (ty : Ty) (sty : Ty) (sat : Bool)
  | cvts (w : Wd) (ty : Ty) (sat : Bool)
  | pack8 (w : Wd) (ty : Ty) (sat : Bool) (hi : Bool)
  | unpack8 (w : Wd) (ty : Ty)
  | cbdec (w : Wd)
  | scale (w : Wd)
  | draw (w : Wd)
  | drawf (w : Wd)
  | drawb (w : Wd)
  | cvpos (w : Wd)
  | cvscore (w : Wd)
  | ld (w : Wd) (ty : Ty) (scope : Scope) (ord : MemOrd) (nt : Bool)
  | st (w : Wd) (ty : Ty) (scope : Scope) (ord : MemOrd) (nt : Bool)
  | pref (w : Wd) (l1 : Bool)
  | ldk (w : Wd) (ty : Ty)
  | lda (w : Wd) (ty : Ty) (scope : Scope) (ord : MemOrd)
  | sta (w : Wd) (ty : Ty) (scope : Scope) (ord : MemOrd)
  | ldc (w : Wd) (ty : Ty)
  | stc (w : Wd) (ty : Ty)
  | atom (w : Wd) (ty : Ty) (scope : Scope) (ord : MemOrd)
  | cas (w : Wd) (ty : Ty) (scope : Scope) (ord : MemOrd)
  | red (w : Wd) (ty : Ty) (scope : Scope) (ord : MemOrd)
  | fred (w : Wd) (ty : Ty) (scope : Scope) (ord : MemOrd)
  | redobjInit (w : Wd) (ty : Ty) (scope : Scope) (ord : MemOrd)
  | redobjFold (w : Wd) (ty : Ty) (scope : Scope) (ord : MemOrd)
  | fence (w : Wd) (scope : Scope) (ord : MemOrd)
  | cflush (w : Wd)
  | cinv (w : Wd) (icache : Bool)
  | hwsig (w : Wd) (ty : Ty)
  | bcopy (w : Wd)
  | bgath (w : Wd)
  | bscat (w : Wd)
  | tgwait (w : Wd) (chk : Bool)
  | tgany (w : Wd) (err : Bool)
  | tgfirst (w : Wd) (err : Bool)
  | tgclr (w : Wd)
  | aslice (w : Wd)
  | qpop (w : Wd)
  | qstat (w : Wd)
  | qend (w : Wd)
  | macq (w : Wd)
  | mrel (w : Wd)
  | gang (w : Wd)
  | resv (w : Wd)
  | rfree (w : Wd)
  | cbld (w : Wd)
  | mma (w : Wd) (aty : Ty)
  | mmas (w : Wd) (aty : Ty)
  | mzero (w : Wd)
  | mdrain (w : Wd)
  | mfill (w : Wd)
  | mwait (w : Wd)
  | mdep (w : Wd)
  | vmma (w : Wd) (aty : Ty)
  | vmmai (w : Wd)
  | vfrag (w : Wd) (aty : Ty) (tr : Bool)
  | bara (w : Wd)
  | barw (w : Wd)
  | baraw (w : Wd)
  | barq (w : Wd)
  | teamj (w : Wd)
  | tenq (w : Wd) (q : BitVec 3)
  | targ (w : Wd)
  | dcnew (w : Wd)
  | dcdec (w : Wd)
  | dcq (w : Wd)
  | launch (w : Wd)
  | mutl (w : Wd)
  | sproj (w : Wd)
  | ssort (w : Wd)
  | sfetch (w : Wd) (kn : BitVec 5)
  | cdep (w : Wd)
  | cwmark (w : Wd)
  | cread (w : Wd)
  | crlist (w : Wd)
  | cadj (w : Wd)
  | crst (w : Wd)
  | crstRel (w : Wd)
  | rproj (w : Wd)
  | rwlist (w : Wd)
  | trace (w : Wd) (any : Bool)
  | asupd (w : Wd)
  | asq (w : Wd)
  | tex (w : Wd)
  | tld (w : Wd)
  | imst (w : Wd) (ty : Ty) (scope : Scope) (ord : MemOrd)
  | imld (w : Wd) (ty : Ty) (scope : Scope) (ord : MemOrd)
  | srd (w : Wd) (d : Bool)
  | swr (w : Wd)
  | clk (w : Wd)
  | wtime (w : Wd)
  | sigrd (w : Wd)
  | tretRes (w : Wd)
  | tretRst (w : Wd)
  | tretTerm (w : Wd)
  | tqrd (w : Wd)
  | killg (w : Wd) (scope : Scope)
  | privw (w : Wd) (d : Bool)
  | mfrz (w : Wd)
  | mfrzThaw (w : Wd)
  | ctxq (w : Wd)
  | progress (w : Wd)
  | mark (w : Wd)
  | stopp (w : Wd)
  | securityAlarm (srcs : List AlarmSource)
  | pendingFrameCopied (frame : Nat)
  | coreGroupPlacement (lid : Nat) (dgid : Nat)
  | taskStart (lid : Nat) (dgid : Nat)
  | coreGroupEnd (cg : Nat)
  | launchEnd (lid : Nat)
  | binDraw (part : Nat)
  | overflowMove (part : Nat)
  | binAged (part : Nat) (bin : Nat)
  | agedGroupFiling (part : Nat) (pos : Nat)
  | stallExpiry (part : Nat) (pos : Nat)
  | yieldExpiry (pg : Nat) (tid : Nat)
  | clauseFetchComplete (part : Nat) (pg : Nat) (va : Nat)
  | fixedResultWrite (id : Nat)
  | variableResultComplete (id : Nat)
  | dsmSlotAdvance (cg : Nat)
  | dsmPhaseBoundary (cg : Nat)
  | dsmEventDelivery (cg : Nat) (id : Nat)
  | dsmPhaseCommit (lid : Nat)
  | barrierRelease (lid : Nat) (bar : Nat)
  | trapDelivery (pg : Nat)
  | coreGroupRelaunch (cg : Nat)
  | timerExpiry (pg : Nat) (tid : Nat)
  | watchpointDeferred (id : Nat)
  | preemptGraceExpiry (lid : Nat)
  | preemptStopComplete (lid : Nat)
  | translationWalkComplete (core : Nat) (space : Nat) (va : Nat) (need : Need)
  | demandZeroFill (core : Nat) (space : Nat) (va : Nat)
  | homeAccessPerform (id : Nat)
  | windowAccess (id : Nat)
  | hotnessSample (core : Nat)
  | stallSample (part : Nat)
  | copyComplete (id : Nat)
  | codebookSwap (id : Nat)
  | reservationClearComplete (core : Nat) (num : Nat)
  | engineGrant (core : Nat)
  | matrixOpStart (core : Nat)
  | matrixOpComplete (core : Nat)
  | drainPortComplete (core : Nat) (id : Nat)
  | streamFetch (pg : Nat) (q : Nat) (tid : Nat)
  | projectionComplete (id : Nat)
  | sortComplete (id : Nat)
  | reprojectionComplete (id : Nat)
  | worklistComplete (id : Nat)
  | traversalRefetch (id : Nat)
  | whiskBuild (job : Nat)
  | whiskJudge (job : Nat)
  | connectionLost (conn : Nat)
  | refusedDeliveryMode (conn : Nat) (hdr : BitVec 64)
  | powerGood
  | bringupPhaseComplete
  | port0Retrain
  | powerLoss
  | powerThrottleStep
  | eccCorrection
  | uncorrectableError
  | replayComplete
  | checkpointStart
  | checkpointValid
  | launchAccept
  | trialWindowEnd
  | signalSend
  | launchMessage
  | write
  | read
  | flushData
  | flushDataAndTlb
  | windowRead
  | windowWrite
  | windowFetchAdd
  | preemptStopAndSave
  | preemptWithNotice
  | restore
  | kill
  | checkpointControlRead
  | checkpointControlWrite
  | raceCountEnable
  | checkpointRestore
  | managementRead
  | managementWrite
  | hotnessEnable
  | freeFramesAdd
  | samplingEnable
  | trialEnable
  | trialDisable
  | managementReset
  | imageWrite
  | imageCommit
  | debugClaim
  | debugRelease
  | armTrace
  | stopPartition
  | resume
  | readDump
  | setWatchpoint
  | copyToPeer
  | copyFromPeer
  | sessionOpen
  | sessionClose
  | createAddressSpace
  | destroyAddressSpace
  | malformedMessage
deriving DecidableEq, Repr

end Sys2Proof
end

