-- ==== Sys2Proof/Decode.lean ====
section
/-! DEFINITION. The decoder and the encoder of the 96-bit words (02 R25-R31, R40, R41, R44) and of the Bluith messages
(24 R389, R390). Both are total: a word that is no instruction is rejected by name. -/

namespace Sys2Proof

/-- Why a word is no instruction, whatever the launch (02 R45): the checks that need the launch are in WellFormed. -/
inductive DecodeError where
  | unassignedOpcode
  | headerInBody
  | reservedModifier
  | reservedOperand
deriving DecidableEq, Repr

/-! Field codes (02 R27, R29, R41; 03 R48). -/

def Ty.code (t : Ty) : BitVec 4 :=
  match t with
  | .i32 => 0 | .n32 => 1 | .i64 => 2 | .n64 => 3 | .i16 => 4 | .n16 => 5 | .i8 => 6 | .n8 => 7
  | .f32 => 8 | .f64 => 9 | .f16 => 10 | .bf16 => 11 | .f8e4 => 12 | .f8e5 => 13 | .lq2 => 14 | .se8 => 15

def Ty.ofCode (c : BitVec 4) : Option Ty :=
  match c.toNat with
  | 0 => some .i32 | 1 => some .n32 | 2 => some .i64 | 3 => some .n64 | 4 => some .i16 | 5 => some .n16
  | 6 => some .i8 | 7 => some .n8 | 8 => some .f32 | 9 => some .f64 | 10 => some .f16 | 11 => some .bf16
  | 12 => some .f8e4 | 13 => some .f8e5 | 14 => some .lq2 | _ => some .se8

def Cmp.code (c : Cmp) : BitVec 3 :=
  match c with
  | .eq => 0 | .ne => 1 | .lt => 2 | .le => 3 | .gt => 4 | .ge => 5 | .ord => 6 | .unord => 7

def Cmp.ofCode (c : BitVec 3) : Option Cmp :=
  match c.toNat with
  | 0 => some .eq | 1 => some .ne | 2 => some .lt | 3 => some .le | 4 => some .gt | 5 => some .ge
  | 6 => some .ord | _ => some .unord

def Comb.code (c : Comb) : BitVec 2 :=
  match c with
  | .none => 0 | .and => 1 | .or => 2

def Comb.ofCode (c : BitVec 2) : Option Comb :=
  match c.toNat with
  | 0 => some .none | 1 => some .and | 2 => some .or | _ => Option.none

def Scope.code (c : Scope) : BitVec 3 :=
  match c with
  | .th => 0 | .pg => 1 | .cg => 2 | .dg => 3 | .dev => 4 | .sys => 5

def Scope.ofCode (c : BitVec 3) : Option Scope :=
  match c.toNat with
  | 0 => some .th | 1 => some .pg | 2 => some .cg | 3 => some .dg | 4 => some .dev | 5 => some .sys
  | _ => none

def MemOrd.code (c : MemOrd) : BitVec 2 :=
  match c with
  | .rlx => 0 | .acq => 1 | .rel => 2 | .ar => 3

def MemOrd.ofCode (c : BitVec 2) : Option MemOrd :=
  match c.toNat with
  | 0 => some .rlx | 1 => some .acq | 2 => some .rel | _ => some .ar

def RMode.code (c : RMode) : BitVec 2 :=
  match c with
  | .rne => 0 | .rz => 1 | .rd => 2 | .ru => 3

def RMode.ofCode (c : BitVec 2) : Option RMode :=
  match c.toNat with
  | 0 => some .rne | 1 => some .rz | 2 => some .rd | _ => some .ru

def LaneMode.code (c : LaneMode) : BitVec 2 :=
  match c with
  | .idx => 0 | .up => 1 | .down => 2 | .xor => 3

def LaneMode.ofCode (c : BitVec 2) : Option LaneMode :=
  match c.toNat with
  | 0 => some .idx | 1 => some .up | 2 => some .down | _ => some .xor

def VoteForm.code (c : VoteForm) : BitVec 2 :=
  match c with
  | .any => 0 | .all => 1 | .ballot => 2

def VoteForm.ofCode (c : BitVec 2) : Option VoteForm :=
  match c.toNat with
  | 0 => some .any | 1 => some .all | 2 => some .ballot | _ => none

def ResKind.code (c : ResKind) : BitVec 4 :=
  match c with
  | .q => 0 | .aq => 1 | .tag => 2 | .pb => 3 | .cb => 4 | .db => 5 | .gb => 6 | .dc => 7

def ResKind.ofCode (c : BitVec 4) : Option ResKind :=
  match c.toNat with
  | 0 => some .q | 1 => some .aq | 2 => some .tag | 3 => some .pb | 4 => some .cb | 5 => some .db
  | 6 => some .gb | 7 => some .dc | _ => none

/-- How many resources of a kind there are (02 R29). -/
def ResKind.limit (c : ResKind) : Nat :=
  match c with
  | .q => 16 | .aq => 4 | .tag => 64 | .pb => 8 | .cb => 8 | .db => 4 | .gb => 4 | .dc => 4096

/-- Bits [18:15] of operand C of ATOM and RED (14 R304). -/
def AtomOp.ofCode (c : BitVec 4) : Option AtomOp :=
  match c.toNat with
  | 0 => some .add | 1 => some .min | 2 => some .max | 3 => some .and | 4 => some .or | 5 => some .xor
  | 6 => some .exch | 7 => some .fmin | 8 => some .fmax | _ => none

def bitOf (b : Bool) : BitVec 1 := if b then 1 else 0

/-! Operand fields (02 R27): the class in [21:19], the layout of the class in [18:0]. -/

def Opd.encode (o : Opd) : BitVec 22 :=
  match o with
  | .v n neg abs => (0 : BitVec 3) ++ bitOf neg ++ bitOf abs ++ (0 : BitVec 9) ++ n
  | .p n inv => (1 : BitVec 3) ++ bitOf inv ++ (0 : BitVec 15) ++ n
  | .k n neg abs => (2 : BitVec 3) ++ bitOf neg ++ bitOf abs ++ (0 : BitVec 11) ++ n
  | .sr n => (3 : BitVec 3) ++ (0 : BitVec 11) ++ n
  | .imm x => (4 : BitVec 3) ++ x
  | .role n => (5 : BitVec 3) ++ (0 : BitVec 11) ++ n
  | .res kind n => (6 : BitVec 3) ++ (0 : BitVec 3) ++ kind.code ++ n
  | .none => (7 : BitVec 3) ++ (0 : BitVec 19)

def Opd.decode (x : BitVec 22) : Option Opd :=
  match (x.extractLsb' 19 3).toNat with
  | 0 => if x.extractLsb' 8 9 = 0 then some (.v (x.extractLsb' 0 8) (x.getLsbD 18) (x.getLsbD 17)) else Option.none
  | 1 => if x.extractLsb' 3 15 = 0 then some (.p (x.extractLsb' 0 3) (x.getLsbD 18)) else Option.none
  | 2 => if x.extractLsb' 6 11 = 0 then some (.k (x.extractLsb' 0 6) (x.getLsbD 18) (x.getLsbD 17)) else Option.none
  | 3 => if x.extractLsb' 8 11 = 0 then some (.sr (x.extractLsb' 0 8)) else Option.none
  | 4 => some (.imm (x.extractLsb' 0 19))
  | 5 => if x.extractLsb' 8 11 = 0 then some (.role (x.extractLsb' 0 8)) else Option.none
  | 6 =>
    if x.extractLsb' 16 3 = 0 then
      match ResKind.ofCode (x.extractLsb' 12 4) with
      | some kd => if (x.extractLsb' 0 12).toNat < kd.limit then some (.res kd (x.extractLsb' 0 12)) else Option.none
      | Option.none => Option.none
    else Option.none
  | _ => if x.extractLsb' 0 19 = 0 then some .none else Option.none

/-- Guard and hints, bits [85:76] of a word. -/
def Ctl.encode (c : Ctl) : BitVec 10 :=
  bitOf c.neg ++ c.pred ++ bitOf c.yield ++ bitOf c.fb ++ bitOf c.fa ++ c.stall

def Ctl.decode (x : BitVec 10) : Ctl :=
  { neg := x.getLsbD 9, pred := x.extractLsb' 6 3, yield := x.getLsbD 5, fb := x.getLsbD 4, fa := x.getLsbD 3,
    stall := x.extractLsb' 0 3 }

/-- The operands of a normal word. -/
def Wd.decode (ctl : BitVec 10) (a b c : BitVec 22) : Option Wd :=
  match Opd.decode a, Opd.decode b, Opd.decode c with
  | some a, some b, some c => some { ctl := Ctl.decode ctl, a := a, b := b, c := c }
  | _, _, _ => none

/-- The operands of a wide word (02 R31): bits [43:32] are zero. -/
def WideWd.decode (ctl : BitVec 10) (a b c : BitVec 22) : Option WideWd :=
  match Opd.decode a with
  | some a =>
    if (b ++ c).extractLsb' 32 12 = 0 then some { ctl := Ctl.decode ctl, a := a, imm := (b ++ c).extractLsb' 0 32 } else none
  | none => none

/-- A word from its fields: opcode, guard and hints, modifier, operands (02 R25). -/
def packWord (op : BitVec 10) (ctl mod : BitVec 10) (a b c : BitVec 22) : IWord :=
  op ++ ctl ++ mod ++ a ++ b ++ c

def wordOf (op mod : BitVec 10) (w : Wd) : IWord := packWord op w.ctl.encode mod w.a.encode w.b.encode w.c.encode

def wideOf (op mod : BitVec 10) (w : WideWd) : IWord :=
  op ++ w.ctl.encode ++ mod ++ w.a.encode ++ (0 : BitVec 12) ++ w.imm

/-- The clause header (01 R22, 02 R38): opcode 0x3FF. -/
def Header.encode (h : Header) : IWord :=
  (0x3FF : BitVec 10) ++ h.wait ++ h.fa ++ h.fb ++ h.count ++ bitOf h.region ++ (0 : BitVec 60)

/-- A header, or none where the word breaks 02 R38's checks of the header itself. -/
def Header.decode (x : IWord) : Option Header :=
  let h : Header := { wait := x.extractLsb' 74 12, fa := x.extractLsb' 70 4, fb := x.extractLsb' 66 4,
                      count := x.extractLsb' 61 5, region := x.getLsbD 60 }
  if x.extractLsb' 86 10 ≠ 0x3FF then none
  else if x.extractLsb' 0 60 ≠ 0 then none
  else if h.fa = 12 ∨ h.fa = 13 ∨ h.fa = 14 ∨ h.fb = 12 ∨ h.fb = 13 ∨ h.fb = 14 then none
  else if h.fa = h.fb ∧ h.fa ≠ 15 then none
  else some h

/-- The word of an instruction, from the encoding tables of the chapters; an event or a message has none. -/
def encodeWord (i : Instr) : Option IWord :=
  match i with
  | .illz rest => some ((0 : BitVec 10) ++ rest)
  | .nop w => some (wordOf 0x001 ((0 : BitVec 10)) w)
  | .braD w => some (wideOf 0x002 ((0 : BitVec 9) ++ (0 : BitVec 1)) w)
  | .braU w => some (wideOf 0x002 ((0 : BitVec 9) ++ (1 : BitVec 1)) w)
  | .brx w => some (wordOf 0x003 ((0 : BitVec 10)) w)
  | .call w => some (wideOf 0x004 ((0 : BitVec 10)) w)
  | .ret w => some (wordOf 0x005 ((0 : BitVec 10)) w)
  | .reform w => some (wordOf 0x006 ((0 : BitVec 10)) w)
  | .exit w => some (wordOf 0x007 ((0 : BitVec 10)) w)
  | .yield w => some (wordOf 0x008 ((0 : BitVec 10)) w)
  | .waitf w => some (wordOf 0x009 ((0 : BitVec 10)) w)
  | .trap w => some (wordOf 0x00A ((0 : BitVec 10)) w)
  | .bkpt w => some (wordOf 0x00B ((0 : BitVec 10)) w)
  | .iadd w ty sat => some (wordOf 0x020 (ty.code ++ (0 : BitVec 5) ++ bitOf sat) w)
  | .isub w ty sat => some (wordOf 0x021 (ty.code ++ (0 : BitVec 5) ++ bitOf sat) w)
  | .imul w ty sat => some (wordOf 0x022 (ty.code ++ (0 : BitVec 5) ++ bitOf sat) w)
  | .imulh w ty => some (wordOf 0x023 (ty.code ++ (0 : BitVec 6)) w)
  | .imad w ty sat => some (wordOf 0x024 (ty.code ++ (0 : BitVec 5) ++ bitOf sat) w)
  | .imin w ty => some (wordOf 0x025 (ty.code ++ (0 : BitVec 6)) w)
  | .imax w ty => some (wordOf 0x026 (ty.code ++ (0 : BitVec 6)) w)
  | .iabs w sat => some (wordOf 0x027 ((0 : BitVec 4) ++ (0 : BitVec 5) ++ bitOf sat) w)
  | .iadd64 w ty sat => some (wordOf 0x028 (ty.code ++ (0 : BitVec 5) ++ bitOf sat) w)
  | .imul64 w ty sat => some (wordOf 0x029 (ty.code ++ (0 : BitVec 5) ++ bitOf sat) w)
  | .lea w ty sh => some (wordOf 0x02A (ty.code ++ (0 : BitVec 3) ++ sh) w)
  | .idivn w ty sat rem => some (wordOf 0x02B (ty.code ++ (0 : BitVec 4) ++ bitOf rem ++ bitOf sat) w)
  | .and w => some (wordOf 0x040 ((0 : BitVec 4) ++ (0 : BitVec 6)) w)
  | .or w => some (wordOf 0x041 ((0 : BitVec 4) ++ (0 : BitVec 6)) w)
  | .xor w => some (wordOf 0x042 ((0 : BitVec 4) ++ (0 : BitVec 6)) w)
  | .andn w => some (wordOf 0x043 ((0 : BitVec 4) ++ (0 : BitVec 6)) w)
  | .bfn3 w => some (wordOf 0x044 ((0 : BitVec 4) ++ (0 : BitVec 6)) w)
  | .shl w => some (wordOf 0x045 ((0 : BitVec 4) ++ (0 : BitVec 6)) w)
  | .shr w arith => some (wordOf 0x046 ((0 : BitVec 4) ++ (0 : BitVec 5) ++ bitOf arith) w)
  | .rotr w => some (wordOf 0x047 ((0 : BitVec 4) ++ (0 : BitVec 6)) w)
  | .bfe w ty => some (wordOf 0x048 (ty.code ++ (0 : BitVec 6)) w)
  | .bfi w => some (wordOf 0x049 ((0 : BitVec 4) ++ (0 : BitVec 6)) w)
  | .popc w => some (wordOf 0x04A ((0 : BitVec 4) ++ (0 : BitVec 6)) w)
  | .clz w => some (wordOf 0x04B ((0 : BitVec 4) ++ (0 : BitVec 6)) w)
  | .brev w => some (wordOf 0x04C ((0 : BitVec 4) ++ (0 : BitVec 6)) w)
  | .bsel w => some (wordOf 0x04D ((0 : BitVec 4) ++ (0 : BitVec 6)) w)
  | .icmp w ty cmp comb => some (wordOf 0x060 (ty.code ++ cmp.code ++ (0 : BitVec 1) ++ comb.code) w)
  | .sel w ty inv pn => some (wordOf 0x061 (ty.code ++ (0 : BitVec 2) ++ bitOf inv ++ pn) w)
  | .mov w => some (wordOf 0x062 ((0 : BitVec 4) ++ (0 : BitVec 6)) w)
  | .movi w => some (wideOf 0x063 ((0 : BitVec 4) ++ (0 : BitVec 6)) w)
  | .pset w cmp comb => some (wordOf 0x064 ((0 : BitVec 4) ++ cmp.code ++ (0 : BitVec 1) ++ comb.code) w)
  | .p2v w => some (wordOf 0x065 ((0 : BitVec 4) ++ (0 : BitVec 6)) w)
  | .v2p w => some (wordOf 0x066 ((0 : BitVec 4) ++ (0 : BitVec 6)) w)
  | .xlane w ty pn mode => some (wordOf 0x067 (ty.code ++ (0 : BitVec 1) ++ pn ++ mode.code) w)
  | .vote w form => some (wordOf 0x068 ((0 : BitVec 4) ++ (0 : BitVec 4) ++ form.code) w)
  | .teamid w => some (wordOf 0x069 ((0 : BitVec 4) ++ (0 : BitVec 6)) w)
  | .fadd w => some (wordOf 0x080 ((8 : BitVec 4) ++ (0 : BitVec 6)) w)
  | .fsub w => some (wordOf 0x081 ((8 : BitVec 4) ++ (0 : BitVec 6)) w)
  | .fmul w => some (wordOf 0x082 ((8 : BitVec 4) ++ (0 : BitVec 6)) w)
  | .ffma w => some (wordOf 0x083 ((8 : BitVec 4) ++ (0 : BitVec 6)) w)
  | .fmin w => some (wordOf 0x084 ((8 : BitVec 4) ++ (0 : BitVec 6)) w)
  | .fmax w => some (wordOf 0x085 ((8 : BitVec 4) ++ (0 : BitVec 6)) w)
  | .fcmp w cmp comb => some (wordOf 0x086 ((8 : BitVec 4) ++ cmp.code ++ (0 : BitVec 1) ++ comb.code) w)
  | .frnd w rm => some (wordOf 0x087 ((8 : BitVec 4) ++ (0 : BitVec 4) ++ rm.code) w)
  | .fchk w => some (wordOf 0x088 ((0 : BitVec 4) ++ (0 : BitVec 6)) w)
  | .fflags w => some (wordOf 0x089 ((0 : BitVec 4) ++ (0 : BitVec 6)) w)
  | .dadd w => some (wordOf 0x0A0 ((9 : BitVec 4) ++ (0 : BitVec 6)) w)
  | .dmul w => some (wordOf 0x0A1 ((9 : BitVec 4) ++ (0 : BitVec 6)) w)
  | .dfma w => some (wordOf 0x0A2 ((9 : BitVec 4) ++ (0 : BitVec 6)) w)
  | .dmin w => some (wordOf 0x0A3 ((9 : BitVec 4) ++ (0 : BitVec 6)) w)
  | .dmax w => some (wordOf 0x0A4 ((9 : BitVec 4) ++ (0 : BitVec 6)) w)
  | .dcmp w cmp comb => some (wordOf 0x0A5 ((9 : BitVec 4) ++ cmp.code ++ (0 : BitVec 1) ++ comb.code) w)
  | .drnd w rm => some (wordOf 0x0A6 ((9 : BitVec 4) ++ (0 : BitVec 4) ++ rm.code) w)
  | .hadd2 w ty => some (wordOf 0x0C0 (ty.code ++ (0 : BitVec 6)) w)
  | .hmul2 w ty => some (wordOf 0x0C1 (ty.code ++ (0 : BitVec 6)) w)
  | .hfma2 w ty => some (wordOf 0x0C2 (ty.code ++ (0 : BitVec 6)) w)
  | .hmin2 w ty => some (wordOf 0x0C3 (ty.code ++ (0 : BitVec 6)) w)
  | .hmax2 w ty => some (wordOf 0x0C4 (ty.code ++ (0 : BitVec 6)) w)
  | .hdot2 w ty => some (wordOf 0x0C5 (ty.code ++ (0 : BitVec 6)) w)
  | .idot4 w ty sat => some (wordOf 0x0C6 (ty.code ++ (0 : BitVec 5) ++ bitOf sat) w)
  | .rcp w ty => some (wordOf 0x0E0 (ty.code ++ (0 : BitVec 6)) w)
  | .rsq w ty => some (wordOf 0x0E1 (ty.code ++ (0 : BitVec 6)) w)
  | .sqrt w ty => some (wordOf 0x0E2 (ty.code ++ (0 : BitVec 6)) w)
  | .exp2 w => some (wordOf 0x0E3 ((8 : BitVec 4) ++ (0 : BitVec 6)) w)
  | .log2 w => some (wordOf 0x0E4 ((8 : BitVec 4) ++ (0 : BitVec 6)) w)
  | .sin w => some (wordOf 0x0E5 ((8 : BitVec 4) ++ (0 : BitVec 6)) w)
  | .cos w => some (wordOf 0x0E6 ((8 : BitVec 4) ++ (0 : BitVec 6)) w)
  | .tanh w => some (wordOf 0x0E7 ((8 : BitVec 4) ++ (0 : BitVec 6)) w)
  | .cvt w ty sty sat => some (wordOf 0x100 (ty.code ++ sty.code ++ (0 : BitVec 1) ++ bitOf sat) w)
  | .cvts w ty sat => some (wordOf 0x101 (ty.code ++ (0 : BitVec 5) ++ bitOf sat) w)
  | .pack8 w ty sat hi => some (wordOf 0x102 (ty.code ++ (0 : BitVec 4) ++ bitOf sat ++ bitOf hi) w)
  | .unpack8 w ty => some (wordOf 0x103 (ty.code ++ (0 : BitVec 6)) w)
  | .cbdec w => some (wordOf 0x104 ((6 : BitVec 4) ++ (0 : BitVec 6)) w)
  | .scale w => some (wordOf 0x105 ((8 : BitVec 4) ++ (0 : BitVec 6)) w)
  | .draw w => some (wordOf 0x120 ((0 : BitVec 10)) w)
  | .drawf w => some (wordOf 0x121 ((0 : BitVec 10)) w)
  | .drawb w => some (wordOf 0x122 ((0 : BitVec 10)) w)
  | .cvpos w => some (wordOf 0x123 ((0 : BitVec 10)) w)
  | .cvscore w => some (wordOf 0x124 ((0 : BitVec 10)) w)
  | .ld w ty scope ord nt => some (wordOf 0x140 (ty.code ++ scope.code ++ ord.code ++ bitOf nt) w)
  | .st w ty scope ord nt => some (wordOf 0x141 (ty.code ++ scope.code ++ ord.code ++ bitOf nt) w)
  | .pref w l1 => some (wordOf 0x142 ((0 : BitVec 4) ++ (4 : BitVec 3) ++ (0 : BitVec 2) ++ bitOf l1) w)
  | .ldk w ty => some (wordOf 0x143 (ty.code ++ (4 : BitVec 3) ++ (0 : BitVec 2) ++ (0 : BitVec 1)) w)
  | .lda w ty scope ord => some (wordOf 0x160 (ty.code ++ scope.code ++ ord.code ++ (0 : BitVec 1)) w)
  | .sta w ty scope ord => some (wordOf 0x161 (ty.code ++ scope.code ++ ord.code ++ (0 : BitVec 1)) w)
  | .ldc w ty => some (wordOf 0x162 (ty.code ++ (0 : BitVec 3) ++ (0 : BitVec 2) ++ (0 : BitVec 1)) w)
  | .stc w ty => some (wordOf 0x163 (ty.code ++ (0 : BitVec 3) ++ (0 : BitVec 2) ++ (0 : BitVec 1)) w)
  | .atom w ty scope ord => some (wordOf 0x180 (ty.code ++ scope.code ++ ord.code ++ (0 : BitVec 1)) w)
  | .cas w ty scope ord => some (wordOf 0x181 (ty.code ++ scope.code ++ ord.code ++ (0 : BitVec 1)) w)
  | .red w ty scope ord => some (wordOf 0x182 (ty.code ++ scope.code ++ ord.code ++ (0 : BitVec 1)) w)
  | .fred w ty scope ord => some (wordOf 0x183 (ty.code ++ scope.code ++ ord.code ++ (0 : BitVec 1)) w)
  | .redobjInit w ty scope ord => some (wordOf 0x184 (ty.code ++ scope.code ++ ord.code ++ (0 : BitVec 1)) w)
  | .redobjFold w ty scope ord => some (wordOf 0x184 (ty.code ++ scope.code ++ ord.code ++ (1 : BitVec 1)) w)
  | .fence w scope ord => some (wordOf 0x1A0 ((0 : BitVec 4) ++ scope.code ++ ord.code ++ (0 : BitVec 1)) w)
  | .cflush w => some (wordOf 0x1A1 ((0 : BitVec 4) ++ (4 : BitVec 3) ++ (0 : BitVec 2) ++ (0 : BitVec 1)) w)
  | .cinv w icache => some (wordOf 0x1A2 ((0 : BitVec 4) ++ (4 : BitVec 3) ++ (0 : BitVec 2) ++ bitOf icache) w)
  | .hwsig w ty => some (wordOf 0x1A3 (ty.code ++ (5 : BitVec 3) ++ (2 : BitVec 2) ++ (0 : BitVec 1)) w)
  | .bcopy w => some (wordOf 0x1C0 ((0 : BitVec 10)) w)
  | .bgath w => some (wordOf 0x1C1 ((0 : BitVec 10)) w)
  | .bscat w => some (wordOf 0x1C2 ((0 : BitVec 10)) w)
  | .tgwait w chk => some (wordOf 0x1C3 ((0 : BitVec 9) ++ bitOf chk) w)
  | .tgany w err => some (wordOf 0x1C4 ((0 : BitVec 9) ++ bitOf err) w)
  | .tgfirst w err => some (wordOf 0x1C5 ((0 : BitVec 9) ++ bitOf err) w)
  | .tgclr w => some (wordOf 0x1C6 ((0 : BitVec 10)) w)
  | .aslice w => some (wordOf 0x1E0 ((0 : BitVec 10)) w)
  | .qpop w => some (wordOf 0x1E1 ((0 : BitVec 10)) w)
  | .qstat w => some (wordOf 0x1E2 ((0 : BitVec 10)) w)
  | .qend w => some (wordOf 0x1E3 ((0 : BitVec 10)) w)
  | .macq w => some (wordOf 0x200 ((0 : BitVec 10)) w)
  | .mrel w => some (wordOf 0x201 ((0 : BitVec 10)) w)
  | .gang w => some (wordOf 0x202 ((0 : BitVec 10)) w)
  | .resv w => some (wordOf 0x203 ((0 : BitVec 10)) w)
  | .rfree w => some (wordOf 0x204 ((0 : BitVec 10)) w)
  | .cbld w => some (wordOf 0x205 ((0 : BitVec 10)) w)
  | .mma w aty => some (wordOf 0x206 ((0 : BitVec 6) ++ aty.code) w)
  | .mmas w aty => some (wordOf 0x207 ((0 : BitVec 6) ++ aty.code) w)
  | .mzero w => some (wordOf 0x208 ((0 : BitVec 10)) w)
  | .mdrain w => some (wordOf 0x209 ((0 : BitVec 10)) w)
  | .mfill w => some (wordOf 0x20A ((0 : BitVec 10)) w)
  | .mwait w => some (wordOf 0x20B ((0 : BitVec 10)) w)
  | .mdep w => some (wordOf 0x20C ((0 : BitVec 10)) w)
  | .vmma w aty => some (wordOf 0x220 ((0 : BitVec 6) ++ aty.code) w)
  | .vmmai w => some (wordOf 0x221 ((0 : BitVec 10)) w)
  | .vfrag w aty tr => some (wordOf 0x222 ((0 : BitVec 5) ++ aty.code ++ bitOf tr) w)
  | .bara w => some (wordOf 0x240 ((0 : BitVec 10)) w)
  | .barw w => some (wordOf 0x241 ((0 : BitVec 10)) w)
  | .baraw w => some (wordOf 0x242 ((0 : BitVec 10)) w)
  | .barq w => some (wordOf 0x243 ((0 : BitVec 10)) w)
  | .teamj w => some (wordOf 0x244 ((0 : BitVec 10)) w)
  | .tenq w q => some (wordOf 0x260 ((0 : BitVec 7) ++ q) w)
  | .targ w => some (wordOf 0x261 ((0 : BitVec 10)) w)
  | .dcnew w => some (wordOf 0x262 ((0 : BitVec 10)) w)
  | .dcdec w => some (wordOf 0x263 ((0 : BitVec 10)) w)
  | .dcq w => some (wordOf 0x264 ((0 : BitVec 10)) w)
  | .launch w => some (wordOf 0x265 ((0 : BitVec 10)) w)
  | .mutl w => some (wordOf 0x266 ((0 : BitVec 10)) w)
  | .sproj w => some (wordOf 0x280 ((0 : BitVec 10)) w)
  | .ssort w => some (wordOf 0x281 ((0 : BitVec 10)) w)
  | .sfetch w kn => some (wordOf 0x282 ((0 : BitVec 5) ++ kn) w)
  | .cdep w => some (wordOf 0x283 ((0 : BitVec 10)) w)
  | .cwmark w => some (wordOf 0x284 ((0 : BitVec 10)) w)
  | .cread w => some (wordOf 0x285 ((0 : BitVec 10)) w)
  | .crlist w => some (wordOf 0x286 ((0 : BitVec 10)) w)
  | .cadj w => some (wordOf 0x287 ((0 : BitVec 10)) w)
  | .crst w => some (wordOf 0x288 ((0 : BitVec 9) ++ (0 : BitVec 1)) w)
  | .crstRel w => some (wordOf 0x288 ((0 : BitVec 9) ++ (1 : BitVec 1)) w)
  | .rproj w => some (wordOf 0x2A0 ((0 : BitVec 10)) w)
  | .rwlist w => some (wordOf 0x2A1 ((0 : BitVec 10)) w)
  | .trace w any => some (wordOf 0x2A2 ((0 : BitVec 9) ++ bitOf any) w)
  | .asupd w => some (wordOf 0x2A3 ((0 : BitVec 10)) w)
  | .asq w => some (wordOf 0x2A4 ((0 : BitVec 10)) w)
  | .tex w => some (wordOf 0x2C0 ((8 : BitVec 4) ++ (4 : BitVec 3) ++ (0 : BitVec 2) ++ (0 : BitVec 1)) w)
  | .tld w => some (wordOf 0x2C1 ((8 : BitVec 4) ++ (4 : BitVec 3) ++ (0 : BitVec 2) ++ (0 : BitVec 1)) w)
  | .imst w ty scope ord => some (wordOf 0x2C2 (ty.code ++ scope.code ++ ord.code ++ (0 : BitVec 1)) w)
  | .imld w ty scope ord => some (wordOf 0x2C3 (ty.code ++ scope.code ++ ord.code ++ (0 : BitVec 1)) w)
  | .srd w d => some (wordOf 0x2E0 ((0 : BitVec 9) ++ bitOf d) w)
  | .swr w => some (wordOf 0x2E1 ((0 : BitVec 10)) w)
  | .clk w => some (wordOf 0x2E2 ((0 : BitVec 10)) w)
  | .wtime w => some (wordOf 0x2E3 ((0 : BitVec 10)) w)
  | .sigrd w => some (wordOf 0x2E4 ((0 : BitVec 10)) w)
  | .tretRes w => some (wordOf 0x300 ((0 : BitVec 8) ++ (0 : BitVec 2)) w)
  | .tretRst w => some (wordOf 0x300 ((0 : BitVec 8) ++ (1 : BitVec 2)) w)
  | .tretTerm w => some (wordOf 0x300 ((0 : BitVec 8) ++ (2 : BitVec 2)) w)
  | .tqrd w => some (wordOf 0x301 ((0 : BitVec 10)) w)
  | .killg w scope => some (wordOf 0x302 ((0 : BitVec 7) ++ scope.code) w)
  | .privw w d => some (wordOf 0x303 ((0 : BitVec 9) ++ bitOf d) w)
  | .mfrz w => some (wordOf 0x304 ((0 : BitVec 9) ++ (0 : BitVec 1)) w)
  | .mfrzThaw w => some (wordOf 0x304 ((0 : BitVec 9) ++ (1 : BitVec 1)) w)
  | .ctxq w => some (wordOf 0x305 ((0 : BitVec 10)) w)
  | .progress w => some (wordOf 0x320 ((0 : BitVec 10)) w)
  | .mark w => some (wordOf 0x321 ((0 : BitVec 10)) w)
  | .stopp w => some (wordOf 0x322 ((0 : BitVec 10)) w)
  | .securityAlarm _ => none
  | .pendingFrameCopied _ => none
  | .coreGroupPlacement _ _ => none
  | .taskStart _ _ => none
  | .coreGroupEnd _ => none
  | .launchEnd _ => none
  | .binDraw _ => none
  | .overflowMove _ => none
  | .binAged _ _ => none
  | .agedGroupFiling _ _ => none
  | .stallExpiry _ _ => none
  | .yieldExpiry _ _ => none
  | .clauseFetchComplete _ _ _ => none
  | .fixedResultWrite _ => none
  | .variableResultComplete _ => none
  | .dsmSlotAdvance _ => none
  | .dsmPhaseBoundary _ => none
  | .dsmEventDelivery _ _ => none
  | .dsmPhaseCommit _ => none
  | .barrierRelease _ _ => none
  | .trapDelivery _ => none
  | .coreGroupRelaunch _ => none
  | .timerExpiry _ _ => none
  | .watchpointDeferred _ => none
  | .preemptGraceExpiry _ => none
  | .preemptStopComplete _ => none
  | .translationWalkComplete _ _ _ _ => none
  | .demandZeroFill _ _ _ => none
  | .homeAccessPerform _ => none
  | .windowAccess _ => none
  | .hotnessSample _ => none
  | .stallSample _ => none
  | .copyComplete _ => none
  | .codebookSwap _ => none
  | .reservationClearComplete _ _ => none
  | .engineGrant _ => none
  | .matrixOpStart _ => none
  | .matrixOpComplete _ => none
  | .drainPortComplete _ _ => none
  | .streamFetch _ _ _ => none
  | .projectionComplete _ => none
  | .sortComplete _ => none
  | .reprojectionComplete _ => none
  | .worklistComplete _ => none
  | .traversalRefetch _ => none
  | .whiskBuild _ => none
  | .whiskJudge _ => none
  | .connectionLost _ => none
  | .refusedDeliveryMode _ _ => none
  | .powerGood => none
  | .bringupPhaseComplete => none
  | .port0Retrain => none
  | .powerLoss => none
  | .powerThrottleStep => none
  | .eccCorrection => none
  | .uncorrectableError => none
  | .replayComplete => none
  | .checkpointStart => none
  | .checkpointValid => none
  | .launchAccept => none
  | .trialWindowEnd => none
  | .signalSend => none
  | .launchMessage => none
  | .write => none
  | .read => none
  | .flushData => none
  | .flushDataAndTlb => none
  | .windowRead => none
  | .windowWrite => none
  | .windowFetchAdd => none
  | .preemptStopAndSave => none
  | .preemptWithNotice => none
  | .restore => none
  | .kill => none
  | .checkpointControlRead => none
  | .checkpointControlWrite => none
  | .raceCountEnable => none
  | .checkpointRestore => none
  | .managementRead => none
  | .managementWrite => none
  | .hotnessEnable => none
  | .freeFramesAdd => none
  | .samplingEnable => none
  | .trialEnable => none
  | .trialDisable => none
  | .managementReset => none
  | .imageWrite => none
  | .imageCommit => none
  | .debugClaim => none
  | .debugRelease => none
  | .armTrace => none
  | .stopPartition => none
  | .resume => none
  | .readDump => none
  | .setWatchpoint => none
  | .copyToPeer => none
  | .copyFromPeer => none
  | .sessionOpen => none
  | .sessionClose => none
  | .createAddressSpace => none
  | .destroyAddressSpace => none
  | .malformedMessage => none

/-- A modifier field that has no reserved code. -/
def withField {α : Type} (x : Option α) (f : α → Except DecodeError Instr) : Except DecodeError Instr :=
  match x with
  | some y => f y
  | none => .error .reservedModifier

/-- The operands, if none of their reserved bits is set. -/
def withOperands {α : Type} (x : Option α) (f : α → Instr) : Except DecodeError Instr :=
  match x with
  | some y => .ok (f y)
  | none => .error .reservedOperand

/-- The modifier bits an instruction gives no meaning are zero. -/
def checkMod (ok : Bool) (f : Except DecodeError Instr) : Except DecodeError Instr :=
  if ok then f else .error .reservedModifier

/-- Opcode class 0x00 (02 R44). -/
def decodeClass00 (oper : Nat) (g m : BitVec 10) (a b c : BitVec 22) : Except DecodeError Instr :=
  match oper with
  | 0 => .ok (.illz (g ++ m ++ a ++ b ++ c))
  | 1 =>
    checkMod (decide (m.extractLsb' 0 10 = 0)) <| withOperands (Wd.decode g a b c) fun w => .nop w
  | 2 =>
    if m.extractLsb' 0 1 = 0 then
      checkMod (decide (m.extractLsb' 1 9 = 0)) <| withOperands (WideWd.decode g a b c) fun w => .braD w
    else if m.extractLsb' 0 1 = 1 then
      checkMod (decide (m.extractLsb' 1 9 = 0)) <| withOperands (WideWd.decode g a b c) fun w => .braU w
    else .error .reservedModifier
  | 3 =>
    checkMod (decide (m.extractLsb' 0 10 = 0)) <| withOperands (Wd.decode g a b c) fun w => .brx w
  | 4 =>
    checkMod (decide (m.extractLsb' 0 10 = 0)) <| withOperands (WideWd.decode g a b c) fun w => .call w
  | 5 =>
    checkMod (decide (m.extractLsb' 0 10 = 0)) <| withOperands (Wd.decode g a b c) fun w => .ret w
  | 6 =>
    checkMod (decide (m.extractLsb' 0 10 = 0)) <| withOperands (Wd.decode g a b c) fun w => .reform w
  | 7 =>
    checkMod (decide (m.extractLsb' 0 10 = 0)) <| withOperands (Wd.decode g a b c) fun w => .exit w
  | 8 =>
    checkMod (decide (m.extractLsb' 0 10 = 0)) <| withOperands (Wd.decode g a b c) fun w => .yield w
  | 9 =>
    checkMod (decide (m.extractLsb' 0 10 = 0)) <| withOperands (Wd.decode g a b c) fun w => .waitf w
  | 10 =>
    checkMod (decide (m.extractLsb' 0 10 = 0)) <| withOperands (Wd.decode g a b c) fun w => .trap w
  | 11 =>
    checkMod (decide (m.extractLsb' 0 10 = 0)) <| withOperands (Wd.decode g a b c) fun w => .bkpt w
  | _ => .error .unassignedOpcode

/-- Opcode class 0x01 (02 R44). -/
def decodeClass01 (oper : Nat) (g m : BitVec 10) (a b c : BitVec 22) : Except DecodeError Instr :=
  match oper with
  | 0 =>
    checkMod (decide (m.extractLsb' 1 5 = 0)) <| withField (Ty.ofCode (m.extractLsb' 6 4)) fun ty => withOperands (Wd.decode g a b c) fun w => .iadd w ty (m.getLsbD 0)
  | 1 =>
    checkMod (decide (m.extractLsb' 1 5 = 0)) <| withField (Ty.ofCode (m.extractLsb' 6 4)) fun ty => withOperands (Wd.decode g a b c) fun w => .isub w ty (m.getLsbD 0)
  | 2 =>
    checkMod (decide (m.extractLsb' 1 5 = 0)) <| withField (Ty.ofCode (m.extractLsb' 6 4)) fun ty => withOperands (Wd.decode g a b c) fun w => .imul w ty (m.getLsbD 0)
  | 3 =>
    checkMod (decide (m.extractLsb' 0 6 = 0)) <| withField (Ty.ofCode (m.extractLsb' 6 4)) fun ty => withOperands (Wd.decode g a b c) fun w => .imulh w ty
  | 4 =>
    checkMod (decide (m.extractLsb' 1 5 = 0)) <| withField (Ty.ofCode (m.extractLsb' 6 4)) fun ty => withOperands (Wd.decode g a b c) fun w => .imad w ty (m.getLsbD 0)
  | 5 =>
    checkMod (decide (m.extractLsb' 0 6 = 0)) <| withField (Ty.ofCode (m.extractLsb' 6 4)) fun ty => withOperands (Wd.decode g a b c) fun w => .imin w ty
  | 6 =>
    checkMod (decide (m.extractLsb' 0 6 = 0)) <| withField (Ty.ofCode (m.extractLsb' 6 4)) fun ty => withOperands (Wd.decode g a b c) fun w => .imax w ty
  | 7 =>
    checkMod (decide (m.extractLsb' 1 5 = 0) && decide (m.extractLsb' 6 4 = 0)) <| withOperands (Wd.decode g a b c) fun w => .iabs w (m.getLsbD 0)
  | 8 =>
    checkMod (decide (m.extractLsb' 1 5 = 0)) <| withField (Ty.ofCode (m.extractLsb' 6 4)) fun ty => withOperands (Wd.decode g a b c) fun w => .iadd64 w ty (m.getLsbD 0)
  | 9 =>
    checkMod (decide (m.extractLsb' 1 5 = 0)) <| withField (Ty.ofCode (m.extractLsb' 6 4)) fun ty => withOperands (Wd.decode g a b c) fun w => .imul64 w ty (m.getLsbD 0)
  | 10 =>
    checkMod (decide (m.extractLsb' 3 3 = 0)) <| withField (Ty.ofCode (m.extractLsb' 6 4)) fun ty => withOperands (Wd.decode g a b c) fun w => .lea w ty (m.extractLsb' 0 3)
  | 11 =>
    checkMod (decide (m.extractLsb' 2 4 = 0)) <| withField (Ty.ofCode (m.extractLsb' 6 4)) fun ty => withOperands (Wd.decode g a b c) fun w => .idivn w ty (m.getLsbD 0) (m.getLsbD 1)
  | _ => .error .unassignedOpcode

/-- Opcode class 0x02 (02 R44). -/
def decodeClass02 (oper : Nat) (g m : BitVec 10) (a b c : BitVec 22) : Except DecodeError Instr :=
  match oper with
  | 0 =>
    checkMod (decide (m.extractLsb' 0 6 = 0) && decide (m.extractLsb' 6 4 = 0)) <| withOperands (Wd.decode g a b c) fun w => .and w
  | 1 =>
    checkMod (decide (m.extractLsb' 0 6 = 0) && decide (m.extractLsb' 6 4 = 0)) <| withOperands (Wd.decode g a b c) fun w => .or w
  | 2 =>
    checkMod (decide (m.extractLsb' 0 6 = 0) && decide (m.extractLsb' 6 4 = 0)) <| withOperands (Wd.decode g a b c) fun w => .xor w
  | 3 =>
    checkMod (decide (m.extractLsb' 0 6 = 0) && decide (m.extractLsb' 6 4 = 0)) <| withOperands (Wd.decode g a b c) fun w => .andn w
  | 4 =>
    checkMod (decide (m.extractLsb' 0 6 = 0) && decide (m.extractLsb' 6 4 = 0)) <| withOperands (Wd.decode g a b c) fun w => .bfn3 w
  | 5 =>
    checkMod (decide (m.extractLsb' 0 6 = 0) && decide (m.extractLsb' 6 4 = 0)) <| withOperands (Wd.decode g a b c) fun w => .shl w
  | 6 =>
    checkMod (decide (m.extractLsb' 1 5 = 0) && decide (m.extractLsb' 6 4 = 0)) <| withOperands (Wd.decode g a b c) fun w => .shr w (m.getLsbD 0)
  | 7 =>
    checkMod (decide (m.extractLsb' 0 6 = 0) && decide (m.extractLsb' 6 4 = 0)) <| withOperands (Wd.decode g a b c) fun w => .rotr w
  | 8 =>
    checkMod (decide (m.extractLsb' 0 6 = 0)) <| withField (Ty.ofCode (m.extractLsb' 6 4)) fun ty => withOperands (Wd.decode g a b c) fun w => .bfe w ty
  | 9 =>
    checkMod (decide (m.extractLsb' 0 6 = 0) && decide (m.extractLsb' 6 4 = 0)) <| withOperands (Wd.decode g a b c) fun w => .bfi w
  | 10 =>
    checkMod (decide (m.extractLsb' 0 6 = 0) && decide (m.extractLsb' 6 4 = 0)) <| withOperands (Wd.decode g a b c) fun w => .popc w
  | 11 =>
    checkMod (decide (m.extractLsb' 0 6 = 0) && decide (m.extractLsb' 6 4 = 0)) <| withOperands (Wd.decode g a b c) fun w => .clz w
  | 12 =>
    checkMod (decide (m.extractLsb' 0 6 = 0) && decide (m.extractLsb' 6 4 = 0)) <| withOperands (Wd.decode g a b c) fun w => .brev w
  | 13 =>
    checkMod (decide (m.extractLsb' 0 6 = 0) && decide (m.extractLsb' 6 4 = 0)) <| withOperands (Wd.decode g a b c) fun w => .bsel w
  | _ => .error .unassignedOpcode

/-- Opcode class 0x03 (02 R44). -/
def decodeClass03 (oper : Nat) (g m : BitVec 10) (a b c : BitVec 22) : Except DecodeError Instr :=
  match oper with
  | 0 =>
    checkMod (decide (m.extractLsb' 2 1 = 0)) <| withField (Ty.ofCode (m.extractLsb' 6 4)) fun ty => withField (Cmp.ofCode (m.extractLsb' 3 3)) fun cmp => withField (Comb.ofCode (m.extractLsb' 0 2)) fun comb => withOperands (Wd.decode g a b c) fun w => .icmp w ty cmp comb
  | 1 =>
    checkMod (decide (m.extractLsb' 4 2 = 0)) <| withField (Ty.ofCode (m.extractLsb' 6 4)) fun ty => withOperands (Wd.decode g a b c) fun w => .sel w ty (m.getLsbD 3) (m.extractLsb' 0 3)
  | 2 =>
    checkMod (decide (m.extractLsb' 0 6 = 0) && decide (m.extractLsb' 6 4 = 0)) <| withOperands (Wd.decode g a b c) fun w => .mov w
  | 3 =>
    checkMod (decide (m.extractLsb' 0 6 = 0) && decide (m.extractLsb' 6 4 = 0)) <| withOperands (WideWd.decode g a b c) fun w => .movi w
  | 4 =>
    checkMod (decide (m.extractLsb' 2 1 = 0) && decide (m.extractLsb' 6 4 = 0)) <| withField (Cmp.ofCode (m.extractLsb' 3 3)) fun cmp => withField (Comb.ofCode (m.extractLsb' 0 2)) fun comb => withOperands (Wd.decode g a b c) fun w => .pset w cmp comb
  | 5 =>
    checkMod (decide (m.extractLsb' 0 6 = 0) && decide (m.extractLsb' 6 4 = 0)) <| withOperands (Wd.decode g a b c) fun w => .p2v w
  | 6 =>
    checkMod (decide (m.extractLsb' 0 6 = 0) && decide (m.extractLsb' 6 4 = 0)) <| withOperands (Wd.decode g a b c) fun w => .v2p w
  | 7 =>
    checkMod (decide (m.extractLsb' 5 1 = 0)) <| withField (Ty.ofCode (m.extractLsb' 6 4)) fun ty => withField (LaneMode.ofCode (m.extractLsb' 0 2)) fun mode => withOperands (Wd.decode g a b c) fun w => .xlane w ty (m.extractLsb' 2 3) mode
  | 8 =>
    checkMod (decide (m.extractLsb' 2 4 = 0) && decide (m.extractLsb' 6 4 = 0)) <| withField (VoteForm.ofCode (m.extractLsb' 0 2)) fun form => withOperands (Wd.decode g a b c) fun w => .vote w form
  | 9 =>
    checkMod (decide (m.extractLsb' 0 6 = 0) && decide (m.extractLsb' 6 4 = 0)) <| withOperands (Wd.decode g a b c) fun w => .teamid w
  | _ => .error .unassignedOpcode

/-- Opcode class 0x04 (02 R44). -/
def decodeClass04 (oper : Nat) (g m : BitVec 10) (a b c : BitVec 22) : Except DecodeError Instr :=
  match oper with
  | 0 =>
    checkMod (decide (m.extractLsb' 0 6 = 0) && decide (m.extractLsb' 6 4 = 8)) <| withOperands (Wd.decode g a b c) fun w => .fadd w
  | 1 =>
    checkMod (decide (m.extractLsb' 0 6 = 0) && decide (m.extractLsb' 6 4 = 8)) <| withOperands (Wd.decode g a b c) fun w => .fsub w
  | 2 =>
    checkMod (decide (m.extractLsb' 0 6 = 0) && decide (m.extractLsb' 6 4 = 8)) <| withOperands (Wd.decode g a b c) fun w => .fmul w
  | 3 =>
    checkMod (decide (m.extractLsb' 0 6 = 0) && decide (m.extractLsb' 6 4 = 8)) <| withOperands (Wd.decode g a b c) fun w => .ffma w
  | 4 =>
    checkMod (decide (m.extractLsb' 0 6 = 0) && decide (m.extractLsb' 6 4 = 8)) <| withOperands (Wd.decode g a b c) fun w => .fmin w
  | 5 =>
    checkMod (decide (m.extractLsb' 0 6 = 0) && decide (m.extractLsb' 6 4 = 8)) <| withOperands (Wd.decode g a b c) fun w => .fmax w
  | 6 =>
    checkMod (decide (m.extractLsb' 2 1 = 0) && decide (m.extractLsb' 6 4 = 8)) <| withField (Cmp.ofCode (m.extractLsb' 3 3)) fun cmp => withField (Comb.ofCode (m.extractLsb' 0 2)) fun comb => withOperands (Wd.decode g a b c) fun w => .fcmp w cmp comb
  | 7 =>
    checkMod (decide (m.extractLsb' 2 4 = 0) && decide (m.extractLsb' 6 4 = 8)) <| withField (RMode.ofCode (m.extractLsb' 0 2)) fun rm => withOperands (Wd.decode g a b c) fun w => .frnd w rm
  | 8 =>
    checkMod (decide (m.extractLsb' 0 6 = 0) && decide (m.extractLsb' 6 4 = 0)) <| withOperands (Wd.decode g a b c) fun w => .fchk w
  | 9 =>
    checkMod (decide (m.extractLsb' 0 6 = 0) && decide (m.extractLsb' 6 4 = 0)) <| withOperands (Wd.decode g a b c) fun w => .fflags w
  | _ => .error .unassignedOpcode

/-- Opcode class 0x05 (02 R44). -/
def decodeClass05 (oper : Nat) (g m : BitVec 10) (a b c : BitVec 22) : Except DecodeError Instr :=
  match oper with
  | 0 =>
    checkMod (decide (m.extractLsb' 0 6 = 0) && decide (m.extractLsb' 6 4 = 9)) <| withOperands (Wd.decode g a b c) fun w => .dadd w
  | 1 =>
    checkMod (decide (m.extractLsb' 0 6 = 0) && decide (m.extractLsb' 6 4 = 9)) <| withOperands (Wd.decode g a b c) fun w => .dmul w
  | 2 =>
    checkMod (decide (m.extractLsb' 0 6 = 0) && decide (m.extractLsb' 6 4 = 9)) <| withOperands (Wd.decode g a b c) fun w => .dfma w
  | 3 =>
    checkMod (decide (m.extractLsb' 0 6 = 0) && decide (m.extractLsb' 6 4 = 9)) <| withOperands (Wd.decode g a b c) fun w => .dmin w
  | 4 =>
    checkMod (decide (m.extractLsb' 0 6 = 0) && decide (m.extractLsb' 6 4 = 9)) <| withOperands (Wd.decode g a b c) fun w => .dmax w
  | 5 =>
    checkMod (decide (m.extractLsb' 2 1 = 0) && decide (m.extractLsb' 6 4 = 9)) <| withField (Cmp.ofCode (m.extractLsb' 3 3)) fun cmp => withField (Comb.ofCode (m.extractLsb' 0 2)) fun comb => withOperands (Wd.decode g a b c) fun w => .dcmp w cmp comb
  | 6 =>
    checkMod (decide (m.extractLsb' 2 4 = 0) && decide (m.extractLsb' 6 4 = 9)) <| withField (RMode.ofCode (m.extractLsb' 0 2)) fun rm => withOperands (Wd.decode g a b c) fun w => .drnd w rm
  | _ => .error .unassignedOpcode

/-- Opcode class 0x06 (02 R44). -/
def decodeClass06 (oper : Nat) (g m : BitVec 10) (a b c : BitVec 22) : Except DecodeError Instr :=
  match oper with
  | 0 =>
    checkMod (decide (m.extractLsb' 0 6 = 0)) <| withField (Ty.ofCode (m.extractLsb' 6 4)) fun ty => withOperands (Wd.decode g a b c) fun w => .hadd2 w ty
  | 1 =>
    checkMod (decide (m.extractLsb' 0 6 = 0)) <| withField (Ty.ofCode (m.extractLsb' 6 4)) fun ty => withOperands (Wd.decode g a b c) fun w => .hmul2 w ty
  | 2 =>
    checkMod (decide (m.extractLsb' 0 6 = 0)) <| withField (Ty.ofCode (m.extractLsb' 6 4)) fun ty => withOperands (Wd.decode g a b c) fun w => .hfma2 w ty
  | 3 =>
    checkMod (decide (m.extractLsb' 0 6 = 0)) <| withField (Ty.ofCode (m.extractLsb' 6 4)) fun ty => withOperands (Wd.decode g a b c) fun w => .hmin2 w ty
  | 4 =>
    checkMod (decide (m.extractLsb' 0 6 = 0)) <| withField (Ty.ofCode (m.extractLsb' 6 4)) fun ty => withOperands (Wd.decode g a b c) fun w => .hmax2 w ty
  | 5 =>
    checkMod (decide (m.extractLsb' 0 6 = 0)) <| withField (Ty.ofCode (m.extractLsb' 6 4)) fun ty => withOperands (Wd.decode g a b c) fun w => .hdot2 w ty
  | 6 =>
    checkMod (decide (m.extractLsb' 1 5 = 0)) <| withField (Ty.ofCode (m.extractLsb' 6 4)) fun ty => withOperands (Wd.decode g a b c) fun w => .idot4 w ty (m.getLsbD 0)
  | _ => .error .unassignedOpcode

/-- Opcode class 0x07 (02 R44). -/
def decodeClass07 (oper : Nat) (g m : BitVec 10) (a b c : BitVec 22) : Except DecodeError Instr :=
  match oper with
  | 0 =>
    checkMod (decide (m.extractLsb' 0 6 = 0)) <| withField (Ty.ofCode (m.extractLsb' 6 4)) fun ty => withOperands (Wd.decode g a b c) fun w => .rcp w ty
  | 1 =>
    checkMod (decide (m.extractLsb' 0 6 = 0)) <| withField (Ty.ofCode (m.extractLsb' 6 4)) fun ty => withOperands (Wd.decode g a b c) fun w => .rsq w ty
  | 2 =>
    checkMod (decide (m.extractLsb' 0 6 = 0)) <| withField (Ty.ofCode (m.extractLsb' 6 4)) fun ty => withOperands (Wd.decode g a b c) fun w => .sqrt w ty
  | 3 =>
    checkMod (decide (m.extractLsb' 0 6 = 0) && decide (m.extractLsb' 6 4 = 8)) <| withOperands (Wd.decode g a b c) fun w => .exp2 w
  | 4 =>
    checkMod (decide (m.extractLsb' 0 6 = 0) && decide (m.extractLsb' 6 4 = 8)) <| withOperands (Wd.decode g a b c) fun w => .log2 w
  | 5 =>
    checkMod (decide (m.extractLsb' 0 6 = 0) && decide (m.extractLsb' 6 4 = 8)) <| withOperands (Wd.decode g a b c) fun w => .sin w
  | 6 =>
    checkMod (decide (m.extractLsb' 0 6 = 0) && decide (m.extractLsb' 6 4 = 8)) <| withOperands (Wd.decode g a b c) fun w => .cos w
  | 7 =>
    checkMod (decide (m.extractLsb' 0 6 = 0) && decide (m.extractLsb' 6 4 = 8)) <| withOperands (Wd.decode g a b c) fun w => .tanh w
  | _ => .error .unassignedOpcode

/-- Opcode class 0x08 (02 R44). -/
def decodeClass08 (oper : Nat) (g m : BitVec 10) (a b c : BitVec 22) : Except DecodeError Instr :=
  match oper with
  | 0 =>
    checkMod (decide (m.extractLsb' 1 1 = 0)) <| withField (Ty.ofCode (m.extractLsb' 6 4)) fun ty => withField (Ty.ofCode (m.extractLsb' 2 4)) fun sty => withOperands (Wd.decode g a b c) fun w => .cvt w ty sty (m.getLsbD 0)
  | 1 =>
    checkMod (decide (m.extractLsb' 1 5 = 0)) <| withField (Ty.ofCode (m.extractLsb' 6 4)) fun ty => withOperands (Wd.decode g a b c) fun w => .cvts w ty (m.getLsbD 0)
  | 2 =>
    checkMod (decide (m.extractLsb' 2 4 = 0)) <| withField (Ty.ofCode (m.extractLsb' 6 4)) fun ty => withOperands (Wd.decode g a b c) fun w => .pack8 w ty (m.getLsbD 1) (m.getLsbD 0)
  | 3 =>
    checkMod (decide (m.extractLsb' 0 6 = 0)) <| withField (Ty.ofCode (m.extractLsb' 6 4)) fun ty => withOperands (Wd.decode g a b c) fun w => .unpack8 w ty
  | 4 =>
    checkMod (decide (m.extractLsb' 0 6 = 0) && decide (m.extractLsb' 6 4 = 6)) <| withOperands (Wd.decode g a b c) fun w => .cbdec w
  | 5 =>
    checkMod (decide (m.extractLsb' 0 6 = 0) && decide (m.extractLsb' 6 4 = 8)) <| withOperands (Wd.decode g a b c) fun w => .scale w
  | _ => .error .unassignedOpcode

/-- Opcode class 0x09 (02 R44). -/
def decodeClass09 (oper : Nat) (g m : BitVec 10) (a b c : BitVec 22) : Except DecodeError Instr :=
  match oper with
  | 0 =>
    checkMod (decide (m.extractLsb' 0 10 = 0)) <| withOperands (Wd.decode g a b c) fun w => .draw w
  | 1 =>
    checkMod (decide (m.extractLsb' 0 10 = 0)) <| withOperands (Wd.decode g a b c) fun w => .drawf w
  | 2 =>
    checkMod (decide (m.extractLsb' 0 10 = 0)) <| withOperands (Wd.decode g a b c) fun w => .drawb w
  | 3 =>
    checkMod (decide (m.extractLsb' 0 10 = 0)) <| withOperands (Wd.decode g a b c) fun w => .cvpos w
  | 4 =>
    checkMod (decide (m.extractLsb' 0 10 = 0)) <| withOperands (Wd.decode g a b c) fun w => .cvscore w
  | _ => .error .unassignedOpcode

/-- Opcode class 0x0A (02 R44). -/
def decodeClass0A (oper : Nat) (g m : BitVec 10) (a b c : BitVec 22) : Except DecodeError Instr :=
  match oper with
  | 0 =>
    checkMod (true) <| withField (Ty.ofCode (m.extractLsb' 6 4)) fun ty => withField (Scope.ofCode (m.extractLsb' 3 3)) fun scope => withField (MemOrd.ofCode (m.extractLsb' 1 2)) fun ord => withOperands (Wd.decode g a b c) fun w => .ld w ty scope ord (m.getLsbD 0)
  | 1 =>
    checkMod (true) <| withField (Ty.ofCode (m.extractLsb' 6 4)) fun ty => withField (Scope.ofCode (m.extractLsb' 3 3)) fun scope => withField (MemOrd.ofCode (m.extractLsb' 1 2)) fun ord => withOperands (Wd.decode g a b c) fun w => .st w ty scope ord (m.getLsbD 0)
  | 2 =>
    checkMod (decide (m.extractLsb' 6 4 = 0) && decide (m.extractLsb' 3 3 = 4) && decide (m.extractLsb' 1 2 = 0)) <| withOperands (Wd.decode g a b c) fun w => .pref w (m.getLsbD 0)
  | 3 =>
    checkMod (decide (m.extractLsb' 0 1 = 0) && decide (m.extractLsb' 3 3 = 4) && decide (m.extractLsb' 1 2 = 0)) <| withField (Ty.ofCode (m.extractLsb' 6 4)) fun ty => withOperands (Wd.decode g a b c) fun w => .ldk w ty
  | _ => .error .unassignedOpcode

/-- Opcode class 0x0B (02 R44). -/
def decodeClass0B (oper : Nat) (g m : BitVec 10) (a b c : BitVec 22) : Except DecodeError Instr :=
  match oper with
  | 0 =>
    checkMod (decide (m.extractLsb' 0 1 = 0)) <| withField (Ty.ofCode (m.extractLsb' 6 4)) fun ty => withField (Scope.ofCode (m.extractLsb' 3 3)) fun scope => withField (MemOrd.ofCode (m.extractLsb' 1 2)) fun ord => withOperands (Wd.decode g a b c) fun w => .lda w ty scope ord
  | 1 =>
    checkMod (decide (m.extractLsb' 0 1 = 0)) <| withField (Ty.ofCode (m.extractLsb' 6 4)) fun ty => withField (Scope.ofCode (m.extractLsb' 3 3)) fun scope => withField (MemOrd.ofCode (m.extractLsb' 1 2)) fun ord => withOperands (Wd.decode g a b c) fun w => .sta w ty scope ord
  | 2 =>
    checkMod (decide (m.extractLsb' 0 1 = 0) && decide (m.extractLsb' 3 3 = 0) && decide (m.extractLsb' 1 2 = 0)) <| withField (Ty.ofCode (m.extractLsb' 6 4)) fun ty => withOperands (Wd.decode g a b c) fun w => .ldc w ty
  | 3 =>
    checkMod (decide (m.extractLsb' 0 1 = 0) && decide (m.extractLsb' 3 3 = 0) && decide (m.extractLsb' 1 2 = 0)) <| withField (Ty.ofCode (m.extractLsb' 6 4)) fun ty => withOperands (Wd.decode g a b c) fun w => .stc w ty
  | _ => .error .unassignedOpcode

/-- Opcode class 0x0C (02 R44). -/
def decodeClass0C (oper : Nat) (g m : BitVec 10) (a b c : BitVec 22) : Except DecodeError Instr :=
  match oper with
  | 0 =>
    checkMod (decide (m.extractLsb' 0 1 = 0)) <| withField (Ty.ofCode (m.extractLsb' 6 4)) fun ty => withField (Scope.ofCode (m.extractLsb' 3 3)) fun scope => withField (MemOrd.ofCode (m.extractLsb' 1 2)) fun ord => withOperands (Wd.decode g a b c) fun w => .atom w ty scope ord
  | 1 =>
    checkMod (decide (m.extractLsb' 0 1 = 0)) <| withField (Ty.ofCode (m.extractLsb' 6 4)) fun ty => withField (Scope.ofCode (m.extractLsb' 3 3)) fun scope => withField (MemOrd.ofCode (m.extractLsb' 1 2)) fun ord => withOperands (Wd.decode g a b c) fun w => .cas w ty scope ord
  | 2 =>
    checkMod (decide (m.extractLsb' 0 1 = 0)) <| withField (Ty.ofCode (m.extractLsb' 6 4)) fun ty => withField (Scope.ofCode (m.extractLsb' 3 3)) fun scope => withField (MemOrd.ofCode (m.extractLsb' 1 2)) fun ord => withOperands (Wd.decode g a b c) fun w => .red w ty scope ord
  | 3 =>
    checkMod (decide (m.extractLsb' 0 1 = 0)) <| withField (Ty.ofCode (m.extractLsb' 6 4)) fun ty => withField (Scope.ofCode (m.extractLsb' 3 3)) fun scope => withField (MemOrd.ofCode (m.extractLsb' 1 2)) fun ord => withOperands (Wd.decode g a b c) fun w => .fred w ty scope ord
  | 4 =>
    if m.extractLsb' 0 1 = 0 then
      checkMod (true) <| withField (Ty.ofCode (m.extractLsb' 6 4)) fun ty => withField (Scope.ofCode (m.extractLsb' 3 3)) fun scope => withField (MemOrd.ofCode (m.extractLsb' 1 2)) fun ord => withOperands (Wd.decode g a b c) fun w => .redobjInit w ty scope ord
    else if m.extractLsb' 0 1 = 1 then
      checkMod (true) <| withField (Ty.ofCode (m.extractLsb' 6 4)) fun ty => withField (Scope.ofCode (m.extractLsb' 3 3)) fun scope => withField (MemOrd.ofCode (m.extractLsb' 1 2)) fun ord => withOperands (Wd.decode g a b c) fun w => .redobjFold w ty scope ord
    else .error .reservedModifier
  | _ => .error .unassignedOpcode

/-- Opcode class 0x0D (02 R44). -/
def decodeClass0D (oper : Nat) (g m : BitVec 10) (a b c : BitVec 22) : Except DecodeError Instr :=
  match oper with
  | 0 =>
    checkMod (decide (m.extractLsb' 0 1 = 0) && decide (m.extractLsb' 6 4 = 0)) <| withField (Scope.ofCode (m.extractLsb' 3 3)) fun scope => withField (MemOrd.ofCode (m.extractLsb' 1 2)) fun ord => withOperands (Wd.decode g a b c) fun w => .fence w scope ord
  | 1 =>
    checkMod (decide (m.extractLsb' 0 1 = 0) && decide (m.extractLsb' 6 4 = 0) && decide (m.extractLsb' 3 3 = 4) && decide (m.extractLsb' 1 2 = 0)) <| withOperands (Wd.decode g a b c) fun w => .cflush w
  | 2 =>
    checkMod (decide (m.extractLsb' 6 4 = 0) && decide (m.extractLsb' 3 3 = 4) && decide (m.extractLsb' 1 2 = 0)) <| withOperands (Wd.decode g a b c) fun w => .cinv w (m.getLsbD 0)
  | 3 =>
    checkMod (decide (m.extractLsb' 0 1 = 0) && decide (m.extractLsb' 3 3 = 5) && decide (m.extractLsb' 1 2 = 2)) <| withField (Ty.ofCode (m.extractLsb' 6 4)) fun ty => withOperands (Wd.decode g a b c) fun w => .hwsig w ty
  | _ => .error .unassignedOpcode

/-- Opcode class 0x0E (02 R44). -/
def decodeClass0E (oper : Nat) (g m : BitVec 10) (a b c : BitVec 22) : Except DecodeError Instr :=
  match oper with
  | 0 =>
    checkMod (decide (m.extractLsb' 0 10 = 0)) <| withOperands (Wd.decode g a b c) fun w => .bcopy w
  | 1 =>
    checkMod (decide (m.extractLsb' 0 10 = 0)) <| withOperands (Wd.decode g a b c) fun w => .bgath w
  | 2 =>
    checkMod (decide (m.extractLsb' 0 10 = 0)) <| withOperands (Wd.decode g a b c) fun w => .bscat w
  | 3 =>
    checkMod (decide (m.extractLsb' 1 9 = 0)) <| withOperands (Wd.decode g a b c) fun w => .tgwait w (m.getLsbD 0)
  | 4 =>
    checkMod (decide (m.extractLsb' 1 9 = 0)) <| withOperands (Wd.decode g a b c) fun w => .tgany w (m.getLsbD 0)
  | 5 =>
    checkMod (decide (m.extractLsb' 1 9 = 0)) <| withOperands (Wd.decode g a b c) fun w => .tgfirst w (m.getLsbD 0)
  | 6 =>
    checkMod (decide (m.extractLsb' 0 10 = 0)) <| withOperands (Wd.decode g a b c) fun w => .tgclr w
  | _ => .error .unassignedOpcode

/-- Opcode class 0x0F (02 R44). -/
def decodeClass0F (oper : Nat) (g m : BitVec 10) (a b c : BitVec 22) : Except DecodeError Instr :=
  match oper with
  | 0 =>
    checkMod (decide (m.extractLsb' 0 10 = 0)) <| withOperands (Wd.decode g a b c) fun w => .aslice w
  | 1 =>
    checkMod (decide (m.extractLsb' 0 10 = 0)) <| withOperands (Wd.decode g a b c) fun w => .qpop w
  | 2 =>
    checkMod (decide (m.extractLsb' 0 10 = 0)) <| withOperands (Wd.decode g a b c) fun w => .qstat w
  | 3 =>
    checkMod (decide (m.extractLsb' 0 10 = 0)) <| withOperands (Wd.decode g a b c) fun w => .qend w
  | _ => .error .unassignedOpcode

/-- Opcode class 0x10 (02 R44). -/
def decodeClass10 (oper : Nat) (g m : BitVec 10) (a b c : BitVec 22) : Except DecodeError Instr :=
  match oper with
  | 0 =>
    checkMod (decide (m.extractLsb' 0 10 = 0)) <| withOperands (Wd.decode g a b c) fun w => .macq w
  | 1 =>
    checkMod (decide (m.extractLsb' 0 10 = 0)) <| withOperands (Wd.decode g a b c) fun w => .mrel w
  | 2 =>
    checkMod (decide (m.extractLsb' 0 10 = 0)) <| withOperands (Wd.decode g a b c) fun w => .gang w
  | 3 =>
    checkMod (decide (m.extractLsb' 0 10 = 0)) <| withOperands (Wd.decode g a b c) fun w => .resv w
  | 4 =>
    checkMod (decide (m.extractLsb' 0 10 = 0)) <| withOperands (Wd.decode g a b c) fun w => .rfree w
  | 5 =>
    checkMod (decide (m.extractLsb' 0 10 = 0)) <| withOperands (Wd.decode g a b c) fun w => .cbld w
  | 6 =>
    checkMod (decide (m.extractLsb' 4 6 = 0)) <| withField (Ty.ofCode (m.extractLsb' 0 4)) fun aty => withOperands (Wd.decode g a b c) fun w => .mma w aty
  | 7 =>
    checkMod (decide (m.extractLsb' 4 6 = 0)) <| withField (Ty.ofCode (m.extractLsb' 0 4)) fun aty => withOperands (Wd.decode g a b c) fun w => .mmas w aty
  | 8 =>
    checkMod (decide (m.extractLsb' 0 10 = 0)) <| withOperands (Wd.decode g a b c) fun w => .mzero w
  | 9 =>
    checkMod (decide (m.extractLsb' 0 10 = 0)) <| withOperands (Wd.decode g a b c) fun w => .mdrain w
  | 10 =>
    checkMod (decide (m.extractLsb' 0 10 = 0)) <| withOperands (Wd.decode g a b c) fun w => .mfill w
  | 11 =>
    checkMod (decide (m.extractLsb' 0 10 = 0)) <| withOperands (Wd.decode g a b c) fun w => .mwait w
  | 12 =>
    checkMod (decide (m.extractLsb' 0 10 = 0)) <| withOperands (Wd.decode g a b c) fun w => .mdep w
  | _ => .error .unassignedOpcode

/-- Opcode class 0x11 (02 R44). -/
def decodeClass11 (oper : Nat) (g m : BitVec 10) (a b c : BitVec 22) : Except DecodeError Instr :=
  match oper with
  | 0 =>
    checkMod (decide (m.extractLsb' 4 6 = 0)) <| withField (Ty.ofCode (m.extractLsb' 0 4)) fun aty => withOperands (Wd.decode g a b c) fun w => .vmma w aty
  | 1 =>
    checkMod (decide (m.extractLsb' 0 10 = 0)) <| withOperands (Wd.decode g a b c) fun w => .vmmai w
  | 2 =>
    checkMod (decide (m.extractLsb' 5 5 = 0)) <| withField (Ty.ofCode (m.extractLsb' 1 4)) fun aty => withOperands (Wd.decode g a b c) fun w => .vfrag w aty (m.getLsbD 0)
  | _ => .error .unassignedOpcode

/-- Opcode class 0x12 (02 R44). -/
def decodeClass12 (oper : Nat) (g m : BitVec 10) (a b c : BitVec 22) : Except DecodeError Instr :=
  match oper with
  | 0 =>
    checkMod (decide (m.extractLsb' 0 10 = 0)) <| withOperands (Wd.decode g a b c) fun w => .bara w
  | 1 =>
    checkMod (decide (m.extractLsb' 0 10 = 0)) <| withOperands (Wd.decode g a b c) fun w => .barw w
  | 2 =>
    checkMod (decide (m.extractLsb' 0 10 = 0)) <| withOperands (Wd.decode g a b c) fun w => .baraw w
  | 3 =>
    checkMod (decide (m.extractLsb' 0 10 = 0)) <| withOperands (Wd.decode g a b c) fun w => .barq w
  | 4 =>
    checkMod (decide (m.extractLsb' 0 10 = 0)) <| withOperands (Wd.decode g a b c) fun w => .teamj w
  | _ => .error .unassignedOpcode

/-- Opcode class 0x13 (02 R44). -/
def decodeClass13 (oper : Nat) (g m : BitVec 10) (a b c : BitVec 22) : Except DecodeError Instr :=
  match oper with
  | 0 =>
    checkMod (decide (m.extractLsb' 3 7 = 0)) <| withOperands (Wd.decode g a b c) fun w => .tenq w (m.extractLsb' 0 3)
  | 1 =>
    checkMod (decide (m.extractLsb' 0 10 = 0)) <| withOperands (Wd.decode g a b c) fun w => .targ w
  | 2 =>
    checkMod (decide (m.extractLsb' 0 10 = 0)) <| withOperands (Wd.decode g a b c) fun w => .dcnew w
  | 3 =>
    checkMod (decide (m.extractLsb' 0 10 = 0)) <| withOperands (Wd.decode g a b c) fun w => .dcdec w
  | 4 =>
    checkMod (decide (m.extractLsb' 0 10 = 0)) <| withOperands (Wd.decode g a b c) fun w => .dcq w
  | 5 =>
    checkMod (decide (m.extractLsb' 0 10 = 0)) <| withOperands (Wd.decode g a b c) fun w => .launch w
  | 6 =>
    checkMod (decide (m.extractLsb' 0 10 = 0)) <| withOperands (Wd.decode g a b c) fun w => .mutl w
  | _ => .error .unassignedOpcode

/-- Opcode class 0x14 (02 R44). -/
def decodeClass14 (oper : Nat) (g m : BitVec 10) (a b c : BitVec 22) : Except DecodeError Instr :=
  match oper with
  | 0 =>
    checkMod (decide (m.extractLsb' 0 10 = 0)) <| withOperands (Wd.decode g a b c) fun w => .sproj w
  | 1 =>
    checkMod (decide (m.extractLsb' 0 10 = 0)) <| withOperands (Wd.decode g a b c) fun w => .ssort w
  | 2 =>
    checkMod (decide (m.extractLsb' 5 5 = 0)) <| withOperands (Wd.decode g a b c) fun w => .sfetch w (m.extractLsb' 0 5)
  | 3 =>
    checkMod (decide (m.extractLsb' 0 10 = 0)) <| withOperands (Wd.decode g a b c) fun w => .cdep w
  | 4 =>
    checkMod (decide (m.extractLsb' 0 10 = 0)) <| withOperands (Wd.decode g a b c) fun w => .cwmark w
  | 5 =>
    checkMod (decide (m.extractLsb' 0 10 = 0)) <| withOperands (Wd.decode g a b c) fun w => .cread w
  | 6 =>
    checkMod (decide (m.extractLsb' 0 10 = 0)) <| withOperands (Wd.decode g a b c) fun w => .crlist w
  | 7 =>
    checkMod (decide (m.extractLsb' 0 10 = 0)) <| withOperands (Wd.decode g a b c) fun w => .cadj w
  | 8 =>
    if m.extractLsb' 0 1 = 0 then
      checkMod (decide (m.extractLsb' 1 9 = 0)) <| withOperands (Wd.decode g a b c) fun w => .crst w
    else if m.extractLsb' 0 1 = 1 then
      checkMod (decide (m.extractLsb' 1 9 = 0)) <| withOperands (Wd.decode g a b c) fun w => .crstRel w
    else .error .reservedModifier
  | _ => .error .unassignedOpcode

/-- Opcode class 0x15 (02 R44). -/
def decodeClass15 (oper : Nat) (g m : BitVec 10) (a b c : BitVec 22) : Except DecodeError Instr :=
  match oper with
  | 0 =>
    checkMod (decide (m.extractLsb' 0 10 = 0)) <| withOperands (Wd.decode g a b c) fun w => .rproj w
  | 1 =>
    checkMod (decide (m.extractLsb' 0 10 = 0)) <| withOperands (Wd.decode g a b c) fun w => .rwlist w
  | 2 =>
    checkMod (decide (m.extractLsb' 1 9 = 0)) <| withOperands (Wd.decode g a b c) fun w => .trace w (m.getLsbD 0)
  | 3 =>
    checkMod (decide (m.extractLsb' 0 10 = 0)) <| withOperands (Wd.decode g a b c) fun w => .asupd w
  | 4 =>
    checkMod (decide (m.extractLsb' 0 10 = 0)) <| withOperands (Wd.decode g a b c) fun w => .asq w
  | _ => .error .unassignedOpcode

/-- Opcode class 0x16 (02 R44). -/
def decodeClass16 (oper : Nat) (g m : BitVec 10) (a b c : BitVec 22) : Except DecodeError Instr :=
  match oper with
  | 0 =>
    checkMod (decide (m.extractLsb' 0 1 = 0) && decide (m.extractLsb' 6 4 = 8) && decide (m.extractLsb' 3 3 = 4) && decide (m.extractLsb' 1 2 = 0)) <| withOperands (Wd.decode g a b c) fun w => .tex w
  | 1 =>
    checkMod (decide (m.extractLsb' 0 1 = 0) && decide (m.extractLsb' 6 4 = 8) && decide (m.extractLsb' 3 3 = 4) && decide (m.extractLsb' 1 2 = 0)) <| withOperands (Wd.decode g a b c) fun w => .tld w
  | 2 =>
    checkMod (decide (m.extractLsb' 0 1 = 0)) <| withField (Ty.ofCode (m.extractLsb' 6 4)) fun ty => withField (Scope.ofCode (m.extractLsb' 3 3)) fun scope => withField (MemOrd.ofCode (m.extractLsb' 1 2)) fun ord => withOperands (Wd.decode g a b c) fun w => .imst w ty scope ord
  | 3 =>
    checkMod (decide (m.extractLsb' 0 1 = 0)) <| withField (Ty.ofCode (m.extractLsb' 6 4)) fun ty => withField (Scope.ofCode (m.extractLsb' 3 3)) fun scope => withField (MemOrd.ofCode (m.extractLsb' 1 2)) fun ord => withOperands (Wd.decode g a b c) fun w => .imld w ty scope ord
  | _ => .error .unassignedOpcode

/-- Opcode class 0x17 (02 R44). -/
def decodeClass17 (oper : Nat) (g m : BitVec 10) (a b c : BitVec 22) : Except DecodeError Instr :=
  match oper with
  | 0 =>
    checkMod (decide (m.extractLsb' 1 9 = 0)) <| withOperands (Wd.decode g a b c) fun w => .srd w (m.getLsbD 0)
  | 1 =>
    checkMod (decide (m.extractLsb' 0 10 = 0)) <| withOperands (Wd.decode g a b c) fun w => .swr w
  | 2 =>
    checkMod (decide (m.extractLsb' 0 10 = 0)) <| withOperands (Wd.decode g a b c) fun w => .clk w
  | 3 =>
    checkMod (decide (m.extractLsb' 0 10 = 0)) <| withOperands (Wd.decode g a b c) fun w => .wtime w
  | 4 =>
    checkMod (decide (m.extractLsb' 0 10 = 0)) <| withOperands (Wd.decode g a b c) fun w => .sigrd w
  | _ => .error .unassignedOpcode

/-- Opcode class 0x18 (02 R44). -/
def decodeClass18 (oper : Nat) (g m : BitVec 10) (a b c : BitVec 22) : Except DecodeError Instr :=
  match oper with
  | 0 =>
    if m.extractLsb' 0 2 = 0 then
      checkMod (decide (m.extractLsb' 2 8 = 0)) <| withOperands (Wd.decode g a b c) fun w => .tretRes w
    else if m.extractLsb' 0 2 = 1 then
      checkMod (decide (m.extractLsb' 2 8 = 0)) <| withOperands (Wd.decode g a b c) fun w => .tretRst w
    else if m.extractLsb' 0 2 = 2 then
      checkMod (decide (m.extractLsb' 2 8 = 0)) <| withOperands (Wd.decode g a b c) fun w => .tretTerm w
    else .error .reservedModifier
  | 1 =>
    checkMod (decide (m.extractLsb' 0 10 = 0)) <| withOperands (Wd.decode g a b c) fun w => .tqrd w
  | 2 =>
    checkMod (decide (m.extractLsb' 3 7 = 0)) <| withField (Scope.ofCode (m.extractLsb' 0 3)) fun scope => withOperands (Wd.decode g a b c) fun w => .killg w scope
  | 3 =>
    checkMod (decide (m.extractLsb' 1 9 = 0)) <| withOperands (Wd.decode g a b c) fun w => .privw w (m.getLsbD 0)
  | 4 =>
    if m.extractLsb' 0 1 = 0 then
      checkMod (decide (m.extractLsb' 1 9 = 0)) <| withOperands (Wd.decode g a b c) fun w => .mfrz w
    else if m.extractLsb' 0 1 = 1 then
      checkMod (decide (m.extractLsb' 1 9 = 0)) <| withOperands (Wd.decode g a b c) fun w => .mfrzThaw w
    else .error .reservedModifier
  | 5 =>
    checkMod (decide (m.extractLsb' 0 10 = 0)) <| withOperands (Wd.decode g a b c) fun w => .ctxq w
  | _ => .error .unassignedOpcode

/-- Opcode class 0x19 (02 R44). -/
def decodeClass19 (oper : Nat) (g m : BitVec 10) (a b c : BitVec 22) : Except DecodeError Instr :=
  match oper with
  | 0 =>
    checkMod (decide (m.extractLsb' 0 10 = 0)) <| withOperands (Wd.decode g a b c) fun w => .progress w
  | 1 =>
    checkMod (decide (m.extractLsb' 0 10 = 0)) <| withOperands (Wd.decode g a b c) fun w => .mark w
  | 2 =>
    checkMod (decide (m.extractLsb' 0 10 = 0)) <| withOperands (Wd.decode g a b c) fun w => .stopp w
  | _ => .error .unassignedOpcode

/-- The decoder of a word in a clause body (02 R37: the header opcode there is refused). -/
def decodeWord (x : IWord) : Except DecodeError Instr :=
  let oper := (x.extractLsb' 86 5).toNat
  let g := x.extractLsb' 76 10
  let m := x.extractLsb' 66 10
  let a := x.extractLsb' 44 22
  let b := x.extractLsb' 22 22
  let c := x.extractLsb' 0 22
  match (x.extractLsb' 91 5).toNat with
  | 0 => decodeClass00 oper g m a b c
  | 1 => decodeClass01 oper g m a b c
  | 2 => decodeClass02 oper g m a b c
  | 3 => decodeClass03 oper g m a b c
  | 4 => decodeClass04 oper g m a b c
  | 5 => decodeClass05 oper g m a b c
  | 6 => decodeClass06 oper g m a b c
  | 7 => decodeClass07 oper g m a b c
  | 8 => decodeClass08 oper g m a b c
  | 9 => decodeClass09 oper g m a b c
  | 10 => decodeClass0A oper g m a b c
  | 11 => decodeClass0B oper g m a b c
  | 12 => decodeClass0C oper g m a b c
  | 13 => decodeClass0D oper g m a b c
  | 14 => decodeClass0E oper g m a b c
  | 15 => decodeClass0F oper g m a b c
  | 16 => decodeClass10 oper g m a b c
  | 17 => decodeClass11 oper g m a b c
  | 18 => decodeClass12 oper g m a b c
  | 19 => decodeClass13 oper g m a b c
  | 20 => decodeClass14 oper g m a b c
  | 21 => decodeClass15 oper g m a b c
  | 22 => decodeClass16 oper g m a b c
  | 23 => decodeClass17 oper g m a b c
  | 24 => decodeClass18 oper g m a b c
  | 25 => decodeClass19 oper g m a b c
  | 31 => if oper = 31 then .error .headerInBody else .error .unassignedOpcode
  | _ => .error .unassignedOpcode

/-- A word from its bytes as memory holds them, least significant first (00 R4, 02 R25). -/
def wordOfBytes (bs : List Byte) : IWord :=
  bs.foldr (fun b acc => (acc <<< 8) ||| b.setWidth 96) 0

/-- The twelve bytes of a word. -/
def bytesOfWord (x : IWord) : List Byte :=
  (List.range 12).map fun i => x.extractLsb' (8 * i) 8

/-- A value of n bytes from its bytes, little-endian (00 R4). -/
def natOfBytes (bs : List Byte) : Nat := bs.foldr (fun b acc => acc * 256 + b.toNat) 0

/-- The n low bytes of a value, little-endian (00 R4). -/
def bytesOfNat (n v : Nat) : List Byte :=
  match n with
  | 0 => []
  | k + 1 => BitVec.ofNat 8 v :: bytesOfNat k (v / 256)

/-- The instruction a word of the opcode table stands for. The table gives its rows no bits; a word given here is read as
one 96-bit instruction word whose bit 0 is the least significant bit of word 0. -/
def decodeTableWord (nbits w : Nat) : Option Instr :=
  if nbits ≤ 96 then
    match decodeWord (wordOfBytes (bytesOfWord (BitVec.ofNat 96 w))) with
    | .ok i => some i
    | .error _ => none
  else none

/-! Bluith messages (24 R389, R390). -/

/-- The management addresses whose writes start something of their own (24 R395, 08 R184, 22 R373, R377): which row of
the table an 8-byte management write stands for. -/
def classifyManagementWrite (m : Msg) : Instr :=
  let a := m.addr.toNat
  let v := natOfBytes (m.payload.take 8)
  if 0x0100 ≤ a ∧ a < 0x0300 ∧ a % 0x40 = 0 then
    if v.testBit 63 then .hotnessEnable else .managementWrite
  else if 0x0100 ≤ a ∧ a < 0x0300 ∧ a % 0x40 = 0x20 then .freeFramesAdd
  else if 0x0400 ≤ a ∧ a < 0x0500 ∧ a % 0x20 = 0 then
    if v.testBit 63 then .samplingEnable else .managementWrite
  else if a = 0x0810 then
    if v.testBit 0 then .trialEnable else .trialDisable
  else .managementWrite

/-- The row of the table a message stands for: its class and operation (24 R390). -/
def classifyMsg (m : Msg) : Instr :=
  if m.cls.toNat = 0x08 ∧ m.op.toNat = 1 ∧ m.addr.toNat = 0x30 ∧ (natOfBytes (m.payload.take 8)).testBit 0 then .raceCountEnable
  else
    match m.cls.toNat, m.op.toNat with
    | 0x01, 0 => .launchMessage
    | 0x02, 0 => .write
    | 0x03, 0 => .read
    | 0x04, 0 => .flushData
    | 0x04, 1 => .flushDataAndTlb
    | 0x05, 0 => .windowRead
    | 0x05, 1 => .windowWrite
    | 0x05, 2 => .windowFetchAdd
    | 0x07, 0 => .preemptStopAndSave
    | 0x07, 1 => .preemptWithNotice
    | 0x07, 2 => .restore
    | 0x07, 3 => .kill
    | 0x08, 0 => .checkpointControlRead
    | 0x08, 1 => .checkpointControlWrite
    | 0x08, 2 => .checkpointRestore
    | 0x09, 0 => .managementRead
    | 0x09, 1 => classifyManagementWrite m
    | 0x09, 2 => .managementReset
    | 0x09, 3 => .imageWrite
    | 0x09, 4 => .imageCommit
    | 0x0A, 0 => .debugClaim
    | 0x0A, 1 => .debugRelease
    | 0x0A, 2 => .armTrace
    | 0x0A, 3 => .stopPartition
    | 0x0A, 4 => .resume
    | 0x0A, 5 => .readDump
    | 0x0A, 6 => .setWatchpoint
    | 0x0B, 0 => .copyToPeer
    | 0x0B, 1 => .copyFromPeer
    | 0x0C, 0 => .sessionOpen
    | 0x0C, 1 => .sessionClose
    | 0x0C, 2 => .createAddressSpace
    | 0x0C, 3 => .destroyAddressSpace
    | _, _ => .malformedMessage

/-- A message from its bytes on a connection: the 16-byte header, then the payload (24 R389). A header cut short, a length
that is no multiple of 8 or does not match, or `bl.big` with a length, is malformed. -/
def decodeMessage (conn : Nat) (bs : List Byte) : Instr × Msg :=
  let w0 := natOfBytes (bs.take 4)
  let len := w0 / 65536
  let big := w0.testBit 15
  let m : Msg := { conn := conn, cls := BitVec.ofNat 8 w0, op := BitVec.ofNat 7 (w0 / 256), big := big,
                   tag := BitVec.ofNat 32 (natOfBytes ((bs.drop 4).take 4)),
                   addr := BitVec.ofNat 64 (natOfBytes ((bs.drop 8).take 8)), payload := bs.drop 16 }
  let want := if big then 65536 else len
  if bs.length < 16 ∨ len % 8 ≠ 0 ∨ (big = true ∧ len ≠ 0) ∨ m.payload.length ≠ want then (.malformedMessage, m)
  else (classifyMsg m, m)

/-- The bytes of a message (24 R389). -/
def encodeMessage (m : Msg) : List Byte :=
  bytesOfNat 4 ((if m.big then 0 else m.payload.length) * 65536 + (if m.big then 32768 else 0) + m.op.toNat * 256 + m.cls.toNat)
    ++ bytesOfNat 4 m.tag.toNat ++ bytesOfNat 8 m.addr.toNat ++ m.payload

end Sys2Proof
end

