-- ==== Sys2Proof/WellFormed.lean ====
section
/-! DEFINITION. The checks of an instruction word beyond its own reserved bits: operand classes, ranges, alignments,
accepted types, roles and launch-wide tables (02 R28-R32, R41, R45 and the encoding tables of the chapters), and the clause
checks of 02 R38. -/

namespace Sys2Proof

/-- How many registers a value of a type takes (03 R50). -/
def Ty.is64 (t : Ty) : Bool :=
  match t with
  | .i64 | .n64 | .f64 => true
  | _ => false

def Ty.regs (t : Ty) : Nat := if t.is64 then 2 else 1

/-- The float formats of 03 R51. -/
def Ty.isFloat (t : Ty) : Bool :=
  match t with
  | .f32 | .f64 | .f16 | .bf16 | .f8e4 | .f8e5 => true
  | _ => false

/-- Signed integer formats (03 R49). -/
def Ty.isSigned (t : Ty) : Bool :=
  match t with
  | .i32 | .i64 | .i16 | .i8 => true
  | _ => false

/-- The width in bits (03 R48, R50). -/
def Ty.bits (t : Ty) : Nat :=
  match t with
  | .i64 | .n64 | .f64 => 64
  | .i32 | .n32 | .f32 => 32
  | .i16 | .n16 | .f16 | .bf16 | .lq2 => 16
  | .i8 | .n8 | .f8e4 | .f8e5 | .se8 => 8

/-- Bytes of a memory access of a type (09 R197). -/
def Ty.bytes (t : Ty) : Nat := t.bits / 8

/-- What an instruction accepts in an operand field, and how it uses it (07 R136 and the tables of the other chapters). -/
inductive OpKind where
  | none
  /-- s or s64; `fl` a float source (negate and absolute allowed), `im` whether an immediate is accepted. -/
  | src (fl w64 im : Bool)
  /-- A packed 16-bit float source (02 R28). -/
  | packed
  /-- s whose immediate lies in a range. -/
  | srcImm (lo hi : Int)
  /-- n v registers read, at a multiple of al. -/
  | vsrc (n al : Nat)
  | vdst (n al : Nat)
  /-- v registers read and written; `fm` whether negate and absolute are allowed (07 R137). -/
  | vrw (n al : Nat) (fm : Bool)
  | pdst
  | psrc
  | prw
  | imm (lo hi : Int)
  /-- The pair of a memory operand and its offset (01 R11, 09 R196). -/
  | base
  | off
  | atomOff (exch : Bool)
  | tileOff
  /-- A resource of one of these kinds, or a role that resolves to one (02 R29, R32). -/
  | res (ks : List Nat)
  | ctr
  | slot
  | kpair
  | sreg
  | sregW
  | occ
  | vimm (lo hi : Int)
deriving DecidableEq, Repr

/-- The facts of a launch that decode reads (02 R28, R32; 05 R104; 14 R299). -/
structure DecodeCtx where
  regs : Nat
  roles : List (BitVec 16)
  taskServer : Bool
  nq : Nat
  dccnt : Nat
deriving DecidableEq, Repr

/-- The resource a role names: kind and number of its entry (02 R32). -/
def DecodeCtx.role (cx : DecodeCtx) (n : BitVec 8) : Nat × Nat :=
  let e := cx.roles.getD n.toNat 0xF000
  ((e.extractLsb' 12 4).toNat, (e.extractLsb' 0 12).toNat)

/-- A resource kind and number inside its range, the counters also below `lr.dccnt` (02 R29, 05 R104). -/
def DecodeCtx.resOk (cx : DecodeCtx) (kind num : Nat) : Bool :=
  match ResKind.ofCode (BitVec.ofNat 4 kind) with
  | some k => decide (kind < 8) && decide (num < k.limit) && (decide (k ≠ .dc) || decide (num < cx.dccnt))
  | Option.none => false

/-- A block of n v registers at a multiple of al, whole below the register count (02 R28, 11 R258, 12 R265). -/
def DecodeCtx.block (cx : DecodeCtx) (r : BitVec 8) (n al : Nat) : Bool :=
  decide (r.toNat % al = 0) && decide (r.toNat + n ≤ cx.regs)

/-- Whether an operand field is one the instruction accepts there. -/
def OpKind.accepts (cx : DecodeCtx) (kd : OpKind) (o : Opd) : Bool :=
  match kd, o with
  | .none, .none => true
  | .src fl w64 _, .v n neg abs => (fl || (!neg && !abs)) && cx.block n (if w64 then 2 else 1) (if w64 then 2 else 1)
  | .src fl w64 _, .k n neg abs => (fl || (!neg && !abs)) && (!w64 || decide (n.toNat % 2 = 0))
  | .src _ _ im, .imm _ => im
  | .packed, .v n _ _ => cx.block n 1 1
  | .packed, .k _ _ _ => true
  | .packed, .imm x => decide (x.extractLsb' 16 3 = 0)
  | .srcImm _ _, .v n neg abs => !neg && !abs && cx.block n 1 1
  | .srcImm _ _, .k _ neg abs => !neg && !abs
  | .srcImm lo hi, .imm x => decide (lo ≤ x.toInt) && decide (x.toInt ≤ hi)
  | .vsrc n al, .v r neg abs => !neg && !abs && cx.block r n al
  | .vdst n al, .v r neg abs => !neg && !abs && cx.block r n al
  | .vrw n al fm, .v r neg abs => (fm || (!neg && !abs)) && cx.block r n al
  | .pdst, .p _ inv => !inv
  | .prw, .p _ inv => !inv
  | .psrc, .p _ _ => true
  | .imm lo hi, .imm x => decide (lo ≤ x.toInt) && decide (x.toInt ≤ hi)
  | .base, .v r neg abs => !neg && !abs && cx.block r 2 2
  | .base, .k n neg abs => !neg && !abs && decide (n.toNat % 2 = 0)
  | .off, .imm _ => true
  | .atomOff exch, .imm x =>
    match AtomOp.ofCode (x.extractLsb' 15 4) with
    | some op => exch || decide (op ≠ .exch)
    | Option.none => false
  | .tileOff, .v n neg abs => !neg && !abs && cx.block n 1 1
  | .tileOff, .imm x => decide (0 ≤ x.toInt) && decide (x.toInt ≤ 65535) && decide (x.toNat % 4 = 0)
  | .res ks, .res k n => ks.contains k.code.toNat && cx.resOk k.code.toNat n.toNat
  | .res ks, .role n => ks.contains (cx.role n).1 && cx.resOk (cx.role n).1 (cx.role n).2
  | .ctr, .v n neg abs => !neg && !abs && cx.block n 1 1
  | .ctr, .res k n => decide (k = .dc) && cx.resOk 7 n.toNat
  | .ctr, .role n => decide ((cx.role n).1 = 7) && cx.resOk 7 (cx.role n).2
  | .slot, .v n neg abs => !neg && !abs && cx.block n 1 1
  | .slot, .imm x => decide (0 ≤ x.toInt) && decide (x.toInt ≤ 7)
  | .kpair, .k n neg abs => !neg && !abs && decide (n.toNat % 2 = 0)
  | .sreg, .sr n => decide (n.toNat ≤ 20)
  | .sregW, .sr n => decide (n.toNat = 18 ∨ n.toNat = 10 ∨ n.toNat = 19 ∨ n.toNat = 20)
  | .occ, .v n neg abs => !neg && !abs && cx.block n 1 1
  | .occ, .k _ neg abs => !neg && !abs
  | .occ, .imm x => decide (0 ≤ x.toInt) && decide (x.toInt ≤ 4095)
  | .vimm _ _, .v n neg abs => !neg && !abs && cx.block n 1 1
  | .vimm lo hi, .imm x => decide (lo ≤ x.toInt) && decide (x.toInt ≤ hi)
  | _, _ => false

/-- The operand kinds of a word, fields A, B, C. -/
def Instr.kinds (i : Instr) : OpKind × OpKind × OpKind :=
  match i with
  | .illz _ => (.none, .none, .none)
  | .nop _ => (.none, .none, .none)
  | .braD _ => (.none, .none, .none)
  | .braU _ => (.none, .none, .none)
  | .brx _ => (.none, .src false true false, .none)
  | .call _ => (.none, .none, .none)
  | .ret _ => (.none, .src false true false, .none)
  | .reform _ => (.none, .none, .none)
  | .exit _ => (.none, .none, .none)
  | .yield _ => (.none, .none, .imm 0 65535)
  | .waitf _ => (.none, .none, .imm 0 4095)
  | .trap _ => (.none, .src false false true, .none)
  | .bkpt _ => (.none, .src false false true, .none)
  | .iadd _ _ _ => (.vdst 1 1, .src false false true, .src false false true)
  | .isub _ _ _ => (.vdst 1 1, .src false false true, .src false false true)
  | .imul _ _ _ => (.vdst 1 1, .src false false true, .src false false true)
  | .imulh _ _ => (.vdst 1 1, .src false false true, .src false false true)
  | .imad _ _ _ => (.vrw 1 1 false, .src false false true, .src false false true)
  | .imin _ _ => (.vdst 1 1, .src false false true, .src false false true)
  | .imax _ _ => (.vdst 1 1, .src false false true, .src false false true)
  | .iabs _ _ => (.vdst 1 1, .src false false true, .none)
  | .iadd64 _ _ _ => (.vdst 2 2, .src false true true, .src false true true)
  | .imul64 _ _ _ => (.vdst 2 2, .src false true true, .src false true true)
  | .lea _ _ _ => (.vdst 2 2, .src false true true, .src false false true)
  | .idivn _ ty _ _ => (.vdst ty.regs ty.regs, .src false ty.is64 true, .src false ty.is64 true)
  | .and _ => (.vdst 1 1, .src false false true, .src false false true)
  | .or _ => (.vdst 1 1, .src false false true, .src false false true)
  | .xor _ => (.vdst 1 1, .src false false true, .src false false true)
  | .andn _ => (.vdst 1 1, .src false false true, .src false false true)
  | .bfn3 _ => (.vrw 1 1 false, .src false true false, .imm 0 255)
  | .shl _ => (.vdst 1 1, .src false false true, .src false false true)
  | .shr _ _ => (.vdst 1 1, .src false false true, .src false false true)
  | .rotr _ => (.vdst 1 1, .src false false true, .src false false true)
  | .bfe _ _ => (.vdst 1 1, .src false false true, .src false false true)
  | .bfi _ => (.vrw 1 1 false, .src false false true, .src false false true)
  | .popc _ => (.vdst 1 1, .src false false true, .none)
  | .clz _ => (.vdst 1 1, .src false false true, .none)
  | .brev _ => (.vdst 1 1, .src false false true, .none)
  | .bsel _ => (.vrw 1 1 false, .src false false true, .src false false true)
  | .icmp _ ty _ _ => (.prw, .src false ty.is64 true, .src false ty.is64 true)
  | .sel _ ty _ _ => (.vdst ty.regs ty.regs, .src false ty.is64 true, .src false ty.is64 true)
  | .mov _ => (.vdst 1 1, .src false false true, .none)
  | .movi _ => (.vdst 1 1, .none, .none)
  | .pset _ _ _ => (.prw, .psrc, .psrc)
  | .p2v _ => (.vdst 1 1, .none, .none)
  | .v2p _ => (.none, .src false false true, .imm 0 127)
  | .xlane _ ty _ _ => (.vrw ty.regs ty.regs false, .vsrc ty.regs ty.regs, .src false false true)
  | .vote _ form => ((if form = .ballot then .vdst 1 1 else .pdst), .psrc, .none)
  | .teamid _ => (.vdst 1 1, .none, .none)
  | .fadd _ => (.vdst 1 1, .src true false true, .src true false true)
  | .fsub _ => (.vdst 1 1, .src true false true, .src true false true)
  | .fmul _ => (.vdst 1 1, .src true false true, .src true false true)
  | .ffma _ => (.vrw 1 1 true, .src true false true, .src true false true)
  | .fmin _ => (.vdst 1 1, .src true false true, .src true false true)
  | .fmax _ => (.vdst 1 1, .src true false true, .src true false true)
  | .fcmp _ _ _ => (.prw, .src true false true, .src true false true)
  | .frnd _ _ => (.vdst 1 1, .src true false true, .none)
  | .fchk _ => (.none, .none, .imm 1 63)
  | .fflags _ => (.vdst 1 1, .src false false true, .src false false true)
  | .dadd _ => (.vdst 2 2, .src true true true, .src true true true)
  | .dmul _ => (.vdst 2 2, .src true true true, .src true true true)
  | .dfma _ => (.vrw 2 2 true, .src true true true, .src true true true)
  | .dmin _ => (.vdst 2 2, .src true true true, .src true true true)
  | .dmax _ => (.vdst 2 2, .src true true true, .src true true true)
  | .dcmp _ _ _ => (.prw, .src true true true, .src true true true)
  | .drnd _ _ => (.vdst 2 2, .src true true true, .none)
  | .hadd2 _ _ => (.vdst 1 1, .packed, .packed)
  | .hmul2 _ _ => (.vdst 1 1, .packed, .packed)
  | .hfma2 _ _ => (.vrw 1 1 true, .packed, .packed)
  | .hmin2 _ _ => (.vdst 1 1, .packed, .packed)
  | .hmax2 _ _ => (.vdst 1 1, .packed, .packed)
  | .hdot2 _ _ => (.vrw 1 1 false, .packed, .packed)
  | .idot4 _ _ _ => (.vrw 1 1 false, .src false false true, .src false false true)
  | .rcp _ ty => (.vdst ty.regs ty.regs, .src true ty.is64 true, .none)
  | .rsq _ ty => (.vdst ty.regs ty.regs, .src true ty.is64 true, .none)
  | .sqrt _ ty => (.vdst ty.regs ty.regs, .src true ty.is64 true, .none)
  | .exp2 _ => (.vdst 1 1, .src true false true, .none)
  | .log2 _ => (.vdst 1 1, .src true false true, .none)
  | .sin _ => (.vdst 1 1, .src true false true, .none)
  | .cos _ => (.vdst 1 1, .src true false true, .none)
  | .tanh _ => (.vdst 1 1, .src true false true, .none)
  | .cvt _ ty sty _ => (.vdst ty.regs ty.regs, .src sty.isFloat sty.is64 true, .none)
  | .cvts _ _ _ => (.vdst 1 1, .src true false true, .src false false true)
  | .pack8 _ ty _ _ => (.vrw 1 1 false, .src ty.isFloat false true, .src ty.isFloat false true)
  | .unpack8 _ _ => (.vdst 1 1, .src false false true, .imm 0 3)
  | .cbdec _ => (.vdst 2 2, .src false false true, .none)
  | .scale _ => (.vdst 1 1, .src true false true, .src false false true)
  | .draw _ => (.vdst 1 1, .imm 0 4095, .occ)
  | .drawf _ => (.vdst 1 1, .imm 0 4095, .occ)
  | .drawb _ => (.pdst, .imm 0 4095, .occ)
  | .cvpos _ => (.vdst 2 2, .none, .none)
  | .cvscore _ => (.none, .src true false true, .none)
  | .ld _ ty _ _ _ => (.vdst ty.regs ty.regs, .base, .off)
  | .st _ ty _ _ _ => (.vsrc ty.regs ty.regs, .base, .off)
  | .pref _ _ => (.none, .base, .off)
  | .ldk _ ty => (.vdst ty.regs ty.regs, .base, .off)
  | .lda _ ty _ _ => (.vdst ty.regs ty.regs, .vsrc 1 1, .off)
  | .sta _ ty _ _ => (.vsrc ty.regs ty.regs, .vsrc 1 1, .off)
  | .ldc _ _ => (.vdst 1 1, .res [0], .tileOff)
  | .stc _ _ => (.vsrc 1 1, .res [0], .tileOff)
  | .atom _ ty _ _ => (.vrw ty.regs ty.regs false, .base, .atomOff true)
  | .cas _ ty _ _ => (.vrw (2 * ty.regs) (2 * ty.regs) false, .base, .off)
  | .red _ ty _ _ => (.vsrc ty.regs ty.regs, .base, .atomOff false)
  | .fred _ ty _ _ => (.vsrc ty.regs ty.regs, .base, .off)
  | .redobjInit _ _ _ _ => (.srcImm 1 65536, .base, .off)
  | .redobjFold _ _ _ _ => (.none, .base, .off)
  | .fence _ _ _ => (.none, .none, .none)
  | .cflush _ => (.none, .base, .off)
  | .cinv _ _ => (.none, .base, .off)
  | .hwsig _ _ => (.vsrc 1 1, .base, .off)
  | .bcopy _ => (.res [2], .base, .off)
  | .bgath _ => (.res [2], .base, .off)
  | .bscat _ => (.res [2], .base, .off)
  | .tgwait _ _ => (.none, .src false true true, .none)
  | .tgany _ _ => (.vdst 2 2, .src false true true, .none)
  | .tgfirst _ _ => (.vdst 1 1, .src false true true, .none)
  | .tgclr _ => (.none, .src false true true, .none)
  | .aslice _ => (.res [1], .base, .off)
  | .qpop _ => (.vdst 1 1, .res [1], .none)
  | .qstat _ => (.vdst 1 1, .res [1], .none)
  | .qend _ => (.res [1], .none, .none)
  | .macq _ => (.none, .none, .none)
  | .mrel _ => (.none, .none, .none)
  | .gang _ => (.none, .src false false true, .none)
  | .resv _ => (.vdst 1 1, .base, .off)
  | .rfree _ => (.none, .src false false true, .none)
  | .cbld _ => (.res [2], .base, .off)
  | .mma _ _ => (.res [0], .vsrc 1 1, .vsrc 1 1)
  | .mmas _ _ => (.res [0], .vsrc 2 2, .vsrc 1 1)
  | .mzero _ => (.none, .src false false true, .none)
  | .mdrain _ => (.res [0], .base, .off)
  | .mfill _ => (.res [0], .base, .off)
  | .mwait _ => (.vdst 1 1, .src false false true, .none)
  | .mdep _ => (.res [0], .ctr, .none)
  | .vmma _ _ => (.vrw 8 8 false, .vsrc 4 4, .vsrc 4 4)
  | .vmmai _ => (.vrw 8 8 false, .vsrc 4 4, .vsrc 4 4)
  | .vfrag _ _ _ => (.vdst 4 4, .vsrc 8 8, .none)
  | .bara _ => (.res [3, 4, 5, 6], .none, .none)
  | .barw _ => (.res [3, 4, 5, 6], .none, .none)
  | .baraw _ => (.res [3, 4, 5, 6], .none, .none)
  | .barq _ => (.vdst 1 1, .res [3, 4, 5, 6], .none)
  | .teamj _ => (.none, .none, .none)
  | .tenq _ _ => (.vdst 1 1, .base, .off)
  | .targ _ => (.vdst 1 1, .imm 0 11, .none)
  | .dcnew _ => (.ctr, .vimm 0 65535, .none)
  | .dcdec _ => (.ctr, .vimm 1 65535, .none)
  | .dcq _ => (.vdst 1 1, .ctr, .none)
  | .launch _ => (.vdst 1 1, .base, .off)
  | .mutl _ => (.vdst 1 1, .base, .off)
  | .sproj _ => (.res [2], .base, .off)
  | .ssort _ => (.res [2], .base, .off)
  | .sfetch _ _ => (.vdst 12 4, .base, .off)
  | .cdep _ => (.slot, .vsrc 8 8, .none)
  | .cwmark _ => (.slot, .src false false true, .none)
  | .cread _ => (.vdst 6 2, .slot, .src false false true)
  | .crlist _ => (.vdst 4 4, .slot, .src false false true)
  | .cadj _ => (.vrw 8 8 false, .vsrc 8 8, .none)
  | .crst _ => (.slot, .base, .off)
  | .crstRel _ => (.slot, .none, .none)
  | .rproj _ => (.res [2], .base, .off)
  | .rwlist _ => (.res [2], .base, .off)
  | .trace _ _ => (.vdst 4 4, .vsrc 8 8, .kpair)
  | .asupd _ => (.vsrc 16 16, .base, .off)
  | .asq _ => (.vdst 1 1, .none, .none)
  | .tex _ => (.vdst 4 4, .vsrc 2 2, .kpair)
  | .tld _ => (.vdst 4 4, .vsrc 2 2, .kpair)
  | .imst _ ty _ _ => (.vsrc ty.regs ty.regs, .vsrc 2 2, .kpair)
  | .imld _ ty _ _ => (.vdst ty.regs ty.regs, .vsrc 2 2, .kpair)
  | .srd _ d => ((if d then .vdst 2 2 else .vdst 1 1), .sreg, .none)
  | .swr _ => (.sregW, .src false false true, .none)
  | .clk _ => (.vdst 2 2, .none, .none)
  | .wtime _ => (.vdst 2 2, .none, .none)
  | .sigrd _ => (.vdst 1 1, .imm 0 7, .none)
  | .tretRes _ => (.none, .none, .none)
  | .tretRst _ => (.none, .none, .none)
  | .tretTerm _ => (.none, .none, .none)
  | .tqrd _ => (.vdst 1 1, .imm 0 255, .none)
  | .killg _ _ => (.none, .none, .none)
  | .privw _ d => (.src false false true, (if d then .vsrc 2 2 else .vsrc 1 1), .none)
  | .mfrz _ => (.none, .none, .none)
  | .mfrzThaw _ => (.none, .none, .none)
  | .ctxq _ => (.vdst 1 1, .none, .none)
  | .progress _ => (.none, .imm 0 7, .none)
  | .mark _ => (.none, .imm 0 65535, .src false false true)
  | .stopp _ => (.none, .none, .none)
  | .securityAlarm _ => (.none, .none, .none)
  | .pendingFrameCopied _ => (.none, .none, .none)
  | .coreGroupPlacement _ _ => (.none, .none, .none)
  | .taskStart _ _ => (.none, .none, .none)
  | .coreGroupEnd _ => (.none, .none, .none)
  | .launchEnd _ => (.none, .none, .none)
  | .binDraw _ => (.none, .none, .none)
  | .overflowMove _ => (.none, .none, .none)
  | .binAged _ _ => (.none, .none, .none)
  | .agedGroupFiling _ _ => (.none, .none, .none)
  | .stallExpiry _ _ => (.none, .none, .none)
  | .yieldExpiry _ _ => (.none, .none, .none)
  | .clauseFetchComplete _ _ _ => (.none, .none, .none)
  | .fixedResultWrite _ => (.none, .none, .none)
  | .variableResultComplete _ => (.none, .none, .none)
  | .dsmSlotAdvance _ => (.none, .none, .none)
  | .dsmPhaseBoundary _ => (.none, .none, .none)
  | .dsmEventDelivery _ _ => (.none, .none, .none)
  | .dsmPhaseCommit _ => (.none, .none, .none)
  | .barrierRelease _ _ => (.none, .none, .none)
  | .trapDelivery _ => (.none, .none, .none)
  | .coreGroupRelaunch _ => (.none, .none, .none)
  | .timerExpiry _ _ => (.none, .none, .none)
  | .watchpointDeferred _ => (.none, .none, .none)
  | .preemptGraceExpiry _ => (.none, .none, .none)
  | .preemptStopComplete _ => (.none, .none, .none)
  | .translationWalkComplete _ _ _ _ => (.none, .none, .none)
  | .demandZeroFill _ _ _ => (.none, .none, .none)
  | .homeAccessPerform _ => (.none, .none, .none)
  | .windowAccess _ => (.none, .none, .none)
  | .hotnessSample _ => (.none, .none, .none)
  | .stallSample _ => (.none, .none, .none)
  | .copyComplete _ => (.none, .none, .none)
  | .codebookSwap _ => (.none, .none, .none)
  | .reservationClearComplete _ _ => (.none, .none, .none)
  | .engineGrant _ => (.none, .none, .none)
  | .matrixOpStart _ => (.none, .none, .none)
  | .matrixOpComplete _ => (.none, .none, .none)
  | .drainPortComplete _ _ => (.none, .none, .none)
  | .streamFetch _ _ _ => (.none, .none, .none)
  | .projectionComplete _ => (.none, .none, .none)
  | .sortComplete _ => (.none, .none, .none)
  | .reprojectionComplete _ => (.none, .none, .none)
  | .worklistComplete _ => (.none, .none, .none)
  | .traversalRefetch _ => (.none, .none, .none)
  | .whiskBuild _ => (.none, .none, .none)
  | .whiskJudge _ => (.none, .none, .none)
  | .connectionLost _ => (.none, .none, .none)
  | .refusedDeliveryMode _ _ => (.none, .none, .none)
  | .powerGood => (.none, .none, .none)
  | .bringupPhaseComplete => (.none, .none, .none)
  | .port0Retrain => (.none, .none, .none)
  | .powerLoss => (.none, .none, .none)
  | .powerThrottleStep => (.none, .none, .none)
  | .eccCorrection => (.none, .none, .none)
  | .uncorrectableError => (.none, .none, .none)
  | .replayComplete => (.none, .none, .none)
  | .checkpointStart => (.none, .none, .none)
  | .checkpointValid => (.none, .none, .none)
  | .launchAccept => (.none, .none, .none)
  | .trialWindowEnd => (.none, .none, .none)
  | .signalSend => (.none, .none, .none)
  | .launchMessage => (.none, .none, .none)
  | .write => (.none, .none, .none)
  | .read => (.none, .none, .none)
  | .flushData => (.none, .none, .none)
  | .flushDataAndTlb => (.none, .none, .none)
  | .windowRead => (.none, .none, .none)
  | .windowWrite => (.none, .none, .none)
  | .windowFetchAdd => (.none, .none, .none)
  | .preemptStopAndSave => (.none, .none, .none)
  | .preemptWithNotice => (.none, .none, .none)
  | .restore => (.none, .none, .none)
  | .kill => (.none, .none, .none)
  | .checkpointControlRead => (.none, .none, .none)
  | .checkpointControlWrite => (.none, .none, .none)
  | .raceCountEnable => (.none, .none, .none)
  | .checkpointRestore => (.none, .none, .none)
  | .managementRead => (.none, .none, .none)
  | .managementWrite => (.none, .none, .none)
  | .hotnessEnable => (.none, .none, .none)
  | .freeFramesAdd => (.none, .none, .none)
  | .samplingEnable => (.none, .none, .none)
  | .trialEnable => (.none, .none, .none)
  | .trialDisable => (.none, .none, .none)
  | .managementReset => (.none, .none, .none)
  | .imageWrite => (.none, .none, .none)
  | .imageCommit => (.none, .none, .none)
  | .debugClaim => (.none, .none, .none)
  | .debugRelease => (.none, .none, .none)
  | .armTrace => (.none, .none, .none)
  | .stopPartition => (.none, .none, .none)
  | .resume => (.none, .none, .none)
  | .readDump => (.none, .none, .none)
  | .setWatchpoint => (.none, .none, .none)
  | .copyToPeer => (.none, .none, .none)
  | .copyFromPeer => (.none, .none, .none)
  | .sessionOpen => (.none, .none, .none)
  | .sessionClose => (.none, .none, .none)
  | .createAddressSpace => (.none, .none, .none)
  | .destroyAddressSpace => (.none, .none, .none)
  | .malformedMessage => (.none, .none, .none)

/-- The three operand fields of a word (B and C are absent in the wide form). -/
def Instr.operands (i : Instr) : Opd × Opd × Opd :=
  match i with
  | .nop w => (w.a, w.b, w.c)
  | .braD w => (w.a, .none, .none)
  | .braU w => (w.a, .none, .none)
  | .brx w => (w.a, w.b, w.c)
  | .call w => (w.a, .none, .none)
  | .ret w => (w.a, w.b, w.c)
  | .reform w => (w.a, w.b, w.c)
  | .exit w => (w.a, w.b, w.c)
  | .yield w => (w.a, w.b, w.c)
  | .waitf w => (w.a, w.b, w.c)
  | .trap w => (w.a, w.b, w.c)
  | .bkpt w => (w.a, w.b, w.c)
  | .iadd w _ _ => (w.a, w.b, w.c)
  | .isub w _ _ => (w.a, w.b, w.c)
  | .imul w _ _ => (w.a, w.b, w.c)
  | .imulh w _ => (w.a, w.b, w.c)
  | .imad w _ _ => (w.a, w.b, w.c)
  | .imin w _ => (w.a, w.b, w.c)
  | .imax w _ => (w.a, w.b, w.c)
  | .iabs w _ => (w.a, w.b, w.c)
  | .iadd64 w _ _ => (w.a, w.b, w.c)
  | .imul64 w _ _ => (w.a, w.b, w.c)
  | .lea w _ _ => (w.a, w.b, w.c)
  | .idivn w _ _ _ => (w.a, w.b, w.c)
  | .and w => (w.a, w.b, w.c)
  | .or w => (w.a, w.b, w.c)
  | .xor w => (w.a, w.b, w.c)
  | .andn w => (w.a, w.b, w.c)
  | .bfn3 w => (w.a, w.b, w.c)
  | .shl w => (w.a, w.b, w.c)
  | .shr w _ => (w.a, w.b, w.c)
  | .rotr w => (w.a, w.b, w.c)
  | .bfe w _ => (w.a, w.b, w.c)
  | .bfi w => (w.a, w.b, w.c)
  | .popc w => (w.a, w.b, w.c)
  | .clz w => (w.a, w.b, w.c)
  | .brev w => (w.a, w.b, w.c)
  | .bsel w => (w.a, w.b, w.c)
  | .icmp w _ _ _ => (w.a, w.b, w.c)
  | .sel w _ _ _ => (w.a, w.b, w.c)
  | .mov w => (w.a, w.b, w.c)
  | .movi w => (w.a, .none, .none)
  | .pset w _ _ => (w.a, w.b, w.c)
  | .p2v w => (w.a, w.b, w.c)
  | .v2p w => (w.a, w.b, w.c)
  | .xlane w _ _ _ => (w.a, w.b, w.c)
  | .vote w _ => (w.a, w.b, w.c)
  | .teamid w => (w.a, w.b, w.c)
  | .fadd w => (w.a, w.b, w.c)
  | .fsub w => (w.a, w.b, w.c)
  | .fmul w => (w.a, w.b, w.c)
  | .ffma w => (w.a, w.b, w.c)
  | .fmin w => (w.a, w.b, w.c)
  | .fmax w => (w.a, w.b, w.c)
  | .fcmp w _ _ => (w.a, w.b, w.c)
  | .frnd w _ => (w.a, w.b, w.c)
  | .fchk w => (w.a, w.b, w.c)
  | .fflags w => (w.a, w.b, w.c)
  | .dadd w => (w.a, w.b, w.c)
  | .dmul w => (w.a, w.b, w.c)
  | .dfma w => (w.a, w.b, w.c)
  | .dmin w => (w.a, w.b, w.c)
  | .dmax w => (w.a, w.b, w.c)
  | .dcmp w _ _ => (w.a, w.b, w.c)
  | .drnd w _ => (w.a, w.b, w.c)
  | .hadd2 w _ => (w.a, w.b, w.c)
  | .hmul2 w _ => (w.a, w.b, w.c)
  | .hfma2 w _ => (w.a, w.b, w.c)
  | .hmin2 w _ => (w.a, w.b, w.c)
  | .hmax2 w _ => (w.a, w.b, w.c)
  | .hdot2 w _ => (w.a, w.b, w.c)
  | .idot4 w _ _ => (w.a, w.b, w.c)
  | .rcp w _ => (w.a, w.b, w.c)
  | .rsq w _ => (w.a, w.b, w.c)
  | .sqrt w _ => (w.a, w.b, w.c)
  | .exp2 w => (w.a, w.b, w.c)
  | .log2 w => (w.a, w.b, w.c)
  | .sin w => (w.a, w.b, w.c)
  | .cos w => (w.a, w.b, w.c)
  | .tanh w => (w.a, w.b, w.c)
  | .cvt w _ _ _ => (w.a, w.b, w.c)
  | .cvts w _ _ => (w.a, w.b, w.c)
  | .pack8 w _ _ _ => (w.a, w.b, w.c)
  | .unpack8 w _ => (w.a, w.b, w.c)
  | .cbdec w => (w.a, w.b, w.c)
  | .scale w => (w.a, w.b, w.c)
  | .draw w => (w.a, w.b, w.c)
  | .drawf w => (w.a, w.b, w.c)
  | .drawb w => (w.a, w.b, w.c)
  | .cvpos w => (w.a, w.b, w.c)
  | .cvscore w => (w.a, w.b, w.c)
  | .ld w _ _ _ _ => (w.a, w.b, w.c)
  | .st w _ _ _ _ => (w.a, w.b, w.c)
  | .pref w _ => (w.a, w.b, w.c)
  | .ldk w _ => (w.a, w.b, w.c)
  | .lda w _ _ _ => (w.a, w.b, w.c)
  | .sta w _ _ _ => (w.a, w.b, w.c)
  | .ldc w _ => (w.a, w.b, w.c)
  | .stc w _ => (w.a, w.b, w.c)
  | .atom w _ _ _ => (w.a, w.b, w.c)
  | .cas w _ _ _ => (w.a, w.b, w.c)
  | .red w _ _ _ => (w.a, w.b, w.c)
  | .fred w _ _ _ => (w.a, w.b, w.c)
  | .redobjInit w _ _ _ => (w.a, w.b, w.c)
  | .redobjFold w _ _ _ => (w.a, w.b, w.c)
  | .fence w _ _ => (w.a, w.b, w.c)
  | .cflush w => (w.a, w.b, w.c)
  | .cinv w _ => (w.a, w.b, w.c)
  | .hwsig w _ => (w.a, w.b, w.c)
  | .bcopy w => (w.a, w.b, w.c)
  | .bgath w => (w.a, w.b, w.c)
  | .bscat w => (w.a, w.b, w.c)
  | .tgwait w _ => (w.a, w.b, w.c)
  | .tgany w _ => (w.a, w.b, w.c)
  | .tgfirst w _ => (w.a, w.b, w.c)
  | .tgclr w => (w.a, w.b, w.c)
  | .aslice w => (w.a, w.b, w.c)
  | .qpop w => (w.a, w.b, w.c)
  | .qstat w => (w.a, w.b, w.c)
  | .qend w => (w.a, w.b, w.c)
  | .macq w => (w.a, w.b, w.c)
  | .mrel w => (w.a, w.b, w.c)
  | .gang w => (w.a, w.b, w.c)
  | .resv w => (w.a, w.b, w.c)
  | .rfree w => (w.a, w.b, w.c)
  | .cbld w => (w.a, w.b, w.c)
  | .mma w _ => (w.a, w.b, w.c)
  | .mmas w _ => (w.a, w.b, w.c)
  | .mzero w => (w.a, w.b, w.c)
  | .mdrain w => (w.a, w.b, w.c)
  | .mfill w => (w.a, w.b, w.c)
  | .mwait w => (w.a, w.b, w.c)
  | .mdep w => (w.a, w.b, w.c)
  | .vmma w _ => (w.a, w.b, w.c)
  | .vmmai w => (w.a, w.b, w.c)
  | .vfrag w _ _ => (w.a, w.b, w.c)
  | .bara w => (w.a, w.b, w.c)
  | .barw w => (w.a, w.b, w.c)
  | .baraw w => (w.a, w.b, w.c)
  | .barq w => (w.a, w.b, w.c)
  | .teamj w => (w.a, w.b, w.c)
  | .tenq w _ => (w.a, w.b, w.c)
  | .targ w => (w.a, w.b, w.c)
  | .dcnew w => (w.a, w.b, w.c)
  | .dcdec w => (w.a, w.b, w.c)
  | .dcq w => (w.a, w.b, w.c)
  | .launch w => (w.a, w.b, w.c)
  | .mutl w => (w.a, w.b, w.c)
  | .sproj w => (w.a, w.b, w.c)
  | .ssort w => (w.a, w.b, w.c)
  | .sfetch w _ => (w.a, w.b, w.c)
  | .cdep w => (w.a, w.b, w.c)
  | .cwmark w => (w.a, w.b, w.c)
  | .cread w => (w.a, w.b, w.c)
  | .crlist w => (w.a, w.b, w.c)
  | .cadj w => (w.a, w.b, w.c)
  | .crst w => (w.a, w.b, w.c)
  | .crstRel w => (w.a, w.b, w.c)
  | .rproj w => (w.a, w.b, w.c)
  | .rwlist w => (w.a, w.b, w.c)
  | .trace w _ => (w.a, w.b, w.c)
  | .asupd w => (w.a, w.b, w.c)
  | .asq w => (w.a, w.b, w.c)
  | .tex w => (w.a, w.b, w.c)
  | .tld w => (w.a, w.b, w.c)
  | .imst w _ _ _ => (w.a, w.b, w.c)
  | .imld w _ _ _ => (w.a, w.b, w.c)
  | .srd w _ => (w.a, w.b, w.c)
  | .swr w => (w.a, w.b, w.c)
  | .clk w => (w.a, w.b, w.c)
  | .wtime w => (w.a, w.b, w.c)
  | .sigrd w => (w.a, w.b, w.c)
  | .tretRes w => (w.a, w.b, w.c)
  | .tretRst w => (w.a, w.b, w.c)
  | .tretTerm w => (w.a, w.b, w.c)
  | .tqrd w => (w.a, w.b, w.c)
  | .killg w _ => (w.a, w.b, w.c)
  | .privw w _ => (w.a, w.b, w.c)
  | .mfrz w => (w.a, w.b, w.c)
  | .mfrzThaw w => (w.a, w.b, w.c)
  | .ctxq w => (w.a, w.b, w.c)
  | .progress w => (w.a, w.b, w.c)
  | .mark w => (w.a, w.b, w.c)
  | .stopp w => (w.a, w.b, w.c)
  | _ => (.none, .none, .none)

/-- Guard and hints of a word; an event or a message has none, and ILLZ is never issued. -/
def Instr.ctl? (i : Instr) : Option Ctl :=
  match i with
  | .nop w => some w.ctl
  | .braD w => some w.ctl
  | .braU w => some w.ctl
  | .brx w => some w.ctl
  | .call w => some w.ctl
  | .ret w => some w.ctl
  | .reform w => some w.ctl
  | .exit w => some w.ctl
  | .yield w => some w.ctl
  | .waitf w => some w.ctl
  | .trap w => some w.ctl
  | .bkpt w => some w.ctl
  | .iadd w _ _ => some w.ctl
  | .isub w _ _ => some w.ctl
  | .imul w _ _ => some w.ctl
  | .imulh w _ => some w.ctl
  | .imad w _ _ => some w.ctl
  | .imin w _ => some w.ctl
  | .imax w _ => some w.ctl
  | .iabs w _ => some w.ctl
  | .iadd64 w _ _ => some w.ctl
  | .imul64 w _ _ => some w.ctl
  | .lea w _ _ => some w.ctl
  | .idivn w _ _ _ => some w.ctl
  | .and w => some w.ctl
  | .or w => some w.ctl
  | .xor w => some w.ctl
  | .andn w => some w.ctl
  | .bfn3 w => some w.ctl
  | .shl w => some w.ctl
  | .shr w _ => some w.ctl
  | .rotr w => some w.ctl
  | .bfe w _ => some w.ctl
  | .bfi w => some w.ctl
  | .popc w => some w.ctl
  | .clz w => some w.ctl
  | .brev w => some w.ctl
  | .bsel w => some w.ctl
  | .icmp w _ _ _ => some w.ctl
  | .sel w _ _ _ => some w.ctl
  | .mov w => some w.ctl
  | .movi w => some w.ctl
  | .pset w _ _ => some w.ctl
  | .p2v w => some w.ctl
  | .v2p w => some w.ctl
  | .xlane w _ _ _ => some w.ctl
  | .vote w _ => some w.ctl
  | .teamid w => some w.ctl
  | .fadd w => some w.ctl
  | .fsub w => some w.ctl
  | .fmul w => some w.ctl
  | .ffma w => some w.ctl
  | .fmin w => some w.ctl
  | .fmax w => some w.ctl
  | .fcmp w _ _ => some w.ctl
  | .frnd w _ => some w.ctl
  | .fchk w => some w.ctl
  | .fflags w => some w.ctl
  | .dadd w => some w.ctl
  | .dmul w => some w.ctl
  | .dfma w => some w.ctl
  | .dmin w => some w.ctl
  | .dmax w => some w.ctl
  | .dcmp w _ _ => some w.ctl
  | .drnd w _ => some w.ctl
  | .hadd2 w _ => some w.ctl
  | .hmul2 w _ => some w.ctl
  | .hfma2 w _ => some w.ctl
  | .hmin2 w _ => some w.ctl
  | .hmax2 w _ => some w.ctl
  | .hdot2 w _ => some w.ctl
  | .idot4 w _ _ => some w.ctl
  | .rcp w _ => some w.ctl
  | .rsq w _ => some w.ctl
  | .sqrt w _ => some w.ctl
  | .exp2 w => some w.ctl
  | .log2 w => some w.ctl
  | .sin w => some w.ctl
  | .cos w => some w.ctl
  | .tanh w => some w.ctl
  | .cvt w _ _ _ => some w.ctl
  | .cvts w _ _ => some w.ctl
  | .pack8 w _ _ _ => some w.ctl
  | .unpack8 w _ => some w.ctl
  | .cbdec w => some w.ctl
  | .scale w => some w.ctl
  | .draw w => some w.ctl
  | .drawf w => some w.ctl
  | .drawb w => some w.ctl
  | .cvpos w => some w.ctl
  | .cvscore w => some w.ctl
  | .ld w _ _ _ _ => some w.ctl
  | .st w _ _ _ _ => some w.ctl
  | .pref w _ => some w.ctl
  | .ldk w _ => some w.ctl
  | .lda w _ _ _ => some w.ctl
  | .sta w _ _ _ => some w.ctl
  | .ldc w _ => some w.ctl
  | .stc w _ => some w.ctl
  | .atom w _ _ _ => some w.ctl
  | .cas w _ _ _ => some w.ctl
  | .red w _ _ _ => some w.ctl
  | .fred w _ _ _ => some w.ctl
  | .redobjInit w _ _ _ => some w.ctl
  | .redobjFold w _ _ _ => some w.ctl
  | .fence w _ _ => some w.ctl
  | .cflush w => some w.ctl
  | .cinv w _ => some w.ctl
  | .hwsig w _ => some w.ctl
  | .bcopy w => some w.ctl
  | .bgath w => some w.ctl
  | .bscat w => some w.ctl
  | .tgwait w _ => some w.ctl
  | .tgany w _ => some w.ctl
  | .tgfirst w _ => some w.ctl
  | .tgclr w => some w.ctl
  | .aslice w => some w.ctl
  | .qpop w => some w.ctl
  | .qstat w => some w.ctl
  | .qend w => some w.ctl
  | .macq w => some w.ctl
  | .mrel w => some w.ctl
  | .gang w => some w.ctl
  | .resv w => some w.ctl
  | .rfree w => some w.ctl
  | .cbld w => some w.ctl
  | .mma w _ => some w.ctl
  | .mmas w _ => some w.ctl
  | .mzero w => some w.ctl
  | .mdrain w => some w.ctl
  | .mfill w => some w.ctl
  | .mwait w => some w.ctl
  | .mdep w => some w.ctl
  | .vmma w _ => some w.ctl
  | .vmmai w => some w.ctl
  | .vfrag w _ _ => some w.ctl
  | .bara w => some w.ctl
  | .barw w => some w.ctl
  | .baraw w => some w.ctl
  | .barq w => some w.ctl
  | .teamj w => some w.ctl
  | .tenq w _ => some w.ctl
  | .targ w => some w.ctl
  | .dcnew w => some w.ctl
  | .dcdec w => some w.ctl
  | .dcq w => some w.ctl
  | .launch w => some w.ctl
  | .mutl w => some w.ctl
  | .sproj w => some w.ctl
  | .ssort w => some w.ctl
  | .sfetch w _ => some w.ctl
  | .cdep w => some w.ctl
  | .cwmark w => some w.ctl
  | .cread w => some w.ctl
  | .crlist w => some w.ctl
  | .cadj w => some w.ctl
  | .crst w => some w.ctl
  | .crstRel w => some w.ctl
  | .rproj w => some w.ctl
  | .rwlist w => some w.ctl
  | .trace w _ => some w.ctl
  | .asupd w => some w.ctl
  | .asq w => some w.ctl
  | .tex w => some w.ctl
  | .tld w => some w.ctl
  | .imst w _ _ _ => some w.ctl
  | .imld w _ _ _ => some w.ctl
  | .srd w _ => some w.ctl
  | .swr w => some w.ctl
  | .clk w => some w.ctl
  | .wtime w => some w.ctl
  | .sigrd w => some w.ctl
  | .tretRes w => some w.ctl
  | .tretRst w => some w.ctl
  | .tretTerm w => some w.ctl
  | .tqrd w => some w.ctl
  | .killg w _ => some w.ctl
  | .privw w _ => some w.ctl
  | .mfrz w => some w.ctl
  | .mfrzThaw w => some w.ctl
  | .ctxq w => some w.ctl
  | .progress w => some w.ctl
  | .mark w => some w.ctl
  | .stopp w => some w.ctl
  | _ => none

/-- The types, scopes, orderings and modifier values each instruction accepts (the mod columns of the encoding tables). -/
def Instr.modOk (i : Instr) : Bool :=
  match i with
  | .nop w => !w.ctl.fa && !w.ctl.fb
  | .iadd _ ty _ | .isub _ ty _ | .imul _ ty _ | .imulh _ ty | .imad _ ty _ | .imin _ ty | .imax _ ty | .lea _ ty _
  | .bfe _ ty => decide (ty = .i32 ∨ ty = .n32)
  | .iadd64 _ ty _ | .imul64 _ ty _ => decide (ty = .i64 ∨ ty = .n64)
  | .idivn _ ty _ _ => decide (ty = .i32 ∨ ty = .n32 ∨ ty = .i64 ∨ ty = .n64)
  | .icmp _ ty cmp _ => decide (ty = .i32 ∨ ty = .n32 ∨ ty = .i64 ∨ ty = .n64) && decide (cmp ≠ .ord ∧ cmp ≠ .unord)
  | .pset _ cmp _ => decide (cmp ≠ .ord ∧ cmp ≠ .unord)
  | .sel _ ty _ _ | .xlane _ ty _ _ => decide (ty = .i32 ∨ ty = .i64)
  | .hadd2 _ ty | .hmul2 _ ty | .hfma2 _ ty | .hmin2 _ ty | .hmax2 _ ty | .hdot2 _ ty => decide (ty = .f16 ∨ ty = .bf16)
  | .idot4 _ ty _ => decide (ty = .i8 ∨ ty = .n8)
  | .rcp _ ty | .rsq _ ty | .sqrt _ ty => decide (ty = .f32 ∨ ty = .f64)
  | .cvt _ ty sty sat => decide (ty ≠ .lq2 ∧ ty ≠ .se8) && decide (sty ≠ .lq2) && (!sat || cvtSatOk ty sty)
  | .cvts _ ty _ => decide (ty = .f16 ∨ ty = .bf16 ∨ ty = .f8e4 ∨ ty = .f8e5)
  | .pack8 _ ty _ _ | .unpack8 _ ty => decide (ty = .f8e4 ∨ ty = .f8e5 ∨ ty = .i8 ∨ ty = .n8)
  | .ld _ _ _ ord _ => decide (ord = .rlx ∨ ord = .acq)
  | .st _ _ _ ord _ => decide (ord = .rlx ∨ ord = .rel)
  | .ldk _ ty => decide (ty = .i32 ∨ ty = .n32 ∨ ty = .i64 ∨ ty = .n64 ∨ ty = .f32 ∨ ty = .f64)
  | .lda _ _ sc ord => decide (sc = .th ∨ sc = .pg ∨ sc = .cg) && decide (ord = .rlx ∨ ord = .acq)
  | .sta _ _ sc ord => decide (sc = .th ∨ sc = .pg ∨ sc = .cg) && decide (ord = .rlx ∨ ord = .rel)
  | .ldc _ ty | .stc _ ty => decide (ty = .i32 ∨ ty = .f32)
  | .atom w ty sc _ => decide (sc ≠ .th) && atomTyOk w.c ty
  | .red w ty sc ord => decide (sc ≠ .th) && atomTyOk w.c ty && decide (ord = .rlx ∨ ord = .rel)
  | .cas _ ty sc _ => decide (sc ≠ .th) && decide (ty = .i32 ∨ ty = .n32 ∨ ty = .i64 ∨ ty = .n64)
  | .fred _ ty sc ord => decide (sc ≠ .th) && decide (ty = .f32 ∨ ty = .f64) && decide (ord = .rlx ∨ ord = .rel)
  | .redobjInit _ ty sc _ | .redobjFold _ ty sc _ => decide (sc ≠ .th) && decide (ty = .f32 ∨ ty = .f64)
  | .fence _ _ ord => decide (ord ≠ .rlx)
  | .hwsig _ ty => decide (ty = .i32 ∨ ty = .n32)
  | .mma _ aty => decide (aty = .bf16 ∨ aty = .f16 ∨ aty = .f8e4 ∨ aty = .f8e5 ∨ aty = .i8)
  | .mmas _ aty => decide (aty = .f8e4 ∨ aty = .f8e5)
  | .vmma _ aty => decide (aty = .bf16 ∨ aty = .f16)
  | .vfrag _ aty _ => decide (aty = .bf16 ∨ aty = .f16)
  | .imst _ ty _ ord => decide (ty ≠ .lq2 ∧ ty ≠ .se8) && decide (ord = .rlx ∨ ord = .rel)
  | .imld _ ty _ ord => decide (ty ≠ .lq2 ∧ ty ≠ .se8) && decide (ord = .rlx ∨ ord = .acq)
  | .killg _ sc => decide (sc ≠ .th ∧ sc ≠ .sys)
  | _ => true
where
  /-- Where `.sat` of CVT can change a result (07 R167). -/
  cvtSatOk (dst st : Ty) : Bool :=
    if dst.isFloat then
      (decide (dst = .f16 ∨ dst = .bf16 ∨ dst = .f8e4 ∨ dst = .f8e5) && decide (st ≠ dst)) || decide (dst = .f32 ∧ st = .f64)
    else if st.isFloat || decide (st = .se8) then false
    else
      -- from integer to integer: some source value lies outside the destination range
      let lo (t : Ty) : Int := if t.isSigned then -(2 ^ (t.bits - 1) : Int) else 0
      let hi (t : Ty) : Int := if t.isSigned then 2 ^ (t.bits - 1) - 1 else 2 ^ t.bits - 1
      decide (lo st < lo dst) || decide (hi dst < hi st)
  /-- The type of ATOM and RED against the operation in C (14 R304). -/
  atomTyOk (c : Opd) (ty : Ty) : Bool :=
    match c with
    | .imm x =>
      match AtomOp.ofCode (x.extractLsb' 15 4) with
      | some .fmin | some .fmax => decide (ty = .f32)
      | some _ => decide (ty = .i32 ∨ ty = .n32 ∨ ty = .i64 ∨ ty = .n64)
      | Option.none => false
    | _ => false

/-- The words a launch's mode or queue count shuts out (05 R104, 14 R299). -/
def Instr.launchOk (cx : DecodeCtx) (i : Instr) : Bool :=
  match i with
  | .tenq _ q => cx.taskServer && decide (q.toNat < cx.nq)
  | .targ _ => cx.taskServer
  | .bara _ | .barw _ | .baraw _ | .barq _ | .teamj _ => !cx.taskServer
  | _ => true

/-- A well-formed word of a launch: no check of 02 R45 that looks at one word alone refuses it. ILLZ never is (02 R46);
an event or a message is no word. -/
def Instr.wf (cx : DecodeCtx) (i : Instr) : Bool :=
  i.ctl?.isSome && i.modOk && i.launchOk cx
    && i.kinds.1.accepts cx i.operands.1 && i.kinds.2.1.accepts cx i.operands.2.1 && i.kinds.2.2.accepts cx i.operands.2.2

/-- Variable-latency instructions, which must set a clause flag (02 R38, R42). -/
def Instr.variable (i : Instr) : Bool :=
  match i with
  | .ld .. | .ldk .. | .lda .. | .ldc .. | .tex .. | .tld .. | .imld .. | .atom .. | .cas .. | .draw .. | .drawf ..
  | .drawb .. | .cvts .. | .rcp .. | .rsq .. | .sqrt .. | .exp2 .. | .log2 .. | .sin .. | .cos .. | .tanh .. | .trace ..
  | .sfetch .. | .cread .. | .crlist .. | .tqrd .. => true
  | _ => false

/-- The instructions that file their threads and must stand last in their clause (02 R38, 07 R140, 14 R299). -/
def Instr.lastOnly (i : Instr) : Bool :=
  match i with
  | .braD .. | .braU .. | .brx .. | .call .. | .ret .. | .reform .. | .exit .. | .yield .. | .waitf .. | .barw .. | .baraw ..
  | .teamj .. => true
  | _ => false

/-- The checks of one body word against its header and its place (02 R38). -/
def bodyWordOk (cx : DecodeCtx) (h : Header) (last : Bool) (x : IWord) : Bool :=
  match decodeWord x with
  | .error _ => false
  | .ok i =>
    i.wf cx
      && (match i.ctl? with
          | some c => (!c.fa || decide (h.fa ≠ 15)) && (!c.fb || decide (h.fb ≠ 15)) && (!i.variable || c.fa || c.fb)
          | Option.none => false)
      && (last || !i.lastOnly)

/-- The index of the first offending word of a clause body, counting from the word after the header (02 R45). -/
def firstBadWord (cx : DecodeCtx) (h : Header) (n : Nat) (ws : List IWord) : Option Nat :=
  match ws with
  | [] => Option.none
  | x :: xs => if bodyWordOk cx h xs.isEmpty x then firstBadWord cx h (n + 1) xs else some n

end Sys2Proof
end

