-- ==== Sys2Proof/Machine/Float.lean ====
section
/-! DEFINITION. Floating point (03 R51-R61): values as exact dyadics, exact operations, one rounding at the end. -/

namespace Sys2Proof.Machine

/-- A floating-point format (03 R51): exponent and fraction bits, and whether its top exponent holds infinities (03 R52). -/
structure FFmt where
  e : Nat
  f : Nat
  inf : Bool
deriving DecidableEq, Repr

/-- A floating-point value: `fin neg m x` is ± m × 2^x, zero having m = 0 and a sign. -/
inductive FVal where
  | nan
  | inf (neg : Bool)
  | fin (neg : Bool) (m : Nat) (x : Int)
deriving DecidableEq, Repr

def fmt64 : FFmt := { e := 11, f := 52, inf := true }
def fmt32 : FFmt := { e := 8, f := 23, inf := true }

/-- The format of a floating type (03 R51); other types have none and read as f32. -/
def fmtOf (t : Ty) : FFmt :=
  match t with
  | .f64 => fmt64
  | .f16 => { e := 5, f := 10, inf := true }
  | .bf16 => { e := 8, f := 7, inf := true }
  | .f8e5 => { e := 5, f := 2, inf := true }
  | .f8e4 => { e := 4, f := 3, inf := false }
  | _ => fmt32

def FFmt.bias (k : FFmt) : Nat := 2 ^ (k.e - 1) - 1
/-- Exponent of the smallest normal. -/
def FFmt.emin (k : FFmt) : Int := 1 - (k.bias : Int)
/-- Exponent of the largest finite value. -/
def FFmt.emax (k : FFmt) : Int := if k.inf then k.bias else k.bias + 1
/-- Largest fraction of the top binade. -/
def FFmt.topFrac (k : FFmt) : Nat := if k.inf then 2 ^ k.f - 1 else 2 ^ k.f - 2
/-- The canonical NaN (03 R51). -/
def FFmt.nan (k : FFmt) : Nat := if k.inf then (2 ^ k.e - 1) * 2 ^ k.f + 2 ^ (k.f - 1) else 2 ^ (k.e + k.f) - 1
/-- Bit patterns of infinity, of the largest finite value, and of the sign. -/
def FFmt.infBits (k : FFmt) : Nat := (2 ^ k.e - 1) * 2 ^ k.f
def FFmt.maxBits (k : FFmt) : Nat := (k.emax + k.bias).toNat * 2 ^ k.f + k.topFrac
def FFmt.sign (k : FFmt) (neg : Bool) : Nat := if neg then 2 ^ (k.e + k.f) else 0

/-- The value of a bit pattern (03 R51-R53). -/
def FFmt.value (k : FFmt) (bits : Nat) : FVal :=
  let frac := bits % 2 ^ k.f
  let ex := bits / 2 ^ k.f % 2 ^ k.e
  let neg : Bool := decide (bits / 2 ^ (k.e + k.f) % 2 = 1)
  if ex = 2 ^ k.e - 1 ∧ k.inf then (if frac = 0 then .inf neg else .nan)
  else if ex = 2 ^ k.e - 1 ∧ frac = 2 ^ k.f - 1 then .nan
  else if ex = 0 then .fin neg frac (k.emin - k.f)
  else .fin neg (2 ^ k.f + frac) ((ex : Int) - k.bias - k.f)

/-! Flags (03 R55). -/
def flNv : BitVec 6 := 1
def flDz : BitVec 6 := 2
def flOf : BitVec 6 := 4
def flUf : BitVec 6 := 8
def flNx : BitVec 6 := 16
def flSat : BitVec 6 := 32
def flagIf (b : Bool) (f : BitVec 6) : BitVec 6 := if b then f else 0

/-- Drop `sh` bits of a magnitude, rounding to nearest; `tie` decides a midpoint: to even, or as CVTS draws (03 R57, R60).
`sticky` says that the magnitude stands for a little more than `m`. Returns the rounded number and whether it is inexact. -/
def roundShift (m sh : Nat) (sticky : Bool) (tie : Option Bool) : Nat × Bool :=
  if sh = 0 then (m, sticky)
  else
    let q := m / 2 ^ sh
    let r := m % 2 ^ sh
    let half := 2 ^ (sh - 1)
    let up : Bool :=
      if r = half ∧ sticky = false then
        (match tie with
         | none => decide (q % 2 = 1)
         | some b => b)
      else decide (half ≤ r)
    (if up then q + 1 else q, decide (r ≠ 0) || sticky)

/-- `m × 2^x` in units of `2^u`, rounded. -/
def roundUnits (m : Nat) (x u : Int) (sticky : Bool) (tie : Option Bool) : Nat × Bool :=
  if u ≤ x then (m * 2 ^ (x - u).toNat, sticky) else roundShift m (u - x).toNat sticky tie

/-- Round a nonzero magnitude `m × 2^x` (a little more if `sticky`) into a format (03 R56-R58). `sat` is `rnes`. DESIGN CHOICE (log 106): a
drawn bit that decides ties (R60) also decides a midpoint of the rounding with unbounded exponent that judges underflow. -/
def roundMag (k : FFmt) (sat : Bool) (tie : Option Bool) (neg : Bool) (m : Nat) (x : Int) (sticky : Bool) : Nat × BitVec 6 :=
  let top : Int := x + Nat.log2 m
  -- with the exponent unbounded
  let un := roundUnits m x (top - k.f) sticky tie
  let big := decide (un.1 = 2 ^ (k.f + 1))
  let ue : Int := if big then top + 1 else top
  let frac := if big then 0 else un.1 - 2 ^ k.f
  if decide (k.emax < ue) || (decide (ue = k.emax) && decide (k.topFrac < frac)) then
    ((if sat then k.sign neg + k.maxBits else if k.inf then k.sign neg + k.infBits else k.nan), flOf ||| flNx)
  else if k.emin ≤ top then
    (k.sign neg + ((ue + k.bias).toNat * 2 ^ k.f + frac), flagIf un.2 flNx)
  else
    let sub := roundUnits m x (k.emin - k.f) sticky tie
    (k.sign neg + sub.1, flagIf sub.2 flNx ||| flagIf (sub.2 && decide (ue < k.emin)) flUf)

/-- Round a value into a format (03 R57, R58). -/
def FFmt.roundTie (k : FFmt) (sat : Bool) (tie : Option Bool) (v : FVal) : Nat × BitVec 6 :=
  match v with
  | .nan => (k.nan, 0)
  | .inf neg => if k.inf then (k.sign neg + k.infBits, 0) else (if sat then k.sign neg + k.maxBits else k.nan, flNv)
  | .fin neg m x => if m = 0 then (k.sign neg, 0) else roundMag k sat tie neg m x false

/-- `rne` or `rnes` (02 R47). -/
def FFmt.round (k : FFmt) (v : FVal) : Nat × BitVec 6 := k.roundTie false none v

/-! Exact operations. Each returns the value and whether the operation is invalid (03 R56). -/

/-- Signed mantissa of a finite value in units of `2^u`, `u` not above its exponent. -/
def scaled (neg : Bool) (m : Nat) (x u : Int) : Int := (if neg then -1 else 1) * (m * 2 ^ (x - u).toNat : Nat)

/-- A finite value from a signed mantissa; an exact zero is +0 unless `negZero` (03 R57). -/
def ofScaled (n : Int) (u : Int) (negZero : Bool) : FVal := if n = 0 then .fin negZero 0 0 else .fin (decide (n < 0)) n.natAbs u

def FVal.neg (v : FVal) : FVal :=
  match v with
  | .nan => .nan
  | .inf s => .inf !s
  | .fin s m x => .fin (!s) m x

def addV (a b : FVal) : FVal × Bool :=
  match a, b with
  | .nan, _ | _, .nan => (.nan, false)
  | .inf s, .inf t => if s = t then (.inf s, false) else (.nan, true)
  | .inf s, _ => (.inf s, false)
  | _, .inf s => (.inf s, false)
  | .fin s m x, .fin t n y =>
    let u := min x y
    (ofScaled (scaled s m x u + scaled t n y u) u (s && t && decide (m = 0) && decide (n = 0)), false)

def mulV (a b : FVal) : FVal × Bool :=
  match a, b with
  | .nan, _ | _, .nan => (.nan, false)
  | .inf s, .inf t => (.inf (s != t), false)
  | .inf s, .fin t n _ => if n = 0 then (.nan, true) else (.inf (s != t), false)
  | .fin s m _, .inf t => if m = 0 then (.nan, true) else (.inf (s != t), false)
  | .fin s m x, .fin t n y => (.fin (s != t) (m * n) (x + y), false)

/-- a × b + c, exact (07 R159); 0 × ∞ is invalid whatever the addend. -/
def fmaV (a b c : FVal) : FVal × Bool :=
  let p := mulV a b
  let r := addV p.1 c
  (r.1, p.2 || r.2)

/-- The exact sum of several values (03 R65, R67): infinities of both signs are invalid. -/
def sumV (l : List FVal) : FVal × Bool :=
  let both := l.contains (.inf true) && l.contains (.inf false)
  if both then (.nan, true) else ((l.tail.foldl (fun acc v => (addV acc v).1) (l.headD (.fin false 0 0))), false)

/-- Order of two values, −0 equal to +0; none with a NaN (07 R161). -/
def cmpV (a b : FVal) : Option Ordering :=
  match a, b with
  | .nan, _ | _, .nan => none
  | .inf s, .inf t => some (if s = t then .eq else if s then .lt else .gt)
  | .inf s, _ => some (if s then .lt else .gt)
  | _, .inf t => some (if t then .gt else .lt)
  | .fin s m x, .fin t n y =>
    let u := min x y
    some (compare (scaled s m x u) (scaled t n y u))

def FVal.isNan (v : FVal) : Bool := decide (v = .nan)
def FVal.isNeg (v : FVal) : Bool :=
  match v with
  | .nan => false
  | .inf s => s
  | .fin s _ _ => s
def FVal.isZero (v : FVal) : Bool :=
  match v with
  | .fin _ m _ => decide (m = 0)
  | _ => false
def FVal.isInf (v : FVal) : Bool :=
  match v with
  | .inf _ => true
  | _ => false

/-- FMIN and FMAX on bit patterns (07 R160). -/
def minMaxBits (k : FFmt) (wantMax : Bool) (a b : Nat) : Nat :=
  let va := k.value a
  let vb := k.value b
  if va.isNan && vb.isNan then k.nan
  else if va.isNan then b
  else if vb.isNan then a
  else
    let less : Bool := match cmpV va vb with
      | some .lt => true
      | some .eq => va.isNeg && !vb.isNeg
      | _ => false
    if wantMax then (if less then b else a) else (if less then a else b)

/-- The comparisons of 02 R41 on floats (07 R161): the truth and whether it is invalid. -/
def cmpFloat (c : Cmp) (a b : FVal) : Bool × Bool :=
  match cmpV a b with
  | none =>
    match c with
    | .eq | .ord => (false, false)
    | .ne | .unord => (true, false)
    | .lt | .le | .gt | .ge => (false, true)
  | some o =>
    (match c with
     | .eq => o == .eq
     | .ne => o != .eq
     | .lt => o == .lt
     | .le => o != .gt
     | .gt => o == .gt
     | .ge => o != .lt
     | .ord => true
     | .unord => false, false)

/-- Truncate a magnitude to an integer with the direction of FRND and DRND (07 R158, R162): the integer. -/
def roundInt (rm : RMode) (neg : Bool) (m : Nat) (x : Int) : Nat :=
  if 0 ≤ x then m * 2 ^ x.toNat
  else
    let sh := (-x).toNat
    let q := m / 2 ^ sh
    let r := m % 2 ^ sh
    match rm with
    | .rne => (roundShift m sh false none).1
    | .rz => q
    | .rd => if neg && decide (r ≠ 0) then q + 1 else q
    | .ru => if !neg && decide (r ≠ 0) then q + 1 else q

/-- FRND and DRND (07 R162) on bit patterns. -/
def roundIntegral (k : FFmt) (rm : RMode) (bits : Nat) : Nat :=
  match k.value bits with
  | .nan => k.nan
  | .inf _ => bits
  | .fin neg m x => if m = 0 ∨ 0 ≤ x then bits else (k.round (.fin neg (roundInt rm neg m x) 0)).1

/-! Division and roots: the quotient to more bits than any format holds, with a sticky remainder. -/

/-- Square root of a natural number, digit by digit: `k` bits. -/
def isqrt (k : Nat) (n : Nat) : Nat :=
  match k with
  | 0 => 0
  | j + 1 => isqrtFrom j (if 2 ^ j * 2 ^ j ≤ n then 2 ^ j else 0) n
where
  /-- Decide the bits below a partial root. -/
  isqrtFrom (k r n : Nat) : Nat :=
    match k with
    | 0 => r
    | j + 1 => isqrtFrom j (if (r + 2 ^ j) * (r + 2 ^ j) ≤ n then r + 2 ^ j else r) n

/-- `rne` of a quotient of two nonzero finite values (03 R57). -/
def roundQuot (k : FFmt) (neg : Bool) (m : Nat) (x : Int) (n : Nat) (y : Int) : Nat × BitVec 6 :=
  let sh := 70 + Nat.log2 n
  let q := m * 2 ^ sh / n
  roundMag k false none neg q (x - y - sh) (decide (m * 2 ^ sh % n ≠ 0))

/-- RCP (03 R68): result bits and flags. -/
def rcpBits (k : FFmt) (v : FVal) : Nat × BitVec 6 :=
  match v with
  | .nan => (k.nan, 0)
  | .inf s => (k.sign s, 0)
  | .fin s m x => if m = 0 then (k.sign s + k.infBits, flDz) else roundQuot k s 1 0 m x

/-- Make an exponent even without changing the value. -/
def evenExp (m : Nat) (x : Int) : Nat × Int := if x % 2 = 0 then (m, x) else (m * 2, x - 1)

/-- SQRT (03 R68). -/
def sqrtBits (k : FFmt) (v : FVal) : Nat × BitVec 6 :=
  match v with
  | .nan => (k.nan, 0)
  | .inf s => if s then (k.nan, flNv) else (k.infBits, 0)
  | .fin s m x =>
    if m = 0 then (k.sign s, 0)
    else if s then (k.nan, flNv)
    else
      let e := evenExp m x
      let n := e.1 * 2 ^ 128
      let r := isqrt 100 n
      roundMag k false none false r (e.2 / 2 - 64) (decide (r * r ≠ n))

/-- RSQ (03 R68). -/
def rsqBits (k : FFmt) (v : FVal) : Nat × BitVec 6 :=
  match v with
  | .nan => (k.nan, 0)
  | .inf s => if s then (k.nan, flNv) else (0, 0)
  | .fin s m x =>
    if m = 0 then (k.sign s + k.infBits, flDz)
    else if s then (k.nan, flNv)
    else
      let e := evenExp m x
      let n := 2 ^ 256 / e.1
      let r := isqrt 130 n
      roundMag k false none false r (-(e.2 / 2) - 128) (decide (r * r * e.1 ≠ 2 ^ 256))

/-! Conversions (03 R59). -/

/-- Float to integer of a type (03 R59): the value and flags. -/
def floatToInt (t : Ty) (v : FVal) : Int × BitVec 6 :=
  let lo : Int := if t.isSigned then -(2 ^ (t.bits - 1)) else 0
  let hi : Int := if t.isSigned then 2 ^ (t.bits - 1) - 1 else 2 ^ t.bits - 1
  match v with
  | .nan => (0, flNv)
  | .inf s => (if s then lo else hi, flNv)
  | .fin s m x =>
    let n : Int := (if s then -1 else 1) * (roundInt .rne s m x : Nat)
    if n < lo then (lo, flNv)
    else if hi < n then (hi, flNv)
    else (n, flagIf (decide (x < 0) && decide (m % 2 ^ (-x).toNat ≠ 0)) flNx)

/-- Value of an se8 byte (03 R61). -/
def se8Value (b : Nat) : FVal := if b % 256 = 255 then .nan else .fin false 1 ((b % 256 : Nat) - 127 : Int)

/-- An integer as a value. -/
def intValue (n : Int) : FVal := .fin (decide (n < 0)) n.natAbs 0

end Sys2Proof.Machine
end

