-- ==== Sys2Proof/Machine/State.lean ====
section
/-! DEFINITION. The state of the device as plain data: every piece of state the chapters name, the model's own scheduling
data (agenda, cur, rx, fresh), the reasons a step can stop, and the state after reset. -/

namespace Sys2Proof.Machine

/-- A table keyed by number, keys rising; a key that is not listed has the default its reader names. -/
abbrev Tab (α : Type) := List (Nat × α)

/-- Bytes by address in one canonical form: addresses rising, no entry equal to what an unlisted address reads as. -/
abbrev Memory := List Host.Cell

/-- A thread: its partition group's key and its `tid`. -/
structure ThreadRef where
  pg : Nat
  tid : Nat
deriving DecidableEq, Repr

/-- Where a word stands: its address, its clause's header address, and the body words of that clause (0: the header itself). -/
structure WordAt where
  pc : Nat
  hdr : Nat
  len : Nat
deriving DecidableEq, Repr

/-- A trap queue entry (18 R320), with the header address that delivery keeps for TRET (18 R325) and the number of body words of
that clause (0 for a trap at a header). -/
structure TqEntry where
  cause : BitVec 8
  vahi : BitVec 24
  val : Word
  next : Bool
  defer : Bool
  pc : Nat
  rent : Nat
  tid : Nat
  rgn : Word
  hdr : Nat
  len : Nat
deriving DecidableEq, Repr

/-- A thread's choice state: cursor, counts, pending score and marks (10 R228, R232, R236). -/
structure Cursor where
  cvin : Word
  cvout : Word
  cvorph : Word
  score : Word
  full : Bool
  inexh : Bool
deriving DecidableEq, Repr

/-- What a filed thread waits for (06 R121): waited flags, a region entry, a barrier generation, a team join, a yield count. -/
inductive Wait where
  | ready
  | flags (mask : BitVec 12)
  | region
  | barrier (bar : Nat) (gen : BitVec 16)
  | join
  | yield (n : Nat)
deriving DecidableEq, Repr

/-- Where a thread stands: not started, in an issue group, filed in a bin or on the overflow path (06 R117-R119), parked by a
trap (R120), to be drawn alone at a resume word (18 R325), drawn with its team (14 R303), or ended. -/
inductive Place where
  | empty
  | running (pos : Nat)
  | bin (n : Nat)
  | overflow
  | parked
  | alone
  | team
  | ended
deriving DecidableEq, Repr

/-- A thread's arrival record for one barrier (14 R297): the pending bit and the generation of its last arrival, if it has made one. -/
structure Arrival where
  pend : Bool
  gen : Option (BitVec 16)
deriving DecidableEq, Repr

/-- A thread's own registers and counters (01 R8, 02 R30, R36). -/
structure ThreadCtx where
  regs : List Word
  preds : List Bool
  flags : List Nat
  fflags : BitVec 6
  rgn : Word
  cv : Cursor
  tcause : Word
  tval : Word
  retired : Nat
  traceStat : Word
deriving DecidableEq, Repr

/-- The abandoned words that a thread issues again, one at a time and alone (18 R332), and where it then stands; what it waits for there
stays its own wait. -/
structure Redo where
  words : List WordAt
  place : Place
deriving DecidableEq, Repr

/-- What an issue group still waits for after a word it has issued: ownership of the engine (11 R241), the forming of a gang
(R238), the acceptance of a joint instruction (R239), the end of a REDOBJ (14 R309), lock entries for its engine operations
(09 R211), or the acceptance of a Ladle operation (12 R270, R275). A held group stands at that word. `joined` is `joint` for a thread that has left its
group (18 R332): it waits for every joint instruction of its partition group. -/
inductive Hold where
  | free
  | own
  | gang
  | joint
  | joined
  | result
  | locks
  | ladle
deriving DecidableEq, Repr

/-- A thread. `pc` is the next header, or the word it stands on inside a clause; `hdr` the header of its clause (02 R37);
`rent` its region entry (02 R39); `pos` its stream positions (09 R218); `trap` its undelivered or handled entry (18 R321);
`task` the words of its task record (05 R106); `clock` and `ords` its logical clock (20 R363); `redo` what it issues again after a
stop; `held` is what it still waits for, drawn alone, at a word that its group had issued (18 R332); `born` tells it from a task that had its
place before (05 R95): what was issued before that number is not its own; `seenPg` and `seenCg`, under DSM, which stores of its partition group and its core group a barrier or join has made visible to it: those
issued before these numbers (15 R315). -/
structure Thread where
  ctx : ThreadCtx
  pc : Nat
  hdr : Nat
  rent : Nat
  cvSnap : Cursor
  pos : List Nat
  posSnap : List Nat
  handler : Bool
  timer : Option Nat
  timerDue : Bool
  arr : List Arrival
  place : Place
  wait : Wait
  passed : Bool
  trap : Option TqEntry
  pendTrap : Option TqEntry
  join : Option Nat
  task : List Word
  clock : Nat
  ords : Nat
  redo : Option Redo := none
  held : Hold := .free
  born : Nat := 0
  seenPg : Nat := 0
  seenCg : Nat := 0
deriving DecidableEq, Repr

/-- A barrier (14 R296): its generation, the completed generations not yet released (14 R298), each with the clk (under DSM the
slot) at which it is, and the highest phase of an arrival in the current generation (06 R134). -/
structure Bar where
  gen : BitVec 16
  rels : List (BitVec 16 × Nat)
  phase : Nat
deriving DecidableEq, Repr

/-- An element that a stream has fetched ahead (09 R218, R222): its thread and number, its value or the cause of its fault, its address,
under DSM the slot from which it is present (06 R131), and whether a restore has it fetched again (18 R332). -/
structure QEntry where
  tid : Nat
  elem : Nat
  val : DWord
  cause : BitVec 8
  va : DWord
  at' : Nat := 0
  stale : Bool := false
deriving DecidableEq, Repr

/-- An operand stream of a partition group (09 R218, R219): the descriptor's bytes and the entries fetched ahead. -/
structure Stream where
  active : Bool
  desc : List Byte
  entries : List QEntry
deriving DecidableEq, Repr

/-- A partition group (06 R109): its threads in ascending `tid`, its trap queue (18 R319), whether the head is being handled
(18 R322), its `pb` barriers (14 R295), its streams, its count of joint instructions (11 R239), and of a task server under DSM the phase
in which each slot became free (06 R134). -/
structure PartGroup where
  lid : Nat
  dgid : Nat
  cgid : Nat
  pgid : Nat
  core : Nat
  part : Nat
  base : Nat
  threads : List Thread
  trapq : List TqEntry
  handling : Bool
  bars : List Bar
  streams : List Stream
  joints : Nat
  ended : Bool
  freed : Tab Nat := []
deriving DecidableEq, Repr

/-- A bin (06 R118); its members are the threads whose place it is. -/
structure Bin where
  pg : Nat
  pc : Nat
  age : Nat
  aged : Bool
deriving DecidableEq, Repr

/-- Why a word that could not be performed is tried again: a page waits for a frame (08 R182), an earlier access of its thread to the
same bytes is not performed yet (15 R313), the order log or a clock is full (20 R363), or a unit has no room for it. -/
inductive Again where
  | no
  | frame (va : Nat)
  | order
  | log
  | unit
deriving DecidableEq, Repr

/-- An active issue group (06 R122): its members by ascending `tid`, the address and the fetched words of the rest of its
clause, the stall count (02 R34), the positions that must issue before it after a yield (02 R35), how long it has held its
position (06 R125), the two clk a scoreboard hold costs (02 R34), the clk a causal trial holds it (22 R376),
what an issued word makes it wait for, the threads that have done their part of a word tried again, why its next word has to be tried again, and whether it issues one abandoned word of its thread
again (18 R332). -/
structure Group where
  pg : Nat
  tids : List Nat
  pc : Nat
  hdr : Nat
  header : Header
  words : List IWord
  stall : Nat
  ready : Bool
  yieldFor : List Nat
  held : Nat
  last : Nat
  spacing : Nat
  trial : Nat
  hold : Hold
  did : List Nat
  again : Again := .no
  redo : Bool := false
deriving DecidableEq, Repr

/-- A 128-byte line held by a cache: its physical line number and bytes; for an L2 the remote mark (08 R188), whether an access
under `.nt` allocated it (09 R200), and the distinct core groups that have written it, the first one first and at most three
(20 R366). -/
structure Line where
  line : Nat
  bytes : List Byte
  remote : Bool
  low : Bool
  writers : List Nat
deriving DecidableEq, Repr

/-- A write that a die's L2 has accepted and that is on its way to its home on another die (08 R188): the space, launch and virtual
address it was made through, its line, its bytes at their physical addresses, and the threads whose ordering access it is
(20 R363). -/
structure QWrite where
  id : Nat
  space : Nat
  lid : Nat
  va : Nat
  line : Nat
  parts : List (Nat × List Byte)
  stamps : List ThreadRef
deriving DecidableEq, Repr

/-- A clause fetch that failed (08 R181): the partition group, the header address and the cause. -/
structure FetchFail where
  pg : Nat
  va : Nat
  cause : BitVec 8
deriving DecidableEq, Repr

/-- What a dump shows of a thread of a stopped partition: its registers, predicates and PC as they stood at the stop (22 R382, R386). -/
structure Snap where
  th : ThreadRef
  regs : List Word
  preds : List Bool
  pc : Nat
deriving DecidableEq, Repr

/-- An issue partition: bins, overflow age, active groups by position, instruction cache, what it did this clk, the issue
count behind "least recently" (06 R124), the word it issued last (its address, its threads, its launch; 22 R374), the DSM rotation (06 R132), busy units (02 R43, 11 R258), a debugger's stop with the claimed launches for which it was made and the threads
as they stood then (22 R381, R382), whether a set of overflowed threads may still move in this clk (06 R119), and under
DSM the clause fetches under way, each with its partition group, header address and the slot at which it was asked for (06 R131). -/
structure Partition where
  bins : Tab Bin
  ovAge : Nat
  groups : Tab Group
  icache : List Line
  failed : List FetchFail
  fetches : List (Nat × Nat × Nat)
  issued : Bool
  drew : Bool
  seq : Nat
  lastIssue : Option (Nat × Nat × Nat)
  rot : Nat
  f64Free : Nat
  divFree : Nat
  fragFree : Nat
  stopped : Bool
  caught : List (ThreadRef × TqEntry)
  stopBy : List Nat := []
  snap : List Snap := []
  ovDue : Bool := false
deriving DecidableEq, Repr

/-- The arguments of a trap call (02 R47, 18 R320): cause, value and the high bits of a memory fault's address. With `retry` it is no
trap: a lane of the word has to be tried again, and the word is held (`Trap.again`). -/
structure Trap where
  cause : BitVec 8
  val : Word
  vahi : BitVec 24
  retry : Again := .no
deriving DecidableEq, Repr

/-- A result not yet written (02 R34, 22 R382): registers and values, predicates, the sticky flags to raise with it
(07 R139), the completion flags it counts on (02 R36), and the clk (slot under DSM) it is due. A variable result is `ready`
once its value is known. `holds` marks what REDOBJ holds its group for, `bad` the trap that a REDOBJ takes at delivery
(14 R309), `flagOnly` an entry that stands for completion flags alone, and `win` a window access of a DSM launch, which waits count (19 R345): `owes` one that returns a value, `acq` one with acquire
ordering. -/
structure Pend where
  id : Nat
  th : ThreadRef
  site : WordAt
  isVar : Bool
  ready : Bool
  regs : List Nat
  vals : List Word
  preds : List (Nat × Bool)
  raise : BitVec 6
  cflags : List Nat
  due : Nat
  holds : Bool
  bad : Option Trap
  flagOnly : Bool := false
  win : Bool := false
  owes : Bool := false
  acq : Bool := false
deriving DecidableEq, Repr

/-- An operation of the die's dispatcher, the launch engine or the Whisk (05 R105, R107, R108; 20 R353). -/
inductive TaskOp where
  | tenq (q : Nat) (words : List Word)
  | dcnew (c v : Nat)
  | dcdec (c n : Nat)
  | dcq (c : Nat)
  | launch (record : List Byte)
  | mutl (site : WordAt) (word : Nat) (desc record : List Byte)
deriving DecidableEq, Repr

/-- What a memory access does at its point of coherence (09 R199; 14 R306, R307, R309; 13 R288; 10 R230; 05 R105-R108). A choice record's
header may still need the count of the input header at an address (10 R229). -/
inductive AccKind where
  | load (ty : Ty)
  | store
  | atom (op : AtomOp) (ty : Ty)
  | red (op : AtomOp) (ty : Ty)
  | cas (ty : Ty)
  | fred (ty : Ty)
  | roInit (ty : Ty) (n : Nat)
  | roFold (ty : Ty)
  | node (words : List Word)
  | record (bytes : List Byte) (input : Option Nat)
  | task (op : TaskOp)
deriving DecidableEq, Repr

/-- One lane of an access: its thread, its address, its operand values, the result it owes, the completion flags it counts on. -/
structure Lane where
  tid : Nat
  va : Nat
  val : DWord
  val2 : DWord
  pend : Option Nat
  cflags : List Nat
deriving DecidableEq, Repr

/-- Where an access stands: waiting for a frame (08 R182), on the way to its point of coherence, at the window controller
(08 R191), or abandoned by a stop, to be issued again (18 R332). -/
inductive Stage where
  | frame
  | home
  | window
  | again
deriving DecidableEq, Repr

/-- A memory access in flight: loads and stores are one for each line, everything else one for each address (08 R185). `va` and `pa` are
those of its first lane; `word` tells the accesses of one issued word from others; `key` is the phase and count of 14 R310 of an access
that a DSM launch's homes order; `stuck` an address of the access whose page waits for a frame while it stands at its home. -/
structure Acc where
  id : Nat
  pg : Nat
  core : Nat
  space : Nat
  lid : Nat
  site : WordAt
  kind : AccKind
  va : Nat
  pa : Nat
  bytes : Nat
  nc : Bool
  nt : Bool
  scope : Scope
  ord : MemOrd
  lanes : List Lane
  stage : Stage
  key : Option (Nat × Nat)
  word : Nat
  stuck : Option Nat := none
deriving DecidableEq, Repr

/-- A range-lock entry (09 R210), with the operation that owns it. -/
structure RLock where
  write : Bool
  space : Nat
  slot : Nat
  eng : Nat
  id : Nat
  lo : Nat
  hi : Nat
  owner : Nat
deriving DecidableEq, Repr

/-- The engine operations issued under a tag (09 R214, 11 R248, 12 R266, R268, 13 R284). -/
inductive EngKind where
  | bcopy | bgath | bscat | cbld | sproj | ssort | rproj | rwlist
deriving DecidableEq, Repr

/-- An engine operation: its descriptor bytes (with the index list of a gather or scatter after them) and address, issuer, tag, the
address of its word and a number of that word's issue, its range locks, whether its tag counts it (`counted`) and they are
registered (`accepted`), and for CBLD (11 R248) whether its
read is done and the matrix operations accepted before it; `due` is its completion slot under DSM (06 R131), `row` the rows or splats
that it had done when a stop came (18 R332). -/
structure EngOp where
  id : Nat
  kind : EngKind
  core : Nat
  cg : Nat
  th : ThreadRef
  space : Nat
  tag : Nat
  desc : List Byte
  descVa : Nat
  site : WordAt
  locks : List RLock
  accepted : Bool
  done : Bool
  waits : List Nat
  due : Nat
  row : Nat := 0
  counted : Bool := false
  word : Nat := 0
deriving DecidableEq, Repr

/-- A tag (09 R216). -/
structure TagState where
  count : Nat
  err : BitVec 8
  val : Word
deriving DecidableEq, Repr

/-- A translation in a TLB (08 R173, R179): space, virtual page number in 64 KiB units, pages covered, physical base, bits. -/
structure TlbEntry where
  space : Nat
  vpn : Nat
  large : Bool
  pa : Nat
  nc : Bool
  x : Bool
  w : Bool
  r : Bool
deriving DecidableEq, Repr

/-- A gang of partition groups of a core group (11 R238): the core group's key, the launch's serial number, the members, and in the
ownership queue the clk or slot of the request. -/
structure Gang where
  cg : Nat
  serial : Nat
  members : List Nat
  since : Nat := 0
deriving DecidableEq, Repr

/-- The matrix operations (11 R249, R254). -/
inductive MatKind where
  | mma (aty : Ty) (a sel : Word)
  | mmas (aty : Ty) (a scale sel : Word)
  | zero
  | drain (va : Nat)
  | fill (va : Nat)
deriving DecidableEq, Repr

/-- A matrix operation offered to the engine: its tiles as a mask, its gang and issuer, whether the engine has accepted it, and
the members' group positions that wait for that, since when it has waited or run, and when it completes once started. -/
structure MatOp where
  id : Nat
  kind : MatKind
  tiles : BitVec 16
  gang : Gang
  th : ThreadRef
  core : Nat
  space : Nat
  site : WordAt
  waiters : List (Nat × Nat)
  accepted : Bool
  since : Nat
  due : Option Nat
deriving DecidableEq, Repr

/-- An accumulator tile (11 R253): elements that are not +0 by index 128 i + j, and the status. -/
structure Tile where
  elems : Tab Word
  cause : BitVec 8
  val : BitVec 20
  ovf : Bool
  nv : Bool
deriving DecidableEq, Repr

/-- A decrement armed by MDEP (11 R256): tile, counter, the issuing core group, the operations it waits for. -/
structure Armed where
  tile : Nat
  counter : Nat
  cg : Nat
  ops : List Nat
deriving DecidableEq, Repr

/-- The matrix engine of a core (11 R241-R257). -/
structure Engine where
  owner : Option Gang
  queue : List Gang
  last : Option Gang
  lastEnded : Bool
  readyAt : Nat
  nextStart : Nat
  ops : List MatOp
  frozenM : Option Nat
  frozenP : Bool
  tiles : Tab Tile
  armed : List Armed
deriving DecidableEq, Repr

/-- A W-buffer reservation (11 R244, R246). -/
structure Resv where
  cg : Nat
  off : Nat
  len : Nat
  fmt : Nat
  blk : Nat
  sfmt : Nat
  scale : Nat
  npan : Nat
  clearing : Bool
deriving DecidableEq, Repr

/-- A term held in a Ladle insertion buffer (12 R272). -/
structure Term where
  pix : Nat
  key : Word
  idx : Word
  alpha : Word
  r : Word
  g : Word
  b : Word
deriving DecidableEq, Repr

/-- A claimed Ladle slot (12 R270, R274); `owner` is the owner of its locks and pins. -/
structure LadleSlot where
  cg : Nat
  space : Nat
  list : Nat
  state : Nat
  ordered : Bool
  terms : List Term
  mark : Option Word
  owner : Nat := 0
deriving DecidableEq, Repr

/-- A traversal that waits on an odd node (13 R286, R287): the node to read next and the rest
of its stack, its results so far, and when it reads the node again; `idle` marks one that a stop has abandoned (18 R332), `stuck` one that waits for a frame. -/
structure Trav where
  id : Nat
  th : ThreadRef
  pc : Nat
  space : Nat
  core : Nat
  root : Nat
  ray : List Word
  any : Bool
  stack : List Nat
  best : List Word
  visited : Nat
  refetched : Nat
  waits : Nat
  pend : Nat
  due : Nat
  idle : Bool := false
  stuck : Bool := false
deriving DecidableEq, Repr

/-- What a Ladle operation does to its slot (12 R270-R277): deposit a term, raise the watermark, read a pixel, read a list entry by pixel
and number, claim the slot with a tile descriptor for an owner of locks and pins, or release it. -/
inductive LadleKind where
  | deposit (t : Term)
  | mark (key : Word)
  | pixel (p : Nat)
  | entry (p j : Nat)
  | claim (desc : List Byte) (owner : Nat)
  | release
deriving DecidableEq, Repr

/-- A Ladle operation that has been issued and is not accepted yet (12 R276): its thread, core group and partition, the word it stands for
and that word's place, the slot, the result or completion it owes, the clk of its issue or under DSM the slot of its acceptance (06
R131), and whether it has been tried and must wait. -/
structure LadleOp where
  th : ThreadRef
  cg : Nat
  part : Nat
  word : Nat
  site : WordAt
  slot : Nat
  kind : LadleKind
  pend : Option Nat
  due : Nat
  waits : Bool
deriving DecidableEq, Repr

/-- A logical core: slots, carve-out (08 R193), TLB and caches (08 R179, R187; 09 R201), buffers (08 R192), locks, engine,
reservations, Ladle with the operations it has not accepted yet and the clk (plus 1) and partition of the last one outside DSM (12 R276), frame reserve (08 R183), hotness counter and the samples it owes (08 R194), and the translations that its engines' operations pin, each with
its owner as in a range lock (08 R183). -/
structure Core where
  carve : Nat
  tlb : List TlbEntry
  l1 : List Line
  kcache : List Line
  abuf : Memory
  wbuf : Memory
  locks : List RLock
  eng : Engine
  resv : Tab Resv
  ladle : Tab LadleSlot
  reserve : List Nat
  hsCount : Nat
  hsDue : List (Nat × Nat × Nat × Bool)
  ladleQ : List LadleOp := []
  ladleAt : Nat × Nat := (0, 0)
  pins : List (Nat × TlbEntry) := []
deriving DecidableEq, Repr

/-- A dependence counter (05 R98): value, error bit. Its held list is the queue records that name it. -/
structure Counter where
  value : Nat
  err : Bool
deriving DecidableEq, Repr

/-- A demand-zero leaf whose `pte.busy` a die has set while it waits for a frame (08 R182): where the entry lies, the page it was reached
for, and what the entry said when the bit was set. -/
structure BusyLeaf where
  pte : Nat
  space : Nat
  page : Nat
  nc : Bool
  x : Bool
  w : Bool
  r : Bool
deriving DecidableEq, Repr

/-- The memory control block of a die (08 R184); `short` is whether its shortage of frames has been reported since the ring was last
written (08 R182, log 12), `busy` the leaves that it waits to fill. -/
structure Mcb where
  hsEn : Bool
  hsK : Nat
  hsLsize : Nat
  hsBase : Nat
  hsWr : Word
  hsRd : Word
  hsLost : Word
  flBase : Nat
  flLsize : Nat
  flWr : Word
  flRd : Word
  flNofr : Word
  short : Bool
  busy : List BusyLeaf
deriving DecidableEq, Repr

/-- The stall-sampling block of a die (22 R373), with the clk since `sm.en` was set, under DSM the slot at which each core group stood
then, and the count at which each partition was last sampled. -/
structure SmBlock where
  en : Bool
  k : Nat
  lsize : Nat
  base : Nat
  wr : Word
  rd : Word
  lost : Word
  clk : Nat
  slots : Tab Nat
  sampled : Tab Nat
deriving DecidableEq, Repr

/-- An operation that has arrived at a die's task dispatcher in this clk (05 R98): the core it came from, its launch, die group and
thread, and the result it owes. -/
structure DispOp where
  core : Nat
  lid : Nat
  dg : Nat
  th : ThreadRef
  pend : Option Nat
  op : TaskOp
deriving DecidableEq, Repr

/-- A compute die: its TLB, L2 and remote write queue (08 R188), what has arrived at its dispatcher, control blocks, counters
(05 R98). -/
structure Die where
  tlb : List TlbEntry
  l2 : List Line
  wq : List QWrite
  disp : List DispOp
  mcb : Mcb
  sm : SmBlock
  counters : Tab Counter
deriving DecidableEq, Repr

/-- DSM state of a core group (06 R131-R134): slot counter, whether it has advanced this clk, the phase it may run to, the
results and deliveries due by slot, and its count of keyed accesses (14 R310). -/
structure Dsm where
  slot : Nat
  advanced : Bool
  limit : Nat
  phaseDone : Bool
  due : List (Nat × Nat)
  seq : Nat
deriving DecidableEq, Repr

/-- What a restored core group's gang brings to the engine of its new core (11 R257, 18 R332-R334): the members, whether the gang
owned the engine at the stop or was its last owner, whether the group had frozen it, its tiles, its held operations and armed
decrements, and how long the engine was still clearing its tiles. -/
structure EngImage where
  members : List Nat
  owned : Bool
  wait : Nat
  frozen : Bool
  tiles : Tab Tile
  ops : List MatOp
  armed : List Armed
deriving DecidableEq, Repr

/-- One member's word at the rendezvous latch (11 R239), with the clk or slot of its arrival. -/
structure Latched where
  pgid : Nat
  tid : Nat
  pos : Nat
  site : WordAt
  kind : MatKind
  tiles : BitVec 16
  since : Nat
deriving DecidableEq, Repr

/-- A core group: its core and slot (06 R111), tags, codebook (11 R248), `cb` barriers, gangs, the partition groups that wait for one with their masks and when they asked, the latch (11 R238, R239),
its clk (18 R335), its DSM state, and after a restore what its gang has still to bring back to the engine. -/
structure CoreGroup where
  lid : Nat
  dgid : Nat
  cgid : Nat
  core : Nat
  slot : Nat
  tags : Tab TagState
  codebook : Tab Word
  bars : List Bar
  gangs : List (List Nat)
  gangAsk : List (Nat × Word)
  gangAt : Tab Nat := []
  latch : List Latched
  clk : Nat
  dsm : Dsm
  engBack : Option EngImage
  killed : Bool
  ended : Bool
deriving DecidableEq, Repr

/-- A task record in a queue (05 R96-R99): its ring slot and words, the counter that holds it, when it became ready, under DSM in which
phase (06 R134), and whether its ring slot is still to be written because its page waits for a frame (08 R182). -/
structure QRec where
  slot : Nat
  words : List Word
  held : Option Nat
  seq : Nat
  phase : Nat := 0
  unwritten : Bool := false
deriving DecidableEq, Repr

/-- The fields of a launch record (05 R87). -/
structure LaunchRec where
  entry : Nat
  trapvec : Nat
  status : Nat
  ndg : Nat
  ncg : Nat
  npg : Nat
  nthr : Nat
  age : Nat
  full : Nat
  taskServer : Bool
  retry : Nat
  relaunch : Bool
  idem : Bool
  dsm : Bool
  carve : Nat
  regs8 : Nat
  cvin : Nat
  cvout : Nat
  cvmode : Nat
  cvstride : Nat
  pdcV : Bool
  pdc : Nat
  cvkey : DWord
  pr : List (Nat × Nat)
  nq : Nat
  dccnt : Nat
  ver : Nat
  queues : List (Nat × Nat)
  consts : List Word
  roles : List (BitVec 16)
  task : List Word
deriving DecidableEq, Repr

/-- Whether a launch runs, is being stopped, or is saved (18 R331, R337). -/
inductive RunState where
  | running
  | notice (deadline : Nat) (ctx : Nat)
  | stopping (ctx : Nat)
  | saved
deriving DecidableEq, Repr

/-- A live launch (05 R92-R95): its instance number, record, address space, the serial number of the session that submitted it or
its first ancestor (09 R209), privilege (18 R344), the thread and die a counter decrement goes back to (R94), signature (20 R357), the
status fields (R94), restores (18 R343), the lead distance D and the phase of the dispatcher operation applied last (06 R134), its dies by die group, core groups placed, the base
of its counter window per die group, its queues, its die and grid barriers, and the connections and tags of the
pre-empt messages that await its stop. -/
structure Launch where
  serial : Nat
  lr : LaunchRec
  space : Nat
  sess : Nat
  priv : Bool
  parent : Option ThreadRef
  parentSerial : Nat
  whisk : Bool
  sig : List Word
  out : BitVec 8
  cause : BitVec 8
  retries : Nat
  disc : Nat
  term : Nat
  restores : Nat
  dist : Nat
  phase : Nat := 0
  dies : List Nat
  placed : List Nat
  dcBase : List Nat
  queues : Tab (List QRec)
  bars : Tab Bar
  run : RunState
  ask : List (Nat × Word)
deriving DecidableEq, Repr

/-- A Whisk job (20 R351-R355) with what its child takes from the launch that asked: space, session, privilege; `site` and
`word` are the word of its MUTL and the number of that word's issue (22 R383). -/
structure Job where
  desc : List Byte
  record : List Byte
  th : ThreadRef
  site : WordAt
  word : Nat
  lid : Nat
  serial : Nat
  space : Nat
  sess : Nat
  priv : Bool
  child : Option (Nat × Nat)
  done : Option (BitVec 8)
deriving DecidableEq, Repr

/-- A record waiting at the launch engine (05 R91): its bytes, who sent it, and where the answer goes. -/
inductive Answer where
  | message (conn : Nat) (tag : Word)
  | thread (th : ThreadRef) (pend : Nat)
  | job (num : Nat)
deriving DecidableEq, Repr

structure Submit where
  record : List Byte
  space : Nat
  sess : Nat
  priv : Bool
  parent : Option ThreadRef
  parentSerial : Nat
  answer : Answer
deriving DecidableEq, Repr

/-- A watchpoint (22 R383). -/
structure Watch where
  lo : Nat
  hi : Nat
  mask : BitVec 4
deriving DecidableEq, Repr

/-- An armed trace buffer (22 R379). -/
structure TraceBuf where
  va : Nat
  lsize : Nat
  mask : BitVec 6
  overwrite : Bool
  written : Nat
deriving DecidableEq, Repr

/-- A debugger's claim of a launch (22 R384, R385); `lost` is `tb.lost`, and `reclaimed` the kinds of a trace buffer that a flush has
reclaimed (22 R379). -/
structure Claim where
  conn : Nat
  mask : BitVec 3
  watches : Tab Watch
  trace : Option TraceBuf
  reclaimed : BitVec 6
  lost : Word
deriving DecidableEq, Repr

/-- An engine write that matched a watchpoint and whose trap waits for the issuer's next header (22 R383); `word` is the number of its
operation's issue. -/
structure Deferred where
  id : Nat
  th : ThreadRef
  site : WordAt
  va : Nat
  word : Nat
deriving DecidableEq, Repr

/-- Everything a checkpoint or a context image holds of the work (18 R333, 20 R358): memory, the window, launches, groups,
what is in flight, the units' state, the logs' clocks. -/
structure World where
  mem : Memory
  window : Memory
  launches : Tab Launch
  cgs : Tab CoreGroup
  pgs : Tab PartGroup
  parts : Tab Partition
  cores : Tab Core
  dies : Tab Die
  pends : List Pend
  accs : List Acc
  ops : List EngOp
  travs : List Trav
  jobs : Tab Job
  submits : List Submit
  deferred : List Deferred
  claims : Tab Claim
  lineClocks : Tab Nat
  nextId : Nat
deriving DecidableEq, Repr

/-- A session (24 R392, R393) by its connection, with its logical clock (20 R363); `serial` tells it from every other session ever open. Connections are numbered (log 48): bit 0 is 0 for
reliable ordered and 1 for reliable unordered delivery, bits [3:1] the port; the unordered connection n + 1 belongs to the session of
the ordered connection n. -/
structure Session where
  number : Nat
  serial : Nat
  management : Bool
  space : Option Nat
  clock : Nat
  ords : Nat
deriving DecidableEq, Repr

/-- An address space (24 R394): its root table and its access list. -/
structure Space where
  root : Nat
  access : List DWord
deriving DecidableEq, Repr

/-- A message of the device (24 R389, 09 R209, 22 R385). -/
structure OutMsg where
  conn : Nat
  cls : BitVec 8
  op : BitVec 7
  tag : Word
  addr : DWord
  payload : List Byte
deriving DecidableEq, Repr

/-- A signal message not yet sent (09 R209): the serial number of the session that submitted the launch, the launch's space and
identifier, the window offset and the value. -/
structure Signal where
  sess : Nat
  space : Nat
  lid : Nat
  off : Nat
  val : Word
deriving DecidableEq, Repr

/-- An image slot of module flash (04 R75, R76). -/
structure FlashSlot where
  bytes : List Byte
  signed : Bool
  version : Nat
deriving DecidableEq, Repr

/-- Readings of the module's surroundings that the management controller acts on (04 R74, R82-R85): plain inputs. `tamper` is the
enclosure's input, `tamperLatch` its latch, which phase 2 reads. -/
structure Env where
  supplyOk : Bool
  seOk : Bool
  tamper : Bool
  tamperLatch : Bool
  seTamper : Bool
  memFail : BitVec 8
  coreFail : List (Nat × Nat)
  ports : BitVec 8
  clockOk : Bool
  junction : Nat
  powerMw : Nat
deriving DecidableEq, Repr

/-- The addresses of a port (24 R387): IPv4, IPv6 and UET fabric endpoint; in the safe talkative state port 0 has an IPv6 link-local
address alone (04 R80). -/
structure PortAddr where
  v4 : Option (BitVec 32)
  v6 : BitVec 128
  fabric : Option DWord
deriving DecidableEq, Repr

/-- The bring-up status word and the management controller (04 R74-R85). `slots` is module flash, `counter` the secure
element's; `alarms` the record of alarms and `raised` the asserted sources whose alarm has been raised; `policy` the level per source;
`wrapLost` whether the secure element has destroyed its wrapping key (R82); `overCap` whether the power has exceeded the cap and not
fallen below it since (R84); `addrs` the addresses of the ports that have any (24 R387). -/
structure Mgmt where
  powered : Bool
  phase : Nat
  cause : BitVec 5
  die : BitVec 8
  spares : Nat
  slot : Nat
  alarm : Bool
  ready : Bool
  safe : Bool
  statusOnly : Bool
  ports : BitVec 8
  slots : List FlashSlot
  erased : Bool
  counter : Nat
  keysLoaded : Bool
  coreMap : List (List Nat)
  policy : List Nat
  alarms : List AlarmSource
  raised : List AlarmSource
  wrapLost : Bool
  authFails : Nat
  capMw : Nat
  overCap : Bool
  throttling : Bool
  addrs : Tab PortAddr
deriving DecidableEq, Repr

/-- Counts and events of the management status (18 R338, 24 R388, 09 R209). -/
structure MgmtCounts where
  ecc : Nat
  refusedModes : Nat
  droppedSignals : Nat
  events : List (Nat × Nat)
deriving DecidableEq, Repr

/-- The replay control block (20 R362). -/
structure ReplayBlock where
  tier : DWord
  t : Nat
  late : Word
  num : DWord
  olBase : Nat
  olLsize : Nat
  olWr : Word
  olLost : Word
  rcBase : Nat
  rcLsize : Nat
  rcLaunch : Nat
  rcEn : Bool
  rcWr : Word
  rcRd : Word
  rcLost : Word
deriving DecidableEq, Repr

/-- An order-log record (20 R364). -/
structure LogRec where
  type : Nat
  launch : Nat
  who : Nat
  seq : Nat
  val : Nat
deriving DecidableEq, Repr

/-- A context image in memory (18 R333): where it lies and what it holds. -/
structure Image where
  va : Nat
  space : Nat
  lid : Nat
  world : World
  notice : Bool
deriving DecidableEq, Repr

/-- A checkpoint (20 R358): its number, the world it holds with the context images in memory and the address spaces, the clk and the
model's counter of free values at it, how many of the interval's actions (`State.logData`) came before it, whether the log of the
interval before it overflowed and that log's records, which are copied with it (R364), the frames that it copies and those of them still
pending, as ranges of frame numbers; `valid` once its commit record is acknowledged. -/
structure Ckpt where
  num : Nat
  world : World
  images : List Image
  spaces : Tab Space
  clk : Nat
  fresh : Nat
  mark : Nat
  lost : Bool
  recs : List LogRec
  frames : List (Nat × Nat)
  pending : List (Nat × Nat)
  valid : Bool
deriving DecidableEq, Repr

/-- The trial block and the running window (22 R376, R377). -/
structure Trial where
  lo : Nat
  hi : Nat
  launch : Nat
  d : Nat
  en : Bool
  stopReq : Bool
  win : Nat
  e : Nat
  nwin : Word
  base : List Word
  trial : List Word
  inTrial : Bool
  left : Nat
  counters : List Word
deriving DecidableEq, Repr

/-- What an address comes to (08 R174): the window at an offset, DRAM at a physical address, a demand-zero leaf, or a failure
with its trap cause. -/
inductive Target where
  | window (off : Nat)
  | dram (pa : Nat) (nc : Bool)
  | demand
  | fail (cause : BitVec 8)
deriving DecidableEq, Repr

/-- The issue group whose word is executed: partition and position; while it is executed, a number of the word's own, the lines it
has requested, each with its kind (08 R194), and the pages it has translated, each with the address that named it and the need (08 R185). -/
structure Cur where
  part : Nat
  pos : Nat
  word : Nat := 0
  lines : List (Nat × Nat) := []
  pages : List (Nat × Need × Target) := []
deriving DecidableEq, Repr

/-- One choice of what happens next (log 2): an event row, the arrival of a message's bytes on a connection, the issue of one
group's next word, the passing of a clk, or a change of the module's surroundings. -/
inductive Action where
  | event (i : Instr)
  | message (conn : Nat) (bytes : List Byte)
  | issue (c : Cur)
  | tick
  | environment (e : Env)
deriving DecidableEq, Repr

/-- A replay (18 R338, R339): the logged actions not yet replayed, the next one first, and the order-log records of the interval that
have not been met again (20 R365). -/
structure Replay where
  left : List Action
  recs : List LogRec := []
deriving DecidableEq, Repr

/-- The issue group's word being executed, with what it belongs to: partition and position, keys of its partition group and
core group, core, launch, space, the word's address, its clause's header address and header. -/
structure Issue where
  part : Nat
  pos : Nat
  pg : Nat
  cg : Nat
  core : Nat
  lid : Nat
  space : Nat
  pc : Nat
  hdr : Nat
  header : Header
  tids : List Nat
deriving DecidableEq, Repr

/-- What one thread's lane of a register instruction gives: registers and their values, predicates, flags to raise. -/
structure LaneOut where
  regs : List Nat
  vals : List Word
  preds : List (Nat × Bool)
  raise : BitVec 6
deriving DecidableEq, Repr

/-- How a table walk ends (08 R175-R178): a page with its entry's address and bits, a demand-zero leaf, or type 0. -/
inductive WalkEnd where
  | page (pte pa : Nat) (large nc x w r acc : Bool)
  | demand (pte : Nat) (nc x w r busy : Bool)
  | invalid
deriving DecidableEq, Repr

/-- The device. `ckptAt` is the clk from which the next checkpoint is due (20 R358), `ckptForced` whether a full log or clock asks for one (R363,
R364), `logLost` whether the interval's log has overflowed, `logOff` how many bytes of host data it holds; `inbox` holds messages that
have arrived and are not performed yet (24 R395); `logData` lists what has happened since the start of the last valid checkpoint, the last
action first.
`peerOut` lists what has been written to peers: their fabric address, the virtual address, the bytes (24 R390).
`ckptStop` says that a checkpoint has stopped the launches and waits for their stop units (20 R358); `dirty` lists the frames written
since the last checkpoint began, as ranges of frame numbers: every frame before the first one after phase 6 (R358, R359).
`agenda` (log 2) says which events come next, in order; `cur` and `rx` are set by step for the row it executes;
`fresh` is the model's counter for free values (log 7). -/
structure State where
  w : World
  clk : Nat
  phase6 : Nat
  mgmt : Mgmt
  counts : MgmtCounts
  env : Env
  sessions : Tab Session
  spaces : Tab Space
  inbox : List (Nat × List Byte)
  outbox : List OutMsg
  signals : List Signal
  rb : ReplayBlock
  ckpts : List Ckpt
  ckptAt : Nat
  ckptForced : Bool
  ckptStop : Bool := false
  dirty : List (Nat × Nat) := []
  interval : Nat
  log : List LogRec
  logLost : Bool
  logOff : Nat
  logData : List Action
  replay : Option Replay
  images : List Image
  nextSerial : Nat
  nextSession : Nat
  trial : Trial
  peerOut : List (Nat × Nat × List Byte)
  agenda : List Action
  cur : Option Cur
  rx : Msg
  fresh : Nat
deriving DecidableEq, Repr

/-- Why a step stops the machine. None of the chapters' situations needs one: traps, containment, refused launches and failed
bring-up are all next states. -/
inductive Fault where
  /-- Raised by step when the device has no power and nothing is on the agenda (04 R83); safe: nothing executes. -/
  | unpowered
deriving DecidableEq, Repr

/-- Why an instruction has no meaning. -/
inductive Refusal where
  /-- Raised by a Dispatch arm that is not written yet, with the row's mnemonic; safe: nothing is claimed of it. -/
  | notModelled (mnemonic : String)
deriving DecidableEq, Repr

def Cursor.init : Cursor := { cvin := 0, cvout := 0, cvorph := 0, score := 0, full := false, inexh := false }

def Bar.init : Bar := { gen := 0, rels := [], phase := 0 }

def Stream.init : Stream := { active := false, desc := [], entries := [] }

def TagState.init : TagState := { count := 0, err := 0, val := 0 }

def Tile.init : Tile := { elems := [], cause := 0, val := 0, ovf := false, nv := false }

def Engine.init : Engine :=
  { owner := none, queue := [], last := none, lastEnded := false, readyAt := 0, nextStart := 0, ops := [], frozenM := none,
    frozenP := false, tiles := [], armed := [] }

def Core.init : Core :=
  { carve := 0, tlb := [], l1 := [], kcache := [], abuf := [], wbuf := [], locks := [], eng := Engine.init, resv := [],
    ladle := [], reserve := [], hsCount := 0, hsDue := [] }

/-- The reset column of 08 R184. -/
def Mcb.init : Mcb :=
  { hsEn := false, hsK := 10, hsLsize := 12, hsBase := 0, hsWr := 0, hsRd := 0, hsLost := 0, flBase := 0, flLsize := 12,
    flWr := 0, flRd := 0, flNofr := 0, short := false, busy := [] }

/-- The reset column of 22 R373. -/
def SmBlock.init : SmBlock :=
  { en := false, k := 12, lsize := 12, base := 0, wr := 0, rd := 0, lost := 0, clk := 0, slots := [], sampled := [] }

def Die.init : Die := { tlb := [], l2 := [], wq := [], disp := [], mcb := Mcb.init, sm := SmBlock.init, counters := [] }

def Partition.init : Partition :=
  { bins := [], ovAge := 0, groups := [], icache := [], failed := [], fetches := [], issued := false, drew := false, seq := 0, lastIssue := none, rot := 0,
    f64Free := 0, divFree := 0, fragFree := 0, stopped := false, caught := [] }

def Dsm.init : Dsm := { slot := 0, advanced := false, limit := 0, phaseDone := false, due := [], seq := 0 }

/-- DESIGN CHOICE (log 5): a module with a valid image of version 1 in slot 0, healthy readings, all ports able to train. -/
def Env.init : Env :=
  { supplyOk := true, seOk := true, tamper := false, tamperLatch := false, seTamper := false, memFail := 0, coreFail := [], ports := 0xFF, clockOk := true,
    junction := 25, powerMw := 0 }

def FlashSlot.empty : FlashSlot := { bytes := [], signed := false, version := 0 }

/-- Power-good has just come (04 R74, R79): phase 0 entered, every field of the status word zero; default policies of R82. -/
def Mgmt.init : Mgmt :=
  { powered := true, phase := 0, cause := 0, die := 0, spares := 0, slot := 0, alarm := false, ready := false, safe := false,
    statusOnly := false, ports := 0, slots := [{ bytes := [], signed := true, version := 1 }, FlashSlot.empty], erased := false,
    counter := 0, keysLoaded := false, coreMap := [], policy := [2, 3, 1, 1, 1, 0],
    alarms := [], raised := [], wrapLost := false, authFails := 0, capMw := 3200000, overCap := false, throttling := false, addrs := [] }

def MgmtCounts.init : MgmtCounts := { ecc := 0, refusedModes := 0, droppedSignals := 0, events := [] }

/-- The reset column of 20 R362; `cp.tier` DESIGN CHOICE 0 (log 5). -/
def ReplayBlock.init : ReplayBlock :=
  { tier := 0, t := 50, late := 0, num := 0, olBase := 0, olLsize := 20, olWr := 0, olLost := 0, rcBase := 0, rcLsize := 12,
    rcLaunch := 0, rcEn := false, rcWr := 0, rcRd := 0, rcLost := 0 }

/-- The reset column of 22 R377. -/
def Trial.init : Trial :=
  { lo := 0, hi := 0, launch := 0, d := 0, en := false, stopReq := false, win := 0, e := 0, nwin := 0,
    base := List.replicate 12 0, trial := List.replicate 12 0, inTrial := false, left := 0, counters := List.replicate 12 0 }

def Msg.init : Msg := { conn := 0, cls := 0, op := 0, big := false, tag := 0, addr := 0, payload := [] }

def World.init : World :=
  { mem := [], window := [], launches := [], cgs := [], pgs := [], parts := [], cores := [], dies := [], pends := [],
    accs := [], ops := [], travs := [], jobs := [], submits := [], deferred := [], claims := [], lineClocks := [], nextId := 0 }

/-- The device right after reset: power-good has come and bring-up stands in phase 0 (04 R74, log 4). -/
def State.reset : State :=
  { w := World.init, clk := 0, phase6 := 0, mgmt := Mgmt.init, counts := MgmtCounts.init, env := Env.init, sessions := [],
    spaces := [], inbox := [], outbox := [], signals := [], rb := ReplayBlock.init, ckpts := [], ckptAt := 0, ckptForced := false, interval := 0, log := [],
    logLost := false, logOff := 0, logData := [], replay := none, images := [], nextSerial := 0, nextSession := 1, trial := Trial.init, peerOut := [],
    agenda := [], cur := none, rx := Msg.init, fresh := 0 }

end Sys2Proof.Machine
end

