-- ==== Sys2Proof/Machine/Base.lean ====
section
/-! DEFINITION. Tables keyed by number, small list helpers, and the reading and updating of each table of State. -/

namespace Sys2Proof.Machine

/-- The entry of a table at a key. -/
def tget? {α : Type} (t : Tab α) (k : Nat) : Option α :=
  match t with
  | [] => none
  | (j, v) :: r => if j = k then some v else tget? r k

/-- The entry of a table at a key, or a default. -/
def tget {α : Type} (t : Tab α) (k : Nat) (d : α) : α := (tget? t k).getD d

/-- Set the entry at a key, keys rising. -/
def tput {α : Type} (t : Tab α) (k : Nat) (v : α) : Tab α :=
  match t with
  | [] => [(k, v)]
  | (j, u) :: r => if k < j then (k, v) :: (j, u) :: r else if k = j then (k, v) :: r else (j, u) :: tput r k v

/-- Remove the entry at a key. -/
def tdel {α : Type} (t : Tab α) (k : Nat) : Tab α := t.filter fun e => e.1 != k

/-- Change the entry at a key; a key that is not listed starts from the default. -/
def tupd {α : Type} (t : Tab α) (k : Nat) (d : α) (f : α → α) : Tab α := tput t k (f (tget t k d))

/-- Change the entry at a key if it is listed. -/
def tmod {α : Type} (t : Tab α) (k : Nat) (f : α → α) : Tab α := t.map fun e => if e.1 = k then (e.1, f e.2) else e

/-- Insert into a list that rises by `key`, after equal keys. -/
def insertBy {α : Type} (key : α → Nat) (x : α) (l : List α) : List α :=
  match l with
  | [] => [x]
  | y :: r => if key x < key y then x :: y :: r else y :: insertBy key x r

/-- Stable sort by a number. -/
def sortBy {α : Type} (key : α → Nat) (l : List α) : List α := l.foldl (fun acc x => insertBy key x acc) []

/-- The first of `n` numbers from 0 that meets a test. -/
def firstFree (n : Nat) (p : Nat → Bool) : Option Nat := (List.range n).find? p

/-- The element of a list with the greatest key, the earlier one of equals. -/
def maxBy? {α : Type} (key : α → Nat) (l : List α) : Option α :=
  l.foldl (fun best x => match best with
    | none => some x
    | some b => if key b < key x then some x else some b) none

/-- The element of a list with the least key, the earlier one of equals. -/
def minBy? {α : Type} (key : α → Nat) (l : List α) : Option α :=
  l.foldl (fun best x => match best with
    | none => some x
    | some b => if key x < key b then some x else some b) none

/-- Keep the first of equal elements. -/
def dedup {α : Type} [DecidableEq α] (l : List α) : List α :=
  (l.foldl (fun acc x => if acc.contains x then acc else x :: acc) []).reverse

/-- Bits hi..lo of a number. -/
def bitsOf (x hi lo : Nat) : Nat := (x >>> lo) % 2 ^ (hi + 1 - lo)

/-- Bit n of a number. -/
def bitAt (x n : Nat) : Bool := (x >>> n) % 2 = 1

/-- A bit as a number. -/
def bnat (b : Bool) : Nat := if b then 1 else 0

/-- The low 32 bits of a number. -/
def word (x : Nat) : Word := BitVec.ofNat 32 x

/-- A register pair's value, low word first (03 R50). -/
def pairOf (lo hi : Word) : DWord := hi ++ lo

/-- The two words of a 64-bit value. -/
def wordsOf (x : DWord) : List Word := [x.extractLsb' 0 32, x.extractLsb' 32 32]

/-- 32-bit words of a list of bytes, little-endian (00 R4). -/
def wordsOfBytes (bs : List Byte) : List Word :=
  match bs with
  | a :: b :: c :: d :: r => (d ++ c ++ b ++ a : BitVec 32) :: wordsOfBytes r
  | _ => []

/-- Bytes of a list of 32-bit words. -/
def bytesOfWords (ws : List Word) : List Byte := ws.flatMap fun x => bytesOfNat 4 x.toNat

/-- `n` bytes of a byte list at an offset as a number; bytes beyond the list read 0. -/
def fieldAt (bs : List Byte) (off n : Nat) : Nat := natOfBytes ((bs.drop off).take n)

/-- Put bytes into a list at an offset, keeping its length. -/
def putBytes (bs : List Byte) (off : Nat) (new : List Byte) : List Byte :=
  bs.take off ++ new ++ bs.drop (off + new.length)

/-- A 64-bit address operand as a byte address. -/
def addrOf (x : DWord) : Nat := x.toNat

/-! Starting values of a launch's pieces. -/

/-- A thread's registers at its start (05 R90). -/
def ThreadCtx.start (regs : Nat) : ThreadCtx :=
  { regs := List.replicate regs 0, preds := List.replicate 7 false, flags := List.replicate 12 0, fflags := 0, rgn := 0,
    cv := Cursor.init, tcause := 0, tval := 0, retired := 0, traceStat := 0 }

/-- Arrival records of the 24 barriers of a thread: pb 0-7, cb 8-15, db 16-19, gb 20-23 (14 R295). -/
def arrivalsNone : List Arrival := List.replicate 24 { pend := false, gen := none }

/-- A thread at its start (05 R90, 18 R327). -/
def Thread.start (regs entry : Nat) : Thread :=
  { ctx := ThreadCtx.start regs, pc := entry, hdr := entry, rent := entry, cvSnap := Cursor.init, pos := [0, 0, 0, 0],
    posSnap := [0, 0, 0, 0], handler := false, timer := none, timerDue := false, arr := arrivalsNone, place := .empty,
    wait := .ready, passed := false, trap := none, pendTrap := none, join := none, task := [], clock := 0, ords := 0 }

/-- A slot that holds no thread. -/
def Thread.none : Thread := { Thread.start 0 0 with place := .ended }

def PartGroup.none : PartGroup :=
  { lid := 0, dgid := 0, cgid := 0, pgid := 0, core := 0, part := 0, base := 0, threads := [], trapq := [], handling := false,
    bars := List.replicate 8 Bar.init, streams := List.replicate 4 Stream.init, joints := 0, ended := true }

def CoreGroup.none : CoreGroup :=
  { lid := 0, dgid := 0, cgid := 0, core := 0, slot := 0, tags := [], codebook := [], bars := List.replicate 8 Bar.init,
    gangs := [], gangAsk := [], latch := [], clk := 0, dsm := Dsm.init, engBack := Option.none, killed := false, ended := true }

def LaunchRec.none : LaunchRec :=
  { entry := 0, trapvec := 0, status := 0, ndg := 1, ncg := 1, npg := 1, nthr := 1, age := 256, full := 32, taskServer := false,
    retry := 0, relaunch := false, idem := false, dsm := false, carve := 0, regs8 := 1, cvin := 0, cvout := 0, cvmode := 0,
    cvstride := 0, pdcV := false, pdc := 0, cvkey := 0, pr := [], nq := 0, dccnt := 0, ver := 1, queues := [],
    consts := List.replicate 64 0, roles := List.replicate 256 0xF000, task := [] }

def Launch.none : Launch :=
  { serial := 0, lr := LaunchRec.none, space := 0, sess := 0, priv := false, parent := Option.none, parentSerial := 0,
    whisk := false, sig := List.replicate 8 0, out := 0, cause := 0, retries := 0, disc := 0, term := 0, restores := 0, dist := 0,
    dies := [], placed := [], dcBase := [], queues := [], bars := [], run := .running, ask := [] }

def Header.none : Header := { wait := 0, fa := 15, fb := 15, count := 0, region := false }

def Group.none : Group :=
  { pg := 0, tids := [], pc := 0, hdr := 0, header := Header.none, words := [], stall := 0, ready := true, yieldFor := [],
    held := 0, last := 0, spacing := 0, trial := 0, hold := .free, did := [] }

def Bin.none : Bin := { pg := 0, pc := 0, age := 0, aged := false }

/-! Keys (06 R109): a core group of a launch, a partition group of a core group, a partition of a core. -/

def cgKey (lid dgid cgid : Nat) : Nat := (lid * 8 + dgid) * 72 + cgid
def pgKey (cg pgid : Nat) : Nat := cg * 6 + pgid
def cgOfPg (pg : Nat) : Nat := pg / 6
def partKey (core p : Nat) : Nat := core * 6 + p
def coreOfPart (part : Nat) : Nat := part / 6
def dieOfCore (core : Nat) : Nat := core / 72

/-! Reading and changing one entry of each table of the world. -/

def State.pg (s : State) (k : Nat) : PartGroup := tget s.w.pgs k PartGroup.none
def State.cg (s : State) (k : Nat) : CoreGroup := tget s.w.cgs k CoreGroup.none
def State.part (s : State) (p : Nat) : Partition := tget s.w.parts p Partition.init
def State.core (s : State) (c : Nat) : Core := tget s.w.cores c Core.init
def State.die (s : State) (d : Nat) : Die := tget s.w.dies d Die.init
def State.launch (s : State) (l : Nat) : Launch := tget s.w.launches l Launch.none
def State.group (s : State) (p pos : Nat) : Group := tget (s.part p).groups pos Group.none
def State.thread (s : State) (t : ThreadRef) : Thread := (s.pg t.pg).threads.getD t.tid Thread.none

def modPg (s : State) (k : Nat) (f : PartGroup → PartGroup) : State :=
  { s with w := { s.w with pgs := tupd s.w.pgs k PartGroup.none f } }
def modCg (s : State) (k : Nat) (f : CoreGroup → CoreGroup) : State :=
  { s with w := { s.w with cgs := tupd s.w.cgs k CoreGroup.none f } }
def modPart (s : State) (p : Nat) (f : Partition → Partition) : State :=
  { s with w := { s.w with parts := tupd s.w.parts p Partition.init f } }
def modCore (s : State) (c : Nat) (f : Core → Core) : State :=
  { s with w := { s.w with cores := tupd s.w.cores c Core.init f } }
def modDie (s : State) (d : Nat) (f : Die → Die) : State :=
  { s with w := { s.w with dies := tupd s.w.dies d Die.init f } }
def modLaunch (s : State) (l : Nat) (f : Launch → Launch) : State :=
  { s with w := { s.w with launches := tmod s.w.launches l f } }
def modGroup (s : State) (p pos : Nat) (f : Group → Group) : State :=
  modPart s p fun x => { x with groups := tmod x.groups pos f }

/-- Change a partition group's thread. -/
def PartGroup.modThread (g : PartGroup) (tid : Nat) (f : Thread → Thread) : PartGroup :=
  { g with threads := g.threads.modify tid f }

def modThread (s : State) (t : ThreadRef) (f : Thread → Thread) : State := modPg s t.pg fun g => g.modThread t.tid f

def modCtx (s : State) (t : ThreadRef) (f : ThreadCtx → ThreadCtx) : State :=
  modThread s t fun x => { x with ctx := f x.ctx }

def modEng (s : State) (c : Nat) (f : Engine → Engine) : State := modCore s c fun x => { x with eng := f x.eng }

/-- A number no entry in flight has used, and the state that has used it. -/
def nextId (s : State) : Nat × State := (s.w.nextId, { s with w := { s.w with nextId := s.w.nextId + 1 } })

/-- The launch record a partition group's launch runs. -/
def State.lrOfPg (s : State) (pg : Nat) : LaunchRec := (s.launch (s.pg pg).lid).lr

/-- The time a core group's rules count: clk, or slots under DSM (06 R131). -/
def timeOf (s : State) (cg : Nat) : Nat :=
  let g := s.cg cg
  if (s.launch g.lid).lr.dsm then g.dsm.slot else s.clk

/-- Whether a thread is live: it has started and not ended. -/
def Thread.live (t : Thread) : Bool :=
  match t.place with
  | .empty | .ended => false
  | _ => true

/-- `lane` and `team` of a thread (06 R110). -/
def laneOf (tid : Nat) : Nat := tid % 32
def teamOf (tid : Nat) : Nat := tid / 32

/-- `gtid` (06 R110); in task-server mode the task's `tr.id` (05 R95). -/
def gtidOf (s : State) (t : ThreadRef) : Nat :=
  let g := s.pg t.pg
  let lr := (s.launch g.lid).lr
  if lr.taskServer then ((s.thread t).task.getD 3 0).toNat
  else ((g.dgid * lr.ncg + g.cgid) * lr.npg + g.pgid) * lr.nthr + t.tid

/-- The die a thread runs on. -/
def dieOfThread (s : State) (t : ThreadRef) : Nat := dieOfCore (s.pg t.pg).core

/-- A management event: a kind and a value. -/
def reportEvent (s : State) (kind val : Nat) : State := { s with counts := { s.counts with events := s.counts.events ++ [(kind, val)] } }

/-- Raise a management event (05 R94, 08 R182, 18 R339): a kind and a value. A replay raises none again (log 44). -/
def raiseEvent (s : State) (kind val : Nat) : State := if s.replay.isSome then s else reportEvent s kind val

/-- Saturating 32-bit increment. -/
def satInc (x : Word) : Word := if x = 0xFFFFFFFF then x else x + 1

end Sys2Proof.Machine
end

