-- ==== Sys2Proof/Machine/Memory.lean ====
section
/-! DEFINITION. Memory (08): bytes in canonical form, caches and homes, the window, page tables and TLBs, demand filling,
hotness counting. -/

namespace Sys2Proof.Machine

/-! Bytes. DESIGN CHOICE (log 6): a byte that nothing has written reads 0. -/

/-- What an unlisted address reads as (log 6). -/
def memDefault : Byte := 0

/-- The canonical form: addresses rising, no entry equal to what an unlisted address reads as. -/
def Memory.wf (m : Memory) : Bool :=
  match m with
  | [] => true
  | (_, b) :: [] => b != memDefault
  | (a, b) :: (c, d) :: r => b != memDefault && decide (a < c) && Memory.wf ((c, d) :: r)

/-- Read one byte. -/
def memRead (m : Memory) (a : Nat) : Byte :=
  match m with
  | [] => memDefault
  | (c, b) :: r => if c = a then b else if a < c then memDefault else memRead r a

/-- Write one byte, keeping the canonical form. -/
def memWrite (m : Memory) (a : Nat) (x : Byte) : Memory :=
  match m with
  | [] => if x = memDefault then [] else [(a, x)]
  | (c, b) :: r =>
    if a < c then (if x = memDefault then (c, b) :: r else (a, x) :: (c, b) :: r)
    else if a = c then (if x = memDefault then r else (a, x) :: r)
    else (c, b) :: memWrite r a x

/-- Read `n` bytes, lowest address first. -/
def memReadN (m : Memory) (a n : Nat) : List Byte :=
  match n with
  | 0 => []
  | k + 1 => memRead m a :: memReadN m (a + 1) k

/-- Write bytes from an address up. -/
def memWriteN (m : Memory) (a : Nat) (bs : List Byte) : Memory :=
  match bs with
  | [] => m
  | b :: r => memWriteN (memWrite m a b) (a + 1) r

/-- Clear a range to the unlisted value (a frame of 08 R182, a cleared buffer). -/
def memClear (m : Memory) (lo n : Nat) : Memory := m.filter fun e => decide (e.1 < lo) || decide (lo + n ≤ e.1)

/-- A little-endian number in memory. -/
def memNat (m : Memory) (a n : Nat) : Nat := natOfBytes (memReadN m a n)

def modMem (s : State) (f : Memory → Memory) : State := { s with w := { s.w with mem := f s.w.mem } }

/-- The frames that `n` bytes from a physical address touch are written since the last checkpoint (20 R358). -/
def dirtyFrames (l : List (Nat × Nat)) (pa n : Nat) : List (Nat × Nat) :=
  let lo := pa / 0x10000
  let hi := (pa + n - 1) / 0x10000 + 1
  if decide (n = 0) || l.any (fun r => decide (r.1 ≤ lo) && decide (hi ≤ r.2)) then l else (lo, hi) :: l

/-- Every frame of DRAM. -/
def allFrames : List (Nat × Nat) := [(0, Config.dramTop / 0x10000)]

/-- The pending frames of a checkpoint without one of them. -/
def cutFrame (l : List (Nat × Nat)) (n : Nat) : List (Nat × Nat) :=
  l.flatMap fun r => if r.1 ≤ n ∧ n < r.2 then [(r.1, n), (n + 1, r.2)].filter fun x => decide (x.1 < x.2) else [r]

/-- The frames that `n` bytes from a physical address touch are copied to the safe tier where a checkpoint has still to copy them, because a
write to one waits for that (20 R358). What threads, engines and the host write has waited before it comes here; what the device writes of
its own accord, such as page-table bits and ring records, waits within its step (log 86). -/
def copyFirst (l : List Ckpt) (pa n : Nat) : List Ckpt :=
  if n = 0 then l else l.map fun c => if c.valid then c else
    { c with pending := (List.range ((pa + n - 1) / 0x10000 + 1 - pa / 0x10000)).foldl (fun p i => cutFrame p (pa / 0x10000 + i)) c.pending }

/-- Change `n` bytes of DRAM from a physical address on. -/
def modFrames (s : State) (pa n : Nat) (f : Memory → Memory) : State :=
  { modMem s f with dirty := dirtyFrames s.dirty pa n, ckpts := copyFirst s.ckpts pa n }

def modWindow (s : State) (f : Memory → Memory) : State := { s with w := { s.w with window := f s.w.window } }

/-! Homes and caches (08 R186-R190). -/

/-- The DRAM channel, and so the core, of a physical address, and the die of its home (08 R186). -/
def channelOf (pa : Nat) : Nat := bitsOf pa 39 30
def homeDie (pa : Nat) : Nat := channelOf pa / 72
/-- The home slice of a line (08 R186). -/
def homeSlice (pa : Nat) : Nat :=
  let c := channelOf pa
  let l := bitsOf pa 29 7
  64 * (c / 72) + Nat.xor (Nat.xor (Nat.xor (Nat.xor (bitsOf l 5 0) (bitsOf l 11 6)) (bitsOf l 17 12)) (bitsOf l 22 18))
    (c % 72 % 64)

/-- Look for a line in a cache. -/
def findLine (c : List Line) (n : Nat) : Option Line := c.find? fun x => x.line = n

/-- Room in a set-associative store for an entry of a key: a full set gives up an entry of the lowest priority that it holds, of
Config's choice (log 8). -/
def makeRoom {α : Type} [DecidableEq α] (cap ways fresh : Nat) (key : α → Nat) (low : α → Bool) (l : List α) (k : Nat) : List α :=
  if l.length < ways then l
  else
    let mates := l.filter fun y => decide (Config.cacheSet (cap / ways) (key y) = Config.cacheSet (cap / ways) k)
    if mates.length < ways then l
    else
      let c := if mates.any low then mates.filter low else mates
      match (c.drop (Config.victim fresh % c.length)).head? with
      | some v => l.filter fun y => y != v
      | none => l

/-- Put a line at the front of a cache of `cap` lines in sets of `ways`. -/
def fillLine (cap ways fresh : Nat) (c : List Line) (x : Line) : List Line :=
  x :: makeRoom cap ways fresh Line.line Line.low (c.filter fun y => y.line != x.line) x.line

/-- Drop a line from a cache. -/
def dropLine (c : List Line) (n : Nat) : List Line := c.filter fun x => x.line != n

/-- Change the bytes of a held line; a line that is not held stays absent. -/
def patchLine (c : List Line) (pa : Nat) (bs : List Byte) : List Line :=
  c.map fun x => if x.line = pa / 128 then { x with bytes := putBytes x.bytes (pa % 128) bs } else x

/-- A line's bytes in DRAM. -/
def lineBytes (s : State) (n : Nat) : List Byte := memReadN s.w.mem (n * 128) 128

/-- Bytes written at physical addresses of one line, over the line's bytes. -/
def putParts (bs : List Byte) (parts : List (Nat × List Byte)) : List Byte :=
  parts.foldl (fun bs p => putBytes bs (p.1 % 128) p.2) bs

/-- A line's bytes with the writes that wait in a die's remote write queue over them, oldest first. -/
def overQueue (s : State) (die n : Nat) (bs : List Byte) : List Byte :=
  ((s.die die).wq.filter fun q => decide (q.line = n)).foldl (fun bs q => putParts bs q.parts) bs

/-- A line as the L2 of a die serves it: its own copy, or a copy it takes from the home, on which its own writes on their way there
are kept (08 R188). DEDUCED (log 9): DRAM always holds what the home would serve, because the home pulls a dirty local copy before
serving anyone. `low` marks a line that an access under `.nt` allocates (09 R200). -/
def l2Fill (low : Bool) (s : State) (die n : Nat) : State × List Byte :=
  match findLine (s.die die).l2 n with
  | some x => (s, x.bytes)
  | none =>
    let bs := overQueue s die n (lineBytes s n)
    let x : Line := { line := n, bytes := bs, remote := decide (homeDie (n * 128) ≠ die), low := low, writers := [] }
    (modDie { s with fresh := s.fresh + 1 } die fun d => { d with l2 := fillLine Config.l2Lines Config.l2Lines s.fresh d.l2 x }, bs)

/-- A line as the L2 of a die serves it to an access without `.nt`. -/
def l2Line (s : State) (die n : Nat) : State × List Byte := l2Fill false s die n

/-- A line of a cache that is not an L2. -/
def plainLine (n : Nat) (bs : List Byte) : Line := { line := n, bytes := bs, remote := false, low := false, writers := [] }

/-- A line as the L1 of a core serves it (08 R187). -/
def l1Line (s : State) (core n : Nat) : State × List Byte :=
  match findLine (s.core core).l1 n with
  | some x => (s, x.bytes)
  | none =>
    let (s1, bs) := l2Line s (dieOfCore core) n
    (modCore { s1 with fresh := s1.fresh + 1 } core fun c =>
      { c with l1 := fillLine (Config.l1Lines c.carve) (Config.l1Lines c.carve) s1.fresh c.l1 (plainLine n bs) }, bs)

/-- A write performed at the home (08 R188, R190): DRAM takes it, and the L2 of the home's die gives up its copy unless the
writer is that die's own L2. -/
def homeWrite (s : State) (own : Option Nat) (pa : Nat) (bs : List Byte) : State :=
  let s := modFrames s pa bs.length fun m => memWriteN m pa bs
  if own = some (homeDie pa) then s
  else modDie s (homeDie pa) fun d => { d with l2 := dropLine d.l2 (pa / 128) }

/-- A thread's or buffer unit's load of bytes of one line (08 R187): through L1 and L2, or at the home for a page that is not
cached. -/
def cacheLoad (s : State) (core pa n : Nat) (nc : Bool) : State × List Byte :=
  if nc then (s, memReadN s.w.mem pa n)
  else
    let (s1, bs) := l1Line s core (pa / 128)
    (s1, (bs.drop (pa % 128)).take n)

/-- An operation of a core performed at the home (14 R304): DEDUCED (log 10), the core's L1 and its die's L2 give up their copies
of the line, so that the thread's later loads are not older than its own atomic (15 R313). -/
def homeOpLines (s : State) (core pa : Nat) : State :=
  let s := modCore s core fun c => { c with l1 := dropLine c.l1 (pa / 128) }
  modDie s (dieOfCore core) fun d => { d with l2 := dropLine d.l2 (pa / 128) }

/-- A store of a core performed at the home of an uncached page, or as a DSM launch's commit (08 R187, 14 R310). -/
def homeStore (s : State) (core : Nat) (parts : List (Nat × List Byte)) : State :=
  parts.foldl (fun s p => homeOpLines (homeWrite s none p.1 p.2) core p.1) s

/-- A die's remote write queue holds a write to a line. -/
def queuedLine (s : State) (die n : Nat) : Bool := (s.die die).wq.any fun q => decide (q.line = n)

/-- What the L2 of a die has accepted goes to its home: at once where the home is the die's own or the launch runs under DSM (log 9),
else through the remote write queue (08 R188). -/
def sendHome (s : State) (die space lid va : Nat) (stamps : List ThreadRef) (parts : List (Nat × List Byte)) : State :=
  match parts with
  | [] => s
  | p :: _ =>
    if homeDie p.1 = die ∨ (s.launch lid).lr.dsm then parts.foldl (fun s p => homeWrite s (some die) p.1 p.2) s
    else
      let (id, s) := nextId s
      modDie s die fun d =>
        { d with wq := d.wq ++ [{ id := id, space := space, lid := lid, va := va, line := p.1 / 128, parts := parts, stamps := stamps }] }

/-- A thread's store to one line, its bytes at their physical addresses (08 R187, R188): through L1, updating a copy there, into the
die's L2 and on to the home. -/
def cacheStore (s : State) (core space lid va : Nat) (low : Bool) (stamps : List ThreadRef) (parts : List (Nat × List Byte)) : State :=
  match parts with
  | [] => s
  | p :: _ =>
    let die := dieOfCore core
    let s := modCore s core fun c => { c with l1 := parts.foldl (fun l q => patchLine l q.1 q.2) c.l1 }
    let s := (l2Fill low s die (p.1 / 128)).1
    let s := modDie s die fun d => { d with l2 := parts.foldl (fun l q => patchLine l q.1 q.2) d.l2 }
    sendHome s die space lid va stamps parts

/-- Lines a range of bytes touches. -/
def linesOf (pa n : Nat) : List Nat :=
  if n = 0 then [] else (List.range ((pa + n - 1) / 128 - pa / 128 + 1)).map fun i => pa / 128 + i

/-- An engine's or the host's write at the homes of a range within one page: no die's L2 is the writer's (08 R188). -/
def homeWriteRange (s : State) (pa : Nat) (bs : List Byte) : State :=
  let s := modFrames s pa bs.length fun m => memWriteN m pa bs
  (linesOf pa bs.length).foldl (fun s n => modDie s (homeDie (n * 128)) fun d => { d with l2 := dropLine d.l2 n }) s

/-- The cache part of an acquire (08 R189): nothing up to .cg, the core's L1 at .dg, and the die L2's remote lines from .dev. -/
def acquireActions (s : State) (core : Nat) (sc : Scope) : State :=
  match sc with
  | .th | .pg | .cg => s
  | .dg => modCore s core fun c => { c with l1 := [] }
  | .dev | .sys =>
    let s := modCore s core fun c => { c with l1 := [] }
    modDie s (dieOfCore core) fun d => { d with l2 := d.l2.filter fun x => !x.remote }

/-! Hotness counting (08 R194). -/

/-- The number of a partition of a DSM core group in a sampling block's table of last samples. -/
def slotKey (cg p : Nat) : Nat := 2 ^ 40 + cg * 8 + p

/-- Count one line access of a core; the access that brings the counter to zero is sampled and the counter reloads. -/
def countAccess (s : State) (core va type lid : Nat) (win : Bool) : State :=
  let mcb := (s.die (dieOfCore core)).mcb
  if !mcb.hsEn then s
  else modCore s core fun c =>
    if c.hsCount ≤ 1 then { c with hsCount := 2 ^ mcb.hsK - 1, hsDue := c.hsDue ++ [(va, type, lid, win)] }
    else { c with hsCount := c.hsCount - 1 }

/-- Count a line request of the word being executed: a word requests a line once for each kind of access (08 R185, R194). -/
def countLine (s : State) (core va type lid : Nat) (win : Bool) : State :=
  match s.cur with
  | none => countAccess s core (va / 128 * 128) type lid win
  | some c =>
    if c.lines.contains (va / 128, type) then s
    else countAccess { s with cur := some { c with lines := (va / 128, type) :: c.lines } } core (va / 128 * 128) type lid win

/-! Page tables and translation (08 R173-R183). -/

/-- What a need asks of a page's r, w and x bits (08 R177). -/
def Need.ok (n : Need) (r w x : Bool) : Bool :=
  match n with
  | .read => r
  | .write => w
  | .readWrite => r && w
  | .fetch => x
  | .readOrWrite => r || w

/-- A page-table entry whose type, reserved bits or address make it malformed (08 R177). `next` is the size of the table or
page it names. -/
def pteMalformed (e : Nat) (tableOk pageOk demandOk : Bool) (tableSize pageSize : Nat) : Bool :=
  let addr := bitsOf e 39 8 * 256
  match e % 4 with
  | 0 => false
  | 1 => !tableOk || decide (bitsOf e 63 40 ≠ 0) || decide (bitsOf e 7 2 ≠ 0) || decide (addr % tableSize ≠ 0)
      || decide (Config.dramTop ≤ addr)
  | 2 => !pageOk || decide (bitsOf e 63 40 ≠ 0) || decide (addr % pageSize ≠ 0) || decide (Config.dramTop ≤ addr)
  | _ => !demandOk || decide (bitsOf e 63 40 ≠ 0)

/-- One level of a walk: the shift and width of its index, the types it allows, and the sizes named from it (08 R175). -/
def walkLevels : List (Nat × Nat × Bool × Bool × Bool × Nat × Nat) :=
  [(44, 12, true, false, false, 0x8000, 1), (32, 12, true, false, false, 0x4000, 1), (21, 11, true, true, false, 0x100, 0x200000),
   (16, 5, false, true, true, 1, 0x10000)]

/-- The launch that a walk of a core is made for: that of the word being executed, else one with the space on the core (log 25). -/
def walkLaunch (s : State) (core space : Nat) : Nat :=
  match s.cur with
  | some c => (s.pg (s.group c.part c.pos).pg).lid
  | none => ((s.w.cgs.find? fun e => decide (e.2.core = core) && !e.2.ended && decide ((s.launch e.2.lid).space = space)).map
      fun e => e.2.lid).getD 0

/-- Count a table read of a walk made for a core in a space (08 R194). -/
def countWalk (s : State) (made : Option (Nat × Nat)) (va : Nat) : State :=
  match made with
  | none => s
  | some (core, space) => countAccess s core (va / 128 * 128) 7 (walkLaunch s core space) false

/-- The line of a table that a walker reads: through the die's L2, which keeps no copy of one homed on another die, because the first
access after a driver makes a page valid finds it (08 R179, log 99). -/
def tableLine (s : State) (die n : Nat) : State × List Byte :=
  if homeDie (n * 128) = die then l2Line s die n else (s, lineBytes s n)

/-- Walk from a table, each entry read through the die's L2 (08 R179). -/
def walkFrom (levels : List (Nat × Nat × Bool × Bool × Bool × Nat × Nat)) (s : State) (die : Nat) (made : Option (Nat × Nat))
    (table va : Nat) : State × WalkEnd :=
  match levels with
  | [] => (s, .invalid)
  | (sh, wd, tOk, pOk, dOk, tSize, pSize) :: rest =>
    let pte := table + (va >>> sh) % 2 ^ wd * 8
    let (s, line) := tableLine (countWalk s made va) die (pte / 128)
    let e := fieldAt line (pte % 128) 8
    let addr := bitsOf e 39 8 * 256
    if pteMalformed e tOk pOk dOk tSize pSize then (s, .invalid)
    else
      match e % 4 with
      | 1 => walkFrom rest s die made addr va
      | 2 => (s, .page pte addr (decide (sh = 21)) (bitAt e 7) (bitAt e 6) (bitAt e 5) (bitAt e 4) (bitAt e 3))
      | 3 => (s, .demand pte (bitAt e 7) (bitAt e 6) (bitAt e 5) (bitAt e 4) (bitAt e 2))
      | _ => (s, .invalid)

/-- The root table of an address space. -/
def spaceRoot (s : State) (space : Nat) : Nat := (tget s.spaces space { root := 0, access := [] }).root

/-- The leaf of a page that a die waits to fill, as its walker read it: what is written to the entry meanwhile is overwritten when the fill
ends (08 R182). -/
def heldLeaf (s : State) (die space va : Nat) : Option WalkEnd :=
  ((s.die die).mcb.busy.find? fun b => decide (b.space = space) && decide (b.page = va / 0x10000)).map fun b =>
    .demand b.pte b.nc b.x b.w b.r true

/-- The walk of a die's walker: of a page that it waits to fill, what it has read already. -/
def walkDie (s : State) (die : Nat) (made : Option (Nat × Nat)) (space va : Nat) : State × WalkEnd :=
  match heldLeaf s die space va with
  | some e => (s, e)
  | none => walkFrom walkLevels s die made (spaceRoot s space) va

/-- A walk for a core in a space; each table read counts as an access of the core (08 R194). -/
def walk (s : State) (core space va : Nat) : State × WalkEnd := walkDie s (dieOfCore core) (some (core, space)) space va

/-- The pages a TLB entry covers hold an address. -/
def TlbEntry.hits (e : TlbEntry) (space va : Nat) : Bool :=
  decide (e.space = space) && decide ((if e.large then va / 0x200000 * 32 else va / 0x10000) = e.vpn)

/-- The physical address a TLB entry gives. -/
def TlbEntry.pa' (e : TlbEntry) (va : Nat) : Nat := e.pa + va % (if e.large then 0x200000 else 0x10000)

/-- Fill a core TLB, least recently used last (08 R179). -/
def fillCoreTlb (s : State) (core : Nat) (e : TlbEntry) : State :=
  modCore s core fun c => { c with tlb := (e :: c.tlb.filter fun x => x != e).take Config.coreTlbEntries }

/-- Fill a die TLB (08 R179); which entry a full set gives up is free (log 8). -/
def fillDieTlb (s : State) (die : Nat) (e : TlbEntry) : State :=
  modDie { s with fresh := s.fresh + 1 } die fun d =>
    let rest := d.tlb.filter fun x => x != e
    { d with tlb := e :: makeRoom Config.dieTlbEntries Config.dieTlbWays s.fresh TlbEntry.vpn (fun _ => false) rest e.vpn }

/-- Set `pte.a` by an atomic OR at the entry's home (08 R178). -/
def setAccessed (s : State) (pte : Nat) : State :=
  homeWrite s none pte [memRead s.w.mem pte ||| 0x08]

/-- Perform a walk and what it leaves: TLB entries and `pte.a` when the leaf grants the need, nothing otherwise (08 R178). -/
def walkFill (s : State) (core space va : Nat) (need : Need) : State × Target :=
  let (s, e) := walk s core space va
  match e with
  | .page pte pa large nc x w r acc =>
    if Need.ok need r w x then
      let t : TlbEntry := { space := space, vpn := if large then va / 0x200000 * 32 else va / 0x10000, large := large, pa := pa,
                            nc := nc, x := x, w := w, r := r }
      let s := fillCoreTlb (fillDieTlb s (dieOfCore core) t) core t
      (if acc then s else setAccessed s pte, .dram (t.pa' va) nc)
    else (s, .fail 0x07)
  | .demand _ _ x w r _ => if Need.ok need r w x then (s, .demand) else (s, .fail 0x07)
  | .invalid => (s, .fail 0x06)

/-- Translate one address for a core in a space (08 R174, R177-R179): core TLB, die TLB, walk. -/
def translate (s : State) (core space : Nat) (a : Nat) (need : Need) : State × Target :=
  if 2 ^ 56 ≤ a then (s, .fail 0x06)
  else if Config.windowBase ≤ a ∧ a < Config.windowBase + Config.windowSize then
    (s, if need = .fetch then .fail 0x07 else .window (a - Config.windowBase))
  else
    match (s.core core).tlb.find? (fun e => e.hits space a) with
    | some e => (fillCoreTlb s core e, if Need.ok need e.r e.w e.x then .dram (e.pa' a) e.nc else .fail 0x07)
    | none =>
      match (s.die (dieOfCore core)).tlb.find? (fun e => e.hits space a) with
      | some e => (fillCoreTlb s core e, if Need.ok need e.r e.w e.x then .dram (e.pa' a) e.nc else .fail 0x07)
      | none => walkFill s core space a need

/-- Whether translating an address of a space would walk: neither TLB holds it. -/
def tlbMiss (s : State) (core space a : Nat) : Bool :=
  !((s.core core).tlb.any fun e => e.hits space a) && !((s.die (dieOfCore core)).tlb.any fun e => e.hits space a)

/-- Take a frame from a die's free-frame ring, skipping entries with a reserved bit or beyond DRAM (08 R184). -/
def takeFrame (fuel : Nat) (s : State) (die : Nat) : State × Option Nat :=
  match fuel with
  | 0 => (s, none)
  | k + 1 =>
    let m := (s.die die).mcb
    if m.flRd = m.flWr then (s, none)
    else
      let e := memNat s.w.mem (m.flBase + m.flRd.toNat % 2 ^ (m.flLsize - 2) * 4) 4
      let s := modDie s die fun d => { d with mcb := { d.mcb with flRd := d.mcb.flRd + 1 } }
      if e < 2 ^ 24 ∧ e * 0x10000 < Config.dramTop then (s, some (e * 0x10000)) else takeFrame k s die

/-- Frames a ring holds at most. -/
def ringEntries (m : Mcb) : Nat := (m.flWr - m.flRd).toNat

/-- Refill a core's reserve of 64 frames from its die's ring (08 R183). -/
def refillReserve (fuel : Nat) (s : State) (core : Nat) : State :=
  match fuel with
  | 0 => s
  | k + 1 =>
    if 64 ≤ (s.core core).reserve.length then s
    else
      match takeFrame (ringEntries (s.die (dieOfCore core)).mcb) s (dieOfCore core) with
      | (s, some f) => refillReserve k (modCore s core fun c => { c with reserve := c.reserve ++ [f] }) core
      | (s, none) => s

/-- Fill a demand-zero leaf with a frame (08 R182): zeros at the homes, and the entry of type 2 with its permissions kept,
`pte.a` set and `pte.busy` clear. -/
def fillLeaf (s : State) (pte frame : Nat) (nc x w r : Bool) : State :=
  let s := { s with w := { s.w with dies := s.w.dies.map fun d =>
    (d.1, { d.2 with mcb := { d.2.mcb with busy := d.2.mcb.busy.filter fun b => b.pte != pte } }) } }
  let s := modFrames s frame 0x10000 fun m => memClear m frame 0x10000
  let s := modDie s (homeDie frame) fun d => { d with l2 := d.l2.filter fun l => decide (l.line * 128 / 0x10000 ≠ frame / 0x10000) }
  homeWrite s none pte (bytesOfNat 8 (frame + bnat nc * 128 + bnat x * 64 + bnat w * 32 + bnat r * 16 + 8 + 2))

/-- A die's ring is short of frames (08 R182): one management event (kind 1, log 12) until frames are added. -/
def reportShortage (s : State) (die : Nat) : State :=
  if (s.die die).mcb.short then s
  else modDie (raiseEvent s 1 die) die fun d => { d with mcb := { d.mcb with short := true } }

/-- A die other than this one fills a leaf (08 R182): it has set `pte.busy`. -/
def busyElsewhere (s : State) (die pte : Nat) (busy : Bool) : Bool := busy && !((s.die die).mcb.busy.any fun b => decide (b.pte = pte))

/-- A walker's fill of a demand-zero leaf from its die's ring (08 R182). None: it waits, for the walker that has set `pte.busy`, or for
a frame with `pte.busy` set by itself. -/
def walkerFill (s : State) (die space va pte : Nat) (nc x w r busy : Bool) : State × Option Nat :=
  if busyElsewhere s die pte busy then (s, none)
  else
    match takeFrame (ringEntries (s.die die).mcb) s die with
    | (s, some f) => (fillLeaf s pte f nc x w r, some f)
    | (s, none) =>
      if busy then (reportShortage s die, none)
      else
        let s := homeWrite s none pte [memRead s.w.mem pte ||| 0x04]
        let b : BusyLeaf := { pte := pte, space := space, page := va / 0x10000, nc := nc, x := x, w := w, r := r }
        (modDie (reportShortage s die) die fun d => { d with mcb := { d.mcb with busy := b :: d.mcb.busy } }, none)

/-- The demand fill of a thread's access (08 R182): from the die's ring only; false when it waits. -/
def demandFill (s : State) (core space a : Nat) : State × Bool :=
  let (s, e) := walk s core space a
  match e with
  | .demand pte nc x w r busy =>
    match walkerFill s (dieOfCore core) space a pte nc x w r busy with
    | (s, some _) => (s, true)
    | (s, none) => (s, false)
  | .page .. | .invalid => (s, false)

/-- Translate for an engine: a demand-zero leaf is filled from the die's ring, else from the core's reserve
(08 R183); NO_FRAME (0x12) when both are empty. A leaf that another die fills makes the engine wait. -/
def fillTranslate (s : State) (core space a : Nat) (need : Need) : State × Target :=
  let (s, t) := translate s core space a need
  match t with
  | .demand =>
    let (s, e) := walk s core space a
    match e with
    | .demand pte nc x w r busy =>
      let die := dieOfCore core
      if busyElsewhere s die pte busy then (s, .demand)
      else
      let (s, f) := takeFrame (ringEntries (s.die die).mcb) s die
      match f with
      | some f => translate (fillLeaf s pte f nc x w r) core space a need
      | none =>
        match (s.core core).reserve with
        | f :: rest => translate (fillLeaf (modCore s core fun c => { c with reserve := rest }) pte f nc x w r) core space a need
        | [] => (modDie s die fun d => { d with mcb := { d.mcb with flNofr := satInc d.mcb.flNofr } }, .fail 0x12)
    | _ => (s, .fail 0x06)
  | t => (s, t)

/-- The pin of an operation on the page of an address, if it has one (08 R183). -/
def pinOf (s : State) (core owner space a : Nat) : Option TlbEntry :=
  ((s.core core).pins.find? fun p => decide (p.1 = owner) && p.2.hits space a).map (·.2)

/-- Translate for an operation of an engine, which pins the page from its first access to it on: a page that it has pinned keeps the
translation that it had (08 R183). -/
def pinTranslate (s : State) (core owner space a : Nat) (need : Need) : State × Target :=
  match pinOf s core owner space a with
  | some e => (s, if Need.ok need e.r e.w e.x then .dram (e.pa' a) e.nc else .fail 0x07)
  | none =>
    let (s, t) := fillTranslate s core space a need
    match t, (s.core core).tlb.find? (fun e => e.hits space a) with
    | .dram _ _, some e => (modCore s core fun c => { c with pins := (owner, e) :: c.pins }, t)
    | t, _ => (s, t)

/-- An operation's pins are released. -/
def dropPins (s : State) (core owner : Nat) : State := modCore s core fun c => { c with pins := c.pins.filter fun p => p.1 != owner }

/-- Read bytes of one line's reach at a target, for an engine: at the home or the window (08 R190, R191). -/
def readTarget (s : State) (t : Target) (n : Nat) : List Byte :=
  match t with
  | .window off => memReadN s.w.window off n
  | .dram pa _ => memReadN s.w.mem pa n
  | _ => []

/-- Write bytes at a target for an engine. -/
def writeTarget (s : State) (t : Target) (bs : List Byte) : State :=
  match t with
  | .window off => modWindow s fun m => memWriteN m off bs
  | .dram pa _ => homeWriteRange s pa bs
  | _ => s

/-- A frame that a checkpoint has still to copy takes no write (20 R358). -/
def framePending (s : State) (pa : Nat) : Bool :=
  s.ckpts.any fun c => !c.valid && c.pending.any fun r => decide (r.1 ≤ pa / 0x10000) && decide (pa / 0x10000 < r.2)

/-- A write to a target waits until a checkpoint has copied its frame (20 R358). -/
def Target.pending (s : State) (t : Target) : Bool :=
  match t with
  | .dram pa _ => framePending s pa
  | .window _ | .demand | .fail _ => false

/-- Split a byte range at multiples of `unit`: pieces of (address, length), lowest first. -/
def pieces (unit fuel a n : Nat) : List (Nat × Nat) :=
  match fuel with
  | 0 => []
  | k + 1 =>
    if n = 0 then []
    else
      let m := Nat.min n (unit - a % unit)
      (a, m) :: pieces unit k (a + m) (n - m)

/-- Count the lines of an engine transfer (08 R194): `type` is `hs.type`. -/
def countRange (s : State) (core va n type lid : Nat) (win : Bool) : State :=
  if (s.die (dieOfCore core)).mcb.hsEn then
    (linesOf va n).foldl (fun s l => countAccess s core (l * 128) type lid win) s
  else s

/-- Whether a target lies in the window. -/
def Target.isWindow (t : Target) : Bool := match t with
  | .window _ => true
  | .dram _ _ | .demand | .fail _ => false

/-- An engine's write of bytes at a physical range (08 R188, R190; 09 R215): through the die's L2, a held copy there updated, on to the
homes; the issuing core's L1 copies are dropped. An uncached page is written at its home. -/
def engineStore (s : State) (core space lid va pa : Nat) (nc : Bool) (bs : List Byte) : State :=
  let die := dieOfCore core
  let ls := linesOf pa bs.length
  let s := modCore s core fun c => { c with l1 := c.l1.filter fun x => !ls.contains x.line }
  (pieces 128 (bs.length / 128 + 2) pa bs.length).foldl (fun s p =>
    let part := (bs.drop (p.1 - pa)).take p.2
    if nc then homeWrite s none p.1 part
    else
      let s := modDie s die fun d => { d with l2 := patchLine d.l2 p.1 part }
      sendHome s die space lid (va + (p.1 - pa)) [] [(p.1, part)]) s

/-- An engine's read of bytes at a physical range (09 R215): through the die's L2, or at the home for an uncached page. -/
def engineLoad (s : State) (core pa n : Nat) (nc : Bool) : State × List Byte :=
  if nc then (s, memReadN s.w.mem pa n)
  else (pieces 128 (n / 128 + 2) pa n).foldl (fun acc p =>
    let (s, line) := l2Line acc.1 (dieOfCore core) (p.1 / 128)
    (s, acc.2 ++ (line.drop (p.1 % 128)).take p.2)) (s, [])

/-- An engine's read of a range in a space, page by page: the bytes, or the first failing address and its cause (0: another die
fills the page, and the engine waits). -/
def engineRead (s : State) (core owner space lid type a n : Nat) : State × Except (BitVec 8 × Nat) (List Byte) :=
  (pieces 0x10000 (n / 0x10000 + 2) a n).foldl (fun acc p =>
    match acc with
    | (s, .error e) => (s, .error e)
    | (s, .ok bs) =>
      let (s, t) := pinTranslate s core owner space p.1 .read
      let s := countRange s core p.1 p.2 type lid t.isWindow
      match t with
      | .fail c => (s, .error (c, p.1))
      | .demand => (s, .error (0, p.1))
      | .window off => (s, .ok (bs ++ memReadN s.w.window off p.2))
      | .dram pa nc => let r := engineLoad s core pa p.2 nc; (r.1, .ok (bs ++ r.2))) (s, .ok [])

/-- An engine's write of a range in a space, page by page; a page that fails is not written and ends it, and one in a frame that a
checkpoint has still to copy makes the engine wait (20 R358). -/
def engineWrite (s : State) (core owner space lid a : Nat) (bs : List Byte) : State × Option (BitVec 8 × Nat) :=
  (pieces 0x10000 (bs.length / 0x10000 + 2) a bs.length).foldl (fun acc p =>
    match acc with
    | (s, some e) => (s, some e)
    | (s, none) =>
      let (s, t) := pinTranslate s core owner space p.1 .write
      let part := (bs.drop (p.1 - a)).take p.2
      let s := countRange s core p.1 p.2 5 lid t.isWindow
      match t with
      | .fail c => (s, some (c, p.1))
      | .window off => (modWindow s fun m => memWriteN m off part, none)
      | .dram pa nc => if framePending s pa then (s, some (0, p.1)) else (engineStore s core space lid p.1 pa nc part, none)
      | .demand => (s, some (0, p.1))) (s, none)

/-- Every page of a range translates for a need: the first failure, if any. -/
def engineCheck (s : State) (core owner space a n : Nat) (need : Need) : State × Option (BitVec 8 × Nat) :=
  (pieces 0x10000 (n / 0x10000 + 2) a n).foldl (fun acc p =>
    match acc with
    | (s, some e) => (s, some e)
    | (s, none) =>
      let (s, t) := pinTranslate s core owner space p.1 need
      match t with
      | .fail c => (s, some (c, p.1))
      | .demand => (s, some (0, p.1))
      | .window _ | .dram _ _ => (s, none)) (s, none)

/-! Accesses of the units that belong to no core: launch engine, dispatchers, Whisk, and the host (24 R392). -/

/-- Translate for a unit through a die's TLB (08 R179): a demand-zero leaf is filled from the die's ring. -/
def unitTranslate (s : State) (die space a : Nat) (need : Need) : State × Target :=
  if 2 ^ 56 ≤ a then (s, .fail 0x06)
  else if Config.windowBase ≤ a ∧ a < Config.windowBase + Config.windowSize then (s, .window (a - Config.windowBase))
  else
    match (s.die die).tlb.find? (fun e => e.hits space a) with
    | some e => (s, if Need.ok need e.r e.w e.x then .dram (e.pa' a) e.nc else .fail 0x07)
    | none =>
      let (s, e) := walkDie s die none space a
      match e with
      | .page pte pa large nc x w r acc =>
        if Need.ok need r w x then
          let t : TlbEntry := { space := space, vpn := if large then a / 0x200000 * 32 else a / 0x10000, large := large, pa := pa,
                                nc := nc, x := x, w := w, r := r }
          let s := fillDieTlb s die t
          (if acc then s else setAccessed s pte, .dram (t.pa' a) nc)
        else (s, .fail 0x07)
      | .demand pte nc x w r busy =>
        if Need.ok need r w x then
          match walkerFill s die space a pte nc x w r busy with
          | (s, some f) => (s, .dram (f + a % 0x10000) nc)
          | (s, none) => (s, .demand)
        else (s, .fail 0x07)
      | .invalid => (s, .fail 0x06)

/-- A unit's read at the homes: the bytes, or the first failing address and its cause (0: it waits for a frame). -/
def unitRead (s : State) (die space a n : Nat) : State × Except (BitVec 8 × Nat) (List Byte) :=
  (pieces 128 (n / 128 + 2) a n).foldl (fun acc p =>
    match acc with
    | (s, .error e) => (s, .error e)
    | (s, .ok bs) =>
      match unitTranslate s die space p.1 .read with
      | (s, .fail c) => (s, .error (c, p.1))
      | (s, .demand) => (s, .error (0, p.1))
      | (s, t) => (s, .ok (bs ++ readTarget s t p.2))) (s, .ok [])

/-- The targets of a unit's write of `n` bytes, line by line: nothing may be written where one fails. Cause 0: it waits for a frame, or
until a checkpoint has copied the one it would change (20 R358). -/
def unitTargets (s : State) (die space a n : Nat) : State × Except (BitVec 8 × Nat) (List (Nat × Nat × Target)) :=
  (pieces 128 (n / 128 + 2) a n).foldl (fun acc p =>
    match acc with
    | (s, .error e) => (s, .error e)
    | (s, .ok l) =>
      match unitTranslate s die space p.1 .write with
      | (s, .fail c) => (s, .error (c, p.1))
      | (s, .demand) => (s, .error (0, p.1))
      | (s, t) => (s, if t.pending s then .error (0, p.1) else .ok (l ++ [(p.1, p.2, t)]))) (s, .ok [])

/-- A unit's write at the homes that is made whole or not at all (05 R94). -/
def unitWriteWhole (s : State) (die space a : Nat) (bs : List Byte) : State × Option (BitVec 8 × Nat) :=
  match unitTargets s die space a bs.length with
  | (s, .error e) => (s, some e)
  | (s, .ok l) => (l.foldl (fun s p => writeTarget s p.2.2 ((bs.drop (p.1 - a)).take p.2.1)) s, none)

/-- A unit's write at the homes, line by line; the lines before a failing one are written (24 R391). Cause 0: it waits for a frame, or
until a checkpoint has copied the one it would change (20 R358). -/
def unitWrite (s : State) (die space a : Nat) (bs : List Byte) : State × Option (BitVec 8 × Nat) :=
  (pieces 128 (bs.length / 128 + 2) a bs.length).foldl (fun acc p =>
    match acc with
    | (s, some e) => (s, some e)
    | (s, none) =>
      match unitTranslate s die space p.1 .write with
      | (s, .fail c) => (s, some (c, p.1))
      | (s, .demand) => (s, some (0, p.1))
      | (s, t) => if t.pending s then (s, some (0, p.1)) else (writeTarget s t ((bs.drop (p.1 - a)).take p.2), none)) (s, none)

end Sys2Proof.Machine
end

