-- ==== Sys2Proof/Machine/Barrier.lean ====
section
/-! DEFINITION. Barriers (14 R295-R302). A thread's 24 barriers are numbered pb 0-7, cb 8-15, db 16-19, gb 20-23. -/

namespace Sys2Proof.Machine

/-- Number of a barrier resource among a thread's 24 (14 R297): kinds 3 to 6 of 02 R29. -/
def barIndex (kind num : Nat) : Nat :=
  match kind with
  | 3 => num
  | 4 => 8 + num
  | 5 => 16 + num
  | _ => 20 + num

/-- Scope of a barrier (14 R298). -/
def barScope (b : Nat) : Scope := if b < 8 then .pg else if b < 16 then .cg else if b < 20 then .dg else .dev

/-- Clk from the last arrival to the release (14 R298). -/
def barLatency (b : Nat) : Nat := if b < 8 then 8 else if b < 16 then 24 else if b < 20 then 96 else 400

/-- A barrier of the tier instance of a partition group (14 R295). -/
def barOf (s : State) (pg b : Nat) : Bar :=
  let g := s.pg pg
  if b < 8 then g.bars.getD b Bar.init
  else if b < 16 then (s.cg (cgOfPg pg)).bars.getD (b - 8) Bar.init
  else if b < 20 then tget (s.launch g.lid).bars (g.dgid * 4 + (b - 16)) Bar.init
  else tget (s.launch g.lid).bars (32 + (b - 20)) Bar.init

/-- Change a barrier. -/
def modBar (s : State) (pg b : Nat) (f : Bar → Bar) : State :=
  let g := s.pg pg
  if b < 8 then modPg s pg fun x => { x with bars := x.bars.modify b f }
  else if b < 16 then modCg s (cgOfPg pg) fun x => { x with bars := x.bars.modify (b - 8) f }
  else if b < 20 then modLaunch s g.lid fun l => { l with bars := tupd l.bars (g.dgid * 4 + (b - 16)) Bar.init f }
  else modLaunch s g.lid fun l => { l with bars := tupd l.bars (32 + (b - 20)) Bar.init f }

/-- Whether a partition group belongs to the tier instance of barrier `b` of partition group `pg`. -/
def sameTier (s : State) (pg b other : Nat) : Bool :=
  let g := s.pg pg
  let h := s.pg other
  if b < 8 then decide (other = pg)
  else if b < 16 then decide (cgOfPg other = cgOfPg pg)
  else if b < 20 then decide (h.lid = g.lid) && decide (h.dgid = g.dgid)
  else decide (h.lid = g.lid)

/-- The partition groups of a tier instance. -/
def tierPgs (s : State) (pg b : Nat) : List Nat := (s.w.pgs.map (·.1)).filter fun k => sameTier s pg b k

/-- DEDUCED (log 13): a tier instance with a core group that has not been placed has members that have not arrived. -/
def tierPlaced (s : State) (pg b : Nat) : Bool :=
  let g := s.pg pg
  let l := s.launch g.lid
  if b < 16 then true
  else if b < 20 then decide (l.lr.ncg ≤ l.placed.getD g.dgid 0)
  else l.placed.all fun n => decide (l.lr.ncg ≤ n)

/-- A thread's arrival record. -/
def arrOf (t : Thread) (b : Nat) : Arrival := t.arr.getD b { pend := false, gen := none }

/-- Whether a thread is counted in the current generation. -/
def arrived (gen : BitVec 16) (b : Nat) (t : Thread) : Bool := (arrOf t b).pend && decide ((arrOf t b).gen = some gen)

/-- Every live thread of a partition group is counted in the generation. -/
def pgArrived (g : PartGroup) (gen : BitVec 16) (b : Nat) : Bool := g.threads.all fun t => !t.live || arrived gen b t

/-- A completed generation of a die or grid barrier resets the race counters of the lines of the dies it spans (14 R302, 20 R366). -/
def resetRace (s : State) (pg b : Nat) : State :=
  let g := s.pg pg
  if decide (16 ≤ b) && s.rb.rcEn && decide (s.rb.rcLaunch = g.lid) then
    let dies := if b < 20 then [dieOfCore g.core] else (s.launch g.lid).dies
    dies.foldl (fun s d => modDie s d fun x => { x with l2 := x.l2.map fun l => { l with writers := [] } }) s
  else s

/-- The number by which an event of barrier `b`, generation `gen`, stands in a core group's list of deliveries (06 R134). -/
def barEvent (b : Nat) (gen : BitVec 16) : Nat := 2 ^ 40 + b * 65536 + gen.toNat

/-- The slot at which an event of phase `e` from outside reaches a core group (06 R134). -/
def deliverySlot (dist e : Nat) : Nat := (e + 2 * dist + 1) * Config.phaseSlots

/-- A barrier whose every member has arrived completes its generation (14 R296); the release is due after the latency of R298,
under DSM 64 slots later for pb and cb (06 R131) and at the phase of 06 R134 for db and gb. -/
def checkBar (s : State) (pg b : Nat) : State :=
  let bar := barOf s pg b
  let tier := tierPgs s pg b
  let live := tier.any fun k => (s.pg k).threads.any Thread.live
  if live && tierPlaced s pg b && tier.all fun k => pgArrived (s.pg k) bar.gen b then
    let l := s.launch (s.pg pg).lid
    if l.lr.dsm && decide (16 ≤ b) then
      let s := (dedup (tier.map cgOfPg)).foldl (fun s c => modCg s c fun x =>
        { x with dsm := { x.dsm with due := x.dsm.due ++ [(barEvent b bar.gen, deliverySlot l.dist bar.phase)] } }) s
      resetRace (modBar s pg b fun x => { gen := x.gen + 1, rels := [], phase := 0 }) pg b
    else
      let due := if l.lr.dsm then timeOf s (cgOfPg pg) + Config.dsmLatency else s.clk + barLatency b
      resetRace (modBar s pg b fun x => { gen := x.gen + 1, rels := x.rels ++ [(x.gen, due)], phase := 0 }) pg b
  else s

/-- Count a thread at a barrier (14 R300, the part of BARA after the check). -/
def arriveBar (s : State) (t : ThreadRef) (b : Nat) : State :=
  let gen := (barOf s t.pg b).gen
  let ph := (s.cg (cgOfPg t.pg)).dsm.slot / Config.phaseSlots
  let s := modThread s t fun x => { x with arr := x.arr.set b { pend := true, gen := some gen } }
  checkBar (modBar s t.pg b fun x => { x with phase := Nat.max x.phase ph }) t.pg b

/-- A generation of a barrier has completed and its release has been delivered to a partition group's core group. -/
def barReleased (s : State) (pg b : Nat) (gen : BitVec 16) : Bool :=
  let bar := barOf s pg b
  decide (bar.gen ≠ gen) && !(bar.rels.any fun r => decide (r.1 = gen))
    && !((s.cg (cgOfPg pg)).dsm.due.any fun d => decide (d.1 = barEvent b gen))

/-- A thread that a pb or cb releases sees, under DSM, the stores issued so far by its partition group or its core group (15 R315). -/
def Thread.seeStores (t : Thread) (b n : Nat) : Thread :=
  if b < 8 then { t with seenPg := n } else if b < 16 then { t with seenCg := n } else t

/-- Deliver a release to the waiting threads of the given partition groups (14 R298): the acquire action of the scope on their
cores, then they are ready and their pending bits clear (R300). -/
def releaseWaiters (s : State) (pgs : List Nat) (b : Nat) (gen : BitVec 16) : State :=
  pgs.foldl (fun s k =>
    let waits (t : Thread) : Bool := decide (t.wait = .barrier b gen)
    if (s.pg k).threads.any waits then
      let s := acquireActions s (s.pg k).core (barScope b)
      modPg s k fun g => { g with threads := (g.threads.map fun t =>
        if waits t then ({ t with wait := .ready, arr := t.arr.set b { pend := false, gen := some gen } }).seeStores b s.w.nextId else t) }
    else s) s

/-- Every barrier of a partition group is looked at again after a thread has ended (14 R296, 06 R128). -/
def checkAllBars (s : State) (pg : Nat) : State := (List.range 24).foldl (fun s b => checkBar s pg b) s

/-- A thread that has ended leaves its barriers (06 R128, 14 R296). DEDUCED (log 123): under DSM the phase of its end counts for a db or gb as
that of an arrival does, where the generation waits for that end because the thread had not arrived in it (06 R134). -/
def leaveBars (s : State) (t : ThreadRef) : State :=
  let ph := (s.cg (cgOfPg t.pg)).dsm.slot / Config.phaseSlots
  let s := if (s.launch (s.pg t.pg).lid).lr.dsm then
      [16, 17, 18, 19, 20, 21, 22, 23].foldl (fun s b =>
        if arrived (barOf s t.pg b).gen b (s.thread t) then s else modBar s t.pg b fun x => { x with phase := Nat.max x.phase ph }) s
    else s
  checkAllBars s t.pg

/-- The expected and the arrived units of a barrier (14 R301): a core group counts until it ends (20 R349), a die group until its last
core group does. -/
def barCounts (s : State) (pg b : Nat) : Nat × Nat :=
  let gen := (barOf s pg b).gen
  let g := s.pg pg
  let l := s.launch g.lid
  let tier := tierPgs s pg b
  let livePg (k : Nat) : Bool := !(s.pg k).ended
  let cgs := dedup (tier.map cgOfPg)
  let liveCg (c : Nat) : Bool := !(s.cg c).ended
  let arrCg (c : Nat) : Bool := liveCg c && (tier.filter fun k => decide (cgOfPg k = c)).all fun k => pgArrived (s.pg k) gen b
  if b < 8 then ((g.threads.filter Thread.live).length, (g.threads.filter fun x => x.live && arrived gen b x).length)
  else if b < 16 then ((tier.filter livePg).length, (tier.filter fun k => livePg k && pgArrived (s.pg k) gen b).length)
  else if b < 20 then ((cgs.filter liveCg).length + (l.lr.ncg - l.placed.getD g.dgid 0), (cgs.filter arrCg).length)
  else
    let dgs := List.range l.lr.ndg
    let ofDg (d : Nat) : List Nat := cgs.filter fun c => decide ((s.cg c).dgid = d)
    let whole (d : Nat) : Bool := decide (l.lr.ncg ≤ l.placed.getD d 0)
    ((dgs.filter fun d => !whole d || (ofDg d).any liveCg).length,
     (dgs.filter fun d => whole d && (ofDg d).any liveCg && (ofDg d).all fun c => !liveCg c || arrCg c).length)

/-- Completed generations of a barrier that a DSM core group has not been given yet (06 R131, R134). -/
def undelivered (s : State) (pg b : Nat) : Nat :=
  if b < 16 then (barOf s pg b).rels.length
  else ((s.cg (cgOfPg pg)).dsm.due.filter fun d => decide (2 ^ 40 + b * 65536 ≤ d.1) && decide (d.1 < 2 ^ 40 + (b + 1) * 65536)).length

/-- The word BARQ writes (14 R301); under DSM a completion shows once it has been delivered (14 R302), and until then every unit of a
generation that has completed shows as arrived. A thread that has made no arrival reads `bq.done` 0. -/
def barqWord (s : State) (t : ThreadRef) (b : Nat) : Word :=
  let bar := barOf s t.pg b
  let a := arrOf (s.thread t) b
  let dsm := (s.launch (s.pg t.pg).lid).lr.dsm
  let hidden := if dsm then undelivered s t.pg b else 0
  let done := a.gen.any fun n => if dsm then barReleased s t.pg b n else decide (n ≠ bar.gen)
  let n := barCounts s t.pg b
  let arr := if hidden = 0 then n.2 else n.1
  let low := if dsm && decide (16 ≤ b) then 0 else n.1 % 4096 * 2 ^ 12 + arr % 4096
  word (bnat a.pend * 2 ^ 31 + bnat done * 2 ^ 30 + (bar.gen.toNat + 65536 - hidden) % 64 * 2 ^ 24 + low)

end Sys2Proof.Machine
end

