-- ==== Sys2Proof/Machine/Engine.lean ====
section
/-! DEFINITION. Dependence counters (05 R98, R99, R107), range locks (09 R210, R211), and the matrix engine's gangs, latch,
ownership and acceptance (11 R238-R243, R251-R257). -/

namespace Sys2Proof.Machine

/-! Dependence counters. -/

/-- Index of a launch's counter `c` in the table of the die of die group `dg` (05 R98). -/
def dcSlot (s : State) (lid dg c : Nat) : Nat := (s.launch lid).dcBase.getD dg 0 + c

def dcGet (s : State) (lid dg c : Nat) : Counter :=
  tget (s.die ((s.launch lid).dies.getD dg 0)).counters (dcSlot s lid dg c) { value := 0, err := false }

def dcPut (s : State) (lid dg c : Nat) (x : Counter) : State :=
  modDie s ((s.launch lid).dies.getD dg 0) fun d => { d with counters := tput d.counters (dcSlot s lid dg c) x }

/-- A queue record of die group `dg` is held on counter `c`. -/
def heldOn (l : Launch) (dg c : Nat) : Bool :=
  l.queues.any fun q => decide (q.1 / 8 = dg) && q.2.any fun r => decide (r.held = some c)

/-- Release every task held on a counter (05 R99); they become ready in the order in which they were accepted (log 20). -/
def dcRelease (s : State) (lid dg c : Nat) : State :=
  let n := s.w.nextId
  let s := { s with w := { s.w with nextId := n + 1 + (s.launch lid).queues.foldl (fun m q => m + q.2.length) 0 } }
  modLaunch s lid fun l =>
    let held := sortBy (fun r : QRec => r.seq)
      (l.queues.flatMap fun q => if q.1 / 8 = dg then q.2.filter fun r => decide (r.held = some c) else [])
    let rank (r : QRec) : Nat := held.findIdx fun x => x = r
    { l with queues := (l.queues.map fun q =>
        if q.1 / 8 = dg then
          (q.1, q.2.map fun r => if r.held = some c then { r with held := none, seq := n + 1 + rank r, phase := l.phase } else r)
        else q) }

/-- DCNEW (05 R107). -/
def dcNew (s : State) (lid dg c v : Nat) : State :=
  let x := dcGet s lid dg c
  let s := if 65535 < v then dcPut s lid dg c { value := 65535, err := true } else dcPut s lid dg c { x with value := v }
  if v = 0 then dcRelease s lid dg c else s

/-- DCDEC, and the decrements of engines and ends (05 R94, R100, R107). -/
def dcDec (s : State) (lid dg c n : Nat) : State :=
  let x := dcGet s lid dg c
  if n = 0 then s
  else
    let y : Counter := if x.value < n then { value := 0, err := true } else { x with value := x.value - n }
    let s := dcPut s lid dg c y
    if y.value = 0 then dcRelease s lid dg c else s

/-- A counter operation of a DSM core group that no register waits for: it joins the launch's commit queue (05 R98, 14 R310). -/
def queueTask (s : State) (th : ThreadRef) (op : TaskOp) : State :=
  let g := s.pg th.pg
  let d := (s.cg (cgOfPg th.pg)).dsm
  let (id, s) := nextId s
  let a : Acc := { id := id, pg := th.pg, core := g.core, space := (s.launch g.lid).space, lid := g.lid,
                   site := { pc := 0, hdr := 0, len := 0 }, kind := .task op, va := 0, pa := 0, bytes := 0, nc := false, nt := false,
                   scope := .dev, ord := .rlx, lanes := [{ tid := th.tid, va := 0, val := 0, val2 := 0, pend := none, cflags := [] }],
                   stage := .home, key := some (d.slot / Config.phaseSlots, (d.slot * 6 + g.part % 6) * 2 ^ 40 + d.seq),
                   word := id }
  let s := modCg s (cgOfPg th.pg) fun x => { x with dsm := { x.dsm with seq := x.dsm.seq + 1 } }
  { s with w := { s.w with accs := s.w.accs ++ [a] } }

/-- An operation arrives at the dispatcher of a die group's die, which applies it at the end of the clk (05 R98). -/
def arriveDisp (s : State) (core lid dg : Nat) (th : ThreadRef) (pend : Option Nat) (op : TaskOp) : State :=
  modDie s ((s.launch lid).dies.getD dg 0) fun d =>
    { d with disp := d.disp ++ [{ core := core, lid := lid, dg := dg, th := th, pend := pend, op := op }] }

/-- A decrement that an engine or a task's end makes (05 R100, 11 R256). -/
def unitDec (s : State) (th : ThreadRef) (c : Nat) : State :=
  let g := s.pg th.pg
  if (s.launch g.lid).lr.dsm then queueTask s th (.dcdec c 1) else arriveDisp s g.core g.lid g.dgid th none (.dcdec c 1)

/-- The word DCQ writes (05 R107). -/
def dcWord (s : State) (lid dg c : Nat) : Word :=
  let x := dcGet s lid dg c
  word (bnat x.err * 2 ^ 31 + bnat (heldOn (s.launch lid) dg c) * 2 ^ 30 + x.value)

/-! Range locks. -/

/-- Two line ranges overlap. -/
def overlaps (alo ahi blo bhi : Nat) : Bool := decide (alo ≤ bhi) && decide (blo ≤ ahi)

/-- A thread access of a core-group slot to bytes of a space meets a lock it may not touch (09 R210). -/
def lockHit (locks : List RLock) (space slot a n : Nat) (write : Bool) : Bool :=
  locks.any fun l => decide (l.space = space) && decide (l.slot = slot) && (l.write || write)
    && overlaps l.lo l.hi (a / 128) ((a + n - 1) / 128)

/-- A lock of an operation overlaps a valid entry of another one, at least one of the two a write lock (09 R211): one registered before its
own, which stand in the table in the order of registration; any, where its own are not registered yet. -/
def lockBlocked (locks mine : List RLock) (id : Nat) : Bool :=
  mine.any fun m => (locks.takeWhile fun l => l.owner != id).any fun l => decide (l.space = m.space) && decide (l.slot = m.slot)
    && (l.write || m.write) && overlaps l.lo l.hi m.lo m.hi

/-- The 32 entries of a core have room for more (09 R210). -/
def lockRoom (c : Core) (n : Nat) : Bool := decide (c.locks.length + n ≤ 32)

def addLocks (s : State) (core : Nat) (ls : List RLock) : State := modCore s core fun c => { c with locks := c.locks ++ ls }
/-- An operation's lock entries go, and its pins with them (08 R183, 09 R210). -/
def dropLocks (s : State) (core owner : Nat) : State :=
  dropPins (modCore s core fun c => { c with locks := c.locks.filter fun l => l.owner != owner }) core owner
/-- The lock entries of a core that meet a test go, and the pins of their owners. -/
def dropLocksWhere (s : State) (core : Nat) (f : RLock → Bool) : State :=
  modCore s core fun c =>
    let owners := (c.locks.filter f).map fun l => l.owner
    { c with locks := c.locks.filter (fun l => !f l), pins := c.pins.filter fun p => !owners.contains p.1 }

/-! Gangs (11 R238). -/

/-- The members of a partition group's gang. -/
def gangMembers (g : CoreGroup) (pgid : Nat) : List Nat := (g.gangs.find? fun m => m.contains pgid).getD [pgid]

def gangOf (s : State) (pg : Nat) : Gang :=
  let g := s.pg pg
  { cg := cgOfPg pg, serial := (s.launch g.lid).serial, members := gangMembers (s.cg (cgOfPg pg)) g.pgid }

def Gang.has (g : Gang) (cg pgid : Nat) : Bool := decide (g.cg = cg) && g.members.contains pgid

def engOf (s : State) (pg : Nat) : Engine := (s.core (s.pg pg).core).eng

/-- The gang of a partition group owns its core's engine, or waits for it (11 R241). -/
def ownsEngine (s : State) (pg : Nat) : Bool :=
  match (engOf s pg).owner with
  | some o => o.has (cgOfPg pg) (s.pg pg).pgid
  | none => false
def waitsEngine (s : State) (pg : Nat) : Bool := (engOf s pg).queue.any fun o => o.has (cgOfPg pg) (s.pg pg).pgid
/-- The gang was the engine's last owner and has not ended. -/
def lastOwner (s : State) (pg : Nat) : Bool :=
  let e := engOf s pg
  !e.lastEnded && (match e.last with
    | some o => o.has (cgOfPg pg) (s.pg pg).pgid
    | none => false)

def engFrozen (e : Engine) : Bool := e.frozenM.isSome || e.frozenP

/-- The partition of a gang's leader, its member of lowest `pgid` (11 R238). -/
def leaderPart (s : State) (g : Gang) : Nat := (s.pg (pgKey g.cg ((minBy? id g.members).getD 0))).part

/-- A request takes its place in the ownership queue: in order of arrival, those of one clk by the partition of the leader (11 R241). -/
def queueGang (s : State) (q : List Gang) (g : Gang) : List Gang :=
  q.filter (fun x => x.since != g.since) ++ insertBy (leaderPart s) g (q.filter fun x => x.since == g.since)

/-- Ask for the engine (11 R241): one entry per gang, at most 16. -/
def requestEngine (s : State) (pg : Nat) : State :=
  if ownsEngine s pg || waitsEngine s pg then s
  else modEng s (s.pg pg).core fun e =>
    if e.queue.length < 16 then { e with queue := queueGang s e.queue { gangOf s pg with since := timeOf s (cgOfPg pg) } } else e

/-! Tiles (11 R253). -/

def tileOf (s : State) (core q : Nat) : Tile := tget (s.core core).eng.tiles q Tile.init
def modTile (s : State) (core q : Nat) (f : Tile → Tile) : State :=
  modEng s core fun e => { e with tiles := tupd e.tiles q Tile.init f }

/-- Put a tile into the error phase. -/
def tileError (s : State) (core q : Nat) (cause : BitVec 8) (val : Nat) : State :=
  modTile s core q fun t => { t with cause := cause, val := BitVec.ofNat 20 val }

/-- Tiles of a mask. -/
def tilesOf (m : BitVec 16) : List Nat := (List.range 16).filter fun q => m.getLsbD q

/-- An operation of the gang naming a tile of the mask is in flight (11 R243, R255): accepted and not complete. -/
def tileBusy (e : Engine) (m : BitVec 16) : Bool := e.ops.any fun o => o.accepted && o.tiles &&& m != 0

/-- A tile is in flight for the gang of a partition group (11 R243). -/
def tileInFlight (s : State) (pg q : Nat) : Bool :=
  let e := engOf s pg
  if ownsEngine s pg then tileBusy e (1 <<< q)
  else if e.owner.isSome then true
  else !lastOwner s pg

/-! Acceptance (11 R251). -/

/-- Whether an operation runs in the drain port rather than the compute pipe (11 R254). -/
def MatKind.drainPort (k : MatKind) : Bool :=
  match k with
  | .zero | .drain _ | .fill _ => true
  | .mma .. | .mmas .. => false

/-- The K depth of an A type and the width of its elements in bytes (11 R249). -/
def matK (t : Ty) : Nat := if t.bits = 16 then 64 else 128

/-- Blocks per panel (11 R245) of `rs.blk`. -/
def blocksOf (blk : Nat) : Nat := match blk with
  | 0 => 0
  | 1 => 4
  | 2 => 2
  | _ => 1

/-- Bytes of a panel and of its scales (11 R245). -/
def panelBytes (fmt : Nat) : Nat := if fmt = 14 then 4096 else 16384
def scaleBytes (r : Resv) : Nat := blocksOf r.blk * 128 * (if r.sfmt = 0 then 1 else 2)

def selRes (sel : Word) : Nat := sel.toNat / 2 ^ 28
def selPanel (sel : Word) : Nat := sel.toNat % 2 ^ 16

/-- A lock entry over two byte ranges: from the lowest line to the highest (DEDUCED, log 17); an empty second range adds nothing. -/
def spanLock (write : Bool) (space slot eng id owner a n b m : Nat) : RLock :=
  let lo := if m = 0 then a else Nat.min a b
  let hi := if m = 0 then a + n else Nat.max (a + n) (b + m)
  { write := write, space := space, slot := slot, eng := eng, id := id, lo := lo / 128, hi := (hi - 1) / 128, owner := owner }

/-- Bytes of the A scales of an operation on a reservation (11 R245, R249): one for each row and block of the panel. -/
def aScaleBytes (s : State) (core : Nat) (sel : Word) : Nat :=
  match tget? (s.core core).resv (selRes sel) with
  | some r => blocksOf r.blk * 128
  | none => 0

/-- The lock entries of an operation (11 R251, R254). -/
def opLocks (s : State) (o : MatOp) : List RLock :=
  let slot := (s.cg o.gang.cg).slot
  let q := (tilesOf o.tiles).headD 0
  let panel (sel : Word) : List RLock :=
    match tget? (s.core o.core).resv (selRes sel) with
    | some r =>
      let p := selPanel sel
      [spanLock false 2 slot 2 q o.id (r.off + p * panelBytes r.fmt) (panelBytes r.fmt) (r.scale + p * scaleBytes r) (scaleBytes r)]
    | none => []
  match o.kind with
  | .mma _ a sel => spanLock false 1 slot 2 q o.id a.toNat 16384 0 0 :: panel sel
  | .mmas _ a sc sel => spanLock false 1 slot 2 q o.id a.toNat 16384 sc.toNat (aScaleBytes s o.core sel) :: panel sel
  | .zero => []
  | .drain va => [spanLock true 0 slot 3 q o.id va 65664 0 0]
  | .fill va => [spanLock false 0 slot 3 q o.id va 65664 0 0]

/-- Under DSM the acceptance of an operation is an event of 06 R131: it comes 64 slots after the latch has closed. -/
def acceptDue (s : State) (o : MatOp) : Bool :=
  !(s.launch (s.cg o.gang.cg).lid).lr.dsm || decide (o.since + Config.dsmLatency ≤ timeOf s o.gang.cg)

/-- Clk, under DSM slots, by which a causal trial delays the start of an engine operation of a word outside its range (22 R376). -/
def trialEngine (s : State) (lid pc : Nat) : Nat :=
  if s.trial.inTrial && decide (s.trial.launch = lid) && !(decide (s.trial.lo ≤ pc) && decide (pc < s.trial.hi)) then s.trial.e else 0

/-- An operation of the engine is accepted: those accepted stand first, in the order of their acceptance. -/
def acceptMat (e : Engine) (o : MatOp) (t : Nat) : Engine :=
  { e with ops := e.ops.filter (fun x => x.accepted) ++ { o with accepted := true, since := Nat.max o.since t }
      :: e.ops.filter fun x => !x.accepted && x.id != o.id }

/-- Accept, in the order they were offered, the operations of the owning gang for whose locks there is room; a frozen engine's latch
grants nothing (11 R257). -/
def acceptOps (s : State) (core : Nat) : State :=
  (s.core core).eng.ops.foldl (fun s o =>
    let e := (s.core core).eng
    let owned := match e.owner with
      | some g => decide (g.cg = o.gang.cg) && o.gang.members.any fun m => g.members.contains m
      | none => false
    let ls := opLocks s o
    if !o.accepted && owned && acceptDue s o && !engFrozen e && lockRoom (s.core core) ls.length then
      addLocks (modEng s core fun e => acceptMat e o (timeOf s o.gang.cg)) core ls
    else s) s

/-- Offer a joint operation to the engine (11 R239, R241): it asks for the engine if its gang neither owns nor awaits it. -/
def offerOp (s : State) (pg : Nat) (kind : MatKind) (tiles : BitVec 16) (tid : Nat) (site : WordAt)
    (waiters : List (Nat × Nat)) : State :=
  let (id, s) := nextId s
  let core := (s.pg pg).core
  let o : MatOp := { id := id, kind := kind, tiles := tiles, gang := gangOf s pg, th := { pg := pg, tid := tid }, core := core,
                     space := (s.launch (s.pg pg).lid).space, site := site, waiters := waiters, accepted := false,
                     since := timeOf s (cgOfPg pg) + trialEngine s (s.pg pg).lid site.pc, due := none }
  let s := requestEngine s pg
  acceptOps (modEng s core fun e => { e with ops := e.ops ++ [o] }) core

/-- The first latched word of a member. -/
def latchHead (g : CoreGroup) (pgid : Nat) : Option Latched := g.latch.find? fun x => x.pgid = pgid

/-- Close the latch of a gang while every remaining member has a word there (11 R239): offer the operation if the words agree,
else put every named tile into the error phase with the mask of members that differ from the leader, the lowest pgid; a frozen
engine's latch grants nothing (R257). Under DSM the closing is an event: it comes 64 slots after the last arrival (06 R131). -/
def closeLatch (fuel : Nat) (s : State) (cg : Nat) (members : List Nat) : State :=
  match fuel with
  | 0 => s
  | k + 1 =>
    let g := s.cg cg
    let heads := (sortBy id members).map fun m => (m, latchHead g m)
    let here (x : Option Latched) : Bool := match x with
      | some x => !(s.launch g.lid).lr.dsm || decide (x.since + Config.dsmLatency ≤ timeOf s cg)
      | none => false
    match heads with
    | (m0, some x0) :: _ =>
      if !engFrozen (s.core g.core).eng && heads.all fun h => here h.2 then
        let xs := heads.filterMap fun h => h.2
        let s := modCg s cg fun g => { g with latch := g.latch.filter fun x => !xs.contains x }
        let differ := xs.filter fun x => !(decide (x.kind = x0.kind) && decide (x.tiles = x0.tiles))
        let s :=
          if differ.isEmpty then offerOp s (pgKey cg m0) x0.kind x0.tiles x0.tid x0.site (xs.map fun x => (x.pgid, x.pos))
          else
            let mask := differ.foldl (fun n x => n + 2 ^ x.pgid) 0
            (tilesOf (xs.foldl (fun m x => m ||| x.tiles) 0)).foldl (fun s q => tileError s (s.cg cg).core q 0x01 mask) s
        closeLatch k s cg members
      else s
    | _ => s

/-- A word arrives at its gang's latch (11 R239); while the engine is frozen a drain or fill of the owning launch goes to the
drain port without the latch and without ownership (R257). -/
def arriveLatch (s : State) (pg pos tid : Nat) (site : WordAt) (kind : MatKind) (tiles : BitVec 16) : State :=
  let cg := cgOfPg pg
  let core := (s.pg pg).core
  let e := (s.core core).eng
  let bypass := engFrozen e && (match kind, e.owner with
    | .drain _, some o | .fill _, some o => decide (o.serial = (s.launch (s.pg pg).lid).serial)
    | _, _ => false)
  if bypass then
    let (id, s) := nextId s
    let o : MatOp := { id := id, kind := kind, tiles := tiles, gang := gangOf s pg, th := { pg := pg, tid := tid }, core := core,
                       space := (s.launch (s.pg pg).lid).space, site := site, waiters := [], accepted := true,
                       since := timeOf s cg + trialEngine s (s.pg pg).lid site.pc, due := none }
    addLocks (modEng s core fun e => { e with ops := e.ops ++ [o] }) core (opLocks s o)
  else
    let x : Latched :=
      { pgid := (s.pg pg).pgid, tid := tid, pos := pos, site := site, kind := kind, tiles := tiles, since := timeOf s cg }
    let s := modCg s cg fun g => { g with latch := g.latch ++ [x] }
    closeLatch (s.cg cg).latch.length s cg (gangMembers (s.cg cg) (s.pg pg).pgid)

/-! Ownership (11 R242). -/

/-- The owner lets the engine go; the grant of the next is an event. -/
def releaseEngine (s : State) (core : Nat) : State :=
  modEng s core fun e => match e.owner with
    | some o => { e with owner := none, last := some o, lastEnded := false }
    | none => e

/-- Grant the engine to the head of the queue: tiles and status are cleared, which takes 64 clk, unless the last owner's launch is
the same live instance (11 R242); under DSM a grant takes 64 slots in any case (06 R131, 11 R251). A restored gang brings back its
tiles and its held operations, first in order (11 R257). -/
def grantEngine (s : State) (core : Nat) : State :=
  let e := (s.core core).eng
  match e.queue with
  | [] => s
  | g :: rest =>
    let keep := match e.last with
      | some o => decide (o.serial = g.serial) && s.w.launches.any fun l => decide (l.2.serial = o.serial)
      | none => false
    let t := timeOf s g.cg
    let back := (s.cg g.cg).engBack
    let ready := if keep && !(s.launch (s.cg g.cg).lid).lr.dsm then t else t + 64
    let s := modEng s core fun e =>
      match back with
      | some b => { e with owner := some g, queue := rest, tiles := b.tiles, ops := b.ops ++ e.ops, armed := b.armed ++ e.armed,
                           readyAt := t + b.wait, frozenM := if b.frozen then some g.cg else e.frozenM }
      | none => { e with owner := some g, queue := rest, tiles := if keep then e.tiles else [], readyAt := ready }
    acceptOps (modCg s g.cg fun c => { c with engBack := none }) core

/-- Decrements armed on a tile fire once the operations they wait for are complete and, as a release at .dev does, once what the die's L2 has
accepted for other homes is performed there (08 R189); a tile in the error phase drops them (11 R256). -/
def fireArmed (s : State) (core : Nat) : State :=
  let e := (s.core core).eng
  let free (a : Armed) : Bool := a.ops.isEmpty
    && ((s.launch (s.cg a.cg).lid).lr.dsm || (s.die (dieOfCore core)).wq.isEmpty)
  let fired := e.armed.filter free
  let s := modEng s core fun e => { e with armed := e.armed.filter fun a => !free a }
  fired.foldl (fun s a =>
    if (tileOf s core a.tile).cause = 0 then
      unitDec s { pg := pgKey a.cg 0, tid := 0 } a.counter
    else s) s

/-- A gang whose every member has ended gives up the engine once its accepted operations have completed, and is then no last owner
(11 R242, R243). -/
def settleOwner (s : State) (core : Nat) : State :=
  modEng s core fun e =>
    let e := match e.owner with
      | some o =>
        if o.members.isEmpty && !e.ops.any (fun x => x.accepted && decide (x.gang.cg = o.cg)) then
          { e with owner := none, last := some o, lastEnded := true }
        else e
      | none => e
    match e.last with
    | some o => if o.members.isEmpty then { e with lastEnded := true } else e
    | none => e

/-- Complete an operation: its locks go, armed decrements look again, and waiting operations are accepted (11 R251, R256). -/
def finishOp (s : State) (core id : Nat) : State :=
  let s := modEng s core fun e =>
    { e with ops := e.ops.filter (fun o => o.id != id), armed := e.armed.map fun a => { a with ops := a.ops.filter (· != id) } }
  settleOwner (acceptOps (fireArmed (dropLocks s core id) core) core) core

/-- Whether the gang of a partition group has an operation offered and not complete. -/
def gangBusy (s : State) (pg : Nat) : Bool :=
  let m := gangMembers (s.cg (cgOfPg pg)) (s.pg pg).pgid
  (engOf s pg).ops.any fun o => decide (o.gang.cg = cgOfPg pg) && o.gang.members.any fun x => m.contains x

/-- Form or dissolve gangs once every named member has asked with the same mask (11 R238); under DSM 64 slots after the last of them did
(06 R131). -/
def settleGangs (s : State) (cg : Nat) : State :=
  let g := s.cg cg
  let here (m : Nat) : Bool := !(s.launch g.lid).lr.dsm || decide (tget g.gangAt m 0 + Config.dsmLatency ≤ timeOf s cg)
  let formed := g.gangAsk.find? fun a =>
    let members := (List.range 6).filter fun i => a.2.getLsbD i
    decide (a.2 ≠ 0) && members.all fun m => here m && g.gangAsk.any fun b => decide (b = (m, a.2))
  match formed with
  | some a =>
    let members := (List.range 6).filter fun i => a.2.getLsbD i
    modCg s cg fun g => { g with gangs := members :: (g.gangs.map fun m => m.filter fun x => !members.contains x).filter (2 ≤ ·.length),
                                 gangAsk := g.gangAsk.filter fun b => !members.contains b.1 }
  | none =>
    let gone := (dedup (g.gangAsk.map fun a => gangMembers g a.1)).find? fun m =>
      m.all fun x => here x && g.gangAsk.any fun b => decide (b = (x, 0))
    match gone with
    | some m =>
      let core := g.core
      let owned := match (s.core core).eng.owner with
        | some o => decide (o.cg = cg) && m.any fun x => o.members.contains x
        | none => false
      let s := if owned then releaseEngine s core else s
      let s := modEng s core fun e => { e with queue := e.queue.filter fun o => !(decide (o.cg = cg) && m.any fun x => o.members.contains x) }
      modCg s cg fun g => { g with gangs := g.gangs.filter (· != m), gangAsk := g.gangAsk.filter fun b => !m.contains b.1 }
    | none => s

/-- The events of a DSM core group's engine and gangs that come due with a slot (06 R131): latches close, gangs form or dissolve,
operations are accepted. -/
def slotEngine (s : State) (cg : Nat) : State :=
  let s := (dedup ((s.cg cg).latch.map fun x => gangMembers (s.cg cg) x.pgid)).foldl
    (fun s m => closeLatch (s.cg cg).latch.length s cg m) s
  let s := (List.range (s.cg cg).gangAsk.length).foldl (fun s _ => settleGangs s cg) s
  acceptOps s (s.cg cg).core

/-- A partition group leaves its gang when its last thread ends (11 R239, R242): the latch waits for those that remain, and a gang
with no member left gives up the engine, its place in the queue and what it has offered without acceptance. -/
def leaveGang (s : State) (pg : Nat) : State :=
  let cg := cgOfPg pg
  let pgid := (s.pg pg).pgid
  let core := (s.pg pg).core
  let rest := (gangMembers (s.cg cg) pgid).filter (· != pgid)
  let drop (o : Gang) : Gang := if o.cg = cg then { o with members := o.members.filter (· != pgid) } else o
  let s := modCg s cg fun g =>
    { g with gangs := (g.gangs.map fun m => m.filter (· != pgid)).filter (2 ≤ ·.length),
             gangAsk := g.gangAsk.filter fun b => b.1 != pgid, latch := g.latch.filter fun x => x.pgid != pgid }
  let s := settleOwner (modEng s core fun e =>
    { e with owner := e.owner.map drop, last := e.last.map drop, queue := (e.queue.map drop).filter (fun o => !o.members.isEmpty),
             ops := e.ops.filter fun o => o.accepted || !rest.isEmpty || !o.gang.has cg pgid }) core
  settleGangs (closeLatch (s.cg cg).latch.length s cg rest) cg

end Sys2Proof.Machine
end

