-- ==== Sys2Proof/Machine/Access.lean ====
section
/-! DEFINITION. What stands before a thread's access (08 R174, R181; 09 R196, R210; 22 R383), accesses performed with their
instruction (log 15), race counters (20 R366), and choice vectors (10). -/

namespace Sys2Proof.Machine

/-- A memory trap: `tval` VA[31:0], and VA[55:32] for the entry (08 R181). -/
def memTrap (cause : BitVec 8) (va : Nat) : Trap := { cause := cause, val := word va, vahi := BitVec.ofNat 24 (va >>> 32) }

/-- A trap that names no memory address. -/
def plainTrap (cause : BitVec 8) (val : Nat) : Trap := { cause := cause, val := word val, vahi := 0 }

/-- The word waits for a frame at an address and is tried again (08 R182). -/
def holdTrap (va : Nat) : Trap := { memTrap 0 va with retry := .frame va }

/-- The word is tried again for another reason than a frame. -/
def againTrap (why : Again) : Trap := { plainTrap 0 0 with retry := if why = .no then .unit else why }

/-- Why a lane has to be tried again; none where it traps. -/
def Trap.again (x : Trap) : Option Again := if x.retry = .no then none else some x.retry

/-! Logical clocks and the order log. -/

/-- The first record that the log of a replayed interval still holds of a type, a launch and a party (20 R365). -/
def State.logged (s : State) (type lid who : Nat) : Option LogRec :=
  match s.replay with
  | none => none
  | some p => p.recs.find? fun r => decide (r.type = type) && decide (r.launch = lid) && decide (r.who = who)

/-- A replay has met a record again. -/
def metAgain (s : State) (r : LogRec) : State :=
  { s with replay := s.replay.map fun p => { p with recs := p.recs.erase r } }

/-- Append an order-log record (20 R364) to the interval's log and its ring; a full ring loses it and starts a checkpoint. -/
def appendLog (s : State) (r : LogRec) : State :=
  let s := metAgain s r
  let cap := 2 ^ s.rb.olLsize / 16
  if cap ≤ s.log.length then
    if s.logLost then s
    else { s with logLost := true, ckptForced := true, rb := { s.rb with olLost := satInc s.rb.olLost } }
  else
    let v := r.type * 2 ^ 124 + r.launch * 2 ^ 108 + r.who % 2 ^ 32 * 2 ^ 76 + r.seq % 2 ^ 28 * 2 ^ 48 + r.val % 2 ^ 48
    let s := homeWrite s none (s.rb.olBase + 16 * s.log.length) (bytesOfNat 16 v)
    { s with log := s.log ++ [r], rb := { s.rb with olWr := s.rb.olWr + 1 } }

/-- The key of a line's clock: DRAM lines, then the window's. -/
def clockLine (win : Bool) (pa : Nat) : Nat := if win then 2 ^ 40 + pa / 128 else pa / 128

/-- The clock that a jump gives a party's ordering access (20 R363): beyond the line's; in a replay that of its jump record, if it has one
for this access (20 R365). -/
def jumpClock (s : State) (lid who ord c l : Nat) : Option Nat :=
  if s.replay.isSome then
    match s.logged 0 lid who with
    | some r => if r.seq = ord then some (r.val / 2 ^ 32) else none
    | none => none
  else if c < l then some (l + 1) else none

/-- Stamp one ordering access of a thread at a line (20 R363); false when its clock would pass 65,535, which starts a checkpoint. -/
def stampOne (s : State) (t : ThreadRef) (line : Nat) : State × Bool :=
  let th := s.thread t
  let lid := (s.pg t.pg).lid
  let jump := jumpClock s lid (gtidOf s t) (th.ords + 1) th.clock (tget s.w.lineClocks line 0)
  let c := jump.getD (th.clock + 1)
  if 65535 < c then ({ s with ckptForced := true }, false)
  else
    let s := if jump.isSome then appendLog s { type := 0, launch := lid, who := gtidOf s t, seq := th.ords + 1, val := c * 2 ^ 32 } else s
    let s := modThread s t fun x => { x with clock := c, ords := x.ords + 1 }
    ({ s with w := { s.w with lineClocks := tput s.w.lineClocks line c } }, true)

/-- Stamp several in order; nothing is stamped if one cannot be. -/
def stampAll (s : State) (l : List (ThreadRef × Nat)) : State × Bool :=
  let r := l.foldl (fun acc x => if acc.2 then stampOne acc.1 x.1 x.2 else acc) (s, true)
  if r.2 then r else ({ s with ckptForced := true }, false)

/-- The width of an access's slots or value. -/
def slotBytes (ty : Ty) : Nat := if ty.is64 then 8 else 4

/-- Bytes that two ranges share. -/
def meets (a n b m : Nat) : Bool := decide (a < b + m) && decide (b < a + n)

/-- The bytes an access covers from each lane's address (14 R308): of a fold, the slots that the header names. -/
def Acc.span (a : Acc) (s : State) : Nat :=
  match a.kind with
  | .roInit ty n => 64 + slotBytes ty * n
  | .roFold ty =>
    if a.stage = .home then 64 + slotBytes ty * (memNat s.w.mem a.pa 4 % 2 ^ 17)
    else if a.stage = .window then 64 + slotBytes ty * (memNat s.w.window a.pa 4 % 2 ^ 17)
    else 64
  | .load _ | .store | .atom .. | .red .. | .cas _ | .fred _ | .node _ | .record .. | .task _ => a.bytes

/-- A lane of an access shares bytes with a range, by its virtual address or by where it lies: DRAM or the window (15 R313). -/
def Acc.covers (a : Acc) (s : State) (l : Lane) (va n : Nat) (at' : Option (Bool × Nat)) : Bool :=
  decide (a.bytes ≠ 0) && (meets l.va (a.span s) va n || match at' with
    | none => false
    | some (win, pa) => decide (a.stage ≠ .frame ∧ a.stage ≠ .again) && (win == decide (a.stage = .window)) && meets (a.pa + l.va - a.va) (a.span s) pa n)

/-- The target of an address of the same page as one whose target is known (08 R185). -/
def Target.move (t : Target) (a b : Nat) : Target :=
  match t with
  | .window off => .window (off + b - a)
  | .dram pa nc => .dram (pa + b - a) nc
  | .demand => .demand
  | .fail c => .fail c

/-- Where a target lies: in the window or in DRAM. -/
def Target.place (t : Target) : Option (Bool × Nat) :=
  match t with
  | .window off => some (true, off)
  | .dram pa _ => some (false, pa)
  | .demand | .fail _ => none

/-- An access performed with its word must wait (15 R313, 08 R191): an earlier access of its thread covers its bytes, or both go to the
window; or it goes to the home of a line to which its die still sends a write. -/
def ownBefore (s : State) (t : ThreadRef) (va n : Nat) (tgt : Target) : Bool :=
  (s.w.accs.any fun a => decide (a.pg = t.pg) && a.key.isNone && a.lanes.any fun l => decide (l.tid = t.tid)
    && (a.covers s l va n tgt.place || (tgt.isWindow && decide (a.stage = .window))))
  || match tgt with
    | .dram pa true => queuedLine s (dieOfCore (s.pg t.pg).core) (pa / 128)
    | .dram _ false | .window _ | .demand | .fail _ => false

/-- Bytes written at an address over bytes read from another. -/
def layOver (bs : List Byte) (va a : Nat) (new : List Byte) : List Byte :=
  (List.range new.length).foldl (fun bs i => if va ≤ a + i then bs.set (a + i - va) (new.getD i 0) else bs) bs

/-- A lane of a store that a DSM launch has not committed is the thread's own, or has been made visible to it by a barrier or a join (15
R313, R315). -/
def seesStore (s : State) (t : ThreadRef) (a : Acc) (l : Lane) : Bool :=
  let th := s.thread t
  decide (a.pg = t.pg ∧ (l.tid = t.tid ∨ a.id < th.seenPg)) || decide (cgOfPg a.pg = cgOfPg t.pg ∧ a.id < th.seenCg)

/-- DEDUCED (log 100): the stores of phases that a DSM launch has not committed, of those issued before a number, over the bytes of a range,
as far as the thread has made or seen them: no read precedes the thread's own earlier store or one made visible to it (15 R313, R315; 09
R215). -/
def overSeen (s : State) (t : ThreadRef) (before va : Nat) (bs : List Byte) : List Byte :=
  (s.w.accs.filter fun a => decide (a.id < before) && a.key.isSome && decide (a.kind = .store)).foldl (fun bs a =>
    a.lanes.foldl (fun bs l =>
      if seesStore s t a l then layOver bs va l.va (bytesOfNat a.bytes l.val.toNat) else bs) bs) bs

/-- What a thread's read performed with its word sees of such stores. -/
def overOwn (s : State) (t : ThreadRef) (va : Nat) (bs : List Byte) : List Byte := overSeen s t s.w.nextId va bs

/-- The kind bit a watchpoint mask gives an access (22 R383). -/
def watchBit (need : Need) : Nat := match need with
  | .read | .fetch | .readOrWrite => 0
  | .write => 1
  | .readWrite => 2

/-- An access of a launch matches a watchpoint (22 R383). -/
def watched (s : State) (lid va n bit : Nat) : Bool :=
  match tget? s.w.claims lid with
  | none => false
  | some c => c.watches.any fun w => w.2.mask.getLsbD bit && decide (va < w.2.hi) && decide (w.2.lo < va + n)

/-- The number of the issue of the word being executed. -/
def wordNow (s : State) : Nat := (s.cur.map fun c => c.word).getD s.w.nextId

/-- A write of an engine for a thread's word has matched a watchpoint (22 R383): the trap waits for the thread's next header. -/
def deferWatch (s : State) (th : ThreadRef) (site : WordAt) (va word : Nat) : State :=
  let (n, s) := nextId s
  { s with w := { s.w with deferred := s.w.deferred ++ [{ id := n, th := th, site := site, va := va, word := word }] } }

/-- The checks of an aligned thread access whose address comes to a target, in their order (09 R199): translation and permission, range
locks, watchpoints. `locked` is false for LDK, CFLUSH and CINV (09 R210). -/
def checkTarget (s : State) (pg va n : Nat) (need : Need) (locked : Bool) (t : Target) : Except Trap Target :=
  let g := s.pg pg
  match t with
  | .fail c => .error (memTrap c va)
  | t =>
    let store : Bool := decide (need = .write ∨ need = .readWrite)
    if locked && lockHit (s.core g.core).locks 0 (s.cg (cgOfPg pg)).slot va n store then .error (memTrap 0x08 va)
    else if watched s g.lid va n (watchBit need) then .error (memTrap 0x15 va)
    else .ok t

/-- The word being executed remembers what an address came to, for the other addresses of its page. -/
def keepPage (s : State) (va : Nat) (need : Need) (t : Target) : State :=
  { s with cur := s.cur.map fun c => { c with pages := (va, need, t) :: c.pages } }

/-- Translate an address of a word, which translates each page once (08 R185). -/
def translateOnce (s : State) (core space va : Nat) (need : Need) : State × Target :=
  match (s.cur.map fun c => c.pages).getD [] |>.find? fun p => decide (p.1 / 0x10000 = va / 0x10000) && decide (p.2.1 = need) with
  | some p => (s, p.2.2.move p.1 va)
  | none =>
    let r := translate s core space va need
    (keepPage r.1 va need r.2, r.2)

/-- The checks of an aligned thread access, its address translated first. -/
def checkAccess (s : State) (pg va n : Nat) (need : Need) (locked : Bool) : State × Except Trap Target :=
  let g := s.pg pg
  let r := translateOnce s g.core (s.launch g.lid).space va need
  (r.1, checkTarget r.1 pg va n need locked r.2)

/-- `checkAccess` of an access that may be misaligned (09 R196). -/
def checkAligned (s : State) (pg va n : Nat) (need : Need) : State × Except Trap Target :=
  if va % n ≠ 0 then (s, .error (plainTrap 0x05 va)) else checkAccess s pg va n need true

/-- What a demand-zero leaf comes to once it is filled; none where the word waits for its frame (08 R182). -/
def fillOnce (s : State) (core space va : Nat) (need : Need) : State × Option Target :=
  match demandFill s core space va with
  | (s, false) => (s, none)
  | (s, true) =>
    let r := translate s core space va need
    (keepPage r.1 va need r.2, some r.2)

/-- `checkAccess` where a demand-zero leaf is filled, or the word waits for its frame (08 R182). -/
def resolveNow (s : State) (t : ThreadRef) (va n : Nat) (need : Need) (locked : Bool) : State × Except Trap Target :=
  match checkAccess s t.pg va n need locked with
  | (s, .ok .demand) =>
    let g := s.pg t.pg
    match fillOnce s g.core (s.launch g.lid).space va need with
    | (s, some x) => (s, checkTarget s t.pg va n need locked x)
    | (s, none) => (s, .error (holdTrap va))
  | r => r

/-- Stamp an access that is performed with its word (20 R363): one to an uncached page or the window, and a read as LD.acq, outside DSM. -/
def stampNow (s : State) (t : ThreadRef) (acq : Bool) (tgt : Target) : State × Bool :=
  if (s.lrOfPg t.pg).dsm then (s, true)
  else
    match tgt with
    | .window off => stampOne s t (clockLine true off)
    | .dram pa nc => if nc || acq then stampOne s t (clockLine false pa) else (s, true)
    | .demand | .fail _ => (s, true)

/-- One line's part of a read that is performed with its word (log 15): the line request, and the bytes, a cached page's as `load`
serves them. -/
def readPiece (s : State) (t : ThreadRef) (va n : Nat) (locked acq : Bool) (load : State → Nat → Nat → State × List Byte) :
    State × Except Trap (List Byte) :=
  match resolveNow s t va n .read locked with
  | (s, .error e) => (s, .error e)
  | (s, .ok tgt) =>
    let g := s.pg t.pg
    if ownBefore s t va n tgt then (s, .error (againTrap .order))
    else
      match stampNow (countLine s g.core va 0 g.lid tgt.isWindow) t acq tgt with
      | (s, false) => (s, .error (againTrap .log))
      | (s, true) =>
        match tgt with
        | .window off => (s, .ok (memReadN s.w.window off n))
        | .dram pa true => (homeOpLines s g.core pa, .ok (overOwn s t va (memReadN s.w.mem pa n)))
        | .dram pa false => let r := load s pa n; (r.1, .ok (overOwn r.1 t va r.2))
        | .demand => (s, .error (holdTrap va))
        | .fail c => (s, .error (memTrap c va))

/-- A read of a thread performed with its instruction (log 15), as LD reads or, with `acq`, LD.acq: through L1 and L2, line by line. -/
def readLines (s : State) (t : ThreadRef) (acq : Bool) (va n : Nat) : State × Except Trap (List Byte) :=
  (pieces 128 (n / 128 + 2) va n).foldl (fun acc p =>
    match acc with
    | (s, .error e) => (s, .error e)
    | (s, .ok bs) =>
      match readPiece s t p.1 p.2 true acq (fun s pa n => cacheLoad s (s.pg t.pg).core pa n false) with
      | (s, .error e) => (s, .error e)
      | (s, .ok x) => (s, .ok (bs ++ x))) (s, .ok [])

/-- A read as LD reads. -/
def readNow (s : State) (t : ThreadRef) (va n : Nat) : State × Except Trap (List Byte) := readLines s t false va n
/-- A read as LD.acq reads at .cg, which is an ordering access (20 R363). -/
def readNowAcq (s : State) (t : ThreadRef) (va n : Nat) : State × Except Trap (List Byte) := readLines s t true va n

/-- A race record (20 R367), written under the replay block's race ring as 08 R195 writes samples. -/
def raceRecord (s : State) (die first second lid va : Nat) : State :=
  let cap := 2 ^ s.rb.rcLsize / 16
  if (s.rb.rcWr - s.rb.rcRd).toNat = cap then { s with rb := { s.rb with rcLost := satInc s.rb.rcLost } }
  else
    let v := (va / 128) * 2 ^ 79 + first * 2 ^ 63 + second * 2 ^ 47 + lid * 2 ^ 31 + die * 2 ^ 28 + s.clk / 64 % 2 ^ 28
    let s := homeWrite s none (s.rb.rcBase + 16 * (s.rb.rcWr.toNat % cap)) (bytesOfNat 16 v)
    { s with rb := { s.rb with rcWr := s.rb.rcWr + 1 } }

/-- The id of a core group in race records (20 R366). -/
def raceId (g : PartGroup) : Nat := g.dgid * 128 + g.cgid

/-- Count a writing core group on an L2 line (20 R366): the distinct writers, up to three. -/
def countWriter (s : State) (core lid id pa va : Nat) : State :=
  if s.rb.rcEn && decide (s.rb.rcLaunch = lid) then
    let die := dieOfCore core
    match findLine (s.die die).l2 (pa / 128) with
    | none => s
    | some x =>
      if x.writers.contains id || decide (3 ≤ x.writers.length) then s
      else
        let s := modDie s die fun d =>
          { d with l2 := (d.l2.map fun y => if y.line = x.line then { y with writers := y.writers ++ [id] } else y) }
        match x.writers with
        | [first] => raceRecord s die first id lid va
        | _ => s
  else s

/-- A write performed with its instruction at DRAM or the window, by a thread of a partition group. -/
def writeTargetNow (s : State) (t : ThreadRef) (va : Nat) (tgt : Target) (bs : List Byte) : State :=
  let g := s.pg t.pg
  let s := countLine s g.core va 1 g.lid tgt.isWindow
  match tgt with
  | .window off => modWindow s fun m => memWriteN m off bs
  | .dram pa true => homeStore s g.core [(pa, bs)]
  | .dram pa false => cacheStore s g.core (s.launch g.lid).space g.lid va false [] [(pa, bs)]
  | .demand | .fail _ => s

/-- A write performed with its instruction (log 15), all of whose bytes lie in one line. -/
def writeNow (s : State) (t : ThreadRef) (va : Nat) (bs : List Byte) : State × Option Trap :=
  match resolveNow s t va bs.length .write true with
  | (s, .error e) => (s, some e)
  | (s, .ok tgt) =>
    if ownBefore s t va bs.length tgt then (s, some (againTrap .order))
    else if tgt.pending s then (s, some (againTrap .log))
    else
      match stampNow s t false tgt with
      | (s, false) => (s, some (againTrap .log))
      | (s, true) => (writeTargetNow s t va tgt bs, none)

/-! Choice vectors (10). -/

/-- The draw function (10 R228). -/
def dfn (k t s o : Word) : Word :=
  let h := k ^^^ (t * 0x6C8E9CF5) ^^^ (s * 0x1F123BB5) ^^^ (o * 0x5A4D2E91)
  let h := (h ^^^ (h >>> 16)) * 0x7A3D9B21
  let h := (h ^^^ (h >>> 15)) * 0xC4F16A2D
  h ^^^ (h >>> 16)

/-- Record size and capacity (10 R224). -/
def cvSize (lr : LaunchRec) : Nat := 32 * lr.cvstride
def cvCap (lr : LaunchRec) : Nat := 4 * lr.cvstride - 4

/-- Addresses of a thread's records (10 R224). -/
def cvInAddr (lr : LaunchRec) (gtid : Nat) : Nat := (lr.cvin + cvSize lr * gtid) % 2 ^ 64
def cvOutAddr (lr : LaunchRec) (gtid : Nat) : Nat := (lr.cvout + cvSize lr * gtid) % 2 ^ 64

/-- The thread's effective input count (10 R224, R227): read from the input header in modes 1 and 2. -/
def cvCount (s : State) (t : ThreadRef) : State × Except Trap Nat :=
  let lr := s.lrOfPg t.pg
  if lr.cvmode = 0 ∨ lr.cvin = 0 then (s, .ok 0)
  else
    match readNow s t (cvInAddr lr (gtidOf s t) + 4) 4 with
    | (s, .ok bs) => (s, .ok (Nat.min (natOfBytes bs) (cvCap lr)))
    | (s, .error e) => (s, .error e)

/-- Search the realignment window (10 R228): the first of at most `fuel` entries from `i` below `n` with the key. -/
def cvSearch (fuel : Nat) (s : State) (t : ThreadRef) (i n site occ : Nat) : State × Except Trap (Option (Nat × Nat)) :=
  match fuel with
  | 0 => (s, .ok none)
  | k + 1 =>
    if n ≤ i then (s, .ok none)
    else
      match readNow s t (cvInAddr (s.lrOfPg t.pg) (gtidOf s t) + 32 + 8 * i) 8 with
      | (s, .error e) => (s, .error e)
      | (s, .ok bs) =>
        let e := natOfBytes bs
        if bitsOf e 31 20 = site ∧ bitsOf e 19 8 = occ then (s, .ok (some (i, e))) else cvSearch k s t (i + 1) n site occ

/-- The helper `draw(t, s, o)` (10 R228): the value, or the trap and an unmoved cursor (R231). -/
def draw (s : State) (t : ThreadRef) (site occ : Nat) : State × Except Trap Word :=
  let lr := s.lrOfPg t.pg
  let cv := (s.thread t).ctx.cv
  if lr.cvout ≠ 0 ∧ cv.cvout.toNat = cvCap lr then
    (modCtx s t fun c => { c with cv := { c.cv with full := true } }, .error (plainTrap 0x11 cv.cvout.toNat))
  else
    match cvCount s t with
    | (s, .error e) => (s, .error e)
    | (s, .ok n) =>
      let c := cv.cvin.toNat
      match cvSearch 8 s t c n site occ with
      | (s, .error e) => (s, .error e)
      | (s, .ok m) =>
        let r : Word × Nat × Cursor := match m with
          | some (i, e) =>
            (word (e >>> 32), 1 + (if c < i then 8 else 0) + (if lr.cvmode = 2 then e / 4 % 2 * 4 else 0),
             { cv with cvorph := cv.cvorph + word (i - c), cvin := word (i + 1) })
          | none =>
            (dfn (word lr.cvkey.toNat) (word (gtidOf s t)) (word site) (word occ), 2,
             { cv with inexh := cv.inexh || (decide (lr.cvmode ≠ 0) && decide (c = n)) })
        let done (s : State) : State := modCtx s t fun x => { x with cv := { r.2.2 with cvout := cv.cvout + 1 } }
        if lr.cvout = 0 then (done s, .ok r.1)
        else
          let entry := r.1.toNat * 2 ^ 32 + site * 2 ^ 20 + occ * 2 ^ 8 + r.2.1
          match writeNow s t (cvOutAddr lr (gtidOf s t) + 32 + 8 * cv.cvout.toNat) (bytesOfNat 8 entry) with
          | (s, some e) => (s, .error e)
          | (s, none) => (done s, .ok r.1)

/-- The output header at close (10 R225, R229). -/
def cvHeader (lr : LaunchRec) (cv : Cursor) (n : Nat) (term : Bool) : List Byte :=
  bytesOfNat 4 (cvCap lr) ++ bytesOfNat 4 cv.cvout.toNat ++ bytesOfNat 8 lr.cvkey.toNat
    ++ bytesOfNat 4 (cv.cvorph.toNat + (n - cv.cvin.toNat))
    ++ bytesOfNat 4 (bnat cv.inexh * 2048 + bnat cv.full * 1024 + bnat term * 512 + 256 + lr.cvmode)
    ++ bytesOfNat 4 cv.score.toNat ++ bytesOfNat 4 cv.cvin.toNat

/-- Close a thread's record as it exits (10 R230): its release wait stands before the word; a failure's trap is returned. -/
def cvClose (s : State) (t : ThreadRef) : State × Option Trap :=
  let lr := s.lrOfPg t.pg
  if lr.cvout = 0 then (s, none)
  else
    match cvCount s t with
    | (s, .error e) => (s, some e)
    | (s, .ok n) => writeNow s t (cvOutAddr lr (gtidOf s t)) (cvHeader lr (s.thread t).ctx.cv n false)

/-- Close a thread's record at its containment (10 R230): the header is an access of its own, released at .dev behind the thread's
earlier ones, and the thread ends without it. An input header that cannot be read yet is read when the header is written (R229). -/
def cvCloseTerm (s : State) (t : ThreadRef) : State × Option Trap :=
  let lr := s.lrOfPg t.pg
  if lr.cvout = 0 then (s, none)
  else
    let put (s : State) (n : Nat) (input : Option Nat) : State × Option Trap :=
      let va := cvOutAddr lr (gtidOf s t)
      match checkAccess s t.pg va 32 .write true with
      | (s, .error e) => (s, some e)
      | (s, .ok tgt) =>
        let g := s.pg t.pg
        let (id, s) := nextId (countAccess s g.core (va / 128 * 128) 1 g.lid tgt.isWindow)
        let place : Stage × Nat × Bool := match tgt with
          | .window off => (.window, off, false)
          | .dram pa nc => (.home, pa, nc)
          | .demand | .fail _ => (.frame, 0, false)
        let a : Acc :=
          { id := id, pg := t.pg, core := g.core, space := (s.launch g.lid).space, lid := g.lid, site := { pc := 0, hdr := 0, len := 0 },
            kind := .record (cvHeader lr (s.thread t).ctx.cv n true) input, va := va, pa := place.2.1, bytes := 32, nc := place.2.2, nt := false,
            scope := .dev, ord := .rel, lanes := [{ tid := t.tid, va := va, val := 0, val2 := 0, pend := none, cflags := [] }],
            stage := place.1, key := none, word := id }
        ({ s with w := { s.w with accs := s.w.accs ++ [a] } }, none)
    match cvCount s t with
    | (s, .ok n) => put s n none
    | (s, .error e) => if e.again.isSome then put s (s.thread t).ctx.cv.cvin.toNat (some (cvInAddr lr (gtidOf s t))) else (s, some e)

end Sys2Proof.Machine
end

