-- ==== Sys2Proof/Machine/Ops.lean ====
section
/-! DEFINITION. The shared operations over threads and groups: filing (06 R117-R121), taking a trap (18 R319-R324), ending a
thread (07 R145, 18 R328, R329), delivery and the return from a handler (18 R322, R325, R327), clause fetch and entry
(02 R37-R39, 06 R116), and retiring a word (02 R34, R35). -/

namespace Sys2Proof.Machine

/-! Places of threads. -/

/-- Take a thread out of its issue group; a group without members frees its position (06 R124). -/
def leaveGroup (s : State) (t : ThreadRef) : State :=
  match (s.thread t).place with
  | .running pos =>
    modPart s (s.pg t.pg).part fun p =>
      let g := tget p.groups pos Group.none
      let rest := g.tids.filter (· != t.tid)
      { p with groups := if rest.isEmpty then tdel p.groups pos else tmod p.groups pos fun g => { g with tids := rest } }
  | _ => s

/-- The threads of a partition group with their `tid`. -/
def tidsWhere (g : PartGroup) (f : Thread → Bool) : List Nat := (g.threads.zipIdx.filter fun x => f x.1).map (·.2)

/-- Free the bins that no filed thread is left in (06 R119). -/
def freeBins (s : State) (part : Nat) : State :=
  let keep (e : Nat × Bin) : Bool := (s.pg e.2.pg).threads.any fun t => decide (t.place = .bin e.1)
  modPart s part fun p => { p with bins := p.bins.filter keep }

/-- Give a thread a place outside issue groups and bins. -/
def setPlace (s : State) (t : ThreadRef) (pl : Place) : State :=
  let was := (s.thread t).place
  let s := modThread (leaveGroup s t) t fun x => { x with place := pl }
  match was with
  | .bin _ => freeBins s (s.pg t.pg).part
  | _ => s

/-- The bin that a filing thread joins (06 R119): the one keyed by its next PC, else the lowest free one, else the overflow path. -/
def binFor (p : Partition) (pg pc : Nat) : Place :=
  match p.bins.find? fun b => decide (b.2.pg = pg) && decide (b.2.pc = pc) with
  | some b => .bin b.1
  | none =>
    match firstFree Config.bins fun n => (tget? p.bins n).isNone with
    | some n => .bin n
    | none => .overflow

/-- File a thread by its next PC with its wait condition (06 R117, R119). -/
def fileThread (s : State) (t : ThreadRef) (pc : Nat) (w : Wait) : State :=
  let s := setPlace s t .parked
  let part := (s.pg t.pg).part
  let pl := binFor (s.part part) t.pg pc
  let s := match pl with
    | .bin n => modPart s part fun p =>
      if (tget? p.bins n).isSome then p else { p with bins := tput p.bins n { pg := t.pg, pc := pc, age := 0, aged := false } }
    | _ => s
  modThread s t fun x => { x with pc := pc, wait := w, place := pl, passed := false }

/-- A thread's wait condition holds (06 R121). Barrier, join and yield waits turn to ready by their own events. -/
def Thread.ready (t : Thread) : Bool :=
  match t.wait with
  | .ready => true
  | .flags m => (List.range 12).all fun i => !m.getLsbD i || decide (t.ctx.flags.getD i 0 = 0)
  | .region => t.ctx.flags.all (· == 0)
  | .barrier _ _ | .join | .yield _ => false

/-! Observation (22 R380, R381, R385). -/

/-- `clk` and `clkh` of a thread (18 R335, R342): resident clk of its core group, under DSM its retired words (06 R135). -/
def clkOf (s : State) (t : ThreadRef) : Nat :=
  if (s.lrOfPg t.pg).dsm then (s.thread t).ctx.retired else (s.cg (cgOfPg t.pg)).clk

/-- Send a message of the device. A replay sends none again (20 R358, log 44). -/
def sendMsg (s : State) (m : OutMsg) : State := if s.replay.isSome then s else { s with outbox := s.outbox ++ [m] }

/-- A debug notice to the session that claimed a launch (22 R385): eight n32 words. -/
def sendNotice (s : State) (lid kind core part gtid cause tval pc : Nat) : State :=
  match tget? s.w.claims lid with
  | none => s
  | some c =>
    sendMsg s { conn := c.conn, cls := 0x0A, op := 7, tag := 0, addr := BitVec.ofNat 64 lid,
                payload := ([kind, core, part, gtid % 2 ^ 32, cause, tval, pc % 2 ^ 32, pc / 2 ^ 32]).flatMap (bytesOfNat 4) }

/-- The PC of a thread: in an issue group, the group's. -/
def pcOf (s : State) (t : ThreadRef) : Nat :=
  match (s.thread t).place with
  | .running pos => (s.group (s.pg t.pg).part pos).pc
  | .empty | .bin _ | .overflow | .parked | .alone | .team | .ended => (s.thread t).pc

/-- What a dump shows of a stopped partition's threads: their registers, predicates and PCs as they stand at the stop (22 R382, R386). -/
def snapOf (s : State) (part : Nat) : List Snap :=
  (s.w.pgs.filter fun e => decide (e.2.part = part)).flatMap fun e => (tidsWhere e.2 Thread.live).map fun i =>
    let t : ThreadRef := { pg := e.1, tid := i }
    { th := t, regs := (s.thread t).ctx.regs, preds := (s.thread t).ctx.preds, pc := pcOf s t }

/-- Stop an issue partition for a claimed launch (22 R381). -/
def stopPart (s : State) (lid part : Nat) : State :=
  modPart s part fun p => { p with stopped := true, stopBy := if p.stopBy.contains lid then p.stopBy else p.stopBy ++ [lid],
                                   snap := if p.stopped then p.snap else snapOf s part }

/-- Write a trace record (22 R380) if the launch's armed buffer takes its kind. A record to an uncached page is an ordering access of its
thread (20 R363); one whose clock is full is written unstamped, and a checkpoint starts (log 111). -/
def traceRecord (s : State) (t : ThreadRef) (kind pc val id : Nat) : State :=
  let g := s.pg t.pg
  match tget? s.w.claims g.lid with
  | none => s
  | some c =>
    let lose (s : State) : State := { s with w := { s.w with claims := tput s.w.claims g.lid { c with lost := satInc c.lost } } }
    match c.trace with
    | none => if c.reclaimed.getLsbD kind then lose s else s
    | some b =>
      let cap := 2 ^ b.lsize / 32
      if !b.mask.getLsbD kind then s
      else if !b.overwrite && decide (cap ≤ b.written) then lose s
      else
        let rec8 := kind * 2 ^ 56 + pc
        let bs := bytesOfNat 8 rec8 ++ bytesOfNat 8 (gtidOf s t) ++ bytesOfNat 4 val ++ bytesOfNat 4 (id * 65536)
                  ++ bytesOfNat 8 (clkOf s t)
        let (s, tg) := translate s g.core (s.launch g.lid).space (b.va + 32 * (b.written % cap)) .write
        let s := writeTargetNow (stampNow s t false tg).1 t (b.va + 32 * (b.written % cap)) tg bs
        { s with w := { s.w with claims := tput s.w.claims g.lid { c with trace := some { b with written := b.written + 1 } } } }

/-! Ending threads. -/

/-- End a stream of a partition group (09 R223): idle, entries discarded, its lock released. -/
def endStream (s : State) (pg q : Nat) : State :=
  let g := s.pg pg
  let s := modPg s pg fun g => { g with streams := g.streams.set q Stream.init }
  dropLocksWhere s g.core fun l =>
    decide (l.eng = 1) && decide (l.id = 4 * (g.part % 6) + q) && decide (l.slot = (s.cg (cgOfPg pg)).slot)

/-- Counts of a stream descriptor, and the elements of one thread (09 R219). -/
def sdN (d : List Byte) (k : Nat) : Nat := fieldAt d (26 + 2 * k) 2 + 1
def sdCount (d : List Byte) : Nat := sdN d 0 * sdN d 1 * sdN d 2

/-- A stream that every live thread has exhausted ends (09 R223). -/
def settleStream (s : State) (pg q : Nat) : State :=
  let st := (s.pg pg).streams.getD q Stream.init
  if st.active && (s.pg pg).threads.all (fun t => !t.live || decide (sdCount st.desc ≤ t.pos.getD q 0)) then endStream s pg q
  else s

/-- An access that a stop has made its one thread abandon (18 R332). -/
def Acc.abandonedOf (a : Acc) (t : ThreadRef) : Bool :=
  decide (a.stage = .again) && decide (a.pg = t.pg) && a.lanes.all fun l => decide (l.tid = t.tid)

/-- Discard what a thread still waits for (07 R145): its pending results, its traversals, and words that it has abandoned and not issued
again (18 R332). -/
def dropResults (s : State) (t : ThreadRef) : State :=
  modThread { s with w := { s.w with pends := s.w.pends.filter (fun p => p.th != t), travs := s.w.travs.filter (fun p => p.th != t),
                                     accs := s.w.accs.filter fun a => !a.abandonedOf t } } t fun x => { x with redo := none }

/-- Remove a thread's entry from its trap queue; one that was being handled lets the next be delivered (18 R322, R328). -/
def dropEntry (s : State) (t : ThreadRef) : State :=
  let handled := (s.thread t).handler
  let s := modPg s t.pg fun g =>
    { g with trapq := g.trapq.filter (fun e => e.tid != t.tid), handling := g.handling && !handled }
  let s := modPart s (s.pg t.pg).part fun p => { p with caught := p.caught.filter fun c => c.1 != t }
  modThread s t fun x => { x with handler := false, trap := none }

/-- The cause of a launch's first containment becomes `st.cause` (05 R94, 18 R328). -/
def countCause (s : State) (lid : Nat) (cause : BitVec 8) : State :=
  modLaunch s lid fun l => { l with cause := if l.term = 0 && decide (l.cause = 0) then cause else l.cause }

/-- Count a containment (18 R328): `st.term`, and `st.cause` of the first. -/
def countTerm (s : State) (lid : Nat) (cause : BitVec 8) : State :=
  modLaunch (countCause s lid cause) lid fun l => { l with term := Nat.min (l.term + 1) (2 ^ 32 - 1) }

/-- Threads that arrived at a finished team join are drawn together, or trap (14 R303); what is left is the trap of each. -/
def joinFinished (g : PartGroup) (team : Nat) : Option (List Nat) :=
  let members := (tidsWhere g Thread.live).filter fun t => decide (teamOf t = team)
  if !members.isEmpty && members.all (fun t => (g.threads.getD t Thread.none).join.isSome && (g.threads.getD t Thread.none).redo.isNone) then some members else none

/-- End a thread (07 R145, 18 R328): its record is closed, it leaves group, bin, queue, barriers; a partition group without live
threads ends (06 R128), and of a task server leaves its gang (11 R239). `term` is the cause of a containment, `counted` false for a
kill that R329 does not count; a record that cannot be closed counts in any case (10 R230). -/
def endThread (s : State) (t : ThreadRef) (term : Option (BitVec 8)) (counted : Bool) : State :=
  if !(s.thread t).live then s
  else
    let g := s.pg t.pg
    let lr := (s.launch g.lid).lr
    let (s, fault) := if term.isSome then cvCloseTerm s t else cvClose s t
    let s := match (if counted then term else none), fault with
      | some c, _ => countTerm s g.lid c
      | none, some x => if x.again.isSome then s else countTerm s g.lid x.cause
      | none, none => s
    let s := dropEntry (dropResults s t) t
    let s := setPlace s t (if lr.taskServer then .empty else .ended)
    let s := modThread s t fun x => { x with join := none, timer := none, timerDue := false, pendTrap := none }
    let s := if lr.taskServer && lr.dsm then
        modPg s t.pg fun x => { x with freed := tput x.freed t.tid ((s.cg (cgOfPg t.pg)).dsm.slot / Config.phaseSlots) } else s
    let s := if lr.taskServer then s else leaveBars s t
    let s := [0, 1, 2, 3].foldl (fun s q => settleStream s t.pg q) s
    if !lr.taskServer && !((s.pg t.pg).threads.any Thread.live) then
      let s := modPg s t.pg fun x => { x with ended := true }
      leaveGang ([0, 1, 2, 3].foldl (fun s q => endStream s t.pg q) s) t.pg
    else if lr.taskServer && !((s.pg t.pg).threads.any Thread.live) && decide (2 ≤ (gangOf s t.pg).members.length) then leaveGang s t.pg
    else s

/-- Clear a tag's count and error (09 R216). -/
def clearTags (s : State) (cg : Nat) : State := modCg s cg fun g => { g with tags := [] }

/-- Abandon the engine operations of a core group (18 R329): locks released, tags and tiles cleared, reservations, Ladle slots and
engine ownership freed. Partial writes remain. -/
def abandonEngines (s : State) (cg : Nat) : State :=
  let core := (s.cg cg).core
  let slot := (s.cg cg).slot
  let ids := (s.w.ops.filter fun o => decide (o.cg = cg)).map fun o => o.id
  let s := { s with w := { s.w with ops := s.w.ops.filter fun o => o.cg != cg } }
  let s := modCore (dropLocksWhere s core fun l => decide (l.slot = slot)) core fun c =>
    { c with pins := c.pins.filter (fun p => !ids.contains p.1), resv := c.resv.filter (fun r => r.2.cg != cg),
             ladle := c.ladle.filter (fun r => r.2.cg != cg), ladleQ := c.ladleQ.filter fun o => o.cg != cg }
  let s := modEng s core fun e =>
    let owned := match e.owner with
      | some o => decide (o.cg = cg)
      | none => false
    { e with ops := e.ops.filter (fun o => o.gang.cg != cg), armed := e.armed.filter (fun a => a.cg != cg),
             queue := e.queue.filter (fun o => o.cg != cg), owner := if owned then none else e.owner,
             last := if owned then e.owner else e.last, lastEnded := if owned then true else e.lastEnded,
             frozenM := if e.frozenM = some cg then none else e.frozenM, tiles := if owned then [] else e.tiles }
  clearTags (modCg s cg fun g => { g with gangs := [], gangAsk := [], latch := [] }) cg

/-- The threads of a core group, in ascending `pgid` and `tid`. -/
def threadsOfCg (s : State) (cg : Nat) : List ThreadRef :=
  (s.w.pgs.filter fun e => decide (cgOfPg e.1 = cg)).flatMap fun e => (List.range e.2.threads.length).map fun i => { pg := e.1, tid := i }

/-- Kill a core group for a relaunch (18 R329): every thread ends uncounted, its engine operations are abandoned; the restart is
the event CORE_GROUP_RELAUNCH. -/
def killForRelaunch (s : State) (cg : Nat) (cause : BitVec 8) : State :=
  let s := (threadsOfCg s cg).foldl (fun s t => endThread s t (some cause) false) (abandonEngines s cg)
  modCg s cg fun g => { g with killed := true }

/-- Send a thread to containment (18 R328, R329), but for the team joins it leaves. -/
def containCore (s : State) (t : ThreadRef) (cause : BitVec 8) : State :=
  let l := s.launch (s.pg t.pg).lid
  if l.lr.relaunch && decide (l.retries < l.lr.retry) then killForRelaunch (countCause s (s.pg t.pg).lid cause) (cgOfPg t.pg) cause
  else endThread s t (some cause) true

/-! Taking a trap. -/

/-- Whether `tq.next` is set for a cause (18 R324). -/
def nextOfCause (c : BitVec 8) : Bool := decide (c = 0x0A ∨ c = 0x0B ∨ c = 0x0C)

/-- The bit of a catch mask for a cause (22 R384). -/
def catchBit (c : BitVec 8) : Option Nat :=
  if c = 0x0C then some 0 else if c = 0x0B then some 1 else if c = 0x15 then some 2 else none

/-- The entry a trap call makes (18 R320). -/
def trapEntry (s : State) (t : ThreadRef) (x : Trap) (w : WordAt) (defer : Bool) : TqEntry :=
  let th := s.thread t
  { cause := x.cause, vahi := x.vahi, val := x.val, next := nextOfCause x.cause, defer := defer, pc := w.pc, rent := th.rent,
    tid := t.tid, rgn := th.ctx.rgn, hdr := w.hdr, len := w.len }

/-- A trap of a launch that a debugger has claimed with this cause in its mask (22 R384). -/
def caught (s : State) (lid : Nat) (cause : BitVec 8) : Bool :=
  match tget? s.w.claims lid, catchBit cause with
  | some c, some b => c.mask.getLsbD b
  | _, _ => false

/-- A trap call but for the team joins that a contained thread leaves. In handler mode, and where `lr.trapvec` is zero, the thread goes
to containment; a caught cause parks it and stops its partition; else an entry joins the queue and the thread parks. -/
def trapCore (s : State) (t : ThreadRef) (x : Trap) (w : WordAt) (defer : Bool) : State :=
  let g := s.pg t.pg
  let l := s.launch g.lid
  if !(s.thread t).live then s
  else if caught s g.lid x.cause then
    let e := trapEntry s t x w defer
    let s := modThread (setPlace s t .parked) t fun th => { th with pc := w.pc }
    let s := modPart (stopPart s g.lid g.part) g.part fun p => { p with caught := p.caught ++ [(t, e)] }
    sendNotice s g.lid 1 g.core (g.part % 6) (gtidOf s t) x.cause.toNat x.val.toNat w.pc
  else if l.lr.trapvec = 0 ∨ (s.thread t).handler then containCore s t x.cause
  else
    let e := trapEntry s t x w defer
    let s := modThread (setPlace s t .parked) t fun th => { th with trap := some e, pc := w.pc }
    modPg s t.pg fun g => { g with trapq := g.trapq ++ [e] }

/-! Team joins. -/

/-- Look at the joins of a partition group's teams after an arrival or an end (14 R303); under DSM a finished join is ready 64 slots
later (06 R131). -/
def settleJoins (s : State) (pg : Nat) : State :=
  (List.range ((s.pg pg).threads.length / 32 + 1)).foldl (fun s team =>
    match joinFinished (s.pg pg) team with
    | none => s
    | some ts =>
      let th (i : Nat) : Thread := s.thread { pg := pg, tid := i }
      let same := ts.all fun i => (th i).pc = (th (ts.headD 0)).pc
      if same then
        let w : Wait := if (s.lrOfPg pg).dsm then .yield Config.dsmLatency else .ready
        ts.foldl (fun s i => modThread (setPlace s { pg := pg, tid := i } .team) { pg := pg, tid := i } fun x =>
          { x with join := none, wait := w, seenPg := s.w.nextId }) s
      else
        let addr (i : Nat) : Nat := (th i).join.getD 0
        ts.foldl (fun s i =>
          let t : ThreadRef := { pg := pg, tid := i }
          let s := modThread s t fun x => { x with join := none }
          trapCore s t (plainTrap 0x10 (addr i)) { pc := addr i, hdr := (th i).hdr, len := (addr i - (th i).hdr) / 12 } false) s) s

/-- A thread that has ended leaves its team's join (06 R128, 14 R303). -/
def leaveJoin (s : State) (t : ThreadRef) : State := if (s.thread t).live then s else settleJoins s t.pg

/-- Send a thread to containment (18 R328, R329). -/
def contain (s : State) (t : ThreadRef) (cause : BitVec 8) : State := leaveJoin (containCore s t cause) t

/-- TAKING AN EXCEPTION: the trap call of 02 R47 as 18 R319-R323 and 22 R384 give it: `trapCore`, and the join that a thread leaves
which the call has sent to containment. -/
def trapCall (s : State) (t : ThreadRef) (x : Trap) (w : WordAt) (defer : Bool) : State :=
  if (s.thread t).live then leaveJoin (trapCore s t x w defer) t else s

/-! Clause fetch (06 R116). -/

/-- The decode context of a launch (02 R45). -/
def decodeCtx (lr : LaunchRec) : DecodeCtx :=
  { regs := lr.regs8 * 8, roles := lr.roles, taskServer := lr.taskServer, nq := lr.nq, dccnt := lr.dccnt }

/-- Where a fetch address lies, by a TLB or by the walk that a miss of both makes (08 R178). -/
def peekFetch (s : State) (core space va : Nat) : Option Nat :=
  let look (l : List TlbEntry) : Option TlbEntry := l.find? fun e => e.hits space va
  let hit (e : TlbEntry) : Option Nat := if e.x then some (e.pa' va) else none
  match look (s.core core).tlb, look (s.die (dieOfCore core)).tlb with
  | some e, _ => hit e
  | none, some e => hit e
  | none, none =>
    match (translate s core space va .fetch).2 with
    | .dram pa _ => some pa
    | .window _ | .demand | .fail _ => none

/-- Code bytes that lie in a partition's instruction cache. -/
def peekCode (s : State) (part space va n : Nat) : Option (List Byte) :=
  (pieces 128 (n / 128 + 2) va n).foldl (fun acc p =>
    match acc, peekFetch s (coreOfPart part) space p.1 with
    | some bs, some pa =>
      match findLine (s.part part).icache (pa / 128) with
      | some l => some (bs ++ (l.bytes.drop (pa % 128)).take p.2)
      | none => none
    | _, _ => none) (some [])

/-- Body words a header announces; a word that is no header has none. -/
def bodyCount (bs : List Byte) : Nat :=
  match Header.decode (wordOfBytes bs) with
  | some h => h.count.toNat + 1
  | none => if (wordOfBytes bs).extractLsb' 86 10 = 0x3FF#10 then ((wordOfBytes bs).extractLsb' 61 5).toNat + 1 else 0

/-- The words of `n` 12-byte units. -/
def wordsIn (n : Nat) (bs : List Byte) : List IWord :=
  match n with
  | 0 => []
  | k + 1 => wordOfBytes (bs.take 12) :: wordsIn k (bs.drop 12)

/-- The clause at an address, header first, if it is entirely present (06 R116). -/
def peekClause (s : State) (part space va : Nat) : Option (List IWord) :=
  match peekCode s part space va 12 with
  | none => none
  | some h =>
    let n := bodyCount h
    (peekCode s part space va (12 * (n + 1))).map (wordsIn (n + 1))

/-- Fetch code bytes into a partition's instruction cache, through the die's L2 or, for an uncached page, from the homes (08 R187): the failing cause, if any; cause 0 waits for a frame (08 R181, R182). -/
def fetchCode (s : State) (part space lid va n : Nat) : State × Option (BitVec 8) :=
  let core := coreOfPart part
  (pieces 128 (n / 128 + 2) va n).foldl (fun acc p =>
    match acc with
    | (s, some c) => (s, some c)
    | (s, none) =>
      let (s, t) := translate s core space p.1 .fetch
      let load (s : State) (pa : Nat) (nc : Bool) : State :=
        match findLine (s.part part).icache (pa / 128) with
        | some _ => s
        | none =>
          let s := countAccess s core (p.1 / 128 * 128) 3 lid false
          let (s, bs) := if nc then (s, lineBytes s (pa / 128)) else l2Line s (dieOfCore core) (pa / 128)
          modPart { s with fresh := s.fresh + 1 } part fun q =>
            { q with icache := fillLine Config.icacheLines Config.icacheWays s.fresh q.icache (plainLine (pa / 128) bs) }
      match t with
      | .dram pa nc => (load s pa nc, none)
      | .fail c => (s, some c)
      | .window _ => (s, some 0x07)
      | .demand =>
        match demandFill s core space p.1 with
        | (s, false) => (s, some 0)
        | (s, true) =>
          match translate s core space p.1 .fetch with
          | (s, .dram pa nc) => (load s pa nc, none)
          | (s, _) => (s, some 0x06)) (s, none)

/-- Fetch a whole clause (06 R116). -/
def fetchClause (s : State) (part space lid va : Nat) : State × Option (BitVec 8) :=
  match fetchCode s part space lid va 12 with
  | (s, some c) => (s, some c)
  | (s, none) =>
    match peekCode s part space va 12 with
    | none => (s, some 0x06)
    | some h => fetchCode s part space lid va (12 * (bodyCount h + 1))

/-! Entering a clause (02 R37-R39, R45). -/

/-- The place of a trap that a thread takes at a header. -/
def atHeader (va : Nat) : WordAt := { pc := va, hdr := va, len := 0 }

/-- Every member of an issue group takes a trap at its header, in ascending `tid` (02 R45). -/
def groupTraps (s : State) (pg : Nat) (tids : List Nat) (x : Trap) (pc : Nat) : State :=
  tids.foldl (fun s i => trapCall s { pg := pg, tid := i } x (atHeader pc) false) s

/-- Traps that a thread takes at its next header: a deferred watchpoint or PREEMPT, then TIMER (18 R335, R337; 22 R383). -/
def headerTraps (s : State) (pg : Nat) (tids : List Nat) (va : Nat) : State :=
  tids.foldl (fun s i =>
    let t : ThreadRef := { pg := pg, tid := i }
    let th := s.thread t
    match th.pendTrap with
    | some e =>
      let s := modThread s t fun x => { x with pendTrap := none }
      trapCall s t { cause := e.cause, val := e.val, vahi := e.vahi } 
        (if e.defer then { pc := e.pc, hdr := e.hdr, len := e.len } else atHeader va) e.defer
    | none =>
      if th.timerDue then trapCall (modThread s t fun x => { x with timerDue := false }) t (plainTrap 0x0D 0) (atHeader va) false
      else s) s

/-- What a member does at a header (02 R38, R39): it is filed as a wait point, or enters the clause with its region entry. -/
def enterThread (s : State) (t : ThreadRef) (h : Header) (va : Nat) : State :=
  let th := s.thread t
  let region := h.region && !th.handler
  if region && th.ctx.flags.any (· != 0) then fileThread s t va .region
  else if !({ th with wait := .flags h.wait } : Thread).ready then fileThread s t va (.flags h.wait)
  else
    modThread s t fun x =>
      let x := { x with hdr := va, pc := va }
      if region then { x with ctx := { x.ctx with rgn := x.ctx.rgn + 1 }, rent := va, cvSnap := x.ctx.cv, posSnap := x.pos } else x

/-- The members of the issue group at a position. -/
def membersAt (s : State) (part pos : Nat) : List Nat := (s.group part pos).tids

/-- An issue group at a header whose clause is present: header traps, the checks of the whole clause, then each member files or
enters (02 R37-R39, R45). -/
def enterClause (s : State) (part pos va : Nat) (clause : List IWord) : State :=
  let pg := (s.group part pos).pg
  let s := headerTraps s pg (membersAt s part pos) va
  match clause with
  | [] => s
  | h :: body =>
    match Header.decode h with
    | none => groupTraps s pg (membersAt s part pos) (plainTrap 0x01 va) va
    | some hd =>
      match firstBadWord (decodeCtx (s.lrOfPg pg)) hd 0 body with
      | some n => groupTraps s pg (membersAt s part pos) (plainTrap 0x01 (va + 12 * (n + 1))) va
      | none =>
        let s := (membersAt s part pos).foldl (fun s i => enterThread s { pg := pg, tid := i } hd va) s
        modGroup s part pos fun g => { g with pc := va + 12, hdr := va, header := hd, words := body }

/-- A thread drawn alone at a resume word inside a clause (02 R37, 18 R325): the clause is checked whole, its header's wait does not
apply. DESIGN CHOICE (log 112): where the clause as fetched now ends before the resume word, the group has no word to issue and holds its
position. -/
def resumeClause (s : State) (part pos va : Nat) (pc : Nat) (clause : List IWord) : State :=
  let pg := (s.group part pos).pg
  match clause with
  | [] => s
  | h :: body =>
    match Header.decode h with
    | none => groupTraps s pg (membersAt s part pos) (plainTrap 0x01 va) va
    | some hd =>
      match firstBadWord (decodeCtx (s.lrOfPg pg)) hd 0 body with
      | some n => groupTraps s pg (membersAt s part pos) (plainTrap 0x01 (va + 12 * (n + 1))) va
      | none =>
        modGroup s part pos fun g => { g with pc := pc, hdr := va, header := hd, words := body.drop ((pc - va) / 12 - 1) }

/-- The age threshold of a launch (05 R87). -/
def ageLimit (lr : LaunchRec) : Nat := if lr.age = 0 then 256 else lr.age

/-- A bin is aged (06 R121). -/
def binAgedNow (s : State) (b : Bin) : Bool := decide (ageLimit (s.lrOfPg b.pg) ≤ b.age)

/-- A bin that has been aged since an earlier clk: a draw takes it before others (06 R122, R126). An age that has stopped counting is. -/
def binAgedBefore (s : State) (b : Bin) : Bool := decide (ageLimit (s.lrOfPg b.pg) < b.age) || decide (65535 ≤ b.age)

/-- The overflow path, which counts as a bin (06 R119), is aged: a ready thread of it has an age limit that its age has reached. -/
def overflowAged (s : State) (part : Nat) : Bool :=
  s.w.pgs.any fun e => decide (e.2.part = part) && !e.2.ended && decide (ageLimit (s.lrOfPg e.1) ≤ (s.part part).ovAge)
    && e.2.threads.any fun t => decide (t.place = .overflow) && t.ready

/-- A group that has reached a header must be filed there (06 R125). DESIGN CHOICE (log 119): the test also applies to a group that still
waits there for its clause when its hold passes `lr.age`. -/
def mustFileAged (s : State) (part pos : Nat) : Bool :=
  let p := s.part part
  let g := s.group part pos
  decide (ageLimit (s.lrOfPg g.pg) ≤ g.held) && (p.bins.any (fun b => b.2.aged || binAgedNow s b.2) || overflowAged s part)
    && decide (Config.groupPositions ≤ p.groups.length)

/-- An issue group reaches a header (02 R38): it stands there while R125 applies or its clause is not present, else enters. -/
def arriveHeader (s : State) (part pos va : Nat) : State :=
  let s := modGroup s part pos fun g => { g with pc := va, hdr := va, words := [] }
  let g := s.group part pos
  if g.tids.isEmpty || mustFileAged s part pos then s
  else
    match peekClause s part (s.launch (s.pg g.pg).lid).space va with
    | none => s
    | some c => enterClause s part pos va c

/-! Retiring a word. -/

/-- The issue group whose word is being executed. -/
def State.issue (s : State) : Option Issue :=
  match s.cur with
  | none => none
  | some c =>
    match tget? (s.part c.part).groups c.pos with
    | none => none
    | some g =>
      let p := s.pg g.pg
      if g.words.isEmpty then none
      else some { part := c.part, pos := c.pos, pg := g.pg, cg := cgOfPg g.pg, core := p.core, lid := p.lid,
                  space := (s.launch p.lid).space, pc := g.pc, hdr := g.hdr, header := g.header, tids := g.tids }

/-- The word is held: the group tries it again after a clk (02 R43). For a frame, what the walker has done stays: it has filled the leaf,
or set `pte.busy` and reported the shortage (08 R182); a clock or log that is full starts a checkpoint (20 R363, R364). -/
def holdWord (s : State) (ix : Issue) (why : Again) : State :=
  let s := match why with
    | .frame va => (demandFill s ix.core ix.space va).1
    | .log => { s with ckptForced := true }
    | .no | .order | .unit => s
  modGroup s ix.part ix.pos fun g => { g with stall := 1, ready := false, again := why }

/-- Clk a causal trial holds the group for after a word outside the range (22 R376). -/
def trialDelay (s : State) (lid pc : Nat) : Nat :=
  if s.trial.inTrial && decide (s.trial.launch = lid) && !(decide (s.trial.lo ≤ pc) && decide (pc < s.trial.hi)) then s.trial.d else 0

/-- Count a word inside or outside the range of a running trial window (22 R376). -/
def trialCount (s : State) (lid pc : Nat) : State :=
  if s.trial.en ∧ s.trial.launch = lid then
    let i := if s.trial.lo ≤ pc ∧ pc < s.trial.hi then 8 else 9
    { s with trial := { s.trial with counters := s.trial.counters.modify i satInc } }
  else s

/-- What the issue of a word does to its threads' counts: `retired`, and a DSM thread's timer (06 R135, 18 R335). -/
def countWord (dsm : Bool) (t : Thread) : Thread :=
  { t with ctx := { t.ctx with retired := t.ctx.retired + 1 },
           timer := if dsm then t.timer.map (· - 1) else t.timer }

/-- What the issue of a word does to its partition and group besides its effect: the slot of this clk is used, the stall count,
yield and trial holds begin (02 R33-R35). -/
def spendSlot (s : State) (ix : Issue) (c : Ctl) : State :=
  let dsm := (s.launch ix.lid).lr.dsm
  let s := modPg s ix.pg fun g => ix.tids.foldl (fun g i => g.modThread i (countWord dsm)) g
  let s := trialCount s ix.lid ix.pc
  let st := c.stall.toNat
  let tr := trialDelay s ix.lid ix.pc
  modPart s ix.part fun p =>
    let others := (p.groups.map (·.1)).filter (· != ix.pos)
    let upd (g : Group) : Group := { g with last := p.seq + 1, stall := if st + tr = 0 then 0 else st + tr + 1,
                                            ready := decide (st + tr = 0), trial := tr, again := .no, yieldFor := if c.yield then others else [] }
    { p with issued := true, lastIssue := some (ix.pc, ix.tids.length, ix.lid), seq := p.seq + 1, rot := ix.pos, groups := (p.groups.map fun e =>
        if e.1 = ix.pos then (e.1, upd e.2) else (e.1, { e.2 with yieldFor := e.2.yieldFor.filter (· != ix.pos) })) }

/-- A thread that has issued an abandoned word again goes on to the next one, or to where it stood (18 R332). -/
def redoNext (s : State) (t : ThreadRef) : State :=
  match (s.thread t).redo with
  | none => s
  | some r =>
    match r.words with
    | _ :: y :: rest => modThread (setPlace s t .alone) t fun x => { x with redo := some { r with words := y :: rest } }
    | _ =>
      let s := modThread (setPlace s t .parked) t fun x => { x with redo := none }
      let th := s.thread t
      match r.place with
      | .bin _ | .overflow => settleJoins (fileThread s t th.pc th.wait) t.pg
      | pl => setPlace s t pl

/-- The group goes on to the next word, or to the next header after the last word of its clause. -/
def advance (s : State) (ix : Issue) : State :=
  let s := modGroup s ix.part ix.pos fun g => { g with pc := ix.pc + 12, words := g.words.drop 1, hold := .free, did := [] }
  match tget? (s.part ix.part).groups ix.pos with
  | none => s
  | some g => if g.words.isEmpty then arriveHeader s ix.part ix.pos (ix.pc + 12) else s

/-- A word retires: its slot is spent and the group goes on. -/
def retire (s : State) (ix : Issue) (c : Ctl) : State := advance (spendSlot s ix c) ix

/-- A filing word retires: its slot is spent; its threads have been filed. -/
def retireFiled (s : State) (ix : Issue) (c : Ctl) : State := spendSlot s ix c

/-- The number of body words of the clause being executed. -/
def clauseLen (ix : Issue) : Nat := ix.header.count.toNat + 1

/-- Where the word being executed stands. -/
def siteOf (ix : Issue) : WordAt := { pc := ix.pc, hdr := ix.hdr, len := clauseLen ix }

/-- A trap call by a thread of the executing group (02 R47). -/
def trapAt (s : State) (ix : Issue) (i : Nat) (x : Trap) : State :=
  trapCall s { pg := ix.pg, tid := i } x (siteOf ix) false

/-! Delivery and the return from a handler (18 R322, R325, R327). -/

/-- The head of a trap queue may be delivered (18 R322). -/
def mayDeliver (s : State) (pg : Nat) : Bool :=
  let g := s.pg pg
  match g.trapq with
  | [] => false
  | e :: _ =>
    let t : ThreadRef := { pg := pg, tid := e.tid }
    !g.handling && !(s.w.pends.any fun p => decide (p.th = t) && !p.win) && (s.thread t).ctx.flags.all (· == 0)
      && (s.thread t).redo.isNone

/-- Deliver the head entry: its thread leaves the parked set for the bin of `lr.trapvec` in handler mode (18 R322). -/
def deliver (s : State) (pg : Nat) : State :=
  match (s.pg pg).trapq with
  | [] => s
  | e :: _ =>
    let t : ThreadRef := { pg := pg, tid := e.tid }
    let s := modPg s pg fun g => { g with handling := true }
    let s := modCtx s t fun c => { c with tcause := word e.cause.toNat, tval := e.val }
    let s := modThread s t fun x => { x with handler := true, trap := some e }
    let s := traceRecord s t 3 e.pc e.cause.toNat 0
    fileThread s t (s.lrOfPg pg).trapvec .ready

/-- End handler mode and pop the head entry (18 R325). -/
def endHandler (s : State) (t : ThreadRef) : State :=
  let e := (s.thread t).trap
  let s := modPg s t.pg fun g => { g with handling := false, trapq := g.trapq.filter fun e => e.tid != t.tid }
  modThread s t fun x => { x with handler := false, trap := none, hdr := (e.map (·.hdr)).getD x.hdr }

/-- The resume word of an entry (18 R325). -/
def resumeWord (e : TqEntry) : Nat := if e.next then e.pc + 12 else e.pc

/-- A thread goes on at an entry's resume word: filed if that is a header, else drawn alone (18 R325). -/
def resumeAt (s : State) (t : ThreadRef) (e : TqEntry) : State :=
  let r := resumeWord e
  if r = e.hdr ∨ r = e.hdr + 12 * (e.len + 1) ∨ e.len = 0 then fileThread s t r .ready
  else modThread (setPlace s t .alone) t fun x => { x with pc := r, hdr := e.hdr, wait := .ready }

/-- Region restart (18 R327). -/
def regionRestart (s : State) (t : ThreadRef) (e : TqEntry) : State :=
  let s := modThread s t fun x =>
    { x with ctx := { x.ctx with rgn := if e.rgn = 0 then 0 else e.rgn - 1, cv := x.cvSnap }, pos := x.posSnap }
  let s := modPg s t.pg fun g => { g with streams := (g.streams.map fun st =>
    { st with entries := st.entries.filter fun x => x.tid != t.tid }) }
  fileThread s t e.rent .ready

end Sys2Proof.Machine
end

