-- ==== Sys2Proof/Machine/Operands.lean ====
section
/-! DEFINITION. Every operand form: guards (02 R33), sources (02 R27, R28, R47), special registers (02 R30), resources and roles
(02 R29, R32), memory operands (09 R196), and the writing of results (02 R34, R36, R47). -/

namespace Sys2Proof.Machine

/-- A v register of a thread. -/
def regOf (s : State) (t : ThreadRef) (n : Nat) : Word := (s.thread t).ctx.regs.getD n 0

/-- A predicate of a thread; 7 is `pt`. -/
def predOf (s : State) (t : ThreadRef) (n : Nat) : Bool := if n = 7 then true else (s.thread t).ctx.preds.getD n false

/-- A launch constant (05 R86). -/
def constOf (s : State) (t : ThreadRef) (n : Nat) : Word := (s.lrOfPg t.pg).consts.getD n 0

/-- The guard of a thread (02 R33). -/
def guardOf (s : State) (c : Ctl) (t : ThreadRef) : Bool := predOf s t c.pred.toNat != c.neg

/-- The guard-true threads of the executing group, in ascending `tid`. -/
def activeOf (s : State) (ix : Issue) (c : Ctl) : List ThreadRef :=
  (ix.tids.map fun i => ({ pg := ix.pg, tid := i } : ThreadRef)).filter (guardOf s c)

/-- Threads in ascending lane position (08 R185). -/
def byLane (ts : List ThreadRef) : List ThreadRef := sortBy (fun t => laneOf t.tid) ts

/-! Special registers (02 R30). -/

/-- Nanoseconds since phase 6 (18 R335). -/
def wtimeOf (s : State) : Nat := Config.nsOfClk (s.clk - s.phase6)

/-- What a thread reads of the time: in a replay its next logged value, as long as the log holds one (20 R365). -/
def readTime (s : State) (t : ThreadRef) (v : Nat) : Nat :=
  ((s.logged 1 (s.pg t.pg).lid (gtidOf s t)).map fun r => r.val).getD v

/-- A special register as a 64-bit value; a 32-bit one is zero-extended (18 R341). -/
def sregOf (s : State) (t : ThreadRef) (n : Nat) : DWord :=
  let th := s.thread t
  let g := s.pg t.pg
  let lr := (s.launch g.lid).lr
  BitVec.ofNat 64 (match n with
    | 0 => t.tid
    | 1 => laneOf t.tid
    | 2 => teamOf t.tid
    | 3 => g.pgid
    | 4 => g.cgid
    | 5 => g.dgid
    | 6 => gtidOf s t
    | 7 => lr.npg
    | 8 => lr.ncg
    | 9 => lr.ndg
    | 10 => readTime s t (clkOf s t % 2 ^ 32)
    | 11 => readTime s t (clkOf s t / 2 ^ 32 % 2 ^ 32)
    | 12 => readTime s t (wtimeOf s)
    | 13 => th.ctx.retired % 2 ^ 32
    | 14 => th.ctx.rgn.toNat
    | 15 => th.ctx.cv.cvin.toNat
    | 16 => th.ctx.cv.cvout.toNat
    | 17 => th.ctx.cv.cvorph.toNat
    | 18 => th.ctx.fflags.toNat
    | 19 => th.ctx.tcause.toNat
    | 20 => th.ctx.tval.toNat
    | _ => 0)

/-! Sources (02 R28, R47). -/

/-- Absolute value, then negation, on a pattern whose sign is bit `b`. -/
def signMods (neg abs : Bool) (b : Nat) (x : Nat) : Nat :=
  let y := if abs then x % 2 ^ b + x / 2 ^ (b + 1) * 2 ^ (b + 1) else x
  if neg then Nat.xor y (2 ^ b) else y

/-- A 32-bit integer or bit-pattern source. -/
def srcWord (s : State) (t : ThreadRef) (o : Opd) : Word :=
  match o with
  | .v n _ _ => regOf s t n.toNat
  | .k n _ _ => constOf s t n.toNat
  | .imm x => x.signExtend 32
  | .sr n => (sregOf s t n.toNat).truncate 32
  | .p _ _ | .role _ | .res _ _ | .none => 0

/-- A 64-bit integer source: a pair, or a sign-extended immediate. -/
def srcPair (s : State) (t : ThreadRef) (o : Opd) : DWord :=
  match o with
  | .v n _ _ => pairOf (regOf s t n.toNat) (regOf s t (n.toNat + 1))
  | .k n _ _ => pairOf (constOf s t n.toNat) (constOf s t (n.toNat + 1))
  | .imm x => x.signExtend 64
  | .sr n => sregOf s t n.toNat
  | .p _ _ | .role _ | .res _ _ | .none => 0

/-- The negate and absolute bits of an operand. -/
def opdMods (o : Opd) : Bool × Bool :=
  match o with
  | .v _ n a | .k _ n a => (n, a)
  | .p _ _ | .imm _ | .sr _ | .role _ | .res _ _ | .none => (false, false)

/-- An f32 source's bits: an immediate forms bits [31:13]. -/
def srcF32 (s : State) (t : ThreadRef) (o : Opd) : Nat :=
  match o with
  | .imm x => x.toNat * 2 ^ 13
  | o => signMods (opdMods o).1 (opdMods o).2 31 (srcWord s t o).toNat

/-- An f64 source's bits: an immediate forms bits [63:45]. -/
def srcF64 (s : State) (t : ThreadRef) (o : Opd) : Nat :=
  match o with
  | .imm x => x.toNat * 2 ^ 45
  | o => signMods (opdMods o).1 (opdMods o).2 63 (srcPair s t o).toNat

/-- A packed 16-bit source's bits: an immediate is copied into both halves; modifiers apply to both. -/
def srcPacked (s : State) (t : ThreadRef) (o : Opd) : Nat :=
  match o with
  | .imm x => x.toNat % 2 ^ 16 * 65537
  | o => signMods (opdMods o).1 (opdMods o).2 31 (signMods (opdMods o).1 (opdMods o).2 15 (srcWord s t o).toNat)

/-- A scalar float source of a narrow type in the low bits of a register (03 R50). DESIGN CHOICE (log 101): an immediate, for which 02
R28 names no placement in these types, gives its low bits. -/
def srcNarrow (s : State) (t : ThreadRef) (bits : Nat) (o : Opd) : Nat :=
  signMods (opdMods o).1 (opdMods o).2 (bits - 1) ((srcWord s t o).toNat % 2 ^ bits)

/-- An integer source of a type, as its integer (07 R148). -/
def srcInt (s : State) (t : ThreadRef) (ty : Ty) (o : Opd) : Int :=
  if ty.is64 then (if ty.isSigned then (srcPair s t o).toInt else (srcPair s t o).toNat)
  else if ty.isSigned then (srcWord s t o).toInt else (srcWord s t o).toNat

/-- A predicate source with its invert bit. -/
def srcPred (s : State) (t : ThreadRef) (o : Opd) : Bool :=
  match o with
  | .p n inv => predOf s t n.toNat != inv
  | .v _ _ _ | .k _ _ _ | .sr _ | .imm _ | .role _ | .res _ _ | .none => false

/-- An immediate as a natural number (its range makes it nonnegative). -/
def immNat (o : Opd) : Nat :=
  match o with
  | .imm x => x.toNat
  | .v _ _ _ | .p _ _ | .k _ _ _ | .sr _ | .role _ | .res _ _ | .none => 0

/-- The register number of a v operand. -/
def vNum (o : Opd) : Nat :=
  match o with
  | .v n _ _ => n.toNat
  | .p _ _ | .k _ _ _ | .sr _ | .imm _ | .role _ | .res _ _ | .none => 0

/-- The number of a predicate operand. -/
def pNum (o : Opd) : Nat :=
  match o with
  | .p n _ => n.toNat
  | .v _ _ _ | .k _ _ _ | .sr _ | .imm _ | .role _ | .res _ _ | .none => 7

/-- The number of a special-register operand. -/
def srNum (o : Opd) : Nat :=
  match o with
  | .sr n => n.toNat
  | .v _ _ _ | .p _ _ | .k _ _ _ | .imm _ | .role _ | .res _ _ | .none => 0

/-- Kind and number of a resource operand, a role resolved through the launch's binding table (02 R29, R32). -/
def resOf (lr : LaunchRec) (o : Opd) : Option (Nat × Nat) :=
  match o with
  | .res k n => some (k.code.toNat, n.toNat)
  | .role n => some ((decodeCtx lr).role n)
  | .v _ _ _ | .p _ _ | .k _ _ _ | .sr _ | .imm _ | .none => none

/-- The number a resource operand names; 0 where the operand names none. -/
def resNum (lr : LaunchRec) (o : Opd) : Nat := ((resOf lr o).map (·.2)).getD 0

/-- The counter an operand names (05 R104): a register's index at or above `lr.dccnt` traps PERMISSION. -/
def counterOf (s : State) (ix : Issue) (t : ThreadRef) (o : Opd) : Except Trap Nat :=
  let lr := (s.launch ix.lid).lr
  match o with
  | .v n _ _ =>
    let c := (regOf s t n.toNat).toNat
    if lr.dccnt ≤ c then .error (plainTrap 0x07 c) else .ok c
  | .p .. | .k .. | .sr _ | .imm _ | .role _ | .res .. | .none => .ok (resNum lr o)

/-! Memory operands (09 R196). -/

/-- Effective address: (src(t, B) + sign-extended immediate of C) mod 2^64. -/
def effAddr (s : State) (t : ThreadRef) (b c : Opd) : Nat := (srcPair s t b + srcPair s t c).toNat

/-! Results (02 R34, R36, R47). -/

/-- The flags a word's hint names (02 R36). -/
def flagsOf (ix : Issue) (c : Ctl) : List Nat :=
  (if c.fa then [ix.header.fa.toNat] else []) ++ (if c.fb then [ix.header.fb.toNat] else [])

/-- Add one to completion flags of a thread. -/
def raiseFlags (s : State) (t : ThreadRef) (fl : List Nat) : State :=
  modCtx s t fun c => { c with flags := fl.foldl (fun l i => l.modify i (· + 1)) c.flags }

/-- Take one from completion flags of a thread. -/
def lowerFlags (s : State) (t : ThreadRef) (fl : List Nat) : State :=
  modCtx s t fun c => { c with flags := fl.foldl (fun l i => l.modify i (· - 1)) c.flags }

/-- A 32-bit result. -/
def out1 (n : Nat) (x : Word) (fl : BitVec 6) : LaneOut := { regs := [n], vals := [x], preds := [], raise := fl }
/-- A 64-bit result in a pair. -/
def out2 (n : Nat) (x : DWord) (fl : BitVec 6) : LaneOut := { regs := [n, n + 1], vals := wordsOf x, preds := [], raise := fl }
/-- A predicate result; `pt` takes none (07 R137). -/
def outP (n : Nat) (x : Bool) (fl : BitVec 6) : LaneOut :=
  { regs := [], vals := [], preds := if n = 7 then [] else [(n, x)], raise := fl }

/-- A result of an integer type: one register, or a pair (03 R50). -/
def outTy (ty : Ty) (n : Nat) (x : DWord) (fl : BitVec 6) : LaneOut := if ty.is64 then out2 n x fl else out1 n (x.truncate 32) fl

/-- Put a result in flight: a scoreboard entry due after `lat`, counted on the word's flags (02 R34, R36, R42). Under DSM a
variable result is due 64 slots after its issue (06 R131). -/
def pushResult (s : State) (ix : Issue) (c : Ctl) (lat : Nat) (isVar ready : Bool) (t : ThreadRef) (o : LaneOut) : State :=
  let fl := flagsOf ix c
  let now := timeOf s ix.cg
  let due := if isVar then (if (s.launch ix.lid).lr.dsm then now + Config.dsmLatency else now) else now + lat
  let p : Pend := { id := s.w.nextId, th := t, site := siteOf ix, isVar := isVar, ready := ready, regs := o.regs, vals := o.vals,
                    preds := o.preds, raise := o.raise, cflags := fl, due := due, holds := false, bad := none }
  raiseFlags { s with w := { s.w with nextId := s.w.nextId + 1, pends := s.w.pends ++ [p] } } t fl

/-- A completion flag without a result: what is accepted in the clk after its issue, visible to headers from the next
(02 R36); under DSM 64 slots after the issue (06 R131). What its engine has not accepted yet, `held`, is not due until it has. -/
def pushAccepted (held : Bool) (s : State) (ix : Issue) (fl : List Nat) (t : ThreadRef) : State :=
  let now := timeOf s ix.cg
  let due := if (s.launch ix.lid).lr.dsm then now + Config.dsmLatency + 1 else now + 2
  let p : Pend := { id := s.w.nextId, th := t, site := siteOf ix, isVar := false, ready := !held, regs := [], vals := [], preds := [],
                    raise := 0, cflags := fl, due := due, holds := false, bad := none, flagOnly := true }
  raiseFlags { s with w := { s.w with nextId := s.w.nextId + 1, pends := s.w.pends ++ [p] } } t fl

/-- The flags of a word's guard-true threads that got no result from it and took no trap (02 R36): `s0` is the state before the
word's effect, `s` the one after it; `held` that its engine has still to accept it. -/
def acceptFlagsAs (held : Bool) (s0 s : State) (ix : Issue) (c : Ctl) : State :=
  let fl := flagsOf ix c
  if fl.isEmpty then s
  else (activeOf s0 ix c).foldl (fun s t =>
    let th := s.thread t
    if th.live && decide (th.place ≠ .parked) && !(s.w.pends.any fun p => decide (p.th = t) && !p.win && decide (s0.w.nextId ≤ p.id)) then
      pushAccepted held s ix fl t
    else s) s

/-- The flags of a word whose operations are accepted as it issues. -/
def acceptFlags (s0 s : State) (ix : Issue) (c : Ctl) : State := acceptFlagsAs false s0 s ix c

/-- The engine has accepted what a held word issued: its flags drop in the next clk (02 R36). -/
def acceptHeld (s : State) (ix : Issue) : State :=
  { s with w := { s.w with pends := s.w.pends.map fun p =>
    if p.flagOnly && !p.ready && decide (p.th.pg = ix.pg) && decide (p.site = siteOf ix) && ix.tids.contains p.th.tid then
      { p with ready := true, due := timeOf s ix.cg + 1 } else p } }

/-- A word whose effect is one result per guard-true thread, all sources read before any result (07 R138): the effect. -/
def laneResults (s : State) (ix : Issue) (c : Ctl) (lat : Nat) (isVar : Bool) (f : State → Issue → ThreadRef → LaneOut) : State :=
  ((activeOf s ix c).map fun t => (t, f s ix t)).foldl (fun s r => pushResult s ix c lat isVar true r.1 r.2) s

/-- The word as a whole: nothing where no group issues it. -/
def laneWord (s : State) (c : Ctl) (lat : Nat) (isVar : Bool) (f : State → Issue → ThreadRef → LaneOut) :
    Host.Outcome State Fault Refusal :=
  match s.issue with
  | none => .next s
  | some ix => .next (retire (laneResults s ix c lat isVar f) ix c)

/-- A word that acts for its guard-true threads in ascending `tid`, where a lane may trap or wait (02 R47, 08 R181, R182): a lane that
waits holds the whole word, which is then tried again. -/
def actLanes (s : State) (ix : Issue) (ts : List ThreadRef) (f : State → ThreadRef → State × Option Trap) : Except Again State :=
  ts.foldl (fun acc t =>
    match acc with
    | .error why => .error why
    | .ok s =>
      match f s t with
      | (s, none) => .ok s
      | (s, some x) => match x.again with
        | some why => .error why
        | none => .ok (trapAt s ix t.tid x)) (.ok s)

/-- A word made of such lanes, in ascending `tid`. -/
def actWord (s : State) (c : Ctl) (f : Issue → State → ThreadRef → State × Option Trap) : Host.Outcome State Fault Refusal :=
  match s.issue with
  | none => .next s
  | some ix =>
    match actLanes s ix (activeOf s ix c) (f ix) with
    | .ok s' => .next (retire (acceptFlags s s' ix c) ix c)
    | .error why => .next (holdWord s ix why)

/-- A word with an effect on the state as a whole for its guard-true threads. -/
def stateWord (s : State) (c : Ctl) (f : Issue → State → State) : Host.Outcome State Fault Refusal :=
  match s.issue with
  | none => .next s
  | some ix => .next (retire (acceptFlags s (f ix s) ix c) ix c)

/-- Remove a result from those in flight. -/
def dropPend (s : State) (id : Nat) : State := { s with w := { s.w with pends := s.w.pends.filter fun x => x.id != id } }

/-- Write a completed result: registers, predicates, sticky flags (02 R36, 07 R139). Its completion flags drop in the next clk,
from which headers see them; until then the emptied entry stands for them. An entry for flags alone drops them. -/
def writeResult (s : State) (p : Pend) : State :=
  if p.flagOnly then lowerFlags (dropPend s p.id) p.th p.cflags
  else
    let s := modCtx s p.th fun c =>
      { c with regs := (p.regs.zip p.vals).foldl (fun l r => l.set r.1 r.2) c.regs,
               preds := p.preds.foldl (fun l r => l.set r.1 r.2) c.preds, fflags := c.fflags ||| p.raise }
    if p.cflags.isEmpty then dropPend s p.id
    else
      let rest : Pend := { p with isVar := false, ready := true, regs := [], vals := [], preds := [], raise := 0, holds := false, flagOnly := true,
                                  due := timeOf s (cgOfPg p.th.pg) + 1 }
      { s with w := { s.w with pends := s.w.pends.map fun x => if x.id = p.id then rest else x } }

end Sys2Proof.Machine
end

