-- ==== Sys2Proof/Machine/Special.lean ====
section
/-! DEFINITION. The special functions (03 R68-R72, R396): their constants, each `rne` of the stated real number into f64, and their
algorithms, one rounding to f64 a line. -/

namespace Sys2Proof.Machine

/-- T[i], 64 entries (03 R69) -/
def expTable : List Nat :=
  [0x3FF0000000000000, 0x3FF02C9A3E778061, 0x3FF059B0D3158574, 0x3FF0874518759BC8,
   0x3FF0B5586CF9890F, 0x3FF0E3EC32D3D1A2, 0x3FF11301D0125B51, 0x3FF1429AAEA92DE0]
  ++ [0x3FF172B83C7D517B, 0x3FF1A35BEB6FCB75, 0x3FF1D4873168B9AA, 0x3FF2063B88628CD6,
   0x3FF2387A6E756238, 0x3FF26B4565E27CDD, 0x3FF29E9DF51FDEE1, 0x3FF2D285A6E4030B]
  ++ [0x3FF306FE0A31B715, 0x3FF33C08B26416FF, 0x3FF371A7373AA9CB, 0x3FF3A7DB34E59FF7,
   0x3FF3DEA64C123422, 0x3FF4160A21F72E2A, 0x3FF44E086061892D, 0x3FF486A2B5C13CD0]
  ++ [0x3FF4BFDAD5362A27, 0x3FF4F9B2769D2CA7, 0x3FF5342B569D4F82, 0x3FF56F4736B527DA,
   0x3FF5AB07DD485429, 0x3FF5E76F15AD2148, 0x3FF6247EB03A5585, 0x3FF6623882552225]
  ++ [0x3FF6A09E667F3BCD, 0x3FF6DFB23C651A2F, 0x3FF71F75E8EC5F74, 0x3FF75FEB564267C9,
   0x3FF7A11473EB0187, 0x3FF7E2F336CF4E62, 0x3FF82589994CCE13, 0x3FF868D99B4492ED]
  ++ [0x3FF8ACE5422AA0DB, 0x3FF8F1AE99157736, 0x3FF93737B0CDC5E5, 0x3FF97D829FDE4E50,
   0x3FF9C49182A3F090, 0x3FFA0C667B5DE565, 0x3FFA5503B23E255D, 0x3FFA9E6B5579FDBF]
  ++ [0x3FFAE89F995AD3AD, 0x3FFB33A2B84F15FB, 0x3FFB7F76F2FB5E47, 0x3FFBCC1E904BC1D2,
   0x3FFC199BDD85529C, 0x3FFC67F12E57D14B, 0x3FFCB720DCEF9069, 0x3FFD072D4A07897C]
  ++ [0x3FFD5818DCFBA487, 0x3FFDA9E603DB3285, 0x3FFDFC97337B9B5F, 0x3FFE502EE78B3FF6,
   0x3FFEA4AFA2A490DA, 0x3FFEFA1BEE615A27, 0x3FFF50765B6E4540, 0x3FFFA7C1819E90D8]

/-- c1 to c4 (03 R69) -/
def expCoef : List Nat :=
  [0x3FE62E42FEFA39EF, 0x3FCEBFBDFF82C58F, 0x3FAC6B08D704A0C0, 0x3F83B2AB6FBA4E77]

/-- L[j], 96 entries (03 R70) -/
def logTable : List Nat :=
  [0xBFDA8FF971810A5E, 0xBFD99B072A96C6B2, 0xBFD8A8980ABFBD32, 0xBFD7B89F02CF2AAD,
   0xBFD6CB0F6865C8EA, 0xBFD5DFDCF1EEAE0E, 0xBFD4F6FBB2CEC598, 0xBFD4106017C3ECA3]
  ++ [0xBFD32BFEE370EE68, 0xBFD249CD2B13CD6C, 0xBFD169C05363F158, 0xBFD08BCE0D95FA38,
   0xBFCF5FD8A9063E35, 0xBFCDAC22D3E441D3, 0xBFCBFC67A7FFF4CC, 0xBFCA5094B54D2828]
  ++ [0xBFC8A8980ABFBD32, 0xBFC7046031C79F85, 0xBFC563DC29FFACB2, 0xBFC3C6FB650CDE51,
   0xBFC22DADC2AB3497, 0xBFC097E38CE60649, 0xBFBE0B1AE8F2FD56, 0xBFBAED391AB6674E]
  ++ [0xBFB7D60496CFBB4C, 0xBFB4C560FE68AF88, 0xBFB1BB32A600549D, 0xBFAD6EBD1F1FEBFE,
   0xBFA77394C9D958D5, 0xBFA184B8E4C56AF8, 0xBF9743EE861F3556, 0xBF872C7BA20F7327]
  ++ [0x0000000000000000, 0x3F86FE50B6EF0851, 0x3F96E79685C2D22A, 0x3FA11CD1D5133413,
   0x3FA6BAD3758EFD87, 0x3FAC4DFAB90AAB5F, 0x3FB0EB389FA29F9B, 0x3FB3AA2FDD27F1C3]
  ++ [0x3FB663F6FAC91316, 0x3FB918A16E46335B, 0x3FBBC84240ADABBA, 0x3FBE72EC117FA5B2,
   0x3FC08C588CDA79E4, 0x3FC1DCD197552B7B, 0x3FC32AE9E278AE1A, 0x3FC476A9F983F74D]
  ++ [0x3FC5C01A39FBD688, 0x3FC70742D4EF027F, 0x3FC84C2BD02F03B3, 0x3FC98EDD077E70DF,
   0x3FCACF5E2DB4EC94, 0x3FCC0DB6CDD94DEE, 0x3FCD49EE4C325970, 0x3FCE840BE74E6A4D]
  ++ [0x3FCFBC16B902680A, 0x3FD0790ADBB03009, 0x3FD11307DAD30B76, 0x3FD1AC05B291F070,
   0x3FD24407AB0E073A, 0x3FD2DB10FC4D9AAF, 0x3FD37124CEA4CDED, 0x3FD406463B1B0449]
  ++ [0x3FD49A784BCD1B8B, 0x3FD52DBDFC4C96B3, 0x3FD5C01A39FBD688, 0x3FD6518FE4677BA7,
   0x3FD6E221CD9D0CDE, 0x3FD771D2BA7EFB3C, 0x3FD800A563161C54, 0x3FD88E9C72E0B226]
  ++ [0x3FD91BBA891F1709, 0x3FD9A802391E232F, 0x3FDA33760A7F6051, 0x3FDABE18797F1F49,
   0x3FDB47EBF73882A1, 0x3FDBD0F2E9E79031, 0x3FDC592FAD295B56, 0x3FDCE0A4923A587D]
  ++ [0x3FDD6753E032EA0F, 0x3FDDED3FD442364C, 0x3FDE726AA1E754D2, 0x3FDEF6D67328E220,
   0x3FDF7A8568CB06CF, 0x3FDFFD799A83FF9B, 0x3FE03FDA8B97997F, 0x3FE0809CF27F703D]
  ++ [0x3FE0C10500D63AA6, 0x3FE10113B153C8EA, 0x3FE140C9FAA1E544, 0x3FE18028CF72976A,
   0x3FE1BF311E95D00E, 0x3FE1FDE3D30E8126, 0x3FE23C41D42727C8, 0x3FE27A4C0585CBF8]

/-- d1 to d7 (03 R70) -/
def logCoef : List Nat :=
  [0x3FF71547652B82FE, 0xBFE71547652B82FE, 0x3FDEC709DC3A03FD, 0xBFD71547652B82FE,
   0x3FD2776C50EF9BFE, 0xBFCEC709DC3A03FD, 0x3FCA61762A7ADED9]

/-- s1 to s6 (03 R71) -/
def sinCoef : List Nat :=
  [0xBFC5555555555555, 0x3F81111111111111, 0xBF2A01A01A01A01A, 0x3EC71DE3A556C734,
   0xBE5AE64567F544E4, 0x3DE6124613A86D09]

/-- c1 to c6 (03 R71) -/
def cosCoef : List Nat :=
  [0xBFE0000000000000, 0x3FA5555555555555, 0xBF56C16C16C16C17, 0x3EFA01A01A01A01A,
   0xBE927E4FB7789F5C, 0x3E21EED8EFF8D898]

/-- tau, m3 and L2E (03 R71, R72) -/
def specialConst : List Nat :=
  [0x401921FB54442D18, 0xBFD5555555555555, 0x3FF71547652B82FE]

/-- An f64 constant's value. -/
def f64Const (l : List Nat) (i : Nat) : FVal := fmt64.value (l.getD i 0)

/-- `rne` of a value into f64, read back. -/
def r64 (v : FVal) : FVal := fmt64.value (fmt64.round v).1

/-- rne(a × b + c, f64). -/
def fma64 (a b c : FVal) : FVal := r64 (fmaV a b c).1
def mul64 (a b : FVal) : FVal := r64 (mulV a b).1
def add64 (a b : FVal) : FVal := r64 (addV a b).1

/-- rne(a / b, f64) of finite values, b nonzero. -/
def div64 (a b : FVal) : FVal :=
  match a, b with
  | .fin s m x, .fin t n y => if m = 0 then .fin (s != t) 0 0 else fmt64.value (roundQuot fmt64 (s != t) m x n y).1
  | _, _ => .nan

/-- `v × 2^e`, exact. -/
def scaleV (v : FVal) (e : Int) : FVal :=
  match v with
  | .fin s m x => .fin s m (x + e)
  | v => v

/-- An exact integer value. -/
def intV (n : Int) : FVal := .fin (decide (n < 0)) n.natAbs 0

/-- A finite value times a power of two, rounded to the nearest integer, ties to even. -/
def nearInt (v : FVal) : Int :=
  match v with
  | .fin s m x => (if s then -1 else 1) * (roundInt .rne s m x : Nat)
  | _ => 0

/-- The lines of 03 R69 for an f64 value: y and e, standing for y × 2^e. -/
def expLines (x : FVal) : FVal × Int :=
  let k := nearInt (scaleV x 6)
  let r := (addV x (scaleV (intV k) (-6)).neg).1
  let i := k % 64
  let e := (k - i) / 64
  let c (n : Nat) : FVal := f64Const expCoef (n - 1)
  let p := fma64 (c 4) r (c 3)
  let p := fma64 p r (c 2)
  let p := fma64 p r (c 1)
  let p := fma64 p r (intV 1)
  (mul64 (f64Const expTable i.toNat) p, e)

/-- Round the value of a special function's last line to f32, with `nx` as the function gives it and `uf` and `of` as 03 R396. -/
def specialRound (v : FVal) (nx : Bool) : Nat × BitVec 6 :=
  let r := fmt32.round v
  (r.1, flagIf (nx || r.2 &&& flOf != 0) flNx ||| (r.2 &&& flOf) ||| (r.2 &&& flUf))

/-- A value is an integer in a range. -/
def isIntIn (v : FVal) (lo hi : Int) : Bool :=
  match v with
  | .fin s m x =>
    (decide (0 ≤ x) || decide (m % 2 ^ (-x).toNat = 0))
      && (let n := ((if s then -1 else 1) * (roundInt .rz s m x : Nat) : Int); decide (lo ≤ n) && decide (n ≤ hi))
  | _ => false

/-- EXP2 (03 R69). -/
def exp2Bits (bits : Nat) : Nat × BitVec 6 :=
  let x := fmt32.value bits
  match x with
  | .nan => (fmt32.nan, 0)
  | .inf s => (if s then 0 else fmt32.infBits, 0)
  | .fin _ _ _ =>
    if cmpV x (intV 128) != some .lt then (fmt32.infBits, flOf ||| flNx)
    else if cmpV x (intV (-150)) = some .lt then (0, flUf ||| flNx)
    else
      let y := expLines x
      let exact := isIntIn x (-149) 127
      let r := specialRound (scaleV y.1 y.2) (!exact)
      if exact then (r.1, r.2 &&& ~~~flUf) else r

/-- LOG2 (03 R70). -/
def log2Bits (bits : Nat) : Nat × BitVec 6 :=
  match fmt32.value bits with
  | .nan => (fmt32.nan, 0)
  | .inf s => if s then (fmt32.nan, flNv) else (fmt32.infBits, 0)
  | .fin s m x =>
    if m = 0 then (fmt32.sign true + fmt32.infBits, flDz)
    else if s then (fmt32.nan, flNv)
    else
      -- x = mm / 2^24 × 2^e with 2^24 ≤ mm < 2^25; halved from 1.5
      let l := Nat.log2 m
      let mm := m * 2 ^ (24 - l)
      let e0 : Int := x + l
      let big := decide (3 * 2 ^ 23 ≤ mm)
      let e : Int := if big then e0 + 1 else e0
      let num := if big then mm else mm * 2      -- m in units of 2^-25
      let j := (num - 3 * 2 ^ 23) / 2 ^ 18       -- floor(128 (m - 0.75))
      let c := 96 + j                            -- c in units of 1/128
      let y := div64 (.fin (decide (num < c * 2 ^ 18)) ((num : Int) - (c * 2 ^ 18 : Nat)).natAbs (-25)) (.fin false c (-7))
      let d (n : Nat) : FVal := f64Const logCoef (n - 1)
      let q := fma64 (d 7) y (d 6)
      let q := fma64 q y (d 5)
      let q := fma64 q y (d 4)
      let q := fma64 q y (d 3)
      let q := fma64 q y (d 2)
      let q := fma64 q y (d 1)
      let z := add64 (f64Const logTable j) (mul64 q y)
      specialRound (addV (intV e) z).1 (mm != 2 ^ 24)

/-- `sv`, `cv`, the quadrant and whether r = 0, of a finite operand (03 R71). -/
def sinCosLines (x : FVal) : FVal × FVal × Nat × Bool :=
  let large := cmpV x (intV (2 ^ 24)) != some .lt || cmpV x (intV (-(2 ^ 24))) != some .gt
  let n : Int := if large then 0 else nearInt (scaleV x 2)
  let r : FVal := if large then .fin false 0 0 else (addV x (scaleV (intV n) (-2)).neg).1
  let q := (n % 4).toNat
  -- an exact zero difference is +0, but X = -0 keeps its sign: -0 + (-0 / 4 with n = 0 is +0, negated -0)
  if r.isZero then (r, intV 1, q, true)
  else
    let th := mul64 r (f64Const specialConst 0)
    let t := mul64 th th
    let s (k : Nat) : FVal := f64Const sinCoef (k - 1)
    let c (k : Nat) : FVal := f64Const cosCoef (k - 1)
    let sp := [5, 4, 3, 2, 1].foldl (fun acc k => fma64 acc t (s k)) (s 6)
    let cp := [5, 4, 3, 2, 1].foldl (fun acc k => fma64 acc t (c k)) (c 6)
    (r64 (addV (mulV th (mul64 sp t)).1 th).1, fma64 cp t (intV 1), q, false)

/-- SIN and COS (03 R71). -/
def sinCosBits (cosine : Bool) (bits : Nat) : Nat × BitVec 6 :=
  match fmt32.value bits with
  | .nan => (fmt32.nan, 0)
  | .inf _ => (fmt32.nan, flNv)
  | x =>
    let l := sinCosLines x
    let sv := l.1
    let cv := l.2.1
    let v := match l.2.2.1, cosine with
      | 0, false => sv
      | 1, false => cv
      | 2, false => sv.neg
      | _, false => cv.neg
      | 0, true => cv
      | 1, true => sv.neg
      | 2, true => cv.neg
      | _, true => sv
    specialRound v (!l.2.2.2)

/-- TANH (03 R72). -/
def tanhBits (bits : Nat) : Nat × BitVec 6 :=
  let x := fmt32.value bits
  match x with
  | .nan => (fmt32.nan, flNx)
  | .inf s => (fmt32.sign s + 0x3F800000, 0)
  | .fin s m e =>
    if m = 0 then (fmt32.sign s, 0)
    else
      let a : FVal := .fin false m e
      if cmpV a (.fin false 1 (-12)) = some .lt then
        let w := mul64 x x
        let v := mul64 w (f64Const specialConst 1)
        specialRound (fmaV x v x).1 true
      else if cmpV a (intV 10) != some .lt then (fmt32.sign s + 0x3F800000, flNx)
      else
        let z := mul64 (scaleV a 1) (f64Const specialConst 2)
        let y := expLines z
        let ev := scaleV y.1 y.2
        let t := div64 (add64 ev (intV (-1))) (add64 ev (intV 1))
        specialRound (if s then t.neg else t) true

end Sys2Proof.Machine
end

