-- ==== Sys2Proof/Machine/Flags.lean ====
section
/-! DEFINITION. Every computation of `fflags` (03 R55, R56): the wrap and sat step of integers, the rounding step of floats, packed
elements, and the words FCHK, FFLAGS and SWR apply to the register (07 R163, 18 R341). -/

namespace Sys2Proof.Machine

/-- Range of an integer type (03 R49). -/
def tyLo (t : Ty) : Int := if t.isSigned then -(2 ^ (t.bits - 1)) else 0
def tyHi (t : Ty) : Int := if t.isSigned then 2 ^ (t.bits - 1) - 1 else 2 ^ t.bits - 1

/-- `sat(x, F)` (02 R47). -/
def satInt (t : Ty) (x : Int) : Int := if x < tyLo t then tyLo t else if tyHi t < x then tyHi t else x

/-- `wrap(x, F)` as a 64-bit pattern: sign-extended for signed narrow types, else zero-extended (02 R47, 03 R50). -/
def wrapBits (t : Ty) (x : Int) : DWord :=
  let y : Int := x % 2 ^ t.bits
  BitVec.ofInt 64 (if t.isSigned && decide (2 ^ (t.bits - 1) ≤ y) then y - 2 ^ t.bits else y)

/-- The one step after exact integer arithmetic (07 R148): `.sat` clamps and raises `fflags.sat` where it changes the value. -/
def intStep (t : Ty) (sat : Bool) (x : Int) : DWord × BitVec 6 :=
  if sat && decide (satInt t x ≠ x) then (wrapBits t (satInt t x), flSat) else (wrapBits t x, 0)

/-- The rounding of an exact float result with its flags (07 R159): `nv` for an invalid operation. -/
def floatStep (k : FFmt) (v : FVal × Bool) : Nat × BitVec 6 :=
  let r := k.round v.1
  (r.1, r.2 ||| flagIf v.2 flNv)

/-- Two packed results in one word, flags united (07 R165). -/
def packTwo (lo hi : Nat × BitVec 6) : Nat × BitVec 6 := (lo.1 + hi.1 * 65536, lo.2 ||| hi.2)

/-- Combine a comparison with the old predicate (07 R153). -/
def combinePred (cb : Comb) (old x : Bool) : Bool :=
  match cb with
  | .none => x
  | .and => x && old
  | .or => x || old

/-- Integer comparison (07 R153); ord and unord are refused at decode. -/
def cmpInt (c : Cmp) (a b : Int) : Bool :=
  match c with
  | .eq => decide (a = b)
  | .ne => decide (a ≠ b)
  | .lt => decide (a < b)
  | .le => decide (a ≤ b)
  | .gt => decide (b < a)
  | .ge => decide (b ≤ a)
  | .ord | .unord => false

/-- FFLAGS: (old AND NOT c) OR b, restricted to [5:0] (07 R163). -/
def fflagsStep (old : BitVec 6) (b c : Word) : BitVec 6 := (old &&& ~~~(c.truncate 6)) ||| b.truncate 6

/-- Clamp into a narrow integer type or wrap (03 R59). -/
def narrowInt (t : Ty) (sat : Bool) (x : Int) : DWord × BitVec 6 := intStep t sat x

end Sys2Proof.Machine
end

