-- ==== Sys2Proof/Machine/Dispatcher.lean ====
section
/-! DEFINITION. The die's task dispatcher (05 R95-R99, R105, R107), and what LAUNCH and MUTL hand to the launch engine and the Whisk
(05 R108, 20 R353). -/

namespace Sys2Proof.Machine

/-! Task records (05 R96). -/

def trEntry (r : List Word) : Nat := (r.getD 0 0).toNat + (r.getD 1 0).toNat * 2 ^ 32
def trWaitV (r : List Word) : Bool := (r.getD 2 0).getLsbD 24
def trSigV (r : List Word) : Bool := (r.getD 2 0).getLsbD 25
def trWait (r : List Word) : Nat := (r.getD 2 0).toNat % 4096
def trSig (r : List Word) : Nat := (r.getD 2 0).toNat / 4096 % 4096

/-- The code of a record that TENQ refuses (05 R105): 2 malformed, 3 a counter out of the window. -/
def taskCode (lr : LaunchRec) (r : List Word) : Nat :=
  if 2 ^ 26 ≤ (r.getD 2 0).toNat ∨ trEntry r % 4 ≠ 0 ∨ 2 ^ 56 ≤ trEntry r then 2
  else if (trWaitV r ∧ lr.dccnt ≤ trWait r) ∨ (trSigV r ∧ lr.dccnt ≤ trSig r) then 3
  else 0

/-- Key of queue `q` of a die group, and its records. -/
def queueKey (dg q : Nat) : Nat := dg * 8 + q
def queueOf (s : State) (lid dg q : Nat) : List QRec := tget (s.launch lid).queues (queueKey dg q) []
def modQueue (s : State) (lid dg q : Nat) (f : List QRec → List QRec) : State :=
  modLaunch s lid fun l => { l with queues := tupd l.queues (queueKey dg q) [] f }

/-- log2 capacity and ring base of a queue on a die (05 R87, R95). -/
def queueCap (lr : LaunchRec) (q : Nat) : Nat := 2 ^ (lr.queues.getD q (0, 0)).2
def ringAddr (lr : LaunchRec) (dg q slot : Nat) : Nat := (lr.queues.getD q (0, 0)).1 + dg * 64 * queueCap lr q + 64 * slot

/-- Write a record into its ring slot; false where its page waits for a frame (08 R182). DESIGN CHOICE (log 115): where the write fails, the
record is accepted all the same, and its slot keeps what it held. -/
def writeRecord (s : State) (lid dg q slot : Nat) (r : List Word) : State × Bool :=
  let l := s.launch lid
  let w := unitWrite s (l.dies.getD dg 0) l.space (ringAddr l.lr dg q slot) (bytesOfWords r)
  (w.1, w.2.map (·.1) != some 0)

/-- Place a record in a queue (05 R97, R99): in the lowest free slot of its ring (log 27), ready or held. -/
def enqueue (s : State) (lid dg q : Nat) (r : List Word) : State :=
  let l := s.launch lid
  let used := (queueOf s lid dg q).map fun x => x.slot
  let slot := (firstFree (queueCap l.lr q) fun n => !used.contains n).getD 0
  let (id, s) := nextId s
  let held := if trWaitV r ∧ (dcGet s lid dg (trWait r)).value ≠ 0 then some (trWait r) else none
  let w := writeRecord s lid dg q slot r
  modQueue w.1 lid dg q fun x =>
    x ++ [{ slot := slot, words := r, held := held, seq := id, phase := l.phase, unwritten := !w.2 }]

/-- TENQ at the dispatcher (05 R105): the status. -/
def tenqEffect (s : State) (lid dg q : Nat) (r : List Word) : State × Word :=
  let lr := (s.launch lid).lr
  let c := taskCode lr r
  if c ≠ 0 then (s, word c)
  else if queueCap lr q ≤ (queueOf s lid dg q).length then (s, 1)
  else (enqueue s lid dg q r, 0)

/-! Mutation descriptors (20 R352). -/

/-- The checks of MUTL's descriptor (20 R353). -/
def mdBad (d : List Byte) : Bool :=
  let w := fieldAt d 64 4
  let op := w / 2 ^ 30
  let b := w / 2 ^ 24 % 32
  let n := fieldAt d 60 4
  decide (w % 2 ^ 24 ≠ 0) || (d.drop 72).any (· != 0) || decide (op = 3) || (decide (op = 0) && decide (b = 0))
    || (decide (op ≠ 0) && decide (b ≠ 0)) || decide ((op = 2) ≠ (fieldAt d 8 8 ≠ 0)) || decide (n = 0) || decide (2 ^ 24 < n)
    || decide (fieldAt d 0 8 % 32 ≠ 0) || decide (fieldAt d 8 8 % 32 ≠ 0) || decide (fieldAt d 16 8 % 32 ≠ 0)
    || decide (fieldAt d 24 8 % 128 ≠ 0) || decide (fieldAt d 32 8 % 4 ≠ 0) || decide (fieldAt d 40 8 % 8 ≠ 0)

/-- MUTL at the Whisk (20 R353): the status, and the job taken. -/
def mutlEffect (s : State) (t : ThreadRef) (site : WordAt) (w : Nat) (d r : List Byte) : State × Word :=
  if mdBad d then (s, 0x10)
  else
    match firstFree 16 fun n => (tget? s.w.jobs n).isNone with
    | none => (s, 0x11)
    | some n =>
      let lid := (s.pg t.pg).lid
      let j : Job := { desc := d, record := r, th := t, site := site, word := w, lid := lid, serial := (s.launch lid).serial, space := (s.launch lid).space,
                       sess := (s.launch lid).sess, priv := (s.launch lid).priv, child := none, done := none }
      ({ s with w := { s.w with jobs := tput s.w.jobs n j } }, word (n * 65536))

/-- LAUNCH hands its record to the launch engine (05 R91, R108): the answer comes with the acceptance. -/
def launchEffect (s : State) (t : ThreadRef) (pend : Option Nat) (r : List Byte) : State :=
  let l := s.launch (s.pg t.pg).lid
  let x : Submit := { record := r, space := l.space, sess := l.sess, priv := false, parent := some t, parentSerial := l.serial,
                      answer := .thread t (pend.getD 0) }
  { s with w := { s.w with submits := s.w.submits ++ [x] } }

/-- What an operation does when it is applied, and the result it gives at once. -/
def taskEffect (s : State) (lid dg : Nat) (t : ThreadRef) (pend : Option Nat) (op : TaskOp) : State × Option Word :=
  match op with
  | .tenq q r => let (s, v) := tenqEffect s lid dg q r; (s, some v)
  | .dcnew c v => (dcNew s lid dg c v, none)
  | .dcdec c n => (dcDec s lid dg c n, none)
  | .dcq c => (s, some (dcWord s lid dg c))
  | .launch r => (launchEffect s t pend r, none)
  | .mutl w n d r => let (s, v) := mutlEffect s t w n d r; (s, some v)

/-- Give a result its value: it is ready (02 R34). -/
def readyPend (s : State) (id : Option Nat) (vals : List Word) : State :=
  match id with
  | none => s
  | some i => { s with w := { s.w with pends := s.w.pends.map fun p => if p.id = i then { p with ready := true, vals := vals } else p } }

/-- Apply an operation, and give its result the value. -/
def applyTask (s : State) (lid dg : Nat) (t : ThreadRef) (pend : Option Nat) (op : TaskOp) : State :=
  match taskEffect s lid dg t pend op with
  | (s, some v) => readyPend s pend [v]
  | (s, none) => s

/-- The operations that have arrived at a die's dispatcher in a clk are applied, in ascending core and then `tid` (05 R98). -/
def applyDisp (s : State) (die : Nat) : State :=
  (sortBy (fun o : DispOp => o.core * 1024 + o.th.tid) (s.die die).disp).foldl (fun s o => applyTask s o.lid o.dg o.th o.pend o.op)
    (modDie s die fun d => { d with disp := [] })

/-- An operation of a launch has not been applied yet. -/
def dispHolds (s : State) (lid : Nat) : Bool := s.w.dies.any fun d => d.2.disp.any fun o => decide (o.lid = lid)

end Sys2Proof.Machine
end

