-- ==== Sys2Proof/Machine/Perform.lean ====
section
/-! DEFINITION. What an access does in the step that performs it at its point of coherence (08 R187-R191, 14 R304-R309, 15 R316),
with the logical clocks of ordering accesses (20 R363, R364). -/

namespace Sys2Proof.Machine

/-! Kinds of access. -/

def AccKind.isLoad (k : AccKind) : Bool := match k with
  | .load _ => true
  | .store | .atom .. | .red .. | .cas _ | .fred _ | .roInit .. | .roFold _ | .node _ | .record .. | .task _ => false

def AccKind.isStore (k : AccKind) : Bool := match k with
  | .store | .node _ | .record .. => true
  | .load _ | .atom .. | .red .. | .cas _ | .fred _ | .roInit .. | .roFold _ | .task _ => false

/-- An atomic or a reduction: performed at the home, never in L1 or L2 (14 R305). -/
def AccKind.isAtomic (k : AccKind) : Bool := match k with
  | .atom .. | .red .. | .cas _ | .fred _ | .roInit .. | .roFold _ => true
  | .load _ | .store | .node _ | .record .. | .task _ => false

/-- `hs.type` of an access (08 R194). -/
def AccKind.hotType (k : AccKind) : Nat := if k.isLoad then 0 else if k.isStore then 1 else 2

/-- What an access needs of its page (08 R177). -/
def AccKind.need (k : AccKind) : Need := match k with
  | .load _ => .read
  | .store | .record .. => .write
  | .atom .. | .red .. | .cas _ | .fred _ | .roInit .. | .roFold _ | .node _ | .task _ => .readWrite

def ordAcq (o : MemOrd) : Bool := match o with
  | .acq | .ar => true
  | .rlx | .rel => false
def ordRel (o : MemOrd) : Bool := match o with
  | .rel | .ar => true
  | .rlx | .acq => false

/-- An ordering access (20 R363). -/
def Acc.ordering (a : Acc) : Bool :=
  a.kind.isAtomic || a.nc || decide (a.stage = .window) || (a.kind.isLoad && ordAcq a.ord)
    || (decide (a.kind = .store) && ordRel a.ord)

/-- The threads of an access, in lane order. -/
def Acc.threads (a : Acc) : List ThreadRef := a.lanes.map fun l => { pg := a.pg, tid := l.tid }

/-! Enabledness (14 R298, 15 R313, R314). -/

/-- Two accesses have a thread in common. -/
def Acc.shares (a b : Acc) : Bool := decide (a.pg = b.pg) && a.lanes.any fun l => b.lanes.any fun m => decide (l.tid = m.tid)

/-- Where a lane of an access lies, once its page has a frame. -/
def Acc.laneAt (a : Acc) (l : Lane) : Option (Bool × Nat) :=
  if a.stage = .frame ∨ a.stage = .again then none else some (decide (a.stage = .window), a.pa + l.va - a.va)

/-- An access covers bytes of another from lanes that meet a test. -/
def Acc.covered (b : Acc) (s : State) (a : Acc) (f : Lane → Lane → Bool) : Bool :=
  a.lanes.any fun l => b.lanes.any fun m => f l m && b.covers s m l.va (a.span s) (a.laneAt l)

/-- A release of this scope waits until remote writes have been performed at their homes (08 R189). -/
def wideScope (sc : Scope) : Bool := match sc with
  | .dev | .sys => true
  | .th | .pg | .cg | .dg => false

/-- An earlier access of a thread stands before an access: one to the same bytes (15 R313); an unkeyed one, before a release wider than
the thread; an unkeyed acquire, before any; a window access before a window access (R314). Lanes of one word that name one place keep
their order (13 R288). -/
def Acc.before (b : Acc) (s : State) (a : Acc) : Bool :=
  (decide (b.word = a.word) && b.covered s a fun _ _ => true)
    || (b.shares a && ((b.covered s a fun l m => decide (l.tid = m.tid))
      || (b.key.isNone && ((ordRel a.ord && decide (a.scope ≠ .th)) || ordAcq b.ord
        || (decide (b.stage = .window) && decide (a.stage = .window))))))

/-- The accesses issued before an access. -/
def accsBefore (s : State) (id : Nat) : List Acc := s.w.accs.takeWhile fun b => b.id != id

/-- An access is served at its home and not by the L2 of its core's die. -/
def Acc.servedHome (a : Acc) : Bool :=
  a.nc || a.kind.isAtomic || (match a.kind with
    | .node _ => true
    | .load _ | .store | .atom .. | .red .. | .cas _ | .fred _ | .roInit .. | .roFold _ | .record .. | .task _ => false)
    || (a.kind.isLoad && ordAcq a.ord && wideScope a.scope && decide (homeDie a.pa ≠ dieOfCore a.core))

/-- The remote write queue of its die stands before an access: it goes to the home of a line to which a write is still on its way
(15 R313), or it is a release that waits for every such write (08 R189). -/
def Acc.behindQueue (a : Acc) (s : State) : Bool :=
  (decide (a.stage = .home) && a.servedHome && queuedLine s (dieOfCore a.core) (a.pa / 128))
    || (decide (a.stage = .home ∨ a.stage = .window) && ordRel a.ord && wideScope a.scope && !(s.die (dieOfCore a.core)).wq.isEmpty)

/-- A release wider than the thread waits for the node fetches of its threads' earlier traversals (13 R287, 15 R314). -/
def Acc.behindTrav (a : Acc) (s : State) : Bool :=
  ordRel a.ord && decide (a.scope ≠ .th) && !(s.launch a.lid).lr.dsm
    && s.w.travs.any fun v => decide (v.id < a.id) && a.threads.contains v.th

/-- An access may be performed next. -/
def mayPerform (s : State) (a : Acc) : Bool :=
  !((accsBefore s a.id).any fun b => b.before s a) && !a.behindQueue s && !a.behindTrav s

/-! Values. -/

/-- What ATOM and RED make of a value at an address and an operand (14 R306). -/
def atomStep (op : AtomOp) (ty : Ty) (m x : Nat) : Nat :=
  let n := 2 ^ ty.bits
  let sg (y : Nat) : Int := if ty.isSigned && decide (n / 2 ≤ y) then (y : Int) - n else y
  match op with
  | .add => (m + x) % n
  | .min => if sg x < sg m then x else m
  | .max => if sg m < sg x then x else m
  | .and => Nat.land m x
  | .or => Nat.lor m x
  | .xor => Nat.xor m x
  | .exch => x
  | .fmin => minMaxBits fmt32 false m x
  | .fmax => minMaxBits fmt32 true m x

/-- The marker of an absent slot (14 R308). -/
def slotMarker (ty : Ty) : Nat := if ty.is64 then 0x7FF8000000000001 else 0x7FC00001

/-- A contribution to a slot (14 R309): a NaN is made canonical; an absent slot takes the value, else the rounded sum. -/
def fredStep (ty : Ty) (m x : Nat) : Nat :=
  let k := fmtOf ty
  let v := match k.value x with
    | .nan => k.nan
    | .inf _ | .fin _ _ _ => x
  if m = slotMarker ty then v else (k.round (addV (k.value m) (k.value v)).1).1

/-- `comb` of 14 R309 over values and absences. -/
def combSlots (k : FFmt) (p q : Option Nat) : Option Nat :=
  match p, q with
  | some a, some b => some (k.round (addV (k.value a) (k.value b)).1).1
  | some a, none => some a
  | none, q => q

/-- One level of the tree of 14 R309. -/
def combLevel (k : FFmt) (l : List (Option Nat)) : List (Option Nat) :=
  match l with
  | a :: b :: r => combSlots k a b :: combLevel k r
  | l => l

/-- Fold a list of slots by levels until one value is left. -/
def combTree (fuel : Nat) (k : FFmt) (l : List (Option Nat)) : Option Nat :=
  match fuel with
  | 0 => (l.headD none)
  | n + 1 =>
    match l with
    | [] => none
    | [x] => x
    | l => combTree n k (combLevel k l)

/-! Performing. -/

/-- The register words of a loaded value (09 R197). -/
def loadWords (ty : Ty) (v : Nat) : List Word :=
  let x := wrapBits ty v
  if ty.is64 then wordsOf x else [x.truncate 32]

/-- The line that serves a load (08 R187, R188; 09 R199, R200; 14 R310; 15 R316). -/
def loadLine (s : State) (a : Acc) : State × List Byte :=
  let n := a.pa / 128
  let die := dieOfCore a.core
  if a.stage = .window then (s, memReadN s.w.window (n * 128) 128)
  else if a.nc || a.key.isSome || (a.servedHome) then (s, lineBytes s n)
  else if ordAcq a.ord && !(decide (a.scope = .th ∨ a.scope = .pg ∨ a.scope = .cg)) then l2Fill a.nt s die n
  else if a.nt then
    match findLine (s.core a.core).l1 n with
    | some x => (s, x.bytes)
    | none => l2Fill true s die n
  else l1Line s a.core n

/-- Where a lane's bytes lie. -/
def Acc.lanePa (a : Acc) (l : Lane) : Nat := a.pa + l.va - a.va

/-- Write bytes at an access's place: the window, the home (uncached pages, DSM), or through L1 and L2 (08 R187, R188, R191), with the
threads whose ordering access it is where that is still to be stamped at the home. -/
def storeParts (s : State) (a : Acc) (stamps : List ThreadRef) (parts : List (Nat × List Byte)) : State :=
  if a.stage = .window then modWindow s fun m => parts.foldl (fun m p => memWriteN m p.1 p.2) m
  else if a.nc || a.key.isSome then homeStore s a.core parts
  else cacheStore s a.core a.space a.lid a.va a.nt stamps parts

/-- Read and write at the home or window controller, for atomics (14 R305). -/
def homeNat (s : State) (a : Acc) (n : Nat) : Nat :=
  if a.stage = .window then memNat s.w.window a.pa n else memNat s.w.mem a.pa n
def homePut (s : State) (a : Acc) (n v : Nat) : State :=
  if a.stage = .window then modWindow s fun m => memWriteN m a.pa (bytesOfNat n v)
  else homeOpLines (homeWrite s none a.pa (bytesOfNat n v)) a.core a.pa

/-- Perform a chain of read-modify-writes at one address, lanes in order (14 R306, R307, R309): each lane's old value is its
result. -/
def chain (s : State) (a : Acc) (ty : Ty) (f : Nat → Lane → Nat) : State :=
  let n := ty.bytes
  let r := a.lanes.foldl (fun acc l => (readyPend acc.1 l.pend (loadWords ty acc.2), f acc.2 l)) (s, homeNat s a n)
  homePut r.1 a n r.2

/-- Bytes of a reduction object at a virtual address, page by page; none if a page fails, with the failing address and cause
(cause 0: the page waits for a frame). -/
def objectPieces (s : State) (a : Acc) (va n : Nat) : State × Except (BitVec 8 × Nat) (List (Nat × Target × Nat)) :=
  (pieces 128 (n / 128 + 2) va n).foldl (fun acc p =>
    match acc with
    | (s, .error e) => (s, .error e)
    | (s, .ok l) =>
      match translate s a.core a.space p.1 .readWrite with
      | (s, .fail c) => (s, .error (c, p.1))
      | (s, .demand) =>
        match demandFill s a.core a.space p.1 with
        | (s, false) => (s, .error (0, p.1))
        | (s, true) =>
          match translate s a.core a.space p.1 .readWrite with
          | (s, .fail c) => (s, .error (c, p.1))
          | (s, t) => (s, .ok (l ++ [(p.1, t, p.2)]))
      | (s, t) => (s, .ok (l ++ [(p.1, t, p.2)]))) (s, .ok [])

/-- Pieces of an object may be read and written at their homes: no earlier access of its threads to their bytes and no write on its way
to their lines (15 R313), and no frame that a checkpoint has still to copy (20 R358). -/
def piecesFree (s : State) (a : Acc) (l : List (Nat × Target × Nat)) : Bool :=
  l.all fun p => !p.2.1.pending s
    && !((accsBefore s a.id).any fun b => b.shares a && b.lanes.any fun m => b.covers s m p.1 p.2.2 p.2.1.place)
    && match p.2.1 with
      | .dram pa _ => !queuedLine s (dieOfCore a.core) (pa / 128)
      | .window _ | .demand | .fail _ => true

/-- The first slot piece of an object that a range lock or a watchpoint forbids to read (09 R210, 22 R383). -/
def slotTrap (s : State) (a : Acc) (l : List (Nat × Target × Nat)) : Option Trap :=
  l.findSome? fun p =>
    if lockHit (s.core a.core).locks 0 (s.cg (cgOfPg a.pg)).slot p.1 p.2.2 false then some (memTrap 0x08 p.1)
    else if watched s a.lid p.1 p.2.2 2 then some (memTrap 0x15 p.1)
    else none

/-- Read the pieces of an object at their homes. -/
def readPieces (s : State) (l : List (Nat × Target × Nat)) : List Byte := l.flatMap fun p => readTarget s p.2.1 p.2.2

/-- Write the pieces of an object at their homes, from the bytes of the whole. -/
def writePieces (s : State) (core : Nat) (l : List (Nat × Target × Nat)) (bs : List Byte) : State :=
  (l.foldl (fun acc p =>
    let s := writeTarget acc.1 p.2.1 (acc.2.take p.2.2)
    let s := match p.2.1 with
      | .dram pa _ => homeOpLines s core pa
      | .window _ | .demand | .fail _ => s
    (s, acc.2.drop p.2.2)) (s, bs)).1

/-- The stamps of the slots of an object (20 R363). -/
def slotStamps (a : Acc) (l : List (Nat × Target × Nat)) (slot n : Nat) : List (ThreadRef × Nat) :=
  a.threads.flatMap fun t => (List.range n).map fun i =>
    let va := a.va + 64 + slot * i
    match l.find? fun p => decide (p.1 ≤ va) && decide (va < p.1 + p.2.2) with
    | some (b, .dram pa _, _) => (t, clockLine false (pa + (va - b)))
    | some (b, .window off, _) => (t, clockLine true (off + (va - b)))
    | _ => (t, 0)

/-- An access waits at its home for the frame of a page, or for none (08 R182). -/
def stickAcc (s : State) (id : Nat) (va : Option Nat) : State :=
  { s with w := { s.w with accs := s.w.accs.map fun b => if b.id = id then { b with stuck := va } else b } }

/-- The line requests of an object's slots, beyond its first line (08 R185, R194). -/
def countSlots (s : State) (a : Acc) (l : List (Nat × Target × Nat)) : State :=
  (l.drop 1).foldl (fun s p => countAccess s a.core (p.1 / 128 * 128) 2 a.lid p.2.1.isWindow) s

/-- The core of an access and its die give up their copies of the lines of an object that it has read at its homes, so that no later read
is older (15 R313). -/
def dropPieces (s : State) (core : Nat) (l : List (Nat × Target × Nat)) : State :=
  l.foldl (fun s p => match p.2.1 with
    | .dram pa _ => homeOpLines s core pa
    | .window _ | .demand | .fail _ => s) s

/-- The result of a REDOBJ comes: with a trap where it refuses the object. -/
def redobjDone (s : State) (a : Acc) (bad : Option Trap) : State :=
  let ids := a.lanes.filterMap fun l => l.pend
  { s with w := { s.w with pends := s.w.pends.map fun p => if ids.contains p.id then { p with ready := true, bad := bad } else p } }

/-- REDOBJ.init at the homes (14 R309): the header of R308 and `n` markers. False: it waits. -/
def performInit (s : State) (a : Acc) (ty : Ty) (n : Nat) : State × Bool :=
  let w := slotBytes ty
  match objectPieces (stickAcc s a.id none) a a.va (64 + w * n) with
  | (s, .error (c, va)) => if c = 0 then (stickAcc s a.id (some va), false) else (redobjDone s a (some (memTrap c va)), true)
  | (s, .ok l) =>
    if !piecesFree s a l then (s, false)
    else
    match if a.key.isSome then (s, true) else stampAll s (slotStamps a l w n) with
    | (s, false) => (s, false)
    | (s, true) =>
      let bs := bytesOfNat 4 n ++ bytesOfNat 4 ty.code.toNat ++ bytesOfNat 56 0
        ++ (List.replicate n (bytesOfNat w (slotMarker ty))).flatten
      (redobjDone (writePieces (countSlots s a l) a.core l bs) a none, true)

/-- REDOBJ.fold at the homes (14 R309). -/
def performFold (s : State) (a : Acc) (ty : Ty) : State × Bool :=
  let w := slotBytes ty
  match objectPieces (stickAcc s a.id none) a a.va 64 with
  | (s, .error (c, va)) => if c = 0 then (stickAcc s a.id (some va), false) else (redobjDone s a (some (memTrap c va)), true)
  | (s, .ok h) =>
    let hd := readPieces s h
    let n := fieldAt hd 0 4 % 2 ^ 17
    if !piecesFree s a h then (s, false)
    else if fieldAt hd 4 4 % 16 ≠ ty.code.toNat ∨ n = 0 ∨ 65536 < n then (redobjDone s a (some (plainTrap 0x01 a.va)), true)
    else
      match objectPieces s a a.va (64 + w * n) with
      | (s, .error (c, va)) => if c = 0 then (stickAcc s a.id (some va), false) else (redobjDone s a (some (memTrap c va)), true)
      | (s, .ok l) =>
        if !piecesFree s a l then (s, false)
        else
        match slotTrap s a l, if a.key.isSome then (s, true) else stampAll s (slotStamps a l w n) with
        | some x, _ => (redobjDone s a (some x), true)
        | none, (s, false) => (s, false)
        | none, (s, true) =>
          let bs := readPieces s l
          let slots := (List.range n).map fun i =>
            let x := fieldAt bs (64 + w * i) w
            if x = slotMarker ty then none else some x
          let r := (combTree 17 (fmtOf ty) slots).getD 0
          let hd := putBytes (putBytes hd 4 (bytesOfNat 4 (Nat.lor (fieldAt hd 4 4) 16))) 8 (bytesOfNat 8 r)
          (redobjDone (writePieces (dropPieces (countSlots s a l) a.core l) a.core h hd) a none, true)

/-- Bytes of the thread's space at their homes, none where a page fails. -/
def commitRead (s : State) (a : Acc) (va n : Nat) : Option (List Byte) :=
  (pieces 128 (n / 128 + 2) va n).foldl (fun acc p =>
    match acc, (translate s a.core a.space p.1 .read).2 with
    | none, _ | _, .demand | _, .fail _ => none
    | some bs, t => some (bs ++ readTarget s t p.2)) (some [])

/-- An operation of a DSM launch as its phase commits: the key of its release follows those of the thread's earlier stores (15 R345; 05
R102, 14 R294), so its record is read after them. -/
def commitTask (s : State) (a : Acc) (op : TaskOp) : TaskOp :=
  match op with
  | .tenq q ws => .tenq q (((commitRead s a a.va 64).map wordsOfBytes).getD ws)
  | .launch r => .launch ((commitRead s a a.va 1024).getD r)
  | .mutl w n d r =>
    let d := (commitRead s a a.va 128).getD d
    .mutl w n d (if mdBad d then [] else (commitRead s a (fieldAt d 24 8) 1024).getD r)
  | .dcnew .. | .dcdec .. | .dcq _ => op

/-- Count the core group that writes a line in its die's L2; ordering accesses are not counted (20 R366). -/
def countStore (s : State) (a : Acc) : State :=
  if a.stage = .home ∧ !a.nc ∧ a.key.isNone ∧ !ordRel a.ord then countWriter s a.core a.lid (raceId (s.pg a.pg)) a.pa a.va else s

/-- What an access does at its point of coherence, apart from REDOBJ; `stamps` are the threads whose release store is stamped later, at
the home of its line. A load that its home serves leaves no older copy of the line behind for a later read through the caches (15 R313); a
node update is made whole at its home (13 R288). -/
def performEffect (s : State) (a : Acc) (stamps : List ThreadRef) : State :=
  match a.kind with
  | .load ty =>
    let (s, bs) := loadLine s a
    let s := if decide (a.stage = .home) && (a.key.isSome || a.servedHome) then homeOpLines s a.core a.pa else s
    a.lanes.foldl (fun s l => readyPend s l.pend (loadWords ty (natOfBytes ((bs.drop (a.lanePa l % 128)).take a.bytes)))) s
  | .store => countStore (storeParts s a stamps (a.lanes.map fun l => (a.lanePa l, bytesOfNat a.bytes l.val.toNat))) a
  | .node ws =>
    let bs := bytesOfNat 4 (homeNat s a 4 + 2) ++ bytesOfWords ws
    if a.stage = .window then modWindow s fun m => memWriteN m a.pa bs else homeStore s a.core [(a.pa, bs)]
  | .record bs _ => storeParts s a stamps [(a.pa, bs)]
  | .atom op ty | .red op ty => chain s a ty fun m l => atomStep op ty m (l.val.toNat % 2 ^ ty.bits)
  | .cas ty => chain s a ty fun m l => if m = l.val.toNat % 2 ^ ty.bits then l.val2.toNat % 2 ^ ty.bits else m
  | .fred ty => chain s a ty fun m l => fredStep ty m (l.val.toNat % 2 ^ ty.bits)
  | .task op => a.lanes.foldl (fun s l =>
      applyTask s a.lid (s.pg a.pg).dgid { pg := a.pg, tid := l.tid } l.pend (commitTask s a op))
      (modLaunch s a.lid fun x => { x with phase := (a.key.getD (0, 0)).1 })
  | .roInit _ _ | .roFold _ => s

/-- A node update waits while the node's sequence counter is odd (13 R288). -/
def nodeBusy (s : State) (a : Acc) : Bool := match a.kind with
  | .node _ => decide (homeNat s a 4 % 2 = 1)
  | .load _ | .store | .atom .. | .red .. | .cas _ | .fred _ | .roInit .. | .roFold _ | .record .. | .task _ => false

/-- A write that the L2 takes for a home on another die reaches DRAM through the remote write queue (08 R188). -/
def Acc.queued (a : Acc) (s : State) : Bool :=
  a.kind.isStore && !a.servedHome && decide (a.stage = .home) && !a.nc && a.key.isNone && decide (homeDie a.pa ≠ dieOfCore a.core) && !(s.launch a.lid).lr.dsm

/-- A write to a frame that a checkpoint has still to copy waits (20 R358). -/
def frameHeld (s : State) (a : Acc) : Bool :=
  !a.kind.isLoad && decide (a.stage = .home) && decide (a.bytes ≠ 0) && !a.queued s && framePending s a.pa

/-- A window access of a DSM launch is performed: the oldest entry of each of its threads that stands for one is ready (19 R345). -/
def readyWindow (s : State) (a : Acc) : State :=
  if a.stage = .window then
    a.threads.foldl (fun s t => match s.w.pends.find? fun p => p.win && !p.ready && decide (p.th = t) with
      | some p => readyPend s (some p.id) []
      | none => s) s
  else s

/-- The header of a choice record gets the orphans that its close could not count yet, from the input header's count at an address (10
R229); one that cannot be read leaves the record unwritten, as a failing header write does (R230). -/
def readInput (s : State) (a : Acc) (bs : List Byte) (va : Nat) : State × Bool :=
  let put (s : State) (n : Nat) : State :=
    let more := Nat.min n (fieldAt bs 0 4) - fieldAt bs 28 4
    { s with w := { s.w with accs := s.w.accs.map fun b =>
      if b.id = a.id then { b with stuck := none, kind := .record (putBytes bs 16 (bytesOfNat 4 (fieldAt bs 16 4 + more))) none } else b } }
  let load (s : State) (x : Target) : State × Bool :=
    match x with
    | .window off => (put (countAccess s a.core (va / 128 * 128) 0 a.lid true) (memNat s.w.window off 4), false)
    | .dram pa nc =>
      let r := cacheLoad (countAccess s a.core (va / 128 * 128) 0 a.lid false) a.core pa 4 nc
      (put r.1 (natOfBytes r.2), false)
    | .demand => (stickAcc s a.id (some va), false)
    | .fail _ => ({ s with w := { s.w with accs := s.w.accs.filter fun b => b.id != a.id } }, true)
  match translate s a.core a.space va .read with
  | (s, .demand) =>
    match demandFill s a.core a.space va with
    | (s, true) => let r := translate s a.core a.space va .read; load r.1 r.2
    | (s, false) => load s .demand
  | (s, x) => load s x

/-- Perform an access (14 R305; 08 R191; 20 R363): stamp it, take its effect, apply its acquire, remove it. False: it waits. -/
def performAcc (s : State) (a : Acc) : State × Bool :=
  let done (s : State) : State :=
    let s := readyWindow { s with w := { s.w with accs := s.w.accs.filter fun b => b.id != a.id } } a
    if ordAcq a.ord then acquireActions s a.core a.scope else s
  match a.kind with
  | .roInit ty n => match performInit s a ty n with
    | (s, true) => (done s, true)
    | (s, false) => (s, false)
  | .roFold ty => match performFold s a ty with
    | (s, true) => (done s, true)
    | (s, false) => (s, false)
  | .record bs (some va) => readInput s a bs va
  | .load _ | .store | .atom .. | .red .. | .cas _ | .fred _ | .node _ | .record _ none | .task _ =>
    let line := clockLine (decide (a.stage = .window)) a.pa
    let stamps := if a.ordering && !(s.launch a.lid).lr.dsm then a.threads else []
    let later := a.queued s
    if nodeBusy s a || frameHeld s a then (s, false)
    else
      match stampAll s (if later then [] else stamps.map fun t => (t, line)) with
      | (s, false) => (s, false)
      | (s, true) => (done (performEffect s a (if later then stamps else [])), true)

/-- Perform the oldest write of a die's remote write queue at its home (08 R188): a release store is stamped there (20 R363), a
frame that a checkpoint has still to copy makes it wait (R358), and armed decrements that waited for the queue look again (11 R256). -/
def performQueued (s : State) (die : Nat) : State :=
  match (s.die die).wq with
  | [] => s
  | q :: rest =>
    if framePending s (q.line * 128) then s
    else
      match stampAll s (q.stamps.map fun t => (t, clockLine false (q.line * 128))) with
      | (s, false) => s
      | (s, true) =>
        let s := q.parts.foldl (fun s p => homeWrite s none p.1 p.2) (modDie s die fun d => { d with wq := rest })
        if rest.isEmpty then s.w.cores.foldl (fun s c => if dieOfCore c.1 = die then fireArmed s c.1 else s) s else s

end Sys2Proof.Machine
end

