-- ==== Sys2Proof/Machine/Link.lean ====
section
/-! DEFINITION. The host link (24): connections, responses, what stands before every message, and the host's accesses to memory and
the window, with the session's logical clock (20 R363, R364). The message is `State.rx`. -/

namespace Sys2Proof.Machine

/-! Connections (log 48). -/

def connOrdered (c : Nat) : Bool := decide (c % 2 = 0)
def connPort (c : Nat) : Nat := c / 2 % 8
/-- The ordered connection on which the session of a connection was opened. -/
def connHome (c : Nat) : Nat := c / 2 * 2

/-- The session of the message's connection. -/
def rxSession (s : State) : Option Session := tget? s.sessions (connHome s.rx.conn)

/-- Whether the message comes with the management role, and its session's space. -/
def rxManagement (s : State) : Bool := ((rxSession s).map fun x => x.management).getD false
def rxSpace (s : State) : Option Nat := (rxSession s).bind fun x => x.space

/-- The response to the message (24 R389): its class with bit 7 set, its tag, the result and the status. -/
def respond (s : State) (status result : Nat) (payload : List Byte) : State :=
  sendMsg s { conn := s.rx.conn, cls := s.rx.cls ||| 0x80, op := s.rx.op, tag := s.rx.tag,
              addr := BitVec.ofNat 64 (result % 2 ^ 56 * 256 + status), payload := payload }

/-- A response to a message that came earlier. -/
def respondTo (s : State) (conn : Nat) (tag : Word) (cls : BitVec 8) (op : BitVec 7) (status result : Nat) : State :=
  sendMsg s { conn := conn, cls := cls ||| 0x80, op := op, tag := tag, addr := BitVec.ofNat 64 (result % 2 ^ 56 * 256 + status),
              payload := [] }

/-- A message of a connection that meets a test has been received and is still being performed: a launch message until the launch engine
has answered it (05 R91), a pre-empt message until its stop is over (18 R331). -/
def underWay (s : State) (p : Nat → Bool) : Bool :=
  (s.w.submits.any fun x => match x.answer with
    | .message c _ => p c
    | .thread .. | .job _ => false)
  || s.w.launches.any fun l => l.2.ask.any fun a => p a.1

/-- The message is not performed yet: it is tried again (24 R395). -/
def holdMsg (s : State) : State := { s with inbox := s.inbox ++ [(s.rx.conn, encodeMessage s.rx)] }

/-- Status words of a failed access (24 R391). -/
def accessStatus (cause : BitVec 8) : Nat := if cause = 0x07 then 5 else 4

/-- The message reads the bring-up status word over ROD (04 R79). -/
def isStatusRead (s : State) : Bool :=
  connOrdered s.rx.conn && decide (s.rx.cls = 9) && decide (s.rx.op = 0) && decide (s.rx.addr = 0)

/-- The message opens a session. -/
def isOpen (s : State) : Bool := decide (s.rx.cls = 12) && decide (s.rx.op = 0)

/-- What stands before every message (04 R78-R80; 24 R391, R393, R395): without power or with its port down it does not arrive, but for a
read of the bring-up status during bring-up, when no port has trained yet (log 92); in the safe talkative state only class 0x09 and session
opens on port 0 over ROD are performed; before a session is open only an open and the
read of the bring-up status. A message of a session that needs the management role without having it gets status 0x06, a malformed
one too (log 69). DESIGN CHOICE (log 113): the bring-up status is read without a session also in phase 6, and in the safe state whatever its
cause. -/
def gate (s : State) (needMgmt wellFormed : Bool) (k : State → State) : Host.Outcome State Fault Refusal :=
  let c := s.rx.conn
  let m := s.mgmt
  let statusRead := isStatusRead s
  let allowed := (decide (s.rx.cls = 9) || isOpen s) && decide (connPort c = 0) && connOrdered c
  .next (
    if !m.powered || (!m.ports.getLsbD (connPort c) && (m.safe || !statusRead)) then s
    else if m.safe && m.statusOnly && !statusRead then respond s 6 0 []
    else if m.safe && !allowed then respond s 1 0 []
    else if !statusRead && !(isOpen s && connOrdered c) && (rxSession s).isNone then respond s 6 0 []
    else if needMgmt && !rxManagement s && !(statusRead && ((rxSession s).isNone || m.safe && m.statusOnly)) then respond s 6 0 []
    else if !wellFormed then respond s 3 0 []
    else k s)

/-! Host accesses (24 R391, R392, R394). -/

/-- Where a host access of bytes of one line lands: through the session's space, or for an unbound management session physically. -/
def hostTarget (s : State) (a : Nat) (need : Need) : State × Target :=
  match rxSpace s with
  | some sp => unitTranslate s 0 sp a need
  | none => (s, if a < Config.dramTop then .dram a false else .fail 0x06)

/-- The pieces of a range with their targets, up to the first that fails: its cause and address (cause 0: it waits for a frame, or until a
checkpoint has copied the one it would change; 20 R358). -/
def hostPieces (s : State) (a n : Nat) (need : Need) : State × List (Nat × Nat × Target) × Option (BitVec 8 × Nat) :=
  (pieces 128 (n / 128 + 2) a n).foldl (fun acc p =>
    match acc with
    | (s, l, some e) => (s, l, some e)
    | (s, l, none) =>
      match hostTarget s p.1 need with
      | (s, .fail c) => (s, l, some (c, p.1))
      | (s, .demand) => (s, l, some (0, p.1))
      | (s, t) => if decide (need = .write) && t.pending s then (s, l, some (0, p.1)) else (s, l ++ [(p.1, p.2, t)], none)) (s, [], none)

/-- The line of an access in the table of line clocks. -/
def targetLine (t : Target) : Nat :=
  match t with
  | .window off => clockLine true off
  | .dram pa _ => clockLine false pa
  | .demand | .fail _ => 0

/-- Stamp one host access of n bytes at a line and log it (20 R363, R364); false when its clock would pass 65,535. -/
def stampHostOne (s : State) (line n : Nat) : State × Bool :=
  match rxSession s with
  | none => (s, true)
  | some x =>
    let c := match s.logged 2 0 x.number with
      | some r => r.val / 2 ^ 32
      | none => Nat.max x.clock (tget s.w.lineClocks line 0) + 1
    if 65535 < c then ({ s with ckptForced := true }, false)
    else
      let s := appendLog s { type := 2, launch := 0, who := x.number, seq := x.ords + 1, val := c * 2 ^ 32 + s.logOff % 2 ^ 32 }
      ({ s with sessions := tput s.sessions (connHome s.rx.conn) { x with clock := c, ords := x.ords + 1 }, logOff := s.logOff + n,
                w := { s.w with lineClocks := tput s.w.lineClocks line c } }, true)

/-- Stamp the lines of a host access in order; none is stamped if one cannot be. -/
def stampHost (s : State) (l : List (Nat × Nat)) : State × Bool :=
  let r := l.foldl (fun acc x => if acc.2 then stampHostOne acc.1 x.1 x.2 else acc) (s, true)
  if r.2 then r else ({ s with ckptForced := true }, false)

/-- Write the pieces of a host access. -/
def hostWritePieces (s : State) (a : Nat) (l : List (Nat × Nat × Target)) (bs : List Byte) : State :=
  l.foldl (fun s p => writeTarget s p.2.2 ((bs.drop (p.1 - a)).take p.2.1)) s

/-- A host write of a range: every line before a failing one is performed (24 R391); one that waits is held whole. -/
def hostWrite (s0 : State) (a : Nat) (bs : List Byte) (done : State → Option (BitVec 8 × Nat) → State) : State :=
  match hostPieces s0 a bs.length .write with
  | (s, l, e) =>
    if e.map (·.1) = some 0 then holdMsg s
    else
      match stampHost s (l.map fun p => (targetLine p.2.2, p.2.1)) with
      | (s, false) => holdMsg s
      | (s, true) => done (hostWritePieces s a l bs) e

/-- A host read of a range. -/
def hostRead (s0 : State) (a n : Nat) (done : State → List Byte → Option (BitVec 8 × Nat) → State) : State :=
  match hostPieces s0 a n .read with
  | (s, l, e) =>
    if e.map (·.1) = some 0 then holdMsg s else done s (l.flatMap fun p => readTarget s p.2.2 p.2.1) e

/-- The response of an access that may have failed: the result holds VA[55:8] of the failure (24 R391). -/
def accessDone (payload : List Byte) (s : State) (e : Option (BitVec 8 × Nat)) : State :=
  match e with
  | none => respond s 0 0 payload
  | some (c, va) => respond s (accessStatus c) (va % 2 ^ 56 / 256) payload

/-- An 8-byte number of the payload. -/
def payNat (s : State) (off n : Nat) : Nat := fieldAt s.rx.payload off n

/-- The payload has a length. -/
def payLen (s : State) (n : Nat) : Bool := decide (s.rx.payload.length = n)

end Sys2Proof.Machine
end

