-- ==== Sys2Proof/Machine/Global.lean ====
section
/-! DEFINITION. Thread accesses at issue (08 R185, 09 R196-R202), atomics and reductions (14 R304-R309), fences and cache control
(09 R206-R209). -/

namespace Sys2Proof.Machine

/-- Lanes that passed the checks of an access, and the traps of those that did not. -/
structure Checked where
  ok : List (ThreadRef × Nat × Target)
  traps : List (ThreadRef × Trap)
deriving DecidableEq, Repr

/-- Translate the distinct pages of some addresses once each, in order of first appearance (08 R185): each with the address that named it
first. -/
def pageTargets (s : State) (core space : Nat) (need : Need) (vas : List Nat) : State × List (Nat × Target) :=
  vas.foldl (fun acc va =>
    if acc.2.any fun p => decide (p.1 / 0x10000 = va / 0x10000) then acc
    else
      let r := translate acc.1 core space va need
      (r.1, acc.2 ++ [(va, r.2)])) (s, [])

/-- The target of an address among those of its page. -/
def laneTarget (l : List (Nat × Target)) (va : Nat) : Target :=
  match l.find? fun p => decide (p.1 / 0x10000 = va / 0x10000) with
  | some p => p.2.move p.1 va
  | none => .fail 0x06

/-- Check each lane's access, lanes in ascending lane position (08 R185, 09 R196, R199). -/
def checkLanes (s : State) (pg : Nat) (ts : List ThreadRef) (ea : ThreadRef → Nat) (n : Nat) (need : Need) : State × Checked :=
  let g := s.pg pg
  let lanes := byLane ts
  let r := pageTargets s g.core (s.launch g.lid).space need ((lanes.map ea).filter fun va => decide (va % n = 0))
  let check (t : ThreadRef) : Except Trap Target :=
    if ea t % n ≠ 0 then .error (plainTrap 0x05 (ea t)) else checkTarget r.1 pg (ea t) n need true (laneTarget r.2 (ea t))
  (r.1, lanes.foldl (fun acc t => match check t with
    | .ok x => { acc with ok := acc.ok ++ [(t, ea t, x)] }
    | .error e => { acc with traps := acc.traps ++ [(t, e)] }) { ok := [], traps := [] })

/-- Take the traps of an access in ascending `tid` (08 R181). -/
def takeTraps (s : State) (ix : Issue) (l : List (ThreadRef × Trap)) : State :=
  (sortBy (fun x => x.1.tid) l).foldl (fun s x => trapAt s ix x.1.tid x.2) s

/-- What every lane of an access has in common. -/
structure AccShape where
  kind : AccKind
  bytes : Nat
  scope : Scope
  ord : MemOrd
  nt : Bool
deriving DecidableEq, Repr

/-- A window access of a DSM launch counts as complete 64 slots after its issue, which waits look at (06 R131, 19 R345). -/
def pushWindow (s : State) (ix : Issue) (ts : List (ThreadRef × Nat)) (owes acq : Bool) : State :=
  ts.foldl (fun s x =>
    let (id, s) := nextId s
    let p : Pend := { id := id, th := x.1, site := siteOf ix, isVar := false, ready := false, regs := [], vals := [], preds := [], raise := 0,
                      cflags := [], due := timeOf s ix.cg + Config.dsmLatency, holds := false, bad := none, flagOnly := true, win := true,
                      owes := owes, acq := acq }
    { s with w := { s.w with pends := s.w.pends ++ [p] } }) s

/-- The accesses that the homes of a DSM launch order by key (14 R310). -/
def AccKind.keyed (k : AccKind) : Bool := match k with
  | .node _ | .record .. => false
  | .load _ | .store | .atom .. | .red .. | .cas _ | .fred _ | .roInit .. | .roFold _ | .task _ => true

/-- The key of the next access of a core group's partition (14 R310): phase, and count by slot, partition and lane. -/
def nextKey (s : State) (ix : Issue) (k : AccKind) (t : Target) : State × Option (Nat × Nat) :=
  let win := match t with
    | .window _ => true
    | .dram _ _ | .demand | .fail _ => false
  if (s.launch ix.lid).lr.dsm && k.keyed && !win then
    let d := (s.cg ix.cg).dsm
    (modCg s ix.cg fun g => { g with dsm := { g.dsm with seq := g.dsm.seq + 1 } },
     some (d.slot / Config.phaseSlots, (d.slot * 6 + ix.part % 6) * 2 ^ 40 + d.seq))
  else (s, none)

/-- Put a result that an access will give in flight; a keyed access's result is due at the slot of 14 R310. -/
def pushPending (s : State) (ix : Issue) (c : Ctl) (key : Option (Nat × Nat)) (holds : Bool) (t : ThreadRef) (o : LaneOut) : State :=
  let id := s.w.nextId
  let s := pushResult s ix c 0 true false t o
  let due (p : Pend) : Nat := match key with
    | some (ph, _) => deliverySlot (s.launch ix.lid).dist ph
    | none => p.due
  { s with w := { s.w with pends := s.w.pends.map fun p => if p.id = id then { p with due := due p, holds := holds } else p } }

/-- Send an access for the lanes that share it, each with its address (08 R185): lanes in ascending lane position, the first of them
at the target. -/
def pushAcc (s : State) (ix : Issue) (c : Ctl) (sh : AccShape) (va : Nat) (tgt : Target) (ts : List (ThreadRef × Nat))
    (val val2 : ThreadRef → DWord) (out : ThreadRef → Option LaneOut) : State :=
  let (s, key) := nextKey s ix sh.kind tgt
  let lane (x : ThreadRef × Nat) (p : Option Nat) : Lane :=
    { tid := x.1.tid, va := x.2, val := val x.1, val2 := val2 x.1, pend := p, cflags := [] }
  let r := ts.foldl (fun acc x =>
    match out x.1 with
    | none => (acc.1, acc.2 ++ [lane x none])
    | some o => (pushPending acc.1 ix c key (decide (o.regs = [])) x.1 o, acc.2 ++ [lane x (some acc.1.w.nextId)])) (s, [])
  let (id, s) := nextId r.1
  let place : Stage × Nat × Bool := match tgt with
    | .window off => (.window, off, false)
    | .dram pa nc => (.home, pa, nc)
    | .demand | .fail _ => (.frame, 0, false)
  let a : Acc := { id := id, pg := ix.pg, core := ix.core, space := ix.space, lid := ix.lid, site := siteOf ix, kind := sh.kind,
                   va := va, pa := place.2.1, bytes := sh.bytes, nc := place.2.2, nt := sh.nt, scope := sh.scope, ord := sh.ord,
                   lanes := r.2, stage := place.1, key := key, word := (s.cur.map fun c => c.word).getD id }
  let s := { s with w := { s.w with accs := s.w.accs ++ [a] } }
  if (s.launch ix.lid).lr.dsm && decide (place.1 = .window) then
    pushWindow s ix ts (ts.any fun x => (out x.1).isSome) (ordAcq sh.ord)
  else s

/-- An access of a thread has a wait of its own before it: a release, for the thread's earlier accesses, or an earlier acquire of the thread
(09 R199, 15 R314). -/
def waitsAlone (s : State) (sh : AccShape) (t : ThreadRef) : Bool :=
  let release := ordRel sh.ord && decide (sh.scope ≠ .th)
  (s.w.accs.any fun b => decide (b.pg = t.pg) && b.key.isNone && (release || ordAcq b.ord) && b.lanes.any fun l => decide (l.tid = t.tid))
    || (release && s.w.travs.any fun v => decide (v.th = t))

/-- The lanes of a word that share one access: loads and stores those of one line, everything else those of one address (08 R185, 14
R306), in order of first appearance. A thread that has to wait first stands alone, because the threads of one issue group perform their
waits independently (09 R199); accesses of one word to one place keep lane order all the same. -/
def accGroups (s : State) (sh : AccShape) (ok : List (ThreadRef × Nat × Target)) : List (List (ThreadRef × Nat × Target)) :=
  let place (x : ThreadRef × Nat × Target) : Nat × Nat :=
    (match sh.kind with
     | .load _ | .store => x.2.1 / 128
     | .atom .. | .red .. | .cas _ | .fred _ | .roInit .. | .roFold _ | .node _ | .record .. | .task _ => x.2.1,
     if !(s.lrOfPg x.1.pg).dsm && waitsAlone s sh x.1 then x.1.tid + 1 else 0)
  (dedup (ok.map place)).map fun n => ok.filter fun x => decide (place x = n)

/-- The accesses of a word, with one line request for each distinct line (08 R185, R194). -/
def pushAccs (s : State) (ix : Issue) (c : Ctl) (sh : AccShape) (ok : List (ThreadRef × Nat × Target))
    (val val2 : ThreadRef → DWord) (out : ThreadRef → Option LaneOut) : State :=
  let lines := dedup (ok.map fun x => (x.2.1 / 128, x.2.2.isWindow))
  let s := lines.foldl (fun s l => countLine s ix.core (l.1 * 128) sh.kind.hotType ix.lid l.2) s
  (accGroups s sh ok).foldl (fun s g =>
    match g with
    | [] => s
    | x :: _ => pushAcc s ix c sh x.2.1 x.2.2 (g.map fun y => (y.1, y.2.1)) val val2 out) s

/-- An access word: the checks, the accesses of the lanes that pass, the traps of those that do not (08 R181, 09 R199). -/
def accessWord (s : State) (c : Ctl) (sh : AccShape) (need : Need) (ea : State → ThreadRef → Nat)
    (val val2 : State → ThreadRef → DWord) (out : ThreadRef → Option LaneOut) : Host.Outcome State Fault Refusal :=
  match s.issue with
  | none => .next s
  | some ix =>
    let r := checkLanes s ix.pg (activeOf s ix c) (ea s) sh.bytes need
    let done := pushAccs r.1 ix c sh r.2.ok (val s) (val2 s) out
    .next (retire (acceptFlags s (takeTraps done ix r.2.traps) ix c) ix c)

/-- The pair of registers at an operand, whatever the type: the width cuts it (09 R197). -/
def dataOf (o : Opd) (s : State) (t : ThreadRef) : DWord := srcPair s t o

/-- A result that is not known yet: the registers it will write. -/
def later (ty : Ty) (n : Nat) : LaneOut := outTy ty n 0 0

/-- LD (09 R198, R199, R200). -/
def execLd (w : Wd) (ty : Ty) (scope : Scope) (ord : MemOrd) (nt : Bool) (s : State) : Host.Outcome State Fault Refusal :=
  accessWord s w.ctl { kind := .load ty, bytes := ty.bytes, scope := scope, ord := ord, nt := nt } .read
    (fun s t => effAddr s t w.b w.c) (fun _ _ => 0) (fun _ _ => 0) fun _ => some (later ty (vNum w.a))

/-- ST (09 R198, R199, R200): the higher lane position wins a shared byte. -/
def execSt (w : Wd) (ty : Ty) (scope : Scope) (ord : MemOrd) (nt : Bool) (s : State) : Host.Outcome State Fault Refusal :=
  accessWord s w.ctl { kind := .store, bytes := ty.bytes, scope := scope, ord := ord, nt := nt } .write
    (fun s t => effAddr s t w.b w.c) (dataOf w.a) (fun _ _ => 0) fun _ => none

/-- Bring the line of one address into L2, or L1 and L2; any failure drops it (09 R202). -/
def prefetch (s : State) (ix : Issue) (l1 : Bool) (va : Nat) : State :=
  if va % 4 ≠ 0 ∨ lockHit (s.core ix.core).locks 0 (s.cg ix.cg).slot va 4 false then s
  else
    match translateOnce s ix.core ix.space va .read with
    | (s, .dram pa nc) =>
      let s := countLine s ix.core va 0 ix.lid false
      if nc then s else if l1 then (l1Line s ix.core (pa / 128)).1 else (l2Line s (dieOfCore ix.core) (pa / 128)).1
    | (s, .window _) | (s, .demand) | (s, .fail _) => s

/-- PREF (09 R202). -/
def execPref (w : Wd) (l1 : Bool) (s : State) : Host.Outcome State Fault Refusal :=
  stateWord s w.ctl fun ix s0 =>
    (byLane (activeOf s0 ix w.ctl)).foldl (fun s t => prefetch s ix l1 (effAddr s0 t w.b w.c)) s0

/-- A cached line as the constant cache serves it (09 R201): filled from L2, never snooped. -/
def constLoad (s : State) (core pa n : Nat) : State × List Byte :=
  match findLine (s.core core).kcache (pa / 128) with
  | some x => (s, (x.bytes.drop (pa % 128)).take n)
  | none =>
    let (s, bs) := l2Line s (dieOfCore core) (pa / 128)
    (modCore { s with fresh := s.fresh + 1 } core fun c =>
      { c with kcache := fillLine Config.kcacheLines Config.kcacheLines s.fresh c.kcache (plainLine (pa / 128) bs) },
     (bs.drop (pa % 128)).take n)

/-- One lane of LDK (09 R201): the checks of LD but for range locks; threads that name one line share its request. -/
def ldkLane (w : Wd) (ty : Ty) (s0 : State) (ix : Issue) (s : State) (t : ThreadRef) : State × Option Trap :=
  let va := effAddr s0 t w.b w.c
  let n := ty.bytes
  if va % n ≠ 0 then (s, some (plainTrap 0x05 va))
  else
    match readPiece s t va n false false fun s pa n => constLoad s ix.core pa n with
    | (s, .error e) => (s, some e)
    | (s, .ok bs) => (pushResult s ix w.ctl 0 true true t (outTy ty (vNum w.a) (wrapBits ty (natOfBytes bs)) 0), none)

/-- Lanes in ascending lane position (08 R185), each of which may trap or wait: the traps, which are taken afterwards; a lane that waits holds
the whole word. -/
def laneActs (s : State) (ts : List ThreadRef) (f : State → ThreadRef → State × Option Trap) :
    Except Again (State × List (ThreadRef × Trap)) :=
  (byLane ts).foldl (fun acc t =>
    match acc with
    | .error why => .error why
    | .ok (s, traps) =>
      match f s t with
      | (s, none) => .ok (s, traps)
      | (s, some x) => match x.again with
        | some why => .error why
        | none => .ok (s, traps ++ [(t, x)])) (.ok (s, []))

/-- A memory word that acts in the step that issues it, its lanes in lane order, its traps in ascending `tid` (08 R181, R185). -/
def laneActWord (s : State) (c : Ctl) (f : Issue → State → ThreadRef → State × Option Trap) : Host.Outcome State Fault Refusal :=
  match s.issue with
  | none => .next s
  | some ix =>
    match laneActs s (activeOf s ix c) (f ix) with
    | .ok (s', traps) => .next (retire (acceptFlags s (takeTraps s' ix traps) ix c) ix c)
    | .error why => .next (holdWord s ix why)

/-- LDK (09 R201). -/
def execLdk (w : Wd) (ty : Ty) (s : State) : Host.Outcome State Fault Refusal := laneActWord s w.ctl fun ix s' t => ldkLane w ty s ix s' t

/-! Atomics (14 R304-R307): C carries the operation in [18:15] and a signed offset in [14:0]. -/

/-- The operation and offset field of ATOM and RED. -/
def atomField (o : Opd) : AtomOp × BitVec 19 :=
  match o with
  | .imm x => ((AtomOp.ofCode (x.extractLsb' 15 4)).getD .add, (x.extractLsb' 0 15).signExtend 19)
  | .v .. | .p .. | .k .. | .sr _ | .role _ | .res .. | .none => (.add, 0)

/-- ATOM (14 R306). -/
def execAtom (w : Wd) (ty : Ty) (scope : Scope) (ord : MemOrd) (s : State) : Host.Outcome State Fault Refusal :=
  let f := atomField w.c
  accessWord s w.ctl { kind := .atom f.1 ty, bytes := ty.bytes, scope := scope, ord := ord, nt := false } .readWrite
    (fun s t => effAddr s t w.b (.imm f.2)) (dataOf w.a) (fun _ _ => 0) fun _ => some (later ty (vNum w.a))

/-- CAS (14 R307): compare value, then new value, in registers of A. -/
def execCas (w : Wd) (ty : Ty) (scope : Scope) (ord : MemOrd) (s : State) : Host.Outcome State Fault Refusal :=
  let n := vNum w.a
  let reg (k : Nat) (s : State) (t : ThreadRef) : DWord :=
    if ty.is64 then pairOf (regOf s t (n + 2 * k)) (regOf s t (n + 2 * k + 1)) else (regOf s t (n + k)).zeroExtend 64
  accessWord s w.ctl { kind := .cas ty, bytes := ty.bytes, scope := scope, ord := ord, nt := false } .readWrite
    (fun s t => effAddr s t w.b w.c) (reg 0) (reg 1) fun _ => some (later ty n)

/-- RED (14 R306). -/
def execRed (w : Wd) (ty : Ty) (scope : Scope) (ord : MemOrd) (s : State) : Host.Outcome State Fault Refusal :=
  let f := atomField w.c
  accessWord s w.ctl { kind := .red f.1 ty, bytes := ty.bytes, scope := scope, ord := ord, nt := false } .readWrite
    (fun s t => effAddr s t w.b (.imm f.2)) (dataOf w.a) (fun _ _ => 0) fun _ => none

/-- FRED (14 R309). -/
def execFred (w : Wd) (ty : Ty) (scope : Scope) (ord : MemOrd) (s : State) : Host.Outcome State Fault Refusal :=
  accessWord s w.ctl { kind := .fred ty, bytes := ty.bytes, scope := scope, ord := ord, nt := false } .readWrite
    (fun s t => effAddr s t w.b w.c) (dataOf w.a) (fun _ _ => 0) fun _ => none

/-! Reduction objects (14 R308, R309). -/

/-- The checks of a REDOBJ over `n` bytes at issue, page by page. -/
def checkObject (s : State) (pg va n : Nat) : State × Except Trap Target :=
  if va % 64 ≠ 0 then (s, .error (plainTrap 0x05 va))
  else (pieces 0x10000 (n / 0x10000 + 2) va n).foldl (fun acc p =>
    match acc with
    | (s, .error e) => (s, .error e)
    | (s, .ok t) =>
      match checkAccess s pg p.1 p.2 .readWrite true with
      | (s, .error e) => (s, .error e)
      | (s, .ok x) => (s, .ok (if p.1 = va then x else t))) (s, .ok (.fail 0))

/-- A REDOBJ word: one access per guard-true thread, for whose result the group is held. -/
def redobjWord (s : State) (w : Wd) (scope : Scope) (ord : MemOrd) (kind : State → ThreadRef → Except Trap AccKind)
    (span : State → ThreadRef → Nat) : Host.Outcome State Fault Refusal :=
  match s.issue with
  | none => .next s
  | some ix =>
    let ts := byLane (activeOf s ix w.ctl)
    let r := ts.foldl (fun acc t =>
      let va := effAddr s t w.b w.c
      match kind s t with
      | .error e => (acc.1, { acc.2 with traps := acc.2.traps ++ [(t, e)] })
      | .ok _ =>
        match checkObject acc.1 ix.pg va (span s t) with
        | (s, .error e) => (s, { acc.2 with traps := acc.2.traps ++ [(t, e)] })
        | (s, .ok x) => (s, { acc.2 with ok := acc.2.ok ++ [(t, va, x)] })) (s, ({ ok := [], traps := [] } : Checked))
    let done := r.2.ok.foldl (fun s' x =>
      match kind s x.1 with
      | .error _ => s'
      | .ok k =>
        let s' := countLine s' ix.core x.2.1 2 ix.lid x.2.2.isWindow
        pushAcc s' ix w.ctl { kind := k, bytes := 64, scope := scope, ord := ord, nt := false } x.2.1 x.2.2 [(x.1, x.2.1)]
          (fun _ => 0) (fun _ => 0) fun _ => some { regs := [], vals := [], preds := [], raise := 0 }) r.1
    let s2 := takeTraps (spendSlot done ix w.ctl) ix r.2.traps
    .next (if r.2.ok.isEmpty then advance s2 ix else modGroup s2 ix.part ix.pos fun g => { g with hold := .result })

/-- REDOBJ.init (14 R309): alignment and the count are checked at issue. -/
def execRedobjInit (w : Wd) (ty : Ty) (scope : Scope) (ord : MemOrd) (s : State) : Host.Outcome State Fault Refusal :=
  let n (s : State) (t : ThreadRef) : Nat := (srcWord s t w.a).toNat
  redobjWord s w scope ord (fun s t =>
    if effAddr s t w.b w.c % 64 ≠ 0 then .error (plainTrap 0x05 (effAddr s t w.b w.c))
    else if n s t = 0 ∨ 65536 < n s t then .error (plainTrap 0x01 (n s t))
    else .ok (.roInit ty (n s t))) fun s t => 64 + slotBytes ty * n s t

/-- REDOBJ.fold (14 R309): alignment is checked at issue, the header at its home. -/
def execRedobjFold (w : Wd) (ty : Ty) (scope : Scope) (ord : MemOrd) (s : State) : Host.Outcome State Fault Refusal :=
  redobjWord s w scope ord (fun s t =>
    if effAddr s t w.b w.c % 64 ≠ 0 then .error (plainTrap 0x05 (effAddr s t w.b w.c)) else .ok (.roFold ty)) fun _ _ => 64

/-! Fences and cache control (09 R206-R209). The release wait stands before the word issues (mayIssue). -/

/-- FENCE (09 R207): the acquire invalidation for each guard-true thread. -/
def execFence (w : Wd) (scope : Scope) (ord : MemOrd) (s : State) : Host.Outcome State Fault Refusal :=
  stateWord s w.ctl fun ix s =>
    if ordAcq ord && !(activeOf s ix w.ctl).isEmpty then acquireActions s ix.core scope else s

/-- The checks of CFLUSH and CINV (09 R208): aligned at 4, readable or writable, not the window. -/
def controlTarget (s : State) (ix : Issue) (va : Nat) : State × Except Trap (Option Nat) :=
  if va % 4 ≠ 0 then (s, .error (plainTrap 0x05 va))
  else
    match translateOnce s ix.core ix.space va .readOrWrite with
    | (s, .window _) => (s, .error (memTrap 0x07 va))
    | (s, .fail c) => (s, .error (memTrap c va))
    | (s, .dram pa _) => (s, .ok (some pa))
    | (s, .demand) =>
      match fillOnce s ix.core ix.space va .readOrWrite with
      | (s, some _) => (s, .ok none)
      | (s, none) => (s, .error (holdTrap va))

/-- A write to a line that a thread of the core has made, or that the die's remote write queue holds, is not at its home yet. -/
def lineBusy (s : State) (core line : Nat) : Bool :=
  queuedLine s (dieOfCore core) line || s.w.accs.any fun a => decide (a.core = core) && !a.kind.isLoad && a.key.isNone
    && decide (a.stage = .home) && decide (a.pa / 128 = line)

/-- CFLUSH (09 R208): the word waits while a write to a line that it names is still on its way to its home. -/
def execCflush (w : Wd) (s : State) : Host.Outcome State Fault Refusal :=
  laneActWord s w.ctl fun ix s' t =>
    match controlTarget s' ix (effAddr s t w.b w.c) with
    | (s, .error e) => (s, some e)
    | (s, .ok (some pa)) => (s, if lineBusy s ix.core (pa / 128) then some (againTrap .order) else none)
    | (s, .ok none) => (s, none)

/-- Drop a physical line: from L1 or every instruction cache of the core, and from the die L2 if remote (09 R208). -/
def dropLineOf (s : State) (core : Nat) (icache : Bool) (line : Nat) : State :=
  let s := if icache then (List.range 6).foldl (fun s p => modPart s (partKey core p) fun x => { x with icache := dropLine x.icache line }) s
    else modCore s core fun c => { c with l1 := dropLine c.l1 line }
  modDie s (dieOfCore core) fun d => { d with l2 := d.l2.filter fun l => !(decide (l.line = line) && l.remote) }

/-- CINV and CINV.i (09 R208). -/
def execCinv (w : Wd) (icache : Bool) (s : State) : Host.Outcome State Fault Refusal :=
  laneActWord s w.ctl fun ix s' t =>
    match controlTarget s' ix (effAddr s t w.b w.c) with
    | (s, .error e) => (s, some e)
    | (s, .ok (some pa)) => (dropLineOf s ix.core icache (pa / 128), none)
    | (s, .ok none) => (s, none)

/-- Queue a signal message (09 R209, 24 R390). A replay queues none again (20 R358, log 44). -/
def queueSignal (s : State) (lid off : Nat) (v : Word) : State :=
  let l := s.launch lid
  if s.replay.isSome then s
  else { s with signals := s.signals ++ [{ sess := l.sess, space := l.space, lid := lid, off := off, val := v }] }

/-- One lane of HWSIG (09 R209): its release wait stands before the word issues. -/
def hwsigLane (s : State) (ix : Issue) (t : ThreadRef) (va : Nat) (v : Word) : State × Option Trap :=
  if va % 4 ≠ 0 then (s, some (plainTrap 0x05 va))
  else if va < Config.windowBase ∨ Config.windowBase + Config.windowSize ≤ va then (s, some (memTrap 0x07 va))
  else
    match checkAccess s ix.pg va 4 .write true with
    | (s, .error e) => (s, some e)
    | (s, .ok tgt) =>
      match stampNow s t false tgt with
      | (s, false) => (s, some (againTrap .log))
      | (s, true) => (queueSignal (writeTargetNow s t va tgt (bytesOfNat 4 v.toNat)) ix.lid (va - Config.windowBase) v, none)

/-- HWSIG (09 R209). -/
def execHwsig (w : Wd) (_ty : Ty) (s : State) : Host.Outcome State Fault Refusal :=
  actWord s w.ctl fun ix s' t => hwsigLane s' ix t (effAddr s t w.b w.c) (srcWord s t w.a)

end Sys2Proof.Machine
end

