-- ==== Sys2Proof/Machine/Buffers.lean ====
section
/-! DEFINITION. The typed buffers (08 R192, R193; 09 R203-R205). -/

namespace Sys2Proof.Machine

/-- A range of a core's A-buffer meets a persistent range of a resident core group other than `cg` (08 R193). -/
def inOthersRange (s : State) (core cg lo n : Nat) : Bool :=
  s.w.cgs.any fun e => decide (e.2.core = core) && decide (e.1 ≠ cg) && !e.2.ended &&
    (s.launch e.2.lid).lr.pr.any fun r => decide (lo < r.1 + r.2) && decide (r.1 < lo + n)

/-- The byte offset of LDA and STA (09 R204), computed exactly. -/
def bufOffset (s : State) (t : ThreadRef) (w : Wd) : Int :=
  (srcWord s t w.b).toNat + (match w.c with
    | .imm x => x.toInt
    | .v .. | .p .. | .k .. | .sr _ | .role _ | .res .. | .none => 0)

/-- The checks of LDA and STA in the order of 09 R204: the offset, or the trap. -/
def checkBuffer (s : State) (ix : Issue) (o : Int) (n : Nat) (store : Bool) : Except Trap Nat :=
  let low := (o % 2 ^ 32).toNat
  let k := o.toNat
  if o < 0 ∨ Config.abufSize (s.core ix.core).carve ≤ k ∨ inOthersRange s ix.core ix.cg k n then .error (plainTrap 0x09 low)
  else if k % n ≠ 0 then .error (plainTrap 0x05 low)
  else if lockHit (s.core ix.core).locks 1 (s.cg ix.cg).slot k n store then .error (plainTrap 0x08 low)
  else .ok k

/-- A word of buffer accesses, lanes in ascending position, traps in ascending `tid`. -/
def bufferWord (s : State) (c : Ctl) (check : Issue → ThreadRef → Except Trap Nat)
    (act : Issue → State → ThreadRef → Nat → State) : Host.Outcome State Fault Refusal :=
  match s.issue with
  | none => .next s
  | some ix =>
    let ts := byLane (activeOf s ix c)
    let done := ts.foldl (fun s t => match check ix t with
      | .ok k => act ix s t k
      | .error _ => s) s
    let traps := ts.filterMap fun t => match check ix t with
      | .ok _ => none
      | .error e => some (t, e)
    .next (retire (acceptFlags s (takeTraps done ix traps) ix c) ix c)

/-- LDA (09 R203, R204). -/
def execLda (w : Wd) (ty : Ty) (_scope : Scope) (_ord : MemOrd) (s : State) : Host.Outcome State Fault Refusal :=
  bufferWord s w.ctl (fun ix t => checkBuffer s ix (bufOffset s t w) ty.bytes false) fun ix s t k =>
    pushResult s ix w.ctl 0 true true t (outTy ty (vNum w.a) (wrapBits ty (memNat (s.core ix.core).abuf k ty.bytes)) 0)

/-- STA (09 R203, R204); its release wait stands before the word issues. -/
def execSta (w : Wd) (ty : Ty) (_scope : Scope) (_ord : MemOrd) (s : State) : Host.Outcome State Fault Refusal :=
  bufferWord s w.ctl (fun ix t => checkBuffer s ix (bufOffset s t w) ty.bytes true) fun ix s' t k =>
    modCore s' ix.core fun c => { c with abuf := memWriteN c.abuf k (bytesOfNat ty.bytes (srcPair s t w.a).toNat) }

/-! Accumulator tiles. -/

/-- An element of a tile; an unlisted one is +0. -/
def tileGet (t : Tile) (n : Nat) : Word := tget t.elems n 0
/-- Set an element of a tile, keeping +0 unlisted. -/
def tilePut (t : Tile) (n : Nat) (x : Word) : Tile :=
  { t with elems := if x = 0 then tdel t.elems n else tput t.elems n x }

/-- The checks of LDC and STC (09 R205, 11 R243): the element index, or the trap. -/
def checkTile (s : State) (ix : Issue) (q : Nat) (o : Nat) : Except Trap Nat :=
  if o % 4 ≠ 0 then .error (plainTrap 0x05 o)
  else if 65532 < o then .error (plainTrap 0x09 (q * 65536 + o))
  else if tileInFlight s ix.pg q then .error (plainTrap 0x09 (q * 65536 + o))
  else .ok (o / 4)

/-- LDC (09 R205). -/
def execLdc (w : Wd) (_ty : Ty) (s : State) : Host.Outcome State Fault Refusal :=
  bufferWord s w.ctl (fun ix t => checkTile s ix (resNum (s.launch ix.lid).lr w.b) (srcWord s t w.c).toNat) fun ix s' t n =>
    pushResult s' ix w.ctl 0 true true t (out1 (vNum w.a) (tileGet (tileOf s' ix.core (resNum (s.launch ix.lid).lr w.b)) n) 0)

/-- STC (09 R205, 11 R253): it ends the tile's error phase, clearing cause and value only. -/
def execStc (w : Wd) (_ty : Ty) (s : State) : Host.Outcome State Fault Refusal :=
  bufferWord s w.ctl (fun ix t => checkTile s ix (resNum (s.launch ix.lid).lr w.b) (srcWord s t w.c).toNat) fun ix s' t n =>
    modTile s' ix.core (resNum (s.launch ix.lid).lr w.b) fun x => { tilePut x n (srcWord s t w.a) with cause := 0, val := 0 }

end Sys2Proof.Machine
end

