-- ==== Sys2Proof/Machine/Copies.lean ====
section
/-! DEFINITION. Engine operations under a tag, bulk copies and the tag instructions (08 R183; 09 R210-R217; 22 R383). -/

namespace Sys2Proof.Machine

/-! Tags. -/

def tagOf (s : State) (cg n : Nat) : TagState := tget (s.cg cg).tags n TagState.init
def modTag (s : State) (cg n : Nat) (f : TagState → TagState) : State :=
  modCg s cg fun g => { g with tags := tupd g.tags n TagState.init f }

/-- A failure sets a tag's error once (09 R216). -/
def tagFail (s : State) (cg n : Nat) (cause : BitVec 8) (val : Nat) : State :=
  modTag s cg n fun t => if t.err = 0 then { t with err := cause, val := word val } else t

/-! Engine operations. -/

def State.op? (s : State) (id : Nat) : Option EngOp := s.w.ops.find? fun o => o.id = id
def modOp (s : State) (id : Nat) (f : EngOp → EngOp) : State :=
  { s with w := { s.w with ops := s.w.ops.map fun o => if o.id = id then f o else o } }

/-- The operations of a word are issued one after another (09 R214): one waits while an earlier one of its word waits. -/
def opTurn (s : State) (o : EngOp) : Bool :=
  !(s.w.ops.any fun p => decide (p.core = o.core ∧ p.word = o.word) && !p.accepted && decide (p.id < o.id))

/-- Its tag counts an operation that is issued, unless the count stands at 255 (09 R214). -/
def countOp (s : State) (o : EngOp) : State :=
  if o.counted ∨ 255 ≤ (tagOf s o.cg o.tag).count then s
  else modTag (modOp s o.id fun o => { o with counted := true }) o.cg o.tag fun t => { t with count := t.count + 1 }

/-- A counted operation may take its lock entries: there is room, and none counted before it waits for them (09 R211). -/
def opFits (s : State) (o : EngOp) : Bool :=
  (s.op? o.id).any (fun x => x.counted) && lockRoom (s.core o.core) o.locks.length
    && !(s.w.ops.any fun p => decide (p.core = o.core) && p.counted && !p.accepted && decide (p.id < o.id))

/-- Count and register the operations of a core in the order in which they were issued (09 R210, R211, R214). -/
def acceptCopies (s : State) (core : Nat) : State :=
  s.w.ops.foldl (fun s o =>
    if o.core = core ∧ o.accepted = false ∧ opTurn s o then
      let s := countOp s o
      if opFits s o then addLocks (modOp s o.id fun o => { o with accepted := true }) core o.locks else s
    else s) s

/-- Offer an operation to its engine: it is registered at once if there is room. -/
def offerEngOp (s : State) (o : EngOp) : State := acceptCopies { s with w := { s.w with ops := s.w.ops ++ [o] } } o.core

/-- An operation of a thread of the group still waits for lock entries (09 R211). -/
def waitsLocks (s : State) (pg : Nat) (tids : List Nat) : Bool :=
  s.w.ops.any fun o => !o.accepted && decide (o.th.pg = pg) && tids.contains o.th.tid

/-- NO_FRAME (08 R183): containment at once of the issuing thread, or of its core group's threads if it has ended. -/
def noFrame (s : State) (o : EngOp) : State :=
  if (s.thread o.th).live then contain s o.th 0x12
  else (threadsOfCg s o.cg).foldl (fun s t => if (s.thread t).live then contain s t 0x12 else s) s

/-- An operation ends: its locks go, its tag's count drops, waiting operations are registered (09 R215, R216). -/
def endOp (s : State) (o : EngOp) : State :=
  let s := { s with w := { s.w with ops := s.w.ops.filter fun x => x.id != o.id } }
  let s := modTag (dropLocks s o.core o.id) o.cg o.tag fun t => { t with count := t.count - 1 }
  acceptOps (acceptCopies s o.core) o.core

/-- An operation fails and ends (09 R216). -/
def failOp (s : State) (o : EngOp) (cause : BitVec 8) (val : Nat) : State :=
  let s := endOp (tagFail s o.cg o.tag cause val) o
  if cause = 0x12 then noFrame s o else s

/-- Accesses of a thread that no key orders, of words issued before a number, are still to be performed. -/
def owedBefore (s : State) (t : ThreadRef) (before : Nat) : Bool :=
  s.w.accs.any fun a => decide (a.word < before) && a.key.isNone && decide (a.pg = t.pg) && a.lanes.any fun l => decide (l.tid = t.tid)

/-- Whether a registered operation may run: no earlier overlapping lock, and the issuing thread's earlier stores performed
(09 R211, R215), but for those that a DSM launch's homes order by key (14 R310); under DSM at its completion slot (06 R131). -/
def opMayRun (s : State) (o : EngOp) : Bool :=
  o.accepted && !o.done && (decide (o.due = 0) || decide (o.due ≤ timeOf s o.cg)) && !lockBlocked (s.core o.core).locks o.locks o.id
    && !owedBefore s o.th o.id

/-- Count the issuing core group on the lines of an engine write, which the die's L2 takes for that (20 R366). -/
def countEngine (s : State) (o : EngOp) (va n : Nat) : State :=
  let lid := (s.cg o.cg).lid
  if s.rb.rcEn && decide (s.rb.rcLaunch = lid) then
    (linesOf va n).foldl (fun s l =>
      match pinTranslate s o.core o.id o.space (l * 128) .write with
      | (s, .dram pa false) =>
        countWriter (l2Line s (dieOfCore o.core) (pa / 128)).1 o.core lid ((s.cg o.cg).dgid * 128 + (s.cg o.cg).cgid) pa (l * 128)
      | (s, .dram _ true) | (s, .window _) | (s, .demand) | (s, .fail _) => s) s
  else s

/-- An operation's write over bytes that earlier stores, which a DSM launch has not committed, still have to write: of those that its issuer
has made or seen, the operation's bytes are the later ones (15 R313, R318; log 100). -/
def supersede (s : State) (o : EngOp) (va : Nat) (bs : List Byte) : State :=
  { s with w := { s.w with accs := s.w.accs.map fun a =>
      if a.key.isSome ∧ a.kind = .store ∧ a.id < o.id then
        { a with lanes := a.lanes.map fun l =>
            if seesStore s o.th a l then
              { l with val := BitVec.ofNat 64 (natOfBytes (layOver (bytesOfNat a.bytes l.val.toNat) l.va va bs)) } else l }
      else a } }

/-- An engine write attributed to an operation: race counters and watchpoints look at it (20 R366, 22 R383). -/
def opWrite (s : State) (o : EngOp) (va : Nat) (bs : List Byte) : State × Option (BitVec 8 × Nat) :=
  let lid := (s.cg o.cg).lid
  match engineWrite s o.core o.id o.space lid va bs with
  | (s, some e) => (s, some e)
  | (s, none) =>
    let s := supersede (countEngine s o va bs.length) o va bs
    (if watched s lid va bs.length 3 then deferWatch s o.th o.site va o.word else s, none)

/-- An engine read of an operation, with what its issuer has stored or seen in phases that are not committed (15 R313, 09 R215; log 100). -/
def opRead (s : State) (o : EngOp) (type va n : Nat) : State × Except (BitVec 8 × Nat) (List Byte) :=
  match engineRead s o.core o.id o.space (s.cg o.cg).lid type va n with
  | (s, .ok bs) => (s, .ok (overSeen s o.th o.id va bs))
  | (s, .error e) => (s, .error e)

/-! Copy descriptors (09 R213). -/

def bdSrc (d : List Byte) : Nat := fieldAt d 0 8
def bdDst (d : List Byte) : Nat := fieldAt d 8 8
def bdIdx (d : List Byte) : Nat := fieldAt d 16 8
def bdS (d : List Byte) : Nat := fieldAt d 24 4
def bdD (d : List Byte) : Nat := fieldAt d 28 4
def bdLen (d : List Byte) : Nat := fieldAt d 32 2 + 1
def bdRows (d : List Byte) : Nat := fieldAt d 34 2 + 1
def bdDsp (d : List Byte) : Nat := fieldAt d 36 4 % 4
def bdSsp (d : List Byte) : Nat := fieldAt d 36 4 / 4 % 4

/-- A 32-bit pattern as a signed integer. -/
def i32Of (x : Nat) : Int := if x % 2 ^ 32 < 2 ^ 31 then (x % 2 ^ 32 : Nat) else (x % 2 ^ 32 : Nat) - 2 ^ 32

/-- Index `i` of the index list that follows a descriptor, as n32. -/
def bdIndex (d : List Byte) (i : Nat) : Nat := fieldAt d (64 + 4 * i) 4

/-- base + k × stride mod 2^64. -/
def strideAddr (base k stride : Nat) : Nat := (((base : Int) + k * i32Of stride) % 2 ^ 64).toNat

/-- Source and destination of row `i` (09 R214). -/
def rowSrc (k : EngKind) (d : List Byte) (i : Nat) : Nat :=
  strideAddr (bdSrc d) (if k = .bgath then bdIndex d i else i) (bdS d)
def rowDst (k : EngKind) (d : List Byte) (i : Nat) : Nat :=
  strideAddr (bdDst d) (if k = .bscat then bdIndex d i else i) (bdD d)

/-- The lowest byte and the byte after the highest that the rows at `f` touch. -/
def rowSpan (d : List Byte) (f : Nat → Nat) : Nat × Nat :=
  (List.range (bdRows d)).foldl (fun acc i => (Nat.min acc.1 (f i), Nat.max acc.2 (f i + bdLen d))) (f 0, f 0 + bdLen d)

/-- A range lies in a reservation of a core group (11 R246). -/
def inReservation (s : State) (core cg lo n : Nat) : Bool :=
  (s.core core).resv.any fun r => decide (r.2.cg = cg) && decide (r.2.off ≤ lo) && decide (lo + n ≤ r.2.off + r.2.len)

/-- The checks of a descriptor that need no index list (09 R214): cause and value. -/
def checkDesc (k : EngKind) (d : List Byte) (va : Nat) : Option (BitVec 8 × Nat) :=
  let w := fieldAt d 36 4
  let buf := decide (bdSsp d ≠ 0) || decide (bdDsp d ≠ 0)
  let wide (sp x : Nat) : Bool := decide (sp ≠ 0) && decide (2 ^ 20 ≤ x)
  if w / 16 ≠ 0 ∨ (d.drop 40).take 24 ≠ List.replicate 24 0 ∨ 2 ≤ bdSsp d ∨ bdDsp d = 3 ∨ wide (bdSsp d) (bdSrc d)
      ∨ wide (bdDsp d) (bdDst d) ∨ (k = .bcopy) ≠ (bdIdx d = 0) then some (0x01, va)
  else
    let unit (sp : Nat) : Nat := if sp = 0 then 4 else 16
    if bdSrc d % unit (bdSsp d) ≠ 0 then some (0x05, bdSrc d)
    else if bdDst d % unit (bdDsp d) ≠ 0 then some (0x05, bdDst d)
    else if bdIdx d % 4 ≠ 0 then some (0x05, bdIdx d)
    else if bdS d % unit (bdSsp d) ≠ 0 then some (0x05, bdS d)
    else if bdD d % unit (bdDsp d) ≠ 0 then some (0x05, bdD d)
    else if buf ∧ bdLen d % 16 ≠ 0 then some (0x05, bdLen d - 1)
    else none

/-- The checks of the rows in buffers (08 R192, 09 R214): the first offset that breaks them. -/
def checkRows (s : State) (o : EngOp) : Option Nat :=
  let size := Config.abufSize (s.core o.core).carve
  let n := bdLen o.desc
  let bad (sp x : Nat) : Bool :=
    match sp with
    | 0 => false
    | 1 => decide (size < x + n) || inOthersRange s o.core o.cg x n
    | _ => decide (Config.wbufSize < x + n) || !inReservation s o.core o.cg x n
  let rows := List.range (bdRows o.desc)
  match rows.find? fun i => bad (bdSsp o.desc) (rowSrc o.kind o.desc i) with
  | some i => some (rowSrc o.kind o.desc i)
  | none => (rows.find? fun i => bad (bdDsp o.desc) (rowDst o.kind o.desc i)).map (rowDst o.kind o.desc)

/-- The two lock entries of a copy (09 R214). -/
def copyLocks (s : State) (o : EngOp) : List RLock :=
  let slot := (s.cg o.cg).slot
  let mk (w : Bool) (sp : Nat) (r : Nat × Nat) : RLock :=
    { write := w, space := sp, slot := slot, eng := 0, id := o.tag, lo := r.1 / 128, hi := (r.2 - 1) / 128, owner := o.id }
  [mk false (bdSsp o.desc) (rowSpan o.desc (rowSrc o.kind o.desc)), mk true (bdDsp o.desc) (rowSpan o.desc (rowDst o.kind o.desc))]

/-- Read an aligned descriptor as LD.acq at .cg, which is an ordering access (09 R214, 20 R363). -/
def readDescAcq (s : State) (t : ThreadRef) (va align n : Nat) : State × Except Trap (List Byte) :=
  if va % align ≠ 0 then (s, .error (plainTrap 0x05 va)) else readNowAcq s t va n

/-- Read an aligned descriptor as LD reads. -/
def readDesc (s : State) (t : ThreadRef) (va align n : Nat) : State × Except Trap (List Byte) :=
  if va % align ≠ 0 then (s, .error (plainTrap 0x05 va)) else readNow s t va n

/-- A new operation of a thread under a tag: under DSM it completes at its slot (06 R131), in a causal trial it starts later (22 R376). -/
def newOp (s : State) (ix : Issue) (t : ThreadRef) (k : EngKind) (tag : Nat) (d : List Byte) (va : Nat) : EngOp × State :=
  let (id, s) := nextId s
  ({ id := id, kind := k, core := ix.core, cg := ix.cg, th := t, space := ix.space, tag := tag, desc := d, descVa := va,
     site := siteOf ix, locks := [], accepted := false, done := false, waits := [],
     due := (if (s.launch ix.lid).lr.dsm then timeOf s ix.cg + Config.dsmLatency
            else s.clk) + trialEngine s ix.lid ix.pc, word := wordNow s }, s)

/-- The index list of a gather or scatter, which its engine reads at issue: like its other reads, after the issuing thread's earlier stores
(09 R214, R215). A cause of 0 waits. -/
def indexList (s : State) (o : EngOp) : State × Except (BitVec 8 × Nat) (List Byte) :=
  if o.kind = .bcopy then (s, .ok [])
  else if owedBefore s o.th o.id then (s, .error (0, bdIdx o.desc))
  else opRead s o 4 (bdIdx o.desc) (4 * bdRows o.desc)

/-- An operation that fails before it is counted (09 R214, R216). -/
def failIssue (s : State) (o : EngOp) (cause : BitVec 8) (val : Nat) : State :=
  let s := tagFail (dropPins s o.core o.id) o.cg o.tag cause val
  if cause = 0x12 then noFrame s o else s

/-- One lane of BCOPY, BGATH or BSCAT (09 R214). -/
def copyLane (s : State) (ix : Issue) (t : ThreadRef) (k : EngKind) (tag va : Nat) : State × Option Trap :=
  match readDescAcq s t va 64 64 with
  | (s, .error e) => (s, some e)
  | (s, .ok d) =>
    match checkDesc k d va with
    | some (c, v) => (tagFail s ix.cg tag c v, none)
    | none =>
      let (o, s) := newOp s ix t k tag d va
      match indexList s o with
      | (s, .error (c, v)) => if c = 0 then (s, some (againTrap .order)) else (failIssue s o c v, none)
      | (s, .ok idx) =>
        let o := { o with desc := d ++ idx }
        match checkRows s o with
        | some v => (failIssue s o 0x09 v, none)
        | none => (offerEngOp s { o with locks := copyLocks s o }, none)

/-- A word whose group then waits until its operations have their lock entries. -/
def engineWord (s : State) (c : Ctl) (f : Issue → State → ThreadRef → State × Option Trap) : Host.Outcome State Fault Refusal :=
  match s.issue with
  | none => .next s
  | some ix =>
    match actLanes s ix (activeOf s ix c) (f ix) with
    | .error why => .next (holdWord s ix why)
    | .ok s' =>
      let waits := waitsLocks s' ix.pg ix.tids
      let s' := spendSlot (acceptFlagsAs waits s s' ix c) ix c
      .next (if waits then modGroup s' ix.part ix.pos fun g => { g with hold := .locks } else advance s' ix)

/-- A copy word. -/
def copyWord (s : State) (w : Wd) (k : EngKind) : Host.Outcome State Fault Refusal :=
  engineWord s w.ctl fun ix s' t => copyLane s' ix t k (resNum (s.launch ix.lid).lr w.a) (effAddr s t w.b w.c)

/-- BCOPY (09 R214). -/
def execBcopy (w : Wd) (s : State) : Host.Outcome State Fault Refusal := copyWord s w .bcopy
/-- BGATH (09 R214). -/
def execBgath (w : Wd) (s : State) : Host.Outcome State Fault Refusal := copyWord s w .bgath
/-- BSCAT (09 R214). -/
def execBscat (w : Wd) (s : State) : Host.Outcome State Fault Refusal := copyWord s w .bscat

/-- Copy one row (09 R214, R215): read whole, then written. -/
def copyRow (s : State) (o : EngOp) (i : Nat) : State × Option (BitVec 8 × Nat) :=
  let n := bdLen o.desc
  let a := rowSrc o.kind o.desc i
  let b := rowDst o.kind o.desc i
  let r : State × Except (BitVec 8 × Nat) (List Byte) :=
    if bdSsp o.desc = 0 then opRead s o 4 a n else (s, .ok (memReadN (s.core o.core).abuf a n))
  match r with
  | (s, .error e) => (s, some e)
  | (s, .ok bs) =>
    match bdDsp o.desc with
    | 0 => opWrite s o b bs
    | 1 => (modCore s o.core fun c => { c with abuf := memWriteN c.abuf b bs }, none)
    | _ => (modCore s o.core fun c => { c with wbuf := memWriteN c.wbuf b bs }, none)

/-- Rows in ascending order until one fails (09 R216). -/
def copyRows (fuel : Nat) (s : State) (o : EngOp) (i : Nat) : State × Option (BitVec 8 × Nat) :=
  match fuel with
  | 0 => (s, none)
  | k + 1 =>
    match copyRow s o i with
    | (s, some e) => (s, some e)
    | (s, none) => copyRows k s o (i + 1)

/-- A copy into the W-buffer waits while the reservation it writes is being cleared (11 R246). -/
def clearingHit (s : State) (o : EngOp) : Bool :=
  o.locks.any fun l => l.write && decide (l.space = 2) && (s.core o.core).resv.any fun r =>
    r.2.clearing && overlaps (r.2.off / 128) ((r.2.off + r.2.len - 1) / 128) l.lo l.hi

/-- An operation that is a bulk copy. -/
def EngKind.isCopy (k : EngKind) : Bool := match k with
  | .bcopy | .bgath | .bscat => true
  | .cbld | .sproj | .ssort | .rproj | .rwlist => false

/-- How a run of an operation ends: it waits and is run again whole (cause 0: for a page that another die fills, 08 R182, or a frame that
a checkpoint has still to copy, 20 R358), fails, or goes on. -/
def opOutcome (s0 : State) (o : EngOp) (r : State × Option (BitVec 8 × Nat)) (done : State → State) : State :=
  match r with
  | (s, none) => done s
  | (s, some (c, v)) => if c = 0 then s0 else failOp s o c v

/-- A copy from the row that it has reached. -/
def copyRun (s : State) (o : EngOp) : State × Option (BitVec 8 × Nat) := copyRows (bdRows o.desc - o.row) s o o.row

/-- The completion of an operation of some kinds: one that may run runs whole and ends; nothing changes before. -/
def unitComplete (id : Nat) (k : EngKind → Bool) (run : State → EngOp → State × Option (BitVec 8 × Nat)) (s : State) : State :=
  match s.op? id with
  | none => s
  | some o => if k o.kind && opMayRun s o then opOutcome s o (run s o) fun s => endOp s o else s

/-- COPY_COMPLETE (09 R214-R216; 11 R248): a bulk copy runs whole and ends; the read of a CBLD ends and its table waits for the
swap. Nothing while the operation may not run. -/
def execCopyComplete (id : Nat) (s : State) : Host.Outcome State Fault Refusal :=
  match s.op? id with
  | none => .next s
  | some o =>
    if clearingHit s o then .next s
    else if o.kind = .cbld then
      if !opMayRun s o then .next s
      else
        match opRead s o 6 o.descVa 1024 with
        | (x, .error e) => .next (opOutcome s o (x, some e) fun s => s)
        | (s, .ok bs) => .next (modOp s id fun o => { o with desc := bs, done := true })
    else .next (unitComplete id EngKind.isCopy copyRun s)

/-! Tag instructions (09 R217). -/

/-- The tags of a mask. -/
def tagsOf (m : DWord) : List Nat := (List.range 64).filter fun i => m.getLsbD i

/-- TGWAIT's wait is over (09 R217): every tag of every guard-true thread's mask is at zero. -/
def tgwaitOver (s : State) (ix : Issue) (w : Wd) : Bool :=
  (activeOf s ix w.ctl).all fun t => (tagsOf (srcPair s t w.b)).all fun n => decide ((tagOf s ix.cg n).count = 0)

/-- TGWAIT (09 R217): with .chk, the lowest failed tag's cause is the trap; the wait itself stands before the word issues. -/
def execTgwait (w : Wd) (chk : Bool) (s : State) : Host.Outcome State Fault Refusal :=
  actWord s w.ctl fun ix s' t =>
    match (tagsOf (srcPair s t w.b)).find? fun n => decide ((tagOf s' ix.cg n).err ≠ 0) with
    | some n => if chk then (s', some { cause := (tagOf s' ix.cg n).err, val := (tagOf s' ix.cg n).val, vahi := 0 }) else (s', none)
    | none => (s', none)

/-- The set TGANY and TGFIRST look at. -/
def tagSet (s : State) (cg : Nat) (err : Bool) (m : DWord) : List Nat :=
  (tagsOf m).filter fun n => if err then decide ((tagOf s cg n).err ≠ 0) else decide ((tagOf s cg n).count = 0)

/-- TGANY (09 R217). -/
def execTgany (w : Wd) (err : Bool) (s : State) : Host.Outcome State Fault Refusal :=
  laneWord s w.ctl 6 false fun s ix t =>
    out2 (vNum w.a) (BitVec.ofNat 64 ((tagSet s ix.cg err (srcPair s t w.b)).foldl (fun n i => n + 2 ^ i) 0)) 0

/-- TGFIRST (09 R217). -/
def execTgfirst (w : Wd) (err : Bool) (s : State) : Host.Outcome State Fault Refusal :=
  laneWord s w.ctl 6 false fun s ix t => out1 (vNum w.a) (word ((tagSet s ix.cg err (srcPair s t w.b)).headD 64)) 0

/-- TGCLR (09 R217): errors only. -/
def execTgclr (w : Wd) (s : State) : Host.Outcome State Fault Refusal :=
  stateWord s w.ctl fun ix s0 => (activeOf s0 ix w.ctl).foldl (fun s t =>
    (tagsOf (srcPair s0 t w.b)).foldl (fun s n => modTag s ix.cg n fun x => { x with err := 0 }) s) s0

end Sys2Proof.Machine
end

