-- ==== Sys2Proof/Machine/FloatOps.lean ====
section
/-! DEFINITION. Floating point (07 R158-R163), packed halves and dot products (07 R164, R165), special functions (07 R166),
conversion and packing (07 R167-R172). -/

namespace Sys2Proof.Machine

/-- An f32 source's value. -/
def val32 (s : State) (t : ThreadRef) (o : Opd) : FVal := fmt32.value (srcF32 s t o)
/-- An f64 source's value. -/
def val64 (s : State) (t : ThreadRef) (o : Opd) : FVal := fmt64.value (srcF64 s t o)

/-- An f32 word with one rounding (07 R159). -/
def f32Word (s : State) (w : Wd) (f : State → ThreadRef → FVal × Bool) : Host.Outcome State Fault Refusal :=
  laneWord s w.ctl 4 false fun s _ t =>
    let r := floatStep fmt32 (f s t)
    out1 (vNum w.a) (word r.1) r.2

/-- An f64 word: the pipe is busy for the next clk (02 R43). -/
def f64Lanes (s : State) (w : Wd) (f : State → Issue → ThreadRef → LaneOut) : Host.Outcome State Fault Refusal :=
  stateWord s w.ctl fun ix s =>
    laneResults (modPart s ix.part fun p => { p with f64Free := timeOf s ix.cg + 2 }) ix w.ctl 8 false f

/-- An f64 word with one rounding (07 R159). -/
def f64Word (s : State) (w : Wd) (f : State → ThreadRef → FVal × Bool) : Host.Outcome State Fault Refusal :=
  f64Lanes s w fun s _ t =>
    let r := floatStep fmt64 (f s t)
    out2 (vNum w.a) (BitVec.ofNat 64 r.1) r.2

/-- FADD (07 R159). -/
def execFadd (w : Wd) (s : State) : Host.Outcome State Fault Refusal := f32Word s w fun s t => addV (val32 s t w.b) (val32 s t w.c)
/-- FSUB (07 R159). -/
def execFsub (w : Wd) (s : State) : Host.Outcome State Fault Refusal := f32Word s w fun s t => addV (val32 s t w.b) (val32 s t w.c).neg
/-- FMUL (07 R159). -/
def execFmul (w : Wd) (s : State) : Host.Outcome State Fault Refusal := f32Word s w fun s t => mulV (val32 s t w.b) (val32 s t w.c)
/-- FFMA (07 R159). -/
def execFfma (w : Wd) (s : State) : Host.Outcome State Fault Refusal :=
  f32Word s w fun s t => fmaV (val32 s t w.b) (val32 s t w.c) (val32 s t w.a)
/-- FMIN (07 R160). -/
def execFmin (w : Wd) (s : State) : Host.Outcome State Fault Refusal :=
  laneWord s w.ctl 4 false fun s _ t => out1 (vNum w.a) (word (minMaxBits fmt32 false (srcF32 s t w.b) (srcF32 s t w.c))) 0
/-- FMAX (07 R160). -/
def execFmax (w : Wd) (s : State) : Host.Outcome State Fault Refusal :=
  laneWord s w.ctl 4 false fun s _ t => out1 (vNum w.a) (word (minMaxBits fmt32 true (srcF32 s t w.b) (srcF32 s t w.c))) 0
/-- FCMP (07 R161). -/
def execFcmp (w : Wd) (cmp : Cmp) (comb : Comb) (s : State) : Host.Outcome State Fault Refusal :=
  laneWord s w.ctl 4 false fun s _ t =>
    let r := cmpFloat cmp (val32 s t w.b) (val32 s t w.c)
    outP (pNum w.a) (combinePred comb (predOf s t (pNum w.a)) r.1) (flagIf r.2 flNv)
/-- FRND (07 R162). -/
def execFrnd (w : Wd) (rm : RMode) (s : State) : Host.Outcome State Fault Refusal :=
  laneWord s w.ctl 4 false fun s _ t => out1 (vNum w.a) (word (roundIntegral fmt32 rm (srcF32 s t w.b))) 0
/-- FCHK (07 R163). -/
def execFchk (w : Wd) (s : State) : Host.Outcome State Fault Refusal :=
  actWord s w.ctl fun _ s t =>
    let x := (s.thread t).ctx.fflags &&& BitVec.ofNat 6 (immNat w.c)
    (s, if x = 0 then none else some (plainTrap 0x0A x.toNat))
/-- FFLAGS (07 R163): the register changes as the word acts, and the old value goes to vd. -/
def execFflags (w : Wd) (s : State) : Host.Outcome State Fault Refusal :=
  stateWord s w.ctl fun ix s =>
    let rs := (activeOf s ix w.ctl).map fun t => (t, (s.thread t).ctx.fflags, srcWord s t w.b, srcWord s t w.c)
    rs.foldl (fun s r =>
      pushResult (modCtx s r.1 fun c => { c with fflags := fflagsStep r.2.1 r.2.2.1 r.2.2.2 }) ix w.ctl 4 false true r.1
        (out1 (vNum w.a) (word r.2.1.toNat) 0)) s

/-- DADD (07 R159). -/
def execDadd (w : Wd) (s : State) : Host.Outcome State Fault Refusal := f64Word s w fun s t => addV (val64 s t w.b) (val64 s t w.c)
/-- DMUL (07 R159). -/
def execDmul (w : Wd) (s : State) : Host.Outcome State Fault Refusal := f64Word s w fun s t => mulV (val64 s t w.b) (val64 s t w.c)
/-- DFMA (07 R159). -/
def execDfma (w : Wd) (s : State) : Host.Outcome State Fault Refusal :=
  f64Word s w fun s t => fmaV (val64 s t w.b) (val64 s t w.c) (val64 s t w.a)
/-- DMIN (07 R160). -/
def execDmin (w : Wd) (s : State) : Host.Outcome State Fault Refusal :=
  f64Lanes s w fun s _ t => out2 (vNum w.a) (BitVec.ofNat 64 (minMaxBits fmt64 false (srcF64 s t w.b) (srcF64 s t w.c))) 0
/-- DMAX (07 R160). -/
def execDmax (w : Wd) (s : State) : Host.Outcome State Fault Refusal :=
  f64Lanes s w fun s _ t => out2 (vNum w.a) (BitVec.ofNat 64 (minMaxBits fmt64 true (srcF64 s t w.b) (srcF64 s t w.c))) 0
/-- DCMP (07 R161). -/
def execDcmp (w : Wd) (cmp : Cmp) (comb : Comb) (s : State) : Host.Outcome State Fault Refusal :=
  f64Lanes s w fun s _ t =>
    let r := cmpFloat cmp (val64 s t w.b) (val64 s t w.c)
    outP (pNum w.a) (combinePred comb (predOf s t (pNum w.a)) r.1) (flagIf r.2 flNv)
/-- DRND (07 R162). -/
def execDrnd (w : Wd) (rm : RMode) (s : State) : Host.Outcome State Fault Refusal :=
  f64Lanes s w fun s _ t => out2 (vNum w.a) (BitVec.ofNat 64 (roundIntegral fmt64 rm (srcF64 s t w.b))) 0

/-! Packed halves. -/

/-- Element 0 or 1 of a packed source. -/
def half (x i : Nat) : Nat := x / 65536 ^ i % 65536

/-- A packed word: one function of the two elements (07 R165). -/
def packedWord (s : State) (w : Wd) (f : Nat → Nat → Nat → Nat × BitVec 6) : Host.Outcome State Fault Refusal :=
  laneWord s w.ctl 4 false fun s _ t =>
    let b := srcPacked s t w.b
    let c := srcPacked s t w.c
    let a := srcPacked s t w.a
    let r := packTwo (f (half b 0) (half c 0) (half a 0)) (f (half b 1) (half c 1) (half a 1))
    out1 (vNum w.a) (word r.1) r.2

/-- HADD2 (07 R165). -/
def execHadd2 (w : Wd) (ty : Ty) (s : State) : Host.Outcome State Fault Refusal :=
  packedWord s w fun b c _ => floatStep (fmtOf ty) (addV ((fmtOf ty).value b) ((fmtOf ty).value c))
/-- HMUL2 (07 R165). -/
def execHmul2 (w : Wd) (ty : Ty) (s : State) : Host.Outcome State Fault Refusal :=
  packedWord s w fun b c _ => floatStep (fmtOf ty) (mulV ((fmtOf ty).value b) ((fmtOf ty).value c))
/-- HFMA2 (07 R165). -/
def execHfma2 (w : Wd) (ty : Ty) (s : State) : Host.Outcome State Fault Refusal :=
  packedWord s w fun b c a => floatStep (fmtOf ty) (fmaV ((fmtOf ty).value b) ((fmtOf ty).value c) ((fmtOf ty).value a))
/-- HMIN2 (07 R165). -/
def execHmin2 (w : Wd) (ty : Ty) (s : State) : Host.Outcome State Fault Refusal :=
  packedWord s w fun b c _ => (minMaxBits (fmtOf ty) false b c, 0)
/-- HMAX2 (07 R165). -/
def execHmax2 (w : Wd) (ty : Ty) (s : State) : Host.Outcome State Fault Refusal :=
  packedWord s w fun b c _ => (minMaxBits (fmtOf ty) true b c, 0)
/-- The exact dot product of HDOT2 (03 R67). -/
def dot2 (k : FFmt) (b c : Nat) (a : FVal) : FVal × Bool :=
  let p0 := mulV (k.value (half b 0)) (k.value (half c 0))
  let p1 := mulV (k.value (half b 1)) (k.value (half c 1))
  let r := sumV [p0.1, p1.1, a]
  (r.1, p0.2 || p1.2 || r.2)
/-- HDOT2 (07 R165). -/
def execHdot2 (w : Wd) (ty : Ty) (s : State) : Host.Outcome State Fault Refusal :=
  laneWord s w.ctl 6 false fun s _ t =>
    let r := floatStep fmt32 (dot2 (fmtOf ty) (srcPacked s t w.b) (srcPacked s t w.c) (fmt32.value (srcWord s t w.a).toNat))
    out1 (vNum w.a) (word r.1) r.2

/-- Byte `j` of a word as an i8 or n8. -/
def byteInt (signed : Bool) (x : Word) (j : Nat) : Int :=
  let b := x.toNat / 256 ^ j % 256
  if signed && decide (128 ≤ b) then (b : Int) - 256 else b

/-- IDOT4 (07 R165). -/
def execIdot4 (w : Wd) (ty : Ty) (sat : Bool) (s : State) : Host.Outcome State Fault Refusal :=
  laneWord s w.ctl 6 false fun s _ t =>
    let b := srcWord s t w.b
    let c := srcWord s t w.c
    let sg := ty.isSigned
    let acc : Ty := if sg then .i32 else .n32
    let x := (List.range 4).foldl (fun n j => n + byteInt sg b j * byteInt sg c j) (srcInt s t acc w.a)
    let r := intStep acc sat x
    out1 (vNum w.a) (r.1.truncate 32) r.2

/-! Special functions: variable latency. -/

/-- A special function of f32 or f64 (07 R166). -/
def specialWord (s : State) (w : Wd) (ty : Ty) (f : FFmt → Nat → Nat × BitVec 6) : Host.Outcome State Fault Refusal :=
  laneWord s w.ctl 0 true fun s _ t =>
    if ty.is64 then
      let r := f fmt64 (srcF64 s t w.b)
      out2 (vNum w.a) (BitVec.ofNat 64 r.1) r.2
    else
      let r := f fmt32 (srcF32 s t w.b)
      out1 (vNum w.a) (word r.1) r.2

/-- RCP (03 R68). -/
def execRcp (w : Wd) (ty : Ty) (s : State) : Host.Outcome State Fault Refusal := specialWord s w ty fun k x => rcpBits k (k.value x)
/-- RSQ (03 R68). -/
def execRsq (w : Wd) (ty : Ty) (s : State) : Host.Outcome State Fault Refusal := specialWord s w ty fun k x => rsqBits k (k.value x)
/-- SQRT (03 R68). -/
def execSqrt (w : Wd) (ty : Ty) (s : State) : Host.Outcome State Fault Refusal := specialWord s w ty fun k x => sqrtBits k (k.value x)
/-- EXP2 (03 R69). -/
def execExp2 (w : Wd) (s : State) : Host.Outcome State Fault Refusal := specialWord s w .f32 fun _ x => exp2Bits x
/-- LOG2 (03 R70). -/
def execLog2 (w : Wd) (s : State) : Host.Outcome State Fault Refusal := specialWord s w .f32 fun _ x => log2Bits x
/-- SIN (03 R71). -/
def execSin (w : Wd) (s : State) : Host.Outcome State Fault Refusal := specialWord s w .f32 fun _ x => sinCosBits false x
/-- COS (03 R71). -/
def execCos (w : Wd) (s : State) : Host.Outcome State Fault Refusal := specialWord s w .f32 fun _ x => sinCosBits true x
/-- TANH (03 R72). -/
def execTanh (w : Wd) (s : State) : Host.Outcome State Fault Refusal := specialWord s w .f32 fun _ x => tanhBits x

/-! Conversion. -/

/-- A float or se8 source's value by its type (07 R168, 03 R50). -/
def cvtValue (s : State) (t : ThreadRef) (sty : Ty) (o : Opd) : FVal :=
  match sty with
  | .f64 => val64 s t o
  | .f32 => val32 s t o
  | .se8 => se8Value (srcWord s t o).toNat
  | ty => (fmtOf ty).value (srcNarrow s t ty.bits o)

/-- An integer source of any width, as its integer (03 R50). -/
def cvtInt (s : State) (t : ThreadRef) (sty : Ty) (o : Opd) : Int :=
  if sty.is64 then srcInt s t sty o else (wrapBits sty ((srcWord s t o).toNat : Int)).toInt

/-- CVT of one thread (07 R168): result pattern and flags. -/
def cvtLane (s : State) (t : ThreadRef) (ty sty : Ty) (sat : Bool) (o : Opd) : DWord × BitVec 6 :=
  let fromFloat : Bool := sty.isFloat || decide (sty = .se8)
  if ty.isFloat then
    let v := if fromFloat then cvtValue s t sty o else intValue (cvtInt s t sty o)
    let r := (fmtOf ty).roundTie sat none v
    (BitVec.ofNat 64 r.1, r.2)
  else if fromFloat then
    let r := floatToInt ty (cvtValue s t sty o)
    (wrapBits ty r.1, r.2)
  else intStep ty sat (cvtInt s t sty o)

/-- CVT (07 R168). -/
def execCvt (w : Wd) (ty sty : Ty) (sat : Bool) (s : State) : Host.Outcome State Fault Refusal :=
  laneWord s w.ctl 4 false fun s _ t =>
    let r := cvtLane s t ty sty sat w.b
    outTy ty (vNum w.a) r.1 r.2

/-- Site and occurrence of CVTS (07 R169). -/
def cvtsKey (s : State) (t : ThreadRef) (o : Opd) : Nat × Nat :=
  match o with
  | .imm x => (x.toNat / 128, x.toNat % 128)
  | o => (bitsOf (srcWord s t o).toNat 31 20, bitsOf (srcWord s t o).toNat 19 8)

/-- CVTS (03 R60, 07 R169): one draw per guard-true thread, whose bit 31 decides a tie. -/
def execCvts (w : Wd) (ty : Ty) (sat : Bool) (s : State) : Host.Outcome State Fault Refusal :=
  actWord s w.ctl fun ix s t =>
    let v := val32 s t w.b
    let k := cvtsKey s t w.c
    match draw s t k.1 k.2 with
    | (s, .error x) => (s, some x)
    | (s, .ok x) =>
      let r := (fmtOf ty).roundTie sat (some (x.getLsbD 31)) v
      (pushResult s ix w.ctl 0 true true t (out1 (vNum w.a) (word r.1) r.2), none)

/-- One byte of PACK8 (07 R170). -/
def packByte (s : State) (t : ThreadRef) (ty : Ty) (sat : Bool) (o : Opd) : Nat × BitVec 6 :=
  if ty.isFloat then (fmtOf ty).roundTie sat none (val32 s t o)
  else
    let r := intStep ty sat (srcInt s t .i32 o)
    (r.1.toNat % 256, r.2)

/-- PACK8 (07 R170). -/
def execPack8 (w : Wd) (ty : Ty) (sat hi : Bool) (s : State) : Host.Outcome State Fault Refusal :=
  laneWord s w.ctl 4 false fun s _ t =>
    let b := packByte s t ty sat w.b
    let c := packByte s t ty sat w.c
    let old := (srcWord s t w.a).toNat
    let x := b.1 + c.1 * 256
    out1 (vNum w.a) (word (if hi then old % 65536 + x * 65536 else old / 65536 * 65536 + x)) (b.2 ||| c.2)

/-- UNPACK8 (07 R170). -/
def execUnpack8 (w : Wd) (ty : Ty) (s : State) : Host.Outcome State Fault Refusal :=
  laneWord s w.ctl 4 false fun s _ t =>
    let b := (srcWord s t w.b).toNat / 256 ^ immNat w.c % 256
    out1 (vNum w.a) (if ty.isFloat then word (fmt32.round ((fmtOf ty).value b)).1 else (wrapBits ty (b : Int)).truncate 32) 0

/-- The default codebook entry (03 R63). -/
def defaultCodebook (e : Nat) : Word :=
  word ((List.range 8).foldl (fun n j =>
    n + (bnat (bitAt e j) + 2 * bnat (bitAt e ((j + 3) % 8) && bitAt e ((j + 5) % 8))) * 16 ^ j) 0)

/-- The decoder integers of an lq2 index (03 R62). -/
def lq2Ints (book : Nat → Word) (x : Nat) : List Int :=
  let entry := (book (x / 256 % 256)).toNat
  let c := x % 2
  let sg (j : Nat) : Bool := bitAt x (j + 1)
  let odd := ((List.range 7).filter sg).length % 2 = 1
  (List.range 8).map fun j =>
    let m : Int := (2 * (entry / 16 ^ j % 16) + c : Nat)
    if (if j = 7 then decide odd else sg j) then -m else m

/-- A core group's codebook (11 R248). -/
def bookOf (s : State) (cg : Nat) (e : Nat) : Word := tget (s.cg cg).codebook e (defaultCodebook e)

/-- CBDEC (07 R171). -/
def execCbdec (w : Wd) (s : State) : Host.Outcome State Fault Refusal :=
  laneWord s w.ctl 6 false fun s ix t =>
    let l := lq2Ints (bookOf s ix.cg) ((srcWord s t w.b).toNat % 65536)
    out2 (vNum w.a) (BitVec.ofNat 64 (natOfBytes (l.map fun n => BitVec.ofInt 8 n))) 0

/-- SCALE (07 R172). -/
def execScale (w : Wd) (s : State) : Host.Outcome State Fault Refusal :=
  f32Word s w fun s t => ((mulV (val32 s t w.b) (se8Value (srcWord s t w.c).toNat)).1, false)

end Sys2Proof.Machine
end

