-- ==== Sys2Proof/Machine/Matrix.lean ====
section
/-! DEFINITION. The matrix engine's instructions and operations (11 R237-R257). -/

namespace Sys2Proof.Machine

/-! Owning the engine, gangs. -/

/-- A word after which its group may have to wait in place (11 R238, R239, R241): spent, then held. -/
def holdAfter (s0 s : State) (ix : Issue) (c : Ctl) (h : Hold) : State :=
  modGroup (spendSlot (acceptFlagsAs true s0 s ix c) ix c) ix.part ix.pos fun g => { g with hold := h }

/-- MACQ (11 R241): the group waits until its gang owns the engine. -/
def execMacq (w : Wd) (s : State) : Host.Outcome State Fault Refusal :=
  match s.issue with
  | none => .next s
  | some ix =>
    if (activeOf s ix w.ctl).isEmpty then .next (retire s ix w.ctl)
    else
      let s := requestEngine s ix.pg
      if ownsEngine s ix.pg && decide ((engOf s ix.pg).readyAt ≤ timeOf s ix.cg) then
        .next (retire (acceptFlags s s ix w.ctl) ix w.ctl)
      else .next (holdAfter s s ix w.ctl .own)

/-- Give up the engine, or withdraw from its queue (11 R242). -/
def letGo (s : State) (pg : Nat) : State :=
  if ownsEngine s pg then releaseEngine s (s.pg pg).core
  else modEng s (s.pg pg).core fun e => { e with queue := e.queue.filter fun o => !o.has (cgOfPg pg) (s.pg pg).pgid }

/-- MREL (11 R242); it is held while an operation of the gang is not complete. -/
def execMrel (w : Wd) (s : State) : Host.Outcome State Fault Refusal :=
  stateWord s w.ctl fun ix s => if (activeOf s ix w.ctl).isEmpty then s else letGo s ix.pg

/-- A GANG mask that R238 calls malformed. -/
def gangBad (s : State) (ix : Issue) (m : Word) : Bool :=
  let bits := (List.range 6).filter fun i => m.getLsbD i
  decide (m ≠ 0) && (decide (64 ≤ m.toNat) || decide (bits.length < 2) || bits.any (fun b => decide ((s.launch ix.lid).lr.npg ≤ b))
    || !bits.contains (s.pg ix.pg).pgid)

/-- What GANG does with its mask (11 R238). -/
inductive GangStep where
  | trap
  | nothing
  | alone
  | ask
deriving DecidableEq, Repr

def gangStep (s : State) (ix : Issue) (m : Word) : GangStep :=
  let g := s.cg ix.cg
  let mine := sortBy id (gangMembers g (s.pg ix.pg).pgid)
  let bits := (List.range 6).filter fun i => m.getLsbD i
  if gangBad s ix m then .trap
  else if m ≠ 0 ∧ mine = bits then .nothing
  else if m ≠ 0 ∧ (ownsEngine s ix.pg || waitsEngine s ix.pg) then .trap
  else if g.gangAsk.any fun a => decide (a.2 ≠ m) && decide (a.2 &&& m ≠ 0) then .trap
  else if m = 0 ∧ mine.length < 2 then .alone
  else .ask

/-- GANG (11 R238): the mask of the lowest guard-true thread; it is held while the current gang has an operation in flight. -/
def execGang (w : Wd) (s : State) : Host.Outcome State Fault Refusal :=
  match s.issue with
  | none => .next s
  | some ix =>
    match activeOf s ix w.ctl with
    | [] => .next (retire s ix w.ctl)
    | t :: rest =>
      let m := srcWord s t w.b
      match gangStep s ix m with
      | .trap => .next (retire ((t :: rest).foldl (fun s u => trapAt s ix u.tid { cause := 0x10, val := m, vahi := 0 }) s) ix w.ctl)
      | .nothing => .next (retire (acceptFlags s s ix w.ctl) ix w.ctl)
      | .alone => .next (retire (acceptFlags s (letGo s ix.pg) ix w.ctl) ix w.ctl)
      | .ask =>
        let pgid := (s.pg ix.pg).pgid
        let now := timeOf s ix.cg
        let s := settleGangs (modCg s ix.cg fun g =>
          { g with gangAsk := g.gangAsk.filter (fun a => a.1 != pgid) ++ [(pgid, m)], gangAt := tput g.gangAt pgid now }) ix.cg
        if (s.cg ix.cg).gangAsk.any fun a => a.1 = pgid then .next (holdAfter s s ix w.ctl .gang)
        else .next (retire (acceptFlags s s ix w.ctl) ix w.ctl)

/-! Reservations (11 R244-R247). -/

/-- `rs` fields. -/
def resvOf (cg : Nat) (d : List Byte) : Resv :=
  let f := fieldAt d 8 4
  { cg := cg, off := fieldAt d 0 4 % 2 ^ 20, len := fieldAt d 4 4 % 2 ^ 21, fmt := f % 16, blk := f / 16 % 4, sfmt := f / 64 % 2,
    scale := fieldAt d 12 4 % 2 ^ 20, npan := fieldAt d 16 4 % 2 ^ 16, clearing := true }

/-- A reserved bit of the descriptor is set. -/
def resvReserved (d : List Byte) : Bool :=
  decide (2 ^ 20 ≤ fieldAt d 0 4) || decide (2 ^ 21 ≤ fieldAt d 4 4) || decide (2 ^ 7 ≤ fieldAt d 8 4)
    || decide (2 ^ 20 ≤ fieldAt d 12 4) || decide (2 ^ 16 ≤ fieldAt d 16 4) || decide (fieldAt d 20 12 ≠ 0)

/-- `rs.fmt` is listed and agrees with `rs.blk` (11 R246). -/
def resvFormatOk (r : Resv) : Bool :=
  match r.fmt with
  | 6 | 10 | 11 => decide (r.blk = 0)
  | 12 | 13 => true
  | 14 => decide (r.blk ≠ 0)
  | _ => false

/-- Two byte ranges overlap; an empty one overlaps nothing. -/
def rangesMeet (a n b m : Nat) : Bool := decide (0 < n) && decide (0 < m) && decide (a < b + m) && decide (b < a + n)

/-- `rv.code` of a descriptor (11 R246), and the number made. -/
def resvCode (c : Core) (r : Resv) (reserved : Bool) : Nat × Nat :=
  let panels := r.npan * panelBytes r.fmt
  let scales := r.npan * scaleBytes r
  if reserved || !resvFormatOk r then (4, 0)
  else if r.off % 4096 ≠ 0 ∨ r.len % 4096 ≠ 0 ∨ r.len = 0 ∨ Config.wbufSize < r.len ∨ (r.blk ≠ 0 ∧ r.scale % 128 ≠ 0)
      ∨ Config.wbufSize < r.off + r.len then (3, 0)
  else if r.npan = 0 ∨ r.len < panels ∨ (r.blk ≠ 0 ∧ (r.scale < r.off ∨ r.off + r.len < r.scale + scales
      ∨ rangesMeet r.off panels r.scale scales)) then (4, 0)
  else if c.resv.any fun x => rangesMeet r.off r.len x.2.off x.2.len then (2, 0)
  else
    match firstFree 16 fun n => (tget? c.resv n).isNone with
    | some n => (0, n)
    | none => (1, 0)

/-- RESV (11 R244, R246). -/
def execResv (w : Wd) (s : State) : Host.Outcome State Fault Refusal :=
  actWord s w.ctl fun ix s' t =>
    match readDescAcq s' t (effAddr s t w.b w.c) 32 32 with
    | (s, .error e) => (s, some e)
    | (s, .ok d) =>
      let r := resvOf ix.cg d
      let k := resvCode (s.core ix.core) r (resvReserved d)
      let s := if k.1 = 0 then modCore s ix.core fun c => { c with resv := tput c.resv k.2 r } else s
      (pushResult s ix w.ctl 32 false true t (out1 (vNum w.a) (word (if k.1 = 0 then k.2 else 2 ^ 31 + k.1 * 2 ^ 24)) 0), none)

/-- RESERVATION_CLEAR_COMPLETE (11 R246). -/
def execReservationClearComplete (core num : Nat) (s : State) : Host.Outcome State Fault Refusal :=
  match tget? (s.core core).resv num with
  | none => .next s
  | some r =>
    if r.clearing then .next (modCore s core fun c => { c with wbuf := memClear c.wbuf r.off r.len,
                                                               resv := tput c.resv num { r with clearing := false } })
    else .next s

/-- RFREE need not wait for a number (11 R247): no accepted matrix operation names it, no copy writes into its range. -/
def rfreeReady (s : State) (core num : Nat) : Bool :=
  match tget? (s.core core).resv num with
  | none => true
  | some r =>
    !((s.core core).eng.ops.any fun o => o.accepted && match o.kind with
      | .mma _ _ sel => decide (selRes sel = num)
      | .mmas _ _ _ sel => decide (selRes sel = num)
      | .zero | .drain _ | .fill _ => false)
    && !(s.w.ops.any fun o => decide (o.core = core) && o.locks.any fun l => l.write && decide (l.space = 2)
      && overlaps l.lo l.hi (r.off / 128) ((r.off + r.len - 1) / 128))

/-- RFREE (11 R247). -/
def execRfree (w : Wd) (s : State) : Host.Outcome State Fault Refusal :=
  actWord s w.ctl fun ix s' t =>
    let n := (srcWord s t w.b).toNat % 16
    match tget? (s'.core ix.core).resv n with
    | some r => if r.cg = ix.cg then (modCore s' ix.core fun c => { c with resv := tdel c.resv n }, none)
                else (s', some (plainTrap 0x09 n))
    | none => (s', some (plainTrap 0x09 n))

/-! Codebooks (11 R248). -/

/-- CBLD (11 R248): a misaligned address is the tag's error. -/
def execCbld (w : Wd) (s : State) : Host.Outcome State Fault Refusal :=
  engineWord s w.ctl fun ix s' t =>
    let tag := resNum (s.launch ix.lid).lr w.a
    let va := effAddr s t w.b w.c
    if va % 1024 ≠ 0 then (tagFail s' ix.cg tag 0x05 va, none)
    else
      let (o, s') := newOp s' ix t .cbld tag [] va
      let l : RLock := { write := false, space := 0, slot := (s.cg ix.cg).slot, eng := 0, id := tag, lo := va / 128,
                         hi := (va + 1023) / 128, owner := o.id }
      let waits := ((s'.core ix.core).eng.ops.filter fun x => x.accepted && decide (x.gang.cg = ix.cg)).map fun x => x.id
      (offerEngOp s' { o with locks := [l], waits := waits }, none)

/-- CODEBOOK_SWAP (11 R248): the table takes force once its read and the operations accepted before it are complete. -/
def execCodebookSwap (id : Nat) (s : State) : Host.Outcome State Fault Refusal :=
  match s.op? id with
  | none => .next s
  | some o =>
    if o.kind = .cbld ∧ o.done ∧ !((s.core o.core).eng.ops.any fun x => o.waits.contains x.id) then
      let s := modCg s o.cg fun g => { g with codebook := (List.range 256).map fun e => (e, word (fieldAt o.desc (4 * e) 4)) }
      .next (endOp s o)
    else .next s

/-! Joint instructions (11 R239). -/

/-- A joint word: the lowest guard-true thread's operands arrive at the latch; the group waits for the acceptance. -/
def jointWord (s : State) (c : Ctl) (f : Issue → ThreadRef → MatKind × BitVec 16) : Host.Outcome State Fault Refusal :=
  match s.issue with
  | none => .next s
  | some ix =>
    match activeOf s ix c with
    | [] => .next (retire s ix c)
    | t :: _ =>
      let k := f ix t
      let s := modPg s ix.pg fun g => { g with joints := g.joints + 1 }
      .next (holdAfter s (arriveLatch s ix.pg ix.pos t.tid (siteOf ix) k.1 k.2) ix c .joint)

/-- The mask of one tile. -/
def tileMask (q : Nat) : BitVec 16 := BitVec.ofNat 16 (2 ^ q)

/-- MMA (11 R249-R251). -/
def execMma (w : Wd) (aty : Ty) (s : State) : Host.Outcome State Fault Refusal :=
  jointWord s w.ctl fun ix t => (.mma aty (srcWord s t w.b) (srcWord s t w.c), tileMask (resNum (s.launch ix.lid).lr w.a))

/-- MMAS (11 R249-R251): the odd register of B holds the A scales' offset. -/
def execMmas (w : Wd) (aty : Ty) (s : State) : Host.Outcome State Fault Refusal :=
  jointWord s w.ctl fun ix t =>
    let b := srcPair s t w.b
    (.mmas aty (b.extractLsb' 0 32) (b.extractLsb' 32 32) (srcWord s t w.c), tileMask (resNum (s.launch ix.lid).lr w.a))

/-- MZERO (11 R254). -/
def execMzero (w : Wd) (s : State) : Host.Outcome State Fault Refusal :=
  jointWord s w.ctl fun _ t => (.zero, (srcWord s t w.b).truncate 16)

/-- MDRAIN (11 R254). -/
def execMdrain (w : Wd) (s : State) : Host.Outcome State Fault Refusal :=
  jointWord s w.ctl fun ix t => (.drain (effAddr s t w.b w.c), tileMask (resNum (s.launch ix.lid).lr w.a))

/-- MFILL (11 R254). -/
def execMfill (w : Wd) (s : State) : Host.Outcome State Fault Refusal :=
  jointWord s w.ctl fun ix t => (.fill (effAddr s t w.b w.c), tileMask (resNum (s.launch ix.lid).lr w.a))

/-- A hold after MACQ, GANG, a joint word, REDOBJ or an engine word is over. -/
def holdOver (s : State) (part pos : Nat) (g : Group) : Bool :=
  let cg := cgOfPg g.pg
  let pgid := (s.pg g.pg).pgid
  match g.hold with
  | .free => true
  | .own => ownsEngine s g.pg && decide ((engOf s g.pg).readyAt ≤ timeOf s cg)
  | .gang => !((s.cg cg).gangAsk.any fun a => a.1 = pgid)
  | .joint => !((s.cg cg).latch.any fun x => decide (x.pgid = pgid) && decide (x.pos = pos))
      && !((s.core (coreOfPart part)).eng.ops.any fun o => !o.accepted && decide (o.gang.cg = cg) && o.waiters.contains (pgid, pos))
  | .joined => !((s.cg cg).latch.any fun x => decide (x.pgid = pgid))
      && !((s.core (coreOfPart part)).eng.ops.any fun o => !o.accepted && decide (o.gang.cg = cg) && o.waiters.any fun x => decide (x.1 = pgid))
  | .result => !(s.w.pends.any fun p => p.holds && decide (p.th.pg = g.pg) && g.tids.contains p.th.tid)
  | .locks => !waitsLocks s g.pg g.tids
  | .ladle => !((s.core (coreOfPart part)).ladleQ.any fun o => decide (o.th.pg = g.pg) && g.tids.contains o.th.tid)

/-- MWAIT need not wait (11 R255, R257): no operation of the gang that names a tile of a guard-true thread's mask is in flight. -/
def mwaitOver (s : State) (ix : Issue) (w : Wd) : Bool :=
  let e := engOf s ix.pg
  let mine (o : MatOp) : Bool := decide (o.gang.cg = ix.cg) && o.gang.members.contains (s.pg ix.pg).pgid
  (activeOf s ix w.ctl).all fun t =>
    let m : BitVec 16 := (srcWord s t w.b).truncate 16
    !(e.ops.any fun o => o.accepted && mine o && decide (o.tiles &&& m ≠ 0) && (!engFrozen e || o.kind.drainPort || o.due.isSome))

/-- MWAIT (11 R255): the trap of the lowest failed tile, or the word of `ts.nv` and `ts.of`. -/
def execMwait (w : Wd) (s : State) : Host.Outcome State Fault Refusal :=
  actWord s w.ctl fun ix s' t =>
    let qs := tilesOf ((srcWord s t w.b).truncate 16)
    match qs.find? fun q => decide ((tileOf s ix.core q).cause ≠ 0) with
    | some q =>
      let x := tileOf s ix.core q
      (s', some (plainTrap 0x0E (q * 2 ^ 28 + x.cause.toNat * 2 ^ 20 + x.val.toNat)))
    | none =>
      let v := qs.foldl (fun n q => n + bnat (tileOf s ix.core q).nv * 2 ^ q + bnat (tileOf s ix.core q).ovf * 2 ^ (16 + q)) 0
      (pushResult s' ix w.ctl 32 false true t (out1 (vNum w.a) (word v) 0), none)

/-- The armed decrements of a tile (11 R256). -/
def armedOn (s : State) (core q : Nat) : Nat := ((s.core core).eng.armed.filter fun a => a.tile = q).length

/-- MDEP need not wait (11 R256): a tile holds up to four armed decrements. -/
def mdepReady (s : State) (ix : Issue) (w : Wd) : Bool := decide (armedOn s ix.core (resNum (s.launch ix.lid).lr w.a) < 4)

/-- One thread's MDEP (11 R256): its counter follows 05 R104, as DCDEC's does; false when the tile holds four armed decrements. -/
def mdepLane (s0 : State) (ix : Issue) (w : Wd) (s : State) (t : ThreadRef) : State × Bool :=
  let q := resNum (s.launch ix.lid).lr w.a
  match counterOf s0 ix t w.b with
  | .error e => (trapAt s ix t.tid e, true)
  | .ok c =>
    if 4 ≤ armedOn s ix.core q then (s, false)
    else
      let ops := ((engOf s ix.pg).ops.filter fun o => o.accepted && decide (o.tiles &&& tileMask q ≠ 0)).map fun o => o.id
      (fireArmed (modEng s ix.core fun e => { e with armed := e.armed ++ [{ tile := q, counter := c, cg := ix.cg, ops := ops }] }) ix.core,
       true)

/-- MDEP (11 R256): one armed decrement for each guard-true thread; a fifth of a tile holds the group, whose threads that have armed
theirs do not arm again. -/
def execMdep (w : Wd) (s : State) : Host.Outcome State Fault Refusal :=
  match s.issue with
  | none => .next s
  | some ix =>
    let did := (s.group ix.part ix.pos).did
    let r := ((activeOf s ix w.ctl).filter fun t => !did.contains t.tid).foldl (fun (acc : State × List Nat × Bool) t =>
      if acc.2.2 then acc
      else match mdepLane s ix w acc.1 t with
        | (s, true) => (s, acc.2.1 ++ [t.tid], false)
        | (s, false) => (s, acc.2.1, true)) (s, did, false)
    .next (if r.2.2 then holdWord (modGroup r.1 ix.part ix.pos fun g => { g with did := r.2.1 }) ix .unit
           else retire (acceptFlags s r.1 ix w.ctl) ix w.ctl)

/-! The arithmetic of an operation (03 R61-R66, 11 R249-R253). -/

/-- Bytes of an element of a `rs.fmt` or A type: 2 for the 16-bit ones. -/
def elemBytes (ty : Ty) : Nat := if ty.bits = 16 then 2 else 1

/-- The type a `rs.fmt` code names. -/
def fmtTy (n : Nat) : Ty := (Ty.ofCode (BitVec.ofNat 4 n)).getD .bf16

/-- The pairings of 11 R249. -/
def pairingOk (scaled : Bool) (aty : Ty) (r : Resv) : Bool :=
  let f8 (t : Ty) : Bool := decide (t = .f8e4) || decide (t = .f8e5)
  let b := fmtTy r.fmt
  if scaled then f8 aty && (f8 b || decide (b = .lq2)) && decide (r.blk ≠ 0)
  else decide (r.blk = 0) && ((decide (aty = b) && (decide (aty = .bf16) || decide (aty = .f16) || decide (aty = .i8)))
    || (f8 aty && f8 b))

/-- The operands of a compute operation: A type, A offset, A scale offset, selector, whether scaled. -/
def MatKind.compute? (k : MatKind) : Option (Ty × Nat × Nat × Word × Bool) :=
  match k with
  | .mma t a sel => some (t, a.toNat, 0, sel, false)
  | .mmas t a sc sel => some (t, a.toNat, sc.toNat, sel, true)
  | .zero | .drain _ | .fill _ => none

/-- The checks of 11 R252: cause and value. -/
def checkCompute (s : State) (o : MatOp) (ty : Ty) (a sc : Nat) (sel : Word) (scaled : Bool) : Option (BitVec 8 × Nat) :=
  let low := sel.toNat % 2 ^ 20
  match tget? (s.core o.core).resv (selRes sel) with
  | none => some (0x01, low)
  | some r =>
    let n := blocksOf r.blk * 128
    let size := Config.abufSize (s.core o.core).carve
    if r.cg ≠ o.gang.cg ∨ r.npan ≤ selPanel sel ∨ bitsOf sel.toNat 27 16 ≠ 0 ∨ !pairingOk scaled ty r then some (0x01, low)
    else if a % 128 ≠ 0 then some (0x05, a)
    else if scaled ∧ sc % 16 ≠ 0 then some (0x05, sc)
    else if size < a + 16384 ∨ inOthersRange s o.core o.gang.cg a 16384 then some (0x09, a)
    else if scaled ∧ (size < sc + n ∨ inOthersRange s o.core o.gang.cg sc n) then some (0x09, sc)
    else none

/-- A bf16 scale must be finite and nonzero; any other makes what it scales NaN (03 R64). se8 is 03 R61. -/
def scaleValue (sfmt x : Nat) : FVal :=
  if sfmt = 0 then se8Value x
  else
    let v := (fmtOf .bf16).value x
    if v.isNan || v.isInf || v.isZero then .nan else v

/-- Everything one operation reads. -/
structure MatIn where
  aty : Ty
  bty : Ty
  k : Nat
  blk : Nat
  a : Memory
  aoff : Nat
  asc : Nat
  b : Memory
  boff : Nat
  bsc : Nat
  sfmt : Nat
  scaled : Bool
  book : Nat → Word

/-- Element A(i, k) and B(k, j) as patterns (11 R245, R250), and B's value. -/
def MatIn.aBits (p : MatIn) (i k : Nat) : Nat :=
  memNat p.a (p.aoff + (i * p.k + k) * elemBytes p.aty) (elemBytes p.aty)
def MatIn.bBits (p : MatIn) (k j : Nat) : Nat :=
  memNat p.b (p.boff + (p.k * j + k) * elemBytes p.bty) (elemBytes p.bty)
def MatIn.bValue (p : MatIn) (k j : Nat) : FVal :=
  if p.bty = .lq2 then
    intValue ((lq2Ints p.book (memNat p.b (p.boff + 2 * (16 * j + k / 8)) 2)).getD (k % 8) 0)
  else (fmtOf p.bty).value (p.bBits k j)

/-- Block of K index `k`; the scales of (row, block) and (block, column). -/
def MatIn.blockLen (p : MatIn) : Nat := 128 / blocksOf p.blk
def MatIn.saBits (p : MatIn) (i b : Nat) : Nat := memNat p.a (p.asc + blocksOf p.blk * i + b) 1
def MatIn.sbBits (p : MatIn) (b j : Nat) : Nat :=
  let z := if p.sfmt = 0 then 1 else 2
  memNat p.b (p.bsc + (b * 128 + j) * z) z

/-- rne(exact sum of products, f32) (03 R65). -/
def groupSum (ps : List FVal) : FVal := fmt32.value (fmt32.round (sumV ps).1).1
/-- rne(a + b, f32) as a value. -/
def addF32 (a b : FVal) : FVal := fmt32.value (fmt32.round (addV a b).1).1

/-- A group's sum of 16 consecutive k from `k0`. -/
def MatIn.group (p : MatIn) (i j k0 : Nat) (sa : Option FVal) : FVal :=
  groupSum ((List.range 16).map fun d =>
    let a := (fmtOf p.aty).value (p.aBits i (k0 + d))
    let a := match sa with
      | some x => (mulV x a).1
      | none => a
    (mulV a (p.bValue (k0 + d) j)).1)

/-- One float element (03 R65). -/
def MatIn.element (p : MatIn) (i j : Nat) (acc : Word) : Word :=
  let r : FVal :=
    if p.scaled then
      (List.range (blocksOf p.blk)).foldl (fun acc b =>
        let sa := se8Value (p.saBits i b)
        let sb := scaleV (scaleValue p.sfmt (p.sbBits b j)) (if p.bty = .lq2 then -1 else 0)
        let sum := (List.range (p.blockLen / 16)).foldl (fun x g => addF32 x (p.group i j (b * p.blockLen + 16 * g) (some sa)))
          (.fin false 0 0)
        addF32 acc (fmt32.value (fmt32.round (mulV sum sb).1).1)) (fmt32.value acc.toNat)
    else (List.range (p.k / 16)).foldl (fun x g => addF32 x (p.group i j (16 * g) none)) (fmt32.value acc.toNat)
  word (fmt32.round r).1

/-- One i8 element (03 R66). -/
def MatIn.intElement (p : MatIn) (i j : Nat) (acc : Word) : Word :=
  let sg (x : Nat) : Int := if x < 128 then x else (x : Int) - 256
  acc + BitVec.ofInt 32 ((List.range p.k).foldl (fun n k => n + sg (p.aBits i k) * sg (p.bBits k j)) (0 : Int))

/-- Whether an operand of an element meets a test (11 R253). -/
def MatIn.anyInput (p : MatIn) (i j : Nat) (acc : Word) (f : FVal → Bool) : Bool :=
  f (fmt32.value acc.toNat) || (List.range p.k).any (fun k => f ((fmtOf p.aty).value (p.aBits i k)) || f (p.bValue k j))
    || (p.scaled && (List.range (blocksOf p.blk)).any fun b =>
      f (se8Value (p.saBits i b)) || f (if p.sfmt = 0 then se8Value (p.sbBits b j) else (fmtOf .bf16).value (p.sbBits b j)))

/-- A tile after a compute operation (11 R251, R253). -/
def MatIn.apply (p : MatIn) (t : Tile) : Tile :=
  let int := decide (p.aty = .i8)
  let cells := (List.range 16384).map fun n =>
    let old := tileGet t n
    (n, old, if int then p.intElement (n / 128) (n % 128) old else p.element (n / 128) (n % 128) old)
  let became (f : FVal → Bool) : Bool := !int && cells.any fun c =>
    f (fmt32.value c.2.2.toNat) && !p.anyInput (c.1 / 128) (c.1 % 128) c.2.1 f
  { t with elems := (cells.filter fun c => c.2.2 != 0).map fun c => (c.1, c.2.2), nv := t.nv || became FVal.isNan,
           ovf := t.ovf || became FVal.isInf }

/-- The operands of a compute operation on a reservation. -/
def operandsOf (s : State) (o : MatOp) (ty : Ty) (a sc : Nat) (sel : Word) (scaled : Bool) (r : Resv) : MatIn :=
  let c := s.core o.core
  { aty := ty, bty := fmtTy r.fmt, k := matK ty, blk := r.blk, a := c.abuf, aoff := a, asc := sc, b := c.wbuf,
    boff := r.off + selPanel sel * panelBytes r.fmt, bsc := r.scale + selPanel sel * scaleBytes r, sfmt := r.sfmt,
    scaled := scaled, book := bookOf s o.gang.cg }

/-- A compute operation's effect on its tile (11 R251, R252). -/
def computeEffect (s : State) (o : MatOp) : State :=
  let q := (tilesOf o.tiles).headD 0
  match o.kind.compute? with
  | none => s
  | some (ty, a, sc, sel, scaled) =>
    if (tileOf s o.core q).cause ≠ 0 then s
    else
      match checkCompute s o ty a sc sel scaled, tget? (s.core o.core).resv (selRes sel) with
      | some (c, v), _ => tileError s o.core q c v
      | none, none => s
      | none, some r => modTile s o.core q (operandsOf s o ty a sc sel scaled r).apply

/-! The engine's own events. -/

/-- The operations accepted before one that name a tile of it. -/
def earlierOps (e : Engine) (o : MatOp) : List MatOp :=
  (e.ops.takeWhile fun x => x.id != o.id).filter fun x => x.accepted && decide (x.tiles &&& o.tiles ≠ 0)

/-- A CBLD issued after an operation's acceptance does not hold it; one issued before does (11 R248). -/
def bookHeld (s : State) (o : MatOp) : Bool :=
  s.w.ops.any fun x => decide (x.kind = .cbld) && decide (x.cg = o.gang.cg) && !x.waits.contains o.id

/-- Engine reads of a range that is being cleared wait (11 R246). -/
def panelClearing (s : State) (o : MatOp) : Bool :=
  match o.kind.compute? with
  | some (_, _, _, sel, _) => match tget? (s.core o.core).resv (selRes sel) with
    | some r => r.clearing
    | none => false
  | none => false

/-- The compute operation that starts next, if one may (11 R251, R257). Under DSM the engine's own clk are no slots (06 R131). -/
def startable (s : State) (core : Nat) : Option MatOp :=
  let e := (s.core core).eng
  match e.ops.find? fun o => o.accepted && !o.kind.drainPort && o.due.isNone with
  | none => none
  | some o =>
    let now := timeOf s o.gang.cg
    let dsm := (s.launch (s.cg o.gang.cg).lid).lr.dsm
    if !engFrozen e && (dsm || decide (e.nextStart ≤ now)) && decide (e.readyAt ≤ now) && decide (o.since ≤ now)
        && !bookHeld s o && !panelClearing s o
        && !lockBlocked (s.core core).locks (opLocks s o) o.id && (earlierOps e o).all (fun x => !x.kind.drainPort) then some o
    else none

/-- MATRIX_OP_START (11 R251): one every 128 clk, complete 160 clk later; under DSM 64 slots after its acceptance (06 R131). -/
def execMatrixOpStart (core : Nat) (s : State) : Host.Outcome State Fault Refusal :=
  match startable s core with
  | none => .next s
  | some o =>
    let now := timeOf s o.gang.cg
    let due := if (s.launch (s.cg o.gang.cg).lid).lr.dsm then o.since + Config.dsmLatency else now + 160
    .next (modEng s core fun e => { e with nextStart := now + 128, ops := (e.ops.map fun x =>
      if x.id = o.id then { x with due := some due } else x) })

/-- MATRIX_OP_COMPLETE (11 R251-R253): the first started operation, once it is due. -/
def execMatrixOpComplete (core : Nat) (s : State) : Host.Outcome State Fault Refusal :=
  match (s.core core).eng.ops.find? fun o => o.due.isSome with
  | none => .next s
  | some o =>
    if o.due.getD 0 ≤ timeOf s o.gang.cg then .next (finishOp (computeEffect s o) core o.id) else .next s

/-- ENGINE_GRANT (11 R241, R242, R257). -/
def execEngineGrant (core : Nat) (s : State) : Host.Outcome State Fault Refusal :=
  let e := (s.core core).eng
  if e.owner.isNone && !engFrozen e then .next (grantEngine s core) else .next s

/-- The image of a tile (11 R253, R254). -/
def tileImage (t : Tile) : List Byte :=
  ((List.range 16384).flatMap fun n => bytesOfNat 4 (tileGet t n).toNat) ++ bytesOfNat 4 (t.cause.toNat * 2 ^ 24 + t.val.toNat)
    ++ bytesOfNat 4 (bnat t.ovf * 2 + bnat t.nv) ++ List.replicate 120 0

/-- The tile of an image; a reserved bit of the status is ILLEGAL (11 R254). -/
def imageTile (bs : List Byte) (va : Nat) : Tile :=
  let st := bs.drop 65536
  let w0 := fieldAt st 0 4
  let w1 := fieldAt st 4 4
  let t : Tile := { elems := ((List.range 16384).map fun n => (n, word (fieldAt bs (4 * n) 4))).filter fun e => e.2 != 0,
                    cause := BitVec.ofNat 8 (w0 / 2 ^ 24), val := BitVec.ofNat 20 w0, ovf := bitAt w1 1, nv := bitAt w1 0 }
  if w0 / 2 ^ 20 % 16 ≠ 0 ∨ 4 ≤ w1 ∨ (st.drop 8).any (· != 0) then { t with cause := 0x01, val := BitVec.ofNat 20 (va + 65536) }
  else t

/-- A drain-port operation as an engine operation of its thread, for its reads and writes. -/
def portOp (o : MatOp) : EngOp :=
  { id := o.id, kind := .bcopy, core := o.core, cg := o.gang.cg, th := o.th, space := o.space, tag := 0, desc := [], descVa := 0,
    site := o.site, word := o.id, locks := [], accepted := true, done := false, waits := [], due := 0 }

/-- A drain or fill fails (11 R252; 08 R183). -/
def portFail (s : State) (o : MatOp) (q : Nat) (c : BitVec 8) (va : Nat) : State :=
  let s := tileError s o.core q c (va % 2 ^ 20)
  if c = 0x12 then noFrame s (portOp o) else s

/-- What a drain-port operation does (11 R254); none while it waits for a page (08 R182, 20 R358). -/
def portEffect (s : State) (o : MatOp) : Option State :=
  let q := (tilesOf o.tiles).headD 0
  match o.kind with
  | .zero => some ((tilesOf o.tiles).foldl (fun s q => modTile s o.core q fun _ => Tile.init) s)
  | .drain va =>
    if va % 128 ≠ 0 then some (portFail s o q 0x05 va)
    else
      match opWrite s (portOp o) va (tileImage (tileOf s o.core q)) with
      | (s, none) => some s
      | (s, some (c, v)) => if c = 0 then none else some (portFail s o q c v)
  | .fill va =>
    if va % 128 ≠ 0 then some (portFail s o q 0x05 va)
    else
      match opRead s (portOp o) 6 va 65664 with
      | (s, .ok bs) => some (modTile s o.core q fun _ => imageTile bs va)
      | (s, .error (c, v)) => if c = 0 then none else some (portFail s o q c v)
  | .mma .. | .mmas .. => some s

/-- A drain or fill that a frozen engine's drain port took without the latch (11 R257): no member's group waits for its acceptance. -/
def MatOp.bypass (o : MatOp) : Bool := o.waiters.isEmpty

/-- An operation that a frozen engine holds (11 R257): an accepted one that has not started, or one of the drain port behind such. -/
def heldBack (e : Engine) (o : MatOp) : Bool :=
  engFrozen e && o.due.isNone
    && (!o.kind.drainPort || (!o.bypass && (earlierOps e o).any fun x => !x.kind.drainPort && x.due.isNone))

/-- A drain-port operation may run (11 R254, R257): no overlapping lock, and earlier operations on its tiles complete. What a frozen
engine's drain port takes runs beneath the held operations. -/
def portReady (s : State) (core : Nat) (o : MatOp) : Bool :=
  let e := (s.core core).eng
  let dsm := (s.launch (s.cg o.gang.cg).lid).lr.dsm
  o.accepted && o.kind.drainPort && (o.bypass || !bookHeld s o) && !lockBlocked (s.core core).locks (opLocks s o) o.id
    && (earlierOps e o).all (fun x => o.bypass && heldBack e x)
    && decide (e.readyAt ≤ timeOf s o.gang.cg) && decide (o.since ≤ timeOf s o.gang.cg)
    && (!dsm || decide (o.since + Config.dsmLatency ≤ timeOf s o.gang.cg))

/-- DRAIN_PORT_COMPLETE (11 R254). -/
def execDrainPortComplete (core id : Nat) (s : State) : Host.Outcome State Fault Refusal :=
  match (s.core core).eng.ops.find? fun o => o.id = id with
  | none => .next s
  | some o => if portReady s core o then .next (((portEffect s o).map fun s => finishOp s core id).getD s) else .next s

end Sys2Proof.Machine
end

