-- ==== Sys2Proof/Machine/Streams.lean ====
section
/-! DEFINITION. Operand streams of the Mandoline (09 R218-R223). -/

namespace Sys2Proof.Machine

/-! Stream descriptors (09 R219). -/

def sdBase (d : List Byte) : Nat := fieldAt d 0 8
def sdT (d : List Byte) : Nat := fieldAt d 8 4
def sdS (d : List Byte) (k : Nat) : Nat := fieldAt d (12 + 4 * k) 4
def sdW (d : List Byte) : Nat := fieldAt d 24 8
def sdSpace (d : List Byte) : Nat := sdW d / 256 % 2
def sdType (d : List Byte) : Ty := (Ty.ofCode (BitVec.ofNat 4 (sdW d))).getD .n32

/-- Address of element `e` of thread `t` (09 R219). -/
def sdAddr (d : List Byte) (t e : Nat) : Nat :=
  let i0 := e % sdN d 0
  let i1 := e / sdN d 0 % sdN d 1
  let i2 := e / (sdN d 0 * sdN d 1)
  ((sdBase d + t * i32Of (sdT d) + i0 * i32Of (sdS d 0) + i1 * i32Of (sdS d 1) + i2 * i32Of (sdS d 2)) % 2 ^ 64).toNat

/-- A reserved bit of a stream descriptor is set. -/
def sdBad (d : List Byte) : Bool :=
  decide (sdW d / 512 % 128 ≠ 0) || decide (sdW d / 16 % 16 ≠ 0) || (decide (sdSpace d = 1) && decide (2 ^ 20 ≤ sdBase d))

/-- The lines that the elements of threads 0 to n - 1 can touch (09 R221). -/
def sdLines (d : List Byte) (n : Nat) : Nat × Nat :=
  let span (k cnt : Nat) : Int × Int := (min 0 ((cnt - 1 : Nat) * i32Of k), max 0 ((cnt - 1 : Nat) * i32Of k))
  let all := [span (sdT d) n, span (sdS d 0) (sdN d 0), span (sdS d 1) (sdN d 1), span (sdS d 2) (sdN d 2)]
  let lo : Int := all.foldl (fun x r => x + r.1) (sdBase d)
  let hi : Int := all.foldl (fun x r => x + r.2) (sdBase d)
  (lo.toNat / 128, (hi.toNat + (sdType d).bytes - 1) / 128)

/-! The stream of a queue. -/

def streamOf (s : State) (pg q : Nat) : Stream := (s.pg pg).streams.getD q Stream.init
def modStream (s : State) (pg q : Nat) (f : Stream → Stream) : State :=
  modPg s pg fun g => { g with streams := g.streams.modify q f }

def posOf (s : State) (t : ThreadRef) (q : Nat) : Nat := (s.thread t).pos.getD q 0

/-- The entries fetched for a thread, and its next one. -/
def entriesOf (st : Stream) (tid : Nat) : List QEntry := st.entries.filter fun e => e.tid = tid
def nextEntry (s : State) (t : ThreadRef) (q : Nat) : Option QEntry :=
  (streamOf s t.pg q).entries.find? fun e => decide (e.tid = t.tid) && decide (e.elem = posOf s t q)

/-- An entry counts as present: under DSM 64 slots after its fetch (06 R131). -/
def present (s : State) (pg : Nat) (e : QEntry) : Bool :=
  !e.stale && (!(s.lrOfPg pg).dsm || decide (e.at' ≤ timeOf s (cgOfPg pg)))

/-- 32-bit entries an element takes (09 R218). -/
def entryWidth (d : List Byte) : Nat := if (sdType d).is64 then 2 else 1

/-- The lock entry of a queue's stream (09 R221). -/
def streamLock (s : State) (pg q : Nat) : Option RLock :=
  let g := s.pg pg
  (s.core g.core).locks.find? fun l =>
    decide (l.eng = 1) && decide (l.id = 4 * (g.part % 6) + q) && decide (l.slot = (s.cg (cgOfPg pg)).slot)

/-- A stream fetches: no earlier operation's lock holds it back (09 R211). -/
def streamFree (s : State) (pg q : Nat) : Bool :=
  match streamLock s pg q with
  | some l => !lockBlocked (s.core (s.pg pg).core).locks [l] l.owner
  | none => true

/-- The element of a thread that the Mandoline fetches next, if it may fetch one (09 R218): one that a restore has it fetch again, else
the next beyond its entries. -/
def fetchable (s : State) (t : ThreadRef) (q : Nat) : Option Nat :=
  let st := streamOf s t.pg q
  let mine := entriesOf st t.tid
  let e := posOf s t q + mine.length
  if !st.active || !(s.thread t).live || !streamFree s t.pg q then none
  else
    match mine.find? fun x => x.stale with
    | some x => some x.elem
    | none => if decide (e < sdCount st.desc) && decide ((mine.length + 1) * entryWidth st.desc ≤ 4) then some e else none

/-- Put a fetched element among a stream's entries, in the place of one that was to be fetched again. -/
def putEntry (l : List QEntry) (e : QEntry) : List QEntry :=
  if l.any fun x => x.stale && decide (x.tid = e.tid) && decide (x.elem = e.elem) then
    l.map fun x => if x.stale && decide (x.tid = e.tid) && decide (x.elem = e.elem) then { e with at' := x.at' } else x
  else l ++ [e]

/-- Fetch an element (09 R222): its value, or the fault that the pop that reaches it takes. It waits for the thread's own earlier accesses
to those bytes (15 R313), and while another die fills the page (08 R182). -/
def fetchElement (s : State) (t : ThreadRef) (q e : Nat) : State :=
  let st := streamOf s t.pg q
  let g := s.pg t.pg
  let a := sdAddr st.desc t.tid e
  let n := (sdType st.desc).bytes
  let put (s : State) (v : Nat) (c : BitVec 8) : State :=
    let x : QEntry := { tid := t.tid, elem := e, val := BitVec.ofNat 64 v, cause := c, va := BitVec.ofNat 64 a,
                        at' := timeOf s (cgOfPg t.pg) + Config.dsmLatency }
    modStream s t.pg q fun y => { y with entries := putEntry y.entries x }
  if sdSpace st.desc = 1 then
    if Config.abufSize (s.core g.core).carve < a + n ∨ inOthersRange s g.core (cgOfPg t.pg) a n then put s 0 0x09
    else if a % n ≠ 0 then put s 0 0x05
    else put s (memNat (s.core g.core).abuf a n) 0
  else if a % n ≠ 0 then put s 0 0x05
  else
    let owner := ((streamLock s t.pg q).map fun l => l.owner).getD 0
    let space := (s.launch g.lid).space
    let (x, tgt) := pinTranslate s g.core owner space a .read
    if ownBefore x t a n tgt then s
    else
      match engineRead s g.core owner space g.lid 6 a n with
      | (s, .ok bs) => put s (natOfBytes (overOwn s t a bs)) 0
      | (s, .error (c, _)) => if c = 0 then s else put s 0 c

/-- Threads of a partition group with lower `tid` are served first (09 R218). -/
def fetchTurn (s : State) (t : ThreadRef) (q : Nat) : Bool :=
  let n := (entriesOf (streamOf s t.pg q) t.tid).length
  (List.range t.tid).all fun i =>
    (fetchable s { pg := t.pg, tid := i } q).isNone || decide (n < (entriesOf (streamOf s t.pg q) i).length)

/-- STREAM_FETCH (09 R218, R222). -/
def execStreamFetch (pg q tid : Nat) (s : State) : Host.Outcome State Fault Refusal :=
  let t : ThreadRef := { pg := pg, tid := tid }
  match fetchable s t q with
  | some e => .next (if fetchTurn s t q then fetchElement s t q e else s)
  | none => .next s

/-- One performance of ASLICE (09 R221); an issue that finds no free lock entry waits (R211). The positions that a region restart gives back
are those of the stream before (R218): in the new one every thread stands at 0. -/
def asliceLane (s : State) (ix : Issue) (t : ThreadRef) (q va : Nat) : State × Option Trap :=
  let s := endStream s ix.pg q
  match readDescAcq s t va 32 32 with
  | (s, .error e) => (s, some e)
  | (s, .ok d) =>
    if sdBad d then (s, some (plainTrap 0x01 va))
    else if !lockRoom (s.core ix.core) 1 then (s, some (againTrap .unit))
    else
      let (id, s) := nextId s
      let r := sdLines d (s.launch ix.lid).lr.nthr
      let l : RLock := { write := false, space := sdSpace d, slot := (s.cg ix.cg).slot, eng := 1, id := 4 * (ix.part % 6) + q,
                         lo := r.1, hi := r.2, owner := id }
      let s := addLocks s ix.core [l]
      let s := modStream s ix.pg q fun _ => { active := true, desc := d, entries := [] }
      (modPg s t.pg fun g => { g with threads := g.threads.map fun x =>
        { x with pos := x.pos.set q 0, posSnap := x.posSnap.set q 0 } }, none)

/-- ASLICE (09 R221). -/
def execAslice (w : Wd) (s : State) : Host.Outcome State Fault Refusal :=
  actWord s w.ctl fun ix s' t => asliceLane s' ix t (resNum (s.launch ix.lid).lr w.a) (effAddr s t w.b w.c)

/-- A thread has popped every element (09 R222), or no stream runs. -/
def poppedAll (s : State) (t : ThreadRef) (q : Nat) : Bool :=
  !(streamOf s t.pg q).active || decide (sdCount (streamOf s t.pg q).desc ≤ posOf s t q)

/-- QPOP need not wait (09 R222): each guard-true thread's next entry is present, faulted or past the end. -/
def qpopReady (s : State) (ix : Issue) (w : Wd) : Bool :=
  (activeOf s ix w.ctl).all fun t =>
    let q := resNum (s.launch ix.lid).lr w.b
    poppedAll s t q || (nextEntry s t q).any (present s t.pg)

/-- Advance a thread past its entry; a stream whose every live thread has popped every element ends (09 R223). -/
def popEntry (s : State) (t : ThreadRef) (q : Nat) : State :=
  let e := posOf s t q
  let s := modStream s t.pg q fun x => { x with entries := x.entries.filter fun y => !(decide (y.tid = t.tid) && decide (y.elem = e)) }
  modThread s t fun x => { x with pos := x.pos.set q (e + 1) }

/-- One lane of QPOP (09 R222). An entry that is not there yet holds the word. -/
def qpopLane (s : State) (ix : Issue) (t : ThreadRef) (w : Wd) (q : Nat) : State × Option Trap :=
  if poppedAll s t q then (s, some (plainTrap 0x0F q))
  else
    match nextEntry s t q with
    | none => (s, some (againTrap .unit))
    | some x =>
      if !present s t.pg x then (s, some (againTrap .unit))
      else if x.cause ≠ 0 then
        let s := modStream s t.pg q fun y => { y with entries := y.entries.filter fun y => !(decide (y.tid = t.tid) && decide (x.elem ≤ y.elem)) }
        if x.cause = 0x12 then (contain s t x.cause, none) else (s, some (memTrap x.cause x.va.toNat))
      else
        let ty := sdType (streamOf s t.pg q).desc
        if ty.is64 && decide (vNum w.a % 2 = 1) then (s, some (plainTrap 0x01 ix.pc))
        else (pushResult (popEntry s t q) ix w.ctl 4 false true t (outTy ty (vNum w.a) (wrapBits ty x.val.toNat) 0), none)

/-- QPOP (09 R222); it is held until `qpopReady`. -/
def execQpop (w : Wd) (s : State) : Host.Outcome State Fault Refusal :=
  match s.issue with
  | none => .next s
  | some ix =>
    let q := resNum (s.launch ix.lid).lr w.b
    match actLanes s ix (activeOf s ix w.ctl) fun s t => qpopLane s ix t w q with
    | .error why => .next (holdWord s ix why)
    | .ok s' => .next (retire (settleStream (acceptFlags s s' ix w.ctl) ix.pg q) ix w.ctl)

/-- The word QSTAT writes (09 R223). -/
def qstatWord (s : State) (t : ThreadRef) (q : Nat) : Word :=
  let st := streamOf s t.pg q
  if !st.active then 0
  else
    let here := (entriesOf st t.tid).filter (present s t.pg)
    let fault := here.any fun e => decide (e.elem = posOf s t q) && decide (e.cause ≠ 0)
    word (2 ^ 31 + bnat fault * 2 ^ 30 + here.length * entryWidth st.desc * 2 ^ 24
      + Nat.min (sdCount st.desc - posOf s t q) 0xFFFFFF)

/-- QSTAT (09 R223). -/
def execQstat (w : Wd) (s : State) : Host.Outcome State Fault Refusal :=
  laneWord s w.ctl 6 false fun s ix t => out1 (vNum w.a) (qstatWord s t (resNum (s.launch ix.lid).lr w.b)) 0

/-- QEND (09 R223), for the whole partition group. -/
def execQend (w : Wd) (s : State) : Host.Outcome State Fault Refusal :=
  stateWord s w.ctl fun ix s =>
    if (activeOf s ix w.ctl).isEmpty then s else endStream s ix.pg (resNum (s.launch ix.lid).lr w.a)

end Sys2Proof.Machine
end

