-- ==== Sys2Proof/Machine/Control.lean ====
section
/-! DEFINITION. The control instructions (02 R46, 06 R127, 07 R141-R146). -/

namespace Sys2Proof.Machine

/-- Target of a wide branch (02 R31): the word's address plus 4 × displacement. DESIGN CHOICE (log 105): a sum outside the 56 bits of an
address, for which R31 gives no wrap, is taken modulo 2^56. -/
def wideTarget (pc : Nat) (d : Word) : Nat := (((pc : Int) + 4 * d.toInt) % 2 ^ 56).toNat

/-- File every thread of the group, each by its own next PC and wait condition (06 R117). -/
def fileAll (s : State) (ix : Issue) (next : ThreadRef → Nat) (wait : ThreadRef → Wait) : State :=
  ix.tids.foldl (fun s i => fileThread s { pg := ix.pg, tid := i } (next { pg := ix.pg, tid := i }) (wait { pg := ix.pg, tid := i })) s

/-- A word that files its threads. -/
def filingWord (s : State) (c : Ctl) (f : Issue → State → State) : Host.Outcome State Fault Refusal :=
  match s.issue with
  | none => .next s
  | some ix => .next (retireFiled (acceptFlags s (f ix s) ix c) ix c)

/-- ILLZ (02 R46): ILLEGAL as 02 R45 states, for every thread of the group whatever its guard; `tval` the word, the PC at the
header. -/
def execIllz (_rest : BitVec 86) (s : State) : Host.Outcome State Fault Refusal :=
  match s.issue with
  | none => .next s
  | some ix => .next (groupTraps s ix.pg ix.tids (plainTrap 0x01 ix.pc) ix.hdr)

/-- NOP (02 R46): the issue slot, stall count and yield only. -/
def execNop (w : Wd) (s : State) : Host.Outcome State Fault Refusal := stateWord s w.ctl fun _ s => s

/-- Next PC at a branch with one target for guard-true threads (07 R142). -/
def branchNext (s : State) (ix : Issue) (c : Ctl) (target : Nat) (t : ThreadRef) : Nat :=
  if guardOf s c t then target else ix.pc + 12

/-- BRA.d (07 R142). -/
def execBraD (w : WideWd) (s : State) : Host.Outcome State Fault Refusal :=
  filingWord s w.ctl fun ix s => fileAll s ix (branchNext s ix w.ctl (wideTarget ix.pc w.imm)) fun _ => .ready

/-- BRA.u (06 R127, 07 R142). -/
def execBraU (w : WideWd) (s : State) : Host.Outcome State Fault Refusal :=
  match s.issue with
  | none => .next s
  | some ix =>
    let next (i : Nat) : Nat := branchNext s ix w.ctl (wideTarget ix.pc w.imm) { pg := ix.pg, tid := i }
    let dest := next (ix.tids.headD 0)
    if ix.tids.all fun i => next i = dest then .next (arriveHeader (spendSlot (acceptFlags s s ix w.ctl) ix w.ctl) ix.part ix.pos dest)
    else .next (ix.tids.foldl (fun s i => trapAt s ix i (plainTrap 0x03 ix.pc)) (spendSlot s ix w.ctl))

/-- What a computed target does to the thread that takes it (02 R37, 07 R143): a trap, or the thread is filed there. DEDUCED (log 122):
`tq.vahi` of a target beyond the address space is its bits [55:32]. -/
def takeTarget (s : State) (ix : Issue) (t : ThreadRef) (a : Nat) : State × Bool :=
  if 2 ^ 56 ≤ a then (trapAt s ix t.tid (memTrap 0x06 a), false)
  else if a % 4 ≠ 0 then (trapAt s ix t.tid (plainTrap 0x05 a), false)
  else (fileThread s t a .ready, true)

/-- BRX and RET (07 R143); RET leaves a trace record of kind 2 (22 R380). -/
def indirect (s : State) (ix : Issue) (w : Wd) (ret : Bool) : State :=
  let target (t : ThreadRef) : Nat := (srcPair s t w.b).toNat
  let go := fun (t : ThreadRef) => guardOf s w.ctl t
  ix.tids.foldl (fun s' i =>
    let t : ThreadRef := { pg := ix.pg, tid := i }
    if go t then
      let r := takeTarget s' ix t (target t)
      if ret && r.2 then traceRecord r.1 t 2 ix.pc (target t % 2 ^ 32) 0 else r.1
    else fileThread s' t (ix.pc + 12) .ready) s

/-- BRX (07 R143). -/
def execBrx (w : Wd) (s : State) : Host.Outcome State Fault Refusal := filingWord s w.ctl fun ix s => indirect s ix w false

/-- CALL (07 R143): BRA.d, recorded as a call (22 R380). -/
def execCall (w : WideWd) (s : State) : Host.Outcome State Fault Refusal :=
  filingWord s w.ctl fun ix s =>
    let dest := wideTarget ix.pc w.imm
    let filed := fileAll s ix (branchNext s ix w.ctl dest) fun _ => .ready
    (activeOf s ix w.ctl).foldl (fun s t => traceRecord s t 1 ix.pc (dest % 2 ^ 32) 0) filed

/-- RET (07 R143). -/
def execRet (w : Wd) (s : State) : Host.Outcome State Fault Refusal := filingWord s w.ctl fun ix s => indirect s ix w true

/-- REFORM (07 R144). -/
def execReform (w : Wd) (s : State) : Host.Outcome State Fault Refusal :=
  filingWord s w.ctl fun ix s => fileAll s ix (fun _ => ix.pc + 12) fun _ => .ready

/-- YIELD #n (07 R144): a guard-true thread is ready n clk after filing. -/
def execYield (w : Wd) (s : State) : Host.Outcome State Fault Refusal :=
  filingWord s w.ctl fun ix s => fileAll s ix (fun _ => ix.pc + 12) fun t =>
    if guardOf s w.ctl t && decide (immNat w.c ≠ 0) then .yield (immNat w.c) else .ready

/-- WAITF #mask (07 R144). -/
def execWaitf (w : Wd) (s : State) : Host.Outcome State Fault Refusal :=
  filingWord s w.ctl fun ix s => fileAll s ix (fun _ => ix.pc + 12) fun t =>
    if guardOf s w.ctl t then .flags (BitVec.ofNat 12 (immNat w.c)) else .ready

/-- The task signal of an exiting task (05 R100). -/
def taskSignal (s : State) (t : ThreadRef) (task : List Word) : State :=
  let x := (task.getD 2 0).toNat
  let g := s.pg t.pg
  if (s.launch g.lid).lr.taskServer && bitAt x 25 then unitDec s t (bitsOf x 23 12) else s

/-- A thread ends by EXIT, its record closed, its task signal sent. -/
def exitLane (s : State) (ix : Issue) (t : ThreadRef) : State :=
  let task := (s.thread t).task
  taskSignal (endThread (traceRecord s t 5 ix.pc 0 0) t none true) t task

/-- The threads of an EXIT end one after the other, up to one whose close has to wait (10 R230): why it waits. -/
def exitLanes (s : State) (ix : Issue) (ts : List ThreadRef) : State × Option Again :=
  match ts with
  | [] => (s, none)
  | t :: rest => match (cvClose s t).2.bind Trap.again with
    | some why => (s, some why)
    | none => exitLanes (exitLane s ix t) ix rest

/-- EXIT (07 R145): a guard-true thread ends; a guard-false one is filed at the next word. A close that waits holds the word for the threads
that are left. -/
def execExit (w : Wd) (s : State) : Host.Outcome State Fault Refusal :=
  match s.issue with
  | none => .next s
  | some ix =>
    match exitLanes s ix (activeOf s ix w.ctl) with
    | (s', some why) => .next (holdWord s' ix why)
    | (s', none) =>
      let filed := (ix.tids.filter fun i => !guardOf s w.ctl { pg := ix.pg, tid := i }).foldl
        (fun s' i => fileThread s' { pg := ix.pg, tid := i } (ix.pc + 12) .ready) s'
      .next (retireFiled (acceptFlags s (settleJoins filed ix.pg) ix w.ctl) ix w.ctl)

/-- TRAP and BKPT (07 R146): a trap call in each guard-true thread with its B. -/
def trapWord (s : State) (w : Wd) (cause : BitVec 8) : Host.Outcome State Fault Refusal :=
  stateWord s w.ctl fun ix s =>
    ((activeOf s ix w.ctl).map fun t => (t, srcWord s t w.b)).foldl
      (fun s r => trapAt s ix r.1.tid { cause := cause, val := r.2, vahi := 0 }) s

/-- TRAP (07 R146). -/
def execTrap (w : Wd) (s : State) : Host.Outcome State Fault Refusal := trapWord s w 0x0B

/-- BKPT (07 R146). -/
def execBkpt (w : Wd) (s : State) : Host.Outcome State Fault Refusal := trapWord s w 0x0C

end Sys2Proof.Machine
end

