-- ==== Sys2Proof/Machine/Sync.lean ====
section
/-! DEFINITION. The barrier and join instructions (14 R299-R303), and the release wait (08 R189). A release wait stands before the word
issues (mayIssue), but for an arrival beside one that is misuse. -/

namespace Sys2Proof.Machine

/-- The barrier an operand names, of the thread's 24. -/
def barNum (s : State) (ix : Issue) (o : Opd) : Nat :=
  match resOf (s.launch ix.lid).lr o with
  | some (k, n) => barIndex k n
  | none => 0

/-- Earlier accesses of threads that meet a test and are ordered by no key (14 R310, 19 R345). -/
def earlier (s : State) (ix : Issue) (ts : List ThreadRef) (f : Acc → Lane → Bool) : Bool :=
  s.w.accs.any fun a => decide (a.pg = ix.pg) && a.key.isNone && a.lanes.any fun l => f a l && ts.any fun t => decide (t.tid = l.tid)

/-- The release wait of a scope (08 R189, 15 R314): nothing at .th; else every earlier access of the threads, the node fetches of their
traversals among them, and at .dev and .sys the writes that the die's L2 has accepted for other homes. In a DSM launch only its window
accesses, at their slots (19 R345). -/
def releaseWait (s : State) (ix : Issue) (ts : List ThreadRef) (sc : Scope) : Bool :=
  if sc = .th ∨ ts.isEmpty then false
  else if (s.launch ix.lid).lr.dsm then s.w.pends.any fun p => p.win && ts.contains p.th
  else earlier s ix ts (fun _ _ => true) || s.w.travs.any (fun v => ts.contains v.th)
    || (wideScope sc && !(s.die (dieOfCore ix.core)).wq.isEmpty)

/-- A thread's arrival would be misuse (14 R297): the generation of its last one has not completed, under DSM as far as its completion has
been delivered (06 R131, R134; 14 R302). -/
def misuses (s : State) (ix : Issue) (b : Nat) (t : ThreadRef) : Bool :=
  let a := arrOf (s.thread t) b
  a.pend && a.gen.any fun n => if (s.launch ix.lid).lr.dsm then !barReleased s ix.pg b n else decide (n = (barOf s ix.pg b).gen)

/-- BARRIER_MISUSE (14 R297). -/
def misuseAt (s : State) (ix : Issue) (t : ThreadRef) : State := trapAt s ix t.tid (plainTrap 0x10 ix.pc)

/-- The arrival of 14 R300: misuse traps, else the thread is counted. -/
def baraLane (s : State) (ix : Issue) (b : Nat) (t : ThreadRef) : State × Bool :=
  if misuses s ix b t then (misuseAt s ix t, false) else (arriveBar s t b, true)

/-- The threads of an arrival that still have to perform their release wait, where others of the word are misuse (14 R300). -/
def arrivalHeld (s : State) (ix : Issue) (b : Nat) (ts : List ThreadRef) : Bool :=
  ts.any (misuses s ix b) && releaseWait s ix (ts.filter fun t => !misuses s ix b t) (barScope b)

/-- An arrival: the check of misuse comes before the release wait, in which the others hold their group (14 R300). -/
def arrivalWord (s : State) (ix : Issue) (c : Ctl) (b : Nat) (run : State) : State :=
  let ts := activeOf s ix c
  if arrivalHeld s ix b ts then holdWord ((ts.filter (misuses s ix b)).foldl (fun s t => misuseAt s ix t) s) ix .order else run

/-- BARA (14 R300). -/
def execBara (w : Wd) (s : State) : Host.Outcome State Fault Refusal :=
  match s.issue with
  | none => .next s
  | some ix =>
    let b := barNum s ix w.a
    let s' := (activeOf s ix w.ctl).foldl (fun s t => (baraLane s ix b t).1) s
    .next (arrivalWord s ix w.ctl b (retire (acceptFlags s s' ix w.ctl) ix w.ctl))

/-- The wait of 14 R300: the thread is filed at the next word; an arrival that has already completed passes at once. -/
def barwLane (s : State) (ix : Issue) (b : Nat) (t : ThreadRef) : State :=
  let a := arrOf (s.thread t) b
  if !a.pend then misuseAt s ix t
  else if barReleased s ix.pg b (a.gen.getD 0) then
    let s := acquireActions s ix.core (barScope b)
    fileThread (modThread s t fun x => ({ x with arr := x.arr.set b { a with pend := false } }).seeStores b s.w.nextId) t (ix.pc + 12) .ready
  else fileThread s t (ix.pc + 12) (.barrier b (a.gen.getD 0))

/-- A guard-false thread of a filing word is filed at the next word, ready at once (02 R33). -/
def fileFalse (s0 s : State) (ix : Issue) (c : Ctl) : State :=
  ix.tids.foldl (fun s i =>
    let t : ThreadRef := { pg := ix.pg, tid := i }
    if guardOf s0 c t then s else fileThread s t (ix.pc + 12) .ready) s

/-- BARW (14 R300). -/
def execBarw (w : Wd) (s : State) : Host.Outcome State Fault Refusal :=
  filingWord s w.ctl fun ix s0 =>
    fileFalse s0 ((activeOf s0 ix w.ctl).foldl (fun s t => barwLane s ix (barNum s0 ix w.a) t) s0) ix w.ctl

/-- BARAW (14 R300): the arrivals of every guard-true thread, then the waits of those that arrived. -/
def execBaraw (w : Wd) (s : State) : Host.Outcome State Fault Refusal :=
  match s.issue with
  | none => .next s
  | some ix =>
    let b := barNum s ix w.a
    let r := (activeOf s ix w.ctl).foldl (fun acc t =>
      match baraLane acc.1 ix b t with
      | (s, true) => (s, acc.2 ++ [t])
      | (s, false) => (s, acc.2)) (s, ([] : List ThreadRef))
    let s' := fileFalse s (r.2.foldl (fun s t => barwLane s ix b t) r.1) ix w.ctl
    .next (arrivalWord s ix w.ctl b (retireFiled (acceptFlags s s' ix w.ctl) ix w.ctl))

/-- BARQ (14 R301). -/
def execBarq (w : Wd) (s : State) : Host.Outcome State Fault Refusal :=
  laneWord s w.ctl 6 false fun s ix t => out1 (vNum w.a) (barqWord s t (barNum s ix w.b)) 0

/-- TEAMJ (14 R303). -/
def execTeamj (w : Wd) (s : State) : Host.Outcome State Fault Refusal :=
  filingWord s w.ctl fun ix s0 =>
    let s := ix.tids.foldl (fun s i =>
      let t : ThreadRef := { pg := ix.pg, tid := i }
      if guardOf s0 w.ctl t then modThread (fileThread s t (ix.pc + 12) .join) t fun x => { x with join := some ix.pc }
      else fileThread s t (ix.pc + 12) .ready) s0
    settleJoins (acquireActions s ix.core .pg) ix.pg

end Sys2Proof.Machine
end

