-- ==== Sys2Proof/Machine/Blocks.lean ====
section
/-! DEFINITION. The control blocks that PRIVW, management messages and checkpoint-control messages read and write: memory control
(08 R184), sampling (22 R373), trial (22 R377), replay control (20 R362). A write changes the fields its bytes cover; the counters
that the device keeps itself are not written (log 42). -/

namespace Sys2Proof.Machine

/-- A page-frame address field [39:12] of a block's word, aligned to a ring of 2^lsize bytes, or the old value. -/
def ringBase (w lsize old : Nat) : Nat :=
  let b := bitsOf w 39 12 * 4096
  if b % 2 ^ lsize = 0 then b else old

/-- A value in a range, or the old one. -/
def inRange (v lo hi old : Nat) : Nat := if lo ≤ v ∧ v ≤ hi then v else old

/-! The memory control block. -/

/-- Whether a group's next word waits for a frame with the access it performs itself. -/
def Group.waitsFrame (g : Group) : Bool :=
  match g.again with
  | .frame _ => true
  | .no | .order | .log | .unit => false

/-- Thread accesses of a die that wait for a frame (`fl.wait`): each lane of a waiting access, and one for each word that waits with an
access it performs itself (log 12). -/
def waitingAccs (s : State) (die : Nat) : Nat :=
  (s.w.accs.foldl (fun n a => if (a.stage = .frame ∨ a.stuck.isSome) ∧ dieOfCore a.core = die then n + a.lanes.length else n) 0)
    + (s.w.travs.filter fun v => v.stuck && decide (dieOfCore v.core = die)).length
    + ((s.w.parts.filter fun p => decide (dieOfCore (coreOfPart p.1) = die)).map fun p =>
        (p.2.groups.filter fun g => g.2.waitsFrame).length).sum

def mcbBytes (s : State) (die : Nat) : List Byte :=
  let m := (s.die die).mcb
  bytesOfNat 8 (bnat m.hsEn * 2 ^ 63 + m.hsK * 2 ^ 53 + m.hsLsize * 2 ^ 48 + m.hsBase) ++ bytesOfNat 4 m.hsWr.toNat
    ++ bytesOfNat 4 m.hsRd.toNat ++ bytesOfNat 4 m.hsLost.toNat ++ bytesOfNat 4 0 ++ bytesOfNat 8 (m.flBase + m.flLsize)
    ++ bytesOfNat 4 m.flWr.toNat ++ bytesOfNat 4 m.flRd.toNat ++ bytesOfNat 4 (waitingAccs s die) ++ bytesOfNat 4 m.flNofr.toNat

/-- The block from its bytes under the write rules of R184. -/
def mcbParse (m : Mcb) (b : List Byte) : Mcb :=
  let w := fieldAt b 0 8
  let f := fieldAt b 0x18 8
  let k := if m.hsEn then m.hsK else inRange (bitsOf w 57 53) 10 20 m.hsK
  let ls := if m.hsEn then m.hsLsize else inRange (bitsOf w 52 48) 12 24 m.hsLsize
  let fls := inRange (f % 32) 12 20 m.flLsize
  { m with hsEn := bitAt w 63, hsK := k, hsLsize := ls, hsBase := if m.hsEn then m.hsBase else ringBase w ls m.hsBase,
           hsRd := word (fieldAt b 0x0C 4), flBase := ringBase f fls m.flBase, flLsize := fls, flWr := word (fieldAt b 0x20 4),
           short := m.short && decide (word (fieldAt b 0x20 4) = m.flWr) }

/-- Write bytes of a die's memory control block; setting `hs.en` loads its cores' counters (08 R194). -/
def mcbWrite (s : State) (die off : Nat) (bs : List Byte) : State :=
  let old := (s.die die).mcb
  let new := mcbParse old (putBytes (mcbBytes s die) off bs)
  let s := modDie s die fun d => { d with mcb := new }
  if new.hsEn && !old.hsEn then
    (List.range Config.coresPerDie).foldl (fun s c => modCore s (die * Config.coresPerDie + c) fun x =>
      { x with hsCount := 2 ^ new.hsK - 1 }) s
  else s

/-! The sampling block. -/

def smBytes (m : SmBlock) : List Byte :=
  bytesOfNat 8 (bnat m.en * 2 ^ 63 + m.k * 2 ^ 58 + m.lsize * 2 ^ 53 + m.base) ++ bytesOfNat 4 m.wr.toNat ++ bytesOfNat 4 m.rd.toNat
    ++ bytesOfNat 4 m.lost.toNat ++ bytesOfNat 4 0

/-- The block from its bytes (22 R373): setting `sm.en` starts the count of clk. -/
def smParse (m : SmBlock) (b : List Byte) : SmBlock :=
  let w := fieldAt b 0 8
  let k := if m.en then m.k else inRange (bitsOf w 62 58) 8 20 m.k
  let ls := if m.en then m.lsize else inRange (bitsOf w 57 53) 12 24 m.lsize
  { m with en := bitAt w 63, k := k, lsize := ls, base := if m.en then m.base else ringBase w ls m.base, rd := word (fieldAt b 0x0C 4),
           clk := if m.en then m.clk else 0, sampled := if m.en then m.sampled else [] }

def smWrite (s : State) (die off : Nat) (bs : List Byte) : State :=
  let old := (s.die die).sm
  let new := smParse old (putBytes (smBytes old) off bs)
  let cgs := s.w.cgs ++ s.images.flatMap fun i => i.world.cgs
  let slots := cgs.foldl (fun t g => tput t g.1 g.2.dsm.slot) []
  modDie s die fun d => { d with sm := if old.en then new else { new with slots := slots } }

/-! The trial block. -/

def trialBytes (t : Trial) : List Byte :=
  let report (l : List Word) : List Byte := bytesOfWords ((List.range 12).map fun i => l.getD i 0)
  bytesOfNat 8 t.lo ++ bytesOfNat 8 t.hi ++ bytesOfNat 4 (t.launch * 65536 + t.d * 256 + bnat (t.en && !t.stopReq))
    ++ bytesOfNat 4 (t.win * 2 ^ 22 + t.e) ++ bytesOfNat 4 t.nwin.toNat ++ bytesOfNat 4 0 ++ report t.base ++ report t.trial

/-- Clk of a trial window. -/
def trialClk (win : Nat) : Nat := win * Config.clkPerUs

/-- Start a window (22 R377). -/
def trialWindow (t : Trial) (trial : Bool) : Trial :=
  { t with inTrial := trial, left := trialClk t.win, counters := List.replicate 12 0 }

/-- The block from its bytes (22 R377). While `ct.en` reads 1 only clearing it acts. Otherwise the fields are written, at once also where
the last window still runs, and setting `ct.en` starts a first baseline window in its place; before a window length has been written it
does nothing (log 45). -/
def trialParse (t : Trial) (b : List Byte) : Trial :=
  let c := fieldAt b 0x10 4
  let e := fieldAt b 0x14 4
  if t.en && !t.stopReq then { t with stopReq := !bitAt c 0 }
  else
    let u := { t with lo := fieldAt b 0 7, hi := fieldAt b 8 7, launch := c / 65536, d := inRange (c / 256 % 256) 1 255 t.d,
                      win := inRange (e / 2 ^ 22) 1 1000 t.win, e := e % 4096 }
    if bitAt c 0 ∧ u.win ≠ 0 then trialWindow { u with en := true, stopReq := false, nwin := 0 } false else u

def trialWrite (s : State) (off : Nat) (bs : List Byte) : State :=
  { s with trial := trialParse s.trial (putBytes (trialBytes s.trial) off bs) }

/-! The replay control block. -/

def replayBytes (r : ReplayBlock) : List Byte :=
  bytesOfNat 8 r.tier.toNat ++ bytesOfNat 4 r.t ++ bytesOfNat 4 r.late.toNat ++ bytesOfNat 8 r.num.toNat
    ++ bytesOfNat 8 (r.olBase + r.olLsize) ++ bytesOfNat 4 r.olWr.toNat ++ bytesOfNat 4 r.olLost.toNat
    ++ bytesOfNat 8 (r.rcBase + r.rcLsize) ++ bytesOfNat 4 (r.rcLaunch * 65536 + bnat r.rcEn) ++ bytesOfNat 4 r.rcWr.toNat
    ++ bytesOfNat 4 r.rcRd.toNat ++ bytesOfNat 4 r.rcLost.toNat

/-- The block from its bytes (20 R362): out-of-range values are ignored. -/
def replayParse (r : ReplayBlock) (b : List Byte) : ReplayBlock :=
  let tier := fieldAt b 0 8
  let o := fieldAt b 0x18 8
  let c := fieldAt b 0x28 8
  let ols := inRange (o % 32) 16 30 r.olLsize
  let rcs := inRange (c % 32) 12 24 r.rcLsize
  let e := fieldAt b 0x30 4
  { r with tier := if tier % 4096 = 0 then BitVec.ofNat 64 tier else r.tier, t := inRange (fieldAt b 8 4 % 1024) 0 1000 r.t,
           olBase := ringBase o ols r.olBase, olLsize := ols, rcBase := ringBase c rcs r.rcBase, rcLsize := rcs,
           rcLaunch := e / 65536, rcEn := bitAt e 0, rcRd := word (fieldAt b 0x38 4) }

/-- Write bytes of the replay control block: a new interval counts from the start of the last checkpoint (20 R358), and race counting
starts from lines without a writer (20 R366). -/
def replayWrite (s : State) (off : Nat) (bs : List Byte) : State :=
  let old := s.rb
  let new := replayParse old (putBytes (replayBytes old) off bs)
  let s := { s with rb := new, ckptAt := if old.t = new.t then s.ckptAt
                                         else if old.t = 0 then s.clk + new.t * Config.clkPerMs
                                         else s.ckptAt + new.t * Config.clkPerMs - old.t * Config.clkPerMs }
  if new.rcEn && (!old.rcEn || decide (new.rcLaunch ≠ old.rcLaunch)) then
    { s with w := { s.w with dies := s.w.dies.map fun d =>
      (d.1, { d.2 with l2 := d.2.l2.map fun l => { l with writers := [] } }) } }
  else s

end Sys2Proof.Machine
end

