-- ==== Sys2Proof/Machine/System.lean ====
section
/-! DEFINITION. Special-register and privileged instructions (18 R325-R327, R330, R335, R336, R340-R344) and those of observation
(22 R372, R378, R380, R381). -/

namespace Sys2Proof.Machine

/-! Special registers (18 R341-R343). -/

/-- SRD (18 R341). -/
def execSrd (w : Wd) (d : Bool) (s : State) : Host.Outcome State Fault Refusal :=
  laneWord s w.ctl 6 false fun s _ t =>
    let x := sregOf s t (srNum w.b)
    if d then out2 (vNum w.a) x 0 else out1 (vNum w.a) (x.truncate 32) 0

/-- What SWR does to a thread (18 R335, R341): `clk` arms the timer. -/
def swrCtx (n : Nat) (v : Word) (t : Thread) : Thread :=
  match n with
  | 10 => { t with timer := if v = 0 then none else some v.toNat, timerDue := false }
  | 18 => { t with ctx := { t.ctx with fflags := v.truncate 6 } }
  | 19 => { t with ctx := { t.ctx with tcause := v } }
  | 20 => { t with ctx := { t.ctx with tval := v } }
  | _ => t

/-- SWR (18 R341). -/
def execSwr (w : Wd) (s : State) : Host.Outcome State Fault Refusal :=
  stateWord s w.ctl fun ix s0 => (activeOf s0 ix w.ctl).foldl (fun s t => modThread s t (swrCtx (srNum w.a) (srcWord s0 t w.b))) s0

/-- CLK (18 R342). -/
def execClk (w : Wd) (s : State) : Host.Outcome State Fault Refusal :=
  laneWord s w.ctl 6 false fun s _ t => out2 (vNum w.a) (BitVec.ofNat 64 (readTime s t (clkOf s t))) 0

/-- WTIME (18 R342). -/
def execWtime (w : Wd) (s : State) : Host.Outcome State Fault Refusal :=
  laneWord s w.ctl 6 false fun s _ t => out2 (vNum w.a) (BitVec.ofNat 64 (readTime s t (wtimeOf s))) 0

/-- SIGRD (18 R343). -/
def execSigrd (w : Wd) (s : State) : Host.Outcome State Fault Refusal :=
  laneWord s w.ctl 24 false fun s ix _ => out1 (vNum w.a) ((s.launch ix.lid).sig.getD (immNat w.b) 0) 0

/-- The word CTXQ writes (18 R343). -/
def ctxWord (s : State) (lid : Nat) (t : ThreadRef) : Word :=
  let l := s.launch lid
  word (l.restores % 256 * 2 ^ 24 + bnat (s.thread t).handler * 2 ^ 23 + bnat l.lr.dsm * 2 ^ 22 + bnat l.priv * 2 ^ 21 + lid % 65536)

/-- CTXQ (18 R343). -/
def execCtxq (w : Wd) (s : State) : Host.Outcome State Fault Refusal :=
  laneWord s w.ctl 6 false fun s ix t => out1 (vNum w.a) (ctxWord s ix.lid t) 0

/-! THE RETURN FROM AN EXCEPTION (18 R325-R327). -/

/-- PRIVILEGE with the word's address (18 R325, R326, R336, R344). -/
def privilegeTrap (ix : Issue) : Trap := plainTrap 0x04 ix.pc

/-- A TRET word: each guard-true thread in handler mode leaves it by its mode; its TRET record names the entry's cause (22 R380). -/
def tretWord (s : State) (w : Wd) (leave : State → ThreadRef → TqEntry → State) : Host.Outcome State Fault Refusal :=
  stateWord s w.ctl fun ix s0 => (activeOf s0 ix w.ctl).foldl (fun s t =>
    match (s.thread t).handler, (s.thread t).trap with
    | true, some e => leave (endHandler (traceRecord s t 4 ix.pc e.cause.toNat 0) t) t e
    | _, _ => trapAt s ix t.tid (privilegeTrap ix)) s0

/-- TRET.res (18 R325). -/
def execTretRes (w : Wd) (s : State) : Host.Outcome State Fault Refusal := tretWord s w resumeAt
/-- TRET.rst (18 R327). -/
def execTretRst (w : Wd) (s : State) : Host.Outcome State Fault Refusal := tretWord s w regionRestart
/-- TRET.term (18 R325, R328): containment with `tcause`. -/
def execTretTerm (w : Wd) (s : State) : Host.Outcome State Fault Refusal :=
  tretWord s w fun s t _ => settleJoins (contain s t ((s.thread t).ctx.tcause.truncate 8)) t.pg

/-- The words of a queue entry (18 R320). -/
def tqWords (e : TqEntry) : List Word :=
  let pc := bnat e.next * 2 ^ 63 + bnat e.defer * 2 ^ 62 + e.pc % 2 ^ 56
  [word (e.cause.toNat * 2 ^ 24 + e.vahi.toNat), e.val, word pc, word (pc / 2 ^ 32), word e.rent, word (e.rent % 2 ^ 56 / 2 ^ 32),
   e.rgn, word (e.tid % 1024)]

/-- The word TQRD reads. -/
def tqrdWord (g : PartGroup) (sel : Nat) : Word := ((g.trapq.map tqWords).getD (sel / 8) []).getD (sel % 8) 0

/-- TQRD (18 R326). -/
def execTqrd (w : Wd) (s : State) : Host.Outcome State Fault Refusal :=
  actWord s w.ctl fun ix s' t =>
    if (s.thread t).handler then
      (pushResult s' ix w.ctl 0 true true t (out1 (vNum w.a) (tqrdWord (s.pg t.pg) (immNat w.b % 256)) 0), none)
    else (s', some (privilegeTrap ix))

/-! KILLG (18 R330). -/

/-- Whether a partition group belongs to the instance of a kill's scope around another. -/
def inKill (s : State) (pg : Nat) (sc : Scope) (other : Nat) : Bool :=
  match sc with
  | .th | .pg => decide (other = pg)
  | .cg => decide (cgOfPg other = cgOfPg pg)
  | .dg => decide ((s.pg other).lid = (s.pg pg).lid) && decide ((s.pg other).dgid = (s.pg pg).dgid)
  | .dev | .sys => decide ((s.pg other).lid = (s.pg pg).lid)

/-- End every live thread of partition groups by containment in terminate mode; `cause` as the first containment reports it. -/
def killThreads (s : State) (pgs : List Nat) (cause : BitVec 8) : State :=
  pgs.foldl (fun s k => (List.range (s.pg k).threads.length).foldl (fun s i => endThread s { pg := k, tid := i } (some cause) true) s) s

/-- A partition group of an image as a kill finds it: it has no place on the device, so its threads stand in no bin and no issue group, and
its streams hold no lock. -/
def PartGroup.placeless (g : PartGroup) : PartGroup :=
  { g with streams := List.replicate 4 Stream.init, threads := g.threads.map fun t => match t.place with
    | .running _ | .bin _ | .overflow | .alone | .team => { t with place := .parked }
    | .empty | .parked | .ended => t }

/-- The core groups of a launch, or of one of its die groups, that a context image still holds come back without places, so that a kill can
end their threads; accesses that they had issued under keys stay to be committed (19 R347). They have no core-group slot (16 is none), so
that no lock entry of another counts as theirs. -/
def unpackImage (s : State) (lid : Nat) (dg : Option Nat) : State :=
  match s.images.find? fun i => i.lid = lid with
  | none => s
  | some img =>
    let out (g : CoreGroup) : Bool := (dg.map fun d => decide (d = g.dgid)).getD true
    let keys := (img.world.cgs.filter fun e => out e.2).map (·.1)
    let rest := img.world.cgs.filter fun e => !out e.2
    { s with
      w := { s.w with
        cgs := img.world.cgs.foldl (fun t e => if out e.2 then tput t e.1 { e.2 with ended := true, engBack := none, slot := 16 } else t) s.w.cgs,
        pgs := img.world.pgs.foldl (fun t e => if keys.contains (cgOfPg e.1) then tput t e.1 e.2.placeless else t) s.w.pgs,
        accs := s.w.accs ++ img.world.accs.filter fun a => keys.contains (cgOfPg a.pg) && a.key.isSome && decide (a.stage ≠ .again) },
      images := (s.images.map fun i => if i.lid = lid then { i with world := { i.world with cgs := rest } } else i).filter fun i =>
        !(decide (i.lid = lid) && i.world.cgs.isEmpty) }

/-- Core groups of a launch's die groups that have not been placed count as placed and ended once their scope is killed. -/
def killUnplaced (s : State) (lid : Nat) (dg : Option Nat) : State :=
  modLaunch s lid fun l => { l with placed := (List.range l.placed.length).map fun d =>
    if (dg.map fun x => decide (x = d)).getD true then l.lr.ncg else l.placed.getD d 0 }

/-- A kill of the instance of a scope around a partition group (18 R330, R329); under .dev the launch ends with `st.out` 3. A core
group's tiles are those of the engine it owns when it is killed (log 11), so its engine operations go before its threads. -/
def killScope (s : State) (pg : Nat) (sc : Scope) (cause : BitVec 8) : State :=
  let g := s.pg pg
  let s := match sc with
    | .th | .pg | .cg => s
    | .dg => unpackImage s g.lid (some g.dgid)
    | .dev | .sys => unpackImage s g.lid none
  let pgs := (s.w.pgs.map (·.1)).filter (inKill s pg sc)
  let s := match sc with
    | .th | .pg => s
    | .cg | .dg | .dev | .sys => ((dedup (pgs.map cgOfPg)).filter fun c => !(s.cg c).ended).foldl (fun s c =>
        modCg (abandonEngines s c) c fun x => { x with killed := false }) s
  let s := killThreads s pgs cause
  match sc with
  | .dg => checkAllBars (killUnplaced s g.lid (some g.dgid)) pg
  | .dev | .sys => modLaunch (killUnplaced s g.lid none) g.lid fun l => { l with out := 3 }
  | .th | .pg | .cg => settleJoins s pg

/-- KILLG (18 R330): several guard-true threads make one kill. -/
def execKillg (w : Wd) (scope : Scope) (s : State) : Host.Outcome State Fault Refusal :=
  match s.issue with
  | none => .next s
  | some ix =>
    if (activeOf s ix w.ctl).isEmpty then .next (retire s ix w.ctl)
    else .next (killScope (spendSlot (acceptFlags s s ix w.ctl) ix w.ctl) ix.pg scope 0x0B)

/-! PRIVW (18 R344). -/

/-- A control address of n bytes lies in a valid row. -/
def controlOk (a n : Nat) : Bool := decide (a + n ≤ 0x200) && decide (a % 0x40 + n ≤ 0x30)

/-- PRIVW (18 R344); its release wait stands before the word issues. -/
def execPrivw (w : Wd) (d : Bool) (s : State) : Host.Outcome State Fault Refusal :=
  actWord s w.ctl fun ix s' t =>
    let n := if d then 8 else 4
    let a := (srcWord s t w.a).toNat
    if a % n ≠ 0 then (s', some (plainTrap 0x05 a))
    else if !(s.launch ix.lid).priv then (s', some (privilegeTrap ix))
    else if !controlOk a n then (s', some (plainTrap 0x01 a))
    else (mcbWrite s' (a / 0x40) (a % 0x40) (bytesOfNat n (srcPair s t w.b).toNat), none)

/-! MFRZ (18 R336, 11 R257). -/

/-- An engine that is no longer frozen goes on: latches close, operations are accepted (11 R257). -/
def thawed (s : State) (core : Nat) : State :=
  if engFrozen (s.core core).eng then s
  else
    let cgs := (s.w.cgs.filter fun g => decide (g.2.core = core) && !g.2.ended).map (·.1)
    let s := cgs.foldl (fun s k => (dedup ((s.cg k).latch.map fun x => gangMembers (s.cg k) x.pgid)).foldl
      (fun s m => closeLatch (s.cg k).latch.length s k m) s) s
    acceptOps s core

/-- The check of MFRZ: handler mode, and a gang that owns the engine or was its last owner. -/
def freezeLane (s : State) (ix : Issue) (t : ThreadRef) (f : State → State) : State × Option Trap :=
  if (s.thread t).handler && (ownsEngine s ix.pg || lastOwner s ix.pg) then (f s, none) else (s, some (privilegeTrap ix))

/-- MFRZ (18 R336). -/
def execMfrz (w : Wd) (s : State) : Host.Outcome State Fault Refusal :=
  actWord s w.ctl fun ix s t => freezeLane s ix t fun s => modEng s ix.core fun e => { e with frozenM := some ix.cg }

/-- MFRZ.thaw (18 R336). -/
def execMfrzThaw (w : Wd) (s : State) : Host.Outcome State Fault Refusal :=
  actWord s w.ctl fun ix s t => freezeLane s ix t fun s => thawed (modEng s ix.core fun e => { e with frozenM := none }) ix.core

/-! Observation (22 R378, R380, R381). -/

/-- PROGRESS (22 R378). -/
def execProgress (w : Wd) (s : State) : Host.Outcome State Fault Refusal :=
  stateWord s w.ctl fun ix s =>
    if s.trial.en ∧ s.trial.launch = ix.lid then
      (activeOf s ix w.ctl).foldl (fun s _ =>
        { s with trial := { s.trial with counters := s.trial.counters.modify (immNat w.b % 8) satInc } }) s
    else s

/-- MARK (22 R380). -/
def execMark (w : Wd) (s : State) : Host.Outcome State Fault Refusal :=
  stateWord s w.ctl fun ix s0 => (activeOf s0 ix w.ctl).foldl (fun s t =>
    traceRecord s t 0 ix.pc (srcWord s0 t w.c).toNat (immNat w.b % 65536)) s0

/-- STOPP (22 R381): one notice for the lowest guard-true thread; nothing in a launch that no debugger has claimed. -/
def execStopp (w : Wd) (s : State) : Host.Outcome State Fault Refusal :=
  match s.issue with
  | none => .next s
  | some ix =>
    let s' := retire (acceptFlags s s ix w.ctl) ix w.ctl
    .next (match activeOf s ix w.ctl with
      | [] => s'
      | t :: _ =>
        if (tget? s.w.claims ix.lid).isSome then
          sendNotice (stopPart s' ix.lid ix.part) ix.lid 0 ix.core (ix.part % 6) (gtidOf s t) 0 0 ix.pc
        else s')

end Sys2Proof.Machine
end

