-- ==== Sys2Proof/Machine/Issue.lean ====
section
/-! DEFINITION. When an issue group may issue its next word (02 R33-R36, R43; 06 R116, R124, R132): the scoreboard, busy units, full
flag counts, the waits that stand before a word, and the groups held after one. -/

namespace Sys2Proof.Machine

/-! Launches that run. -/

/-- A launch's groups are drawn and issue: it is neither being stopped nor saved (18 R331), and no checkpoint has stopped the launches
(20 R358). -/
def launchRuns (s : State) (lid : Nat) : Bool :=
  match (s.launch lid).run with
  | .running | .notice _ _ => !s.ckptStop
  | .stopping _ | .saved => false

/-- A restored core group runs once the gang that owned the engine at the stop owns it again (11 R257, 18 R332). -/
def engineBack (s : State) (cg : Nat) : Bool :=
  match (s.cg cg).engBack with
  | some b => !b.owned
  | none => true

/-- The partitions of a core. -/
def partsOfCore (core : Nat) : List Nat := (List.range 6).map (partKey core)

/-- A core group stands inside a slot that it has begun: a partition has drawn or issued in it. A stop lets it finish that slot (18
R331). -/
def midSlot (s : State) (cg : Nat) : Bool :=
  let g := s.cg cg
  (s.launch g.lid).lr.dsm && decide ((s.launch g.lid).run ≠ .saved)
    && (partsOfCore g.core).any fun p => (s.part p).issued || (s.part p).drew

/-- A partition group may be drawn and issue. -/
def pgRuns (s : State) (pg : Nat) : Bool :=
  (launchRuns s (s.pg pg).lid || midSlot s (cgOfPg pg)) && engineBack s (cgOfPg pg)

/-- A core group's launch runs under DSM. -/
def dsmCg (s : State) (cg : Nat) : Bool := (s.launch (s.cg cg).lid).lr.dsm

/-- The DSM core group that a core holds, if it holds one (06 R111, R130). -/
def dsmOfCore (s : State) (core : Nat) : Option Nat :=
  (s.w.cgs.find? fun e => decide (e.2.core = core) && !e.2.ended && (s.launch e.2.lid).lr.dsm).map (·.1)

/-- The time a partition counts by: clk, or the slots of its DSM core group (06 R131). -/
def partTime (s : State) (part : Nat) : Nat :=
  match dsmOfCore s (coreOfPart part) with
  | some cg => (s.cg cg).dsm.slot
  | none => s.clk

/-! The registers and predicates of a word (02 R34). -/

/-- The v registers that an operand reads or writes. -/
def opdRegs (k : OpKind) (o : Opd) : List Nat :=
  match o with
  | .v r _ _ =>
    let n := match k with
      | .src _ w64 _ => if w64 then 2 else 1
      | .vsrc n _ | .vdst n _ | .vrw n _ _ => n
      | .base => 2
      | .none | .packed | .srcImm _ _ | .pdst | .psrc | .prw | .imm _ _ | .off | .atomOff _ | .tileOff | .res _ | .ctr | .slot
      | .kpair | .sreg | .sregW | .occ | .vimm _ _ => 1
    (List.range n).map fun i => r.toNat + i
  | .p .. | .k .. | .sr _ | .imm _ | .role _ | .res .. | .none => []

/-- The predicate of an operand; `pt` is never in flight. -/
def opdPreds (o : Opd) : List Nat :=
  match o with
  | .p n _ => if n = 7 then [] else [n.toNat]
  | .v .. | .k .. | .sr _ | .imm _ | .role _ | .res .. | .none => []

/-- The registers a word reads or writes; QPOP of a 64-bit stream writes a pair (09 R222). -/
def regsUsed (s : State) (pg : Nat) (i : Instr) : List Nat :=
  let k := i.kinds
  let o := i.operands
  let rs := opdRegs k.1 o.1 ++ opdRegs k.2.1 o.2.1 ++ opdRegs k.2.2 o.2.2
  match i with
  | .qpop w => if (sdType (streamOf s pg (resNum (s.lrOfPg pg) w.b)).desc).is64 then (vNum w.a + 1) :: rs else rs
  | .movi w => vNum w.a :: rs
  | _ => rs

/-- The predicates a word reads or writes: its guard, its operands, and those that its modifier or an immediate names. -/
def predsUsed (i : Instr) : List Nat :=
  let o := i.operands
  let base := opdPreds o.1 ++ opdPreds o.2.1 ++ opdPreds o.2.2
  match i with
  | .sel _ _ _ pn | .xlane _ _ pn _ => pn.toNat :: base
  | .p2v _ => List.range 7 ++ base
  | .v2p w => (List.range 7).filter (fun n => bitAt (immNat w.c) n) ++ base
  | _ => base

/-- FCHK, FFLAGS and SWR of `fflags` wait for every flag still to be raised (07 R139). -/
def waitsRaise (i : Instr) : Bool :=
  match i with
  | .fchk _ | .fflags _ => true
  | .swr w => decide (srNum w.a = 18)
  | _ => false

/-- A write in flight that a thread's word must wait for (02 R34). DEDUCED (log 121): a flag-raising instruction is one whose result raises a
flag. -/
def inFlight (s : State) (t : ThreadRef) (regs preds : List Nat) (raise : Bool) : Bool :=
  s.w.pends.any fun p => decide (p.th = t)
    && (p.regs.any (fun r => regs.contains r) || p.preds.any (fun x => preds.contains x.1) || (raise && decide (p.raise ≠ 0)))

/-- The scoreboard holds a group: its guards are in flight, or a guard-true thread would read or write what is (02 R34). -/
def scoreboardHold (s : State) (pg : Nat) (tids : List Nat) (i : Instr) : Bool :=
  match i.ctl? with
  | none => false
  | some c =>
    let guard := if c.pred = 7 then [] else [c.pred.toNat]
    let regs := regsUsed s pg i
    let preds := predsUsed i
    tids.any fun n =>
      let t : ThreadRef := { pg := pg, tid := n }
      inFlight s t [] guard false || (guardOf s c t && inFlight s t regs preds (waitsRaise i))

/-- The first word of a clause waits until its members' earlier fixed-latency writes have completed (01 R21, 02 R38). -/
def spacingHold (s : State) (g : Group) : Bool :=
  decide (g.pc = g.hdr + 12) && s.w.pends.any fun p =>
    !p.isVar && (!p.regs.isEmpty || !p.preds.isEmpty) && decide (p.th.pg = g.pg) && g.tids.contains p.th.tid

/-! Busy units and throttling (02 R43, 04 R84, 11 R258). -/

/-- The words of the f64 pipe (02 R44, class 0x05). -/
def isF64 (i : Instr) : Bool :=
  match i with
  | .dadd _ | .dmul _ | .dfma _ | .dmin _ | .dmax _ | .dcmp .. | .drnd .. => true
  | _ => false

/-- The joint instructions (11 R239). -/
def isJoint (i : Instr) : Bool :=
  match i with
  | .mma .. | .mmas .. | .mzero _ | .mdrain _ | .mfill _ => true
  | _ => false

/-- Power throttling withholds matrix-engine and f64 slots; a DSM core group is frozen whole instead (04 R84). DEDUCED (log 114): a
matrix-engine slot is one of the joint instructions, which give the engine its work, and no other word of class 0x10. -/
def unitBusy (s : State) (part : Nat) (dsm : Bool) (i : Instr) : Bool :=
  let p := s.part part
  let now := partTime s part
  (isF64 i && decide (now < p.f64Free)) || (s.mgmt.throttling && !dsm && (isF64 i || isJoint i))
    || (match i with
        | .idivn .. => decide (now < p.divFree)
        | .vmma .. | .vmmai _ | .vfrag .. => decide (now < p.fragFree)
        | _ => false)

/-- A flag's count would pass 63 (02 R36). -/
def flagsFull (s : State) (ix : Issue) (c : Ctl) : Bool :=
  let fl := flagsOf ix c
  (activeOf s ix c).any fun t => fl.any fun f => decide (63 < (s.thread t).ctx.flags.getD f 0 + (fl.filter (· = f)).length)

/-! Waits that stand before a word. -/

/-- The accesses of the threads with acquire ordering that are still to be performed (15 R314), in a DSM launch its window accesses at their
slots (19 R345). -/
def acquireWait (s : State) (ix : Issue) (ts : List ThreadRef) : Bool :=
  if (s.launch ix.lid).lr.dsm then s.w.pends.any fun p => p.win && p.acq && ts.contains p.th
  else earlier s ix ts fun a _ => ordAcq a.ord

/-- Earlier accesses of the threads whose values have not returned (09 R207), in a DSM launch its window accesses at their slots (19
R345). -/
def returnWait (s : State) (ix : Issue) (ts : List ThreadRef) : Bool :=
  if (s.launch ix.lid).lr.dsm then s.w.pends.any fun p => p.win && p.owes && ts.contains p.th
  else earlier s ix ts (fun _ l => l.pend.isSome) || s.w.travs.any fun v => ts.contains v.th

/-- Earlier accesses of the threads that L1 has still to take: all that an A-buffer access with ordering waits for (09 R204). -/
def l1Wait (s : State) (ix : Issue) (ts : List ThreadRef) : Bool :=
  earlier s ix ts fun a _ => (a.kind.isLoad || decide (a.kind = .store)) && decide (a.stage ≠ .window) && !a.nc

/-- The scope at which a word performs a release wait before it issues: fences and barrier arrivals (09 R207; 14 R298, R303), joint
instructions (11 R240), and what hands work to other units (05 R102; 11 R256; 13 R294; 18 R344; 20 R353; 09 R209). -/
def relScope (s : State) (ix : Issue) (i : Instr) : Option Scope :=
  match i with
  | .fence _ sc ord => if ordRel ord then some sc else none
  | .bara w | .baraw w => some (barScope (barNum s ix w.a))
  | .teamj _ => some .pg
  | .mma .. | .mmas .. | .mzero _ | .mdrain _ | .mfill _ => some .cg
  | .tenq .. | .dcdec _ | .launch _ | .mutl _ | .mdep _ => some .dev
  | .privw .. | .hwsig .. => some .sys
  | .exit _ => if (s.launch ix.lid).lr.cvout ≠ 0 ∨ (s.launch ix.lid).lr.taskServer then some .dev else none
  | .st _ _ sc ord _ | .atom _ _ sc ord | .cas _ _ sc ord | .red _ _ sc ord | .fred _ _ sc ord | .redobjInit _ _ sc ord
  | .redobjFold _ _ sc ord | .imst _ _ sc ord => if (s.launch ix.lid).lr.dsm && ordRel ord then some sc else none
  | .asupd _ => if (s.launch ix.lid).lr.dsm then some .dev else none
  | _ => none

/-- A word that reads or writes memory in the step that issues it (log 15): an earlier acquire of its threads stands before it (15
R314). -/
def actsNow (i : Instr) : Bool :=
  match i with
  | .ldk .. | .pref .. | .tenq .. | .launch _ | .mutl _ | .cflush _ | .cinv .. | .hwsig .. | .bcopy _ | .bgath _ | .bscat _ | .cbld _
  | .aslice _ | .resv _ | .sproj _ | .ssort _ | .sfetch .. | .cdep _ | .cwmark _ | .cread _ | .crlist _ | .crst _ | .crstRel _ | .rproj _
  | .rwlist _ | .trace .. | .tex _ | .tld _ | .imst .. | .imld .. | .draw _ | .drawf _ | .drawb _ | .cvts .. | .qpop _ | .lda .. | .sta ..
  | .privw .. => true
  | _ => false

/-- A Ladle word outside DSM follows those of lower partitions in a clk (12 R276). -/
def ladleWaits (s : State) (ix : Issue) (i : Instr) : Bool :=
  match i with
  | .cdep _ | .cwmark _ | .cread _ | .crlist _ | .crst _ | .crstRel _ =>
    let at' := (s.core ix.core).ladleAt
    !(s.launch ix.lid).lr.dsm && decide (at'.1 = s.clk + 1) && decide (ix.part < at'.2)
  | _ => false

/-- A request for the engine finds the ownership queue full (11 R241). -/
def queueFull (s : State) (pg : Nat) : Bool :=
  !ownsEngine s pg && !waitsEngine s pg && decide (16 ≤ (engOf s pg).queue.length)

/-- The numbers of every guard-true thread of RFREE may be freed (11 R247). -/
def rfreeOver (s : State) (ix : Issue) (w : Wd) (ts : List ThreadRef) : Bool :=
  ts.all fun t => rfreeReady s ix.core ((srcWord s t w.b).toNat % 16)

/-- A thread of an arrival is misuse: that is found before the release wait (14 R300). -/
def arrivalMisuse (s : State) (ix : Issue) (i : Instr) (ts : List ThreadRef) : Bool :=
  match i with
  | .bara w | .baraw w => ts.any (misuses s ix (barNum s ix w.a))
  | _ => false

/-- What a word waits for as a fence does (09 R206, R207; 15 R314): its release wait, earlier acquires, and of an A-buffer access with
ordering the accesses that L1 has still to take. -/
def fenceWaits (s : State) (ix : Issue) (i : Instr) (ts : List ThreadRef) : Bool :=
  (!arrivalMisuse s ix i ts && ((relScope s ix i).map fun sc => releaseWait s ix ts sc).getD false) || (actsNow i && acquireWait s ix ts)
    || match i with
      | .fence _ _ ord => ordAcq ord && returnWait s ix ts
      | .sta _ _ sc ord => ordRel ord && decide (sc ≠ .th) && l1Wait s ix ts
      | .lda _ _ sc ord => ordAcq ord && decide (sc ≠ .th) && l1Wait s ix ts
      | _ => false

/-- What a word waits for of an engine, a queue or a unit. -/
def unitWaits (s : State) (ix : Issue) (i : Instr) (ts : List ThreadRef) : Bool :=
  ladleWaits s ix i || match i with
    | .qpop w => !qpopReady s ix w
    | .hwsig .. => decide (256 < s.signals.length + ts.length)
    | .mdep w => !mdepReady s ix w
    | .tgwait w _ => !tgwaitOver s ix w
    | .mwait w => !mwaitOver s ix w
    | .mrel _ => !ts.isEmpty && gangBusy s ix.pg
    | .gang w => (match ts with
        | [] => false
        | t :: _ => match gangStep s ix (srcWord s t w.b) with
          | .alone | .ask => gangBusy s ix.pg
          | .trap | .nothing => false)
    | .rfree w => !rfreeOver s ix w ts
    | .macq _ | .mma .. | .mmas .. | .mzero _ | .mdrain _ | .mfill _ => !ts.isEmpty && queueFull s ix.pg
    | .asq _ => s.w.travs.any fun v => ts.any fun t => decide (v.th = t)
    | _ => false

/-- What a word waits for before it issues. -/
def wordWaits (s : State) (ix : Issue) (i : Instr) (c : Ctl) : Bool :=
  let ts := activeOf s ix c
  fenceWaits s ix i ts || unitWaits s ix i ts

/-! Eligibility. -/

/-- The issue of a group's next word, as `State.issue` gives it once the group is `cur`. -/
def issueAt (s : State) (part pos : Nat) : Option Issue := ({ s with cur := some { part := part, pos := pos } } : State).issue

/-- The next word of a group, decoded. -/
def nextWord (g : Group) : Option Instr :=
  match g.words with
  | [] => none
  | x :: _ => match decodeWord x with
    | .ok i => some i
    | .error _ => none

/-- A group's word is held by the scoreboard. -/
def groupHazard (s : State) (g : Group) : Bool :=
  match nextWord g with
  | none => false
  | some i => scoreboardHold s g.pg g.tids i || spacingHold s g

/-- Nothing but a yield keeps a group from issuing (06 R124). A thread that issues an abandoned word again has its operands with it. -/
def couldIssue (s : State) (part pos : Nat) : Bool :=
  match tget? (s.part part).groups pos with
  | none => false
  | some g =>
    g.ready && decide (g.stall = 0) && decide (g.hold = .free) && pgRuns s g.pg && (g.redo || match issueAt s part pos, nextWord g with
    | some ix, some i =>
      match i.ctl? with
      | none => true
      | some c =>
        decide (g.spacing = 0) && !groupHazard s g && !unitBusy s part (s.launch ix.lid).lr.dsm i && !flagsFull s ix c && !wordWaits s ix i c
    | _, _ => false)

/-- A yielding group waits until the others that could issue have issued (02 R35). -/
def yieldHeld (s : State) (part : Nat) (g : Group) : Bool := g.yieldFor.any fun p => couldIssue s part p

/-- A group may issue its next word in this clk or slot: the partition has not issued yet and is not stopped. -/
def mayIssue (s : State) (part pos : Nat) : Bool :=
  let p := s.part part
  !p.issued && !p.stopped && couldIssue s part pos && !yieldHeld s part (s.group part pos)

/-- A group held after a word asks again for the engine (11 R241): the queue was full when its gang asked, as MACQ or with an operation that
has closed the latch, and is no longer. -/
def asksAgain (s : State) (pg : Nat) (h : Hold) : Bool :=
  let offered := (engOf s pg).ops.any fun o => !o.accepted && o.gang.has (cgOfPg pg) (s.pg pg).pgid
  (decide (h = .own) || ((decide (h = .joint) || decide (h = .joined)) && offered)) && !ownsEngine s pg && !waitsEngine s pg && !queueFull s pg

/-- A group held after a word goes on, or asks again for the engine. -/
def mayGoOn (s : State) (part pos : Nat) : Bool :=
  let p := s.part part
  match tget? p.groups pos with
  | none => false
  | some g =>
    !p.stopped && pgRuns s g.pg && decide (g.hold ≠ .free) && !g.words.isEmpty && g.ready && (holdOver s part pos g || asksAgain s g.pg g.hold)

/-- The order in which a partition's positions are looked at: least recently issued first, under DSM in rotation (06 R124, R132). -/
def issueOrder (s : State) (part : Nat) : List Nat :=
  let p := s.part part
  match dsmOfCore s (coreOfPart part) with
  | some _ => (sortBy (fun e : Nat × Group => (e.1 + 64 - (p.rot + 1) % 64) % 64) p.groups).map (·.1)
  | none => (sortBy (fun e : Nat × Group => e.2.last) p.groups).map (·.1)

/-- The position that issues next on a partition, if one may. -/
def nextIssuer (s : State) (part : Nat) : Option Nat :=
  (issueOrder s part).find? fun pos => mayIssue s part pos || mayGoOn s part pos

/-! Reads of time (20 R364). -/

/-- The value a word reads of `clk`, `clkh` or `wtime`. -/
def timeRead (s : State) (t : ThreadRef) (i : Instr) : Option Nat :=
  let sr (o : Opd) : Option Nat := match o with
    | .sr n => if n = 10 ∨ n = 11 ∨ n = 12 then some (sregOf s t n.toNat).toNat else none
    | .v .. | .p .. | .k .. | .imm _ | .role _ | .res .. | .none => none
  match i with
  | .clk _ => some (readTime s t (clkOf s t))
  | .wtime _ => some (readTime s t (wtimeOf s))
  | .swr _ => none
  | _ => match sr i.operands.2.1 with
    | some v => some v
    | none => sr i.operands.2.2

/-- Log the reads of time of a word that has issued from a state: one record for each guard-true thread (20 R364). A word that is held
has read nothing. -/
def logReads (s0 : State) (ix : Issue) (i : Instr) (s : State) : State :=
  match i.ctl? with
  | none => s
  | some c =>
    if (s.part ix.part).issued then
      (activeOf s0 ix c).foldl (fun s t => match timeRead s0 t i with
        | some v => appendLog s { type := 1, launch := ix.lid, who := gtidOf s0 t, seq := 0, val := v }
        | none => s) s
    else s

/-! Abandoned words (18 R332). -/

/-- Drop an abandoned word of a thread, with the results that it owes. -/
def dropAbandoned (s : State) (t : ThreadRef) (pc : Nat) : State :=
  let acc (a : Acc) : Bool := a.abandonedOf t && decide (a.site.pc = pc)
  let trav (v : Trav) : Bool := v.idle && decide (v.th = t) && decide (v.pc = pc)
  let ids := (s.w.accs.filter acc).flatMap (fun a => a.lanes.filterMap fun l => l.pend) ++ (s.w.travs.filter trav).map fun v => v.pend
  let s := { s with w := { s.w with accs := s.w.accs.filter (fun a => !acc a), travs := s.w.travs.filter fun v => !trav v } }
  ids.foldl (fun s id => match s.w.pends.find? fun p => decide (p.id = id) with
    | some p => lowerFlags (dropPend s id) t p.cflags
    | none => s) s

/-- A thread has trapped at an abandoned word that it was to issue again: it parks once it has issued the others. -/
def abandonedEnd (s : State) (t : ThreadRef) (pc : Nat) : State :=
  if (s.thread t).live then
    redoNext (modThread (dropAbandoned s t pc) t fun y => { y with held := .free, redo := y.redo.map fun r => { r with place := .parked } }) t
  else s

/-- An abandoned word traps when it is issued again. -/
def abandonedTrap (s : State) (t : ThreadRef) (x : Trap) (site : WordAt) : State := abandonedEnd (trapCall s t x site false) t site.pc

/-- The checks of a thread's abandoned accesses of a word, made again: their new places, or the first trap. -/
def recheck (s : State) (t : ThreadRef) (l : List Acc) : State × Except Trap (List (Nat × Target)) :=
  l.foldl (fun acc a => match acc with
    | (s, .error e) => (s, .error e)
    | (s, .ok done) => match checkAccess s t.pg a.va a.bytes a.kind.need true with
      | (s, .error e) => (s, .error e)
      | (s, .ok x) => (s, .ok (done ++ [(a.id, x)]))) (s, .ok [])

/-- An access stands at a target. -/
def Acc.placed (a : Acc) (x : Target) : Acc :=
  match x with
  | .window off => { a with stage := .window, pa := off, nc := false }
  | .dram pa nc => { a with stage := .home, pa := pa, nc := nc }
  | .demand | .fail _ => { a with stage := .frame, pa := 0, nc := false }

/-- A thread issues an abandoned word again, alone (18 R332): its accesses are sent again, its traversal starts again; then, after the end
of a REDOBJ, it goes on to the next such word, or to where it stood. -/
def reissueLane (s : State) (ix : Issue) (t : ThreadRef) : State :=
  match recheck s t (s.w.accs.filter fun a => a.abandonedOf t && decide (a.site.pc = ix.pc)) with
  | (s, .error e) => abandonedTrap s t e (siteOf ix)
  | (s, .ok l) =>
    let accs := s.w.accs.map fun a => match l.find? fun x => decide (x.1 = a.id) with
      | some x => a.placed x.2
      | none => a
    let travs := s.w.travs.map fun v => if v.th = t ∧ v.pc = ix.pc then { v with idle := false, due := 0 } else v
    let s := { s with w := { s.w with accs := accs, travs := travs } }
    if s.w.pends.any fun p => p.holds && decide (p.th = t) && decide (p.site.pc = ix.pc)
    then modGroup s ix.part ix.pos fun g => { g with hold := .result } else redoNext s t

/-- The word of a group that issues abandoned words again. -/
def reissueWord (s : State) (ix : Issue) (c : Ctl) : State :=
  ix.tids.foldl (fun s i => reissueLane s ix { pg := ix.pg, tid := i }) (spendSlot s ix c)

/-- ISSUE (06 R124): the group at a position issues its next word, whose meaning is `run`; a held group goes on with its next word,
or asks for the engine again. -/
def issueGroup (run : Instr → State → Host.Outcome State Fault Refusal) (part pos : Nat) (s : State) :
    Host.Outcome State Fault Refusal :=
  let g := s.group part pos
  let cur : State := { s with cur := some { part := part, pos := pos, word := s.w.nextId } }
  match issueAt s part pos with
  | none => .next s
  | some ix =>
    if g.hold ≠ .free then
      .next (if !holdOver s part pos g then requestEngine s g.pg
             else if g.redo then ix.tids.foldl (fun s i => redoNext s { pg := ix.pg, tid := i }) s
             else advance (acceptHeld s ix) ix)
    else
      match nextWord g with
      | none => .next s
      | some i =>
        if g.redo then .next (match i.ctl? with
          | some c => reissueWord s ix c
          | none => s)
        else
        match run i cur with
        | .next s' => .next { logReads s ix i s' with cur := none }
        | .fault f => .fault f
        | .refused r => .refused r

end Sys2Proof.Machine
end

