-- ==== Sys2Proof/Machine/Sched.lean ====
section
/-! DEFINITION. The scheduler's events (06 R116-R126, R132; 02 R34-R38, R42): draws, bins and the overflow path, stall and yield
expiry, clause fetch, results. -/

namespace Sys2Proof.Machine

/-! What a partition holds. -/

/-- The partition groups of a partition that may be drawn, in ascending thread place. -/
def pgsOn (s : State) (part : Nat) : List (Nat × PartGroup) :=
  sortBy (fun e : Nat × PartGroup => e.2.base) (s.w.pgs.filter fun e => decide (e.2.part = part) && !e.2.ended)

/-- Threads of a partition group in a place whose wait condition holds (06 R121). -/
def readyTids (g : PartGroup) (f : Place → Bool) : List Nat := tidsWhere g fun t => f t.place && t.ready

/-- What a draw may choose: a bin, or the overflow path as number 64 (06 R119). -/
structure Cand where
  num : Nat
  pg : Nat
  pc : Nat
  ready : List Nat
  age : Nat
  aged : Bool
deriving DecidableEq, Repr

/-- The bins of a partition with ready threads. -/
def binCands (s : State) (part : Nat) : List Cand :=
  ((s.part part).bins.map fun b =>
    ({ num := b.1, pg := b.2.pg, pc := b.2.pc, ready := readyTids (s.pg b.2.pg) (fun pl => decide (pl = .bin b.1)), age := b.2.age,
       aged := binAgedBefore s b.2 } : Cand)).filter fun c => !c.ready.isEmpty

/-- The ready overflowed threads of a partition: partition group, `tid`. -/
def overflowReady (s : State) (part : Nat) : List (Nat × Nat) :=
  (pgsOn s part).flatMap fun e => (readyTids e.2 fun pl => decide (pl = .overflow)).map fun i => (e.1, i)

/-- The overflow path as a bin (06 R119): keyed by the next PC of its lowest-`tid` ready thread. -/
def overflowCand (s : State) (part : Nat) : List Cand :=
  match minBy? (fun x : Nat × Nat => x.2) (overflowReady s part) with
  | none => []
  | some (pg, i) =>
    let pc := (s.thread { pg := pg, tid := i }).pc
    let b : Bin := { pg := pg, pc := pc, age := (s.part part).ovAge, aged := false }
    [{ num := Config.bins, pg := pg, pc := pc,
       ready := (readyTids (s.pg pg) fun pl => decide (pl = .overflow)).filter fun j => decide ((s.thread { pg := pg, tid := j }).pc = pc),
       age := b.age, aged := binAgedBefore s b }]

/-- A clause is entirely present in a partition's instruction cache (06 R116). -/
def clausePresent (s : State) (part pg va : Nat) : Bool := (peekClause s part (s.launch (s.pg pg).lid).space va).isSome

/-- The failed fetch of a clause (08 R181). -/
def fetchFailed (s : State) (part pg va : Nat) : Option (BitVec 8) :=
  ((s.part part).failed.find? fun f => decide (f.pg = pg) && decide (f.va = va)).map fun f => f.cause

/-- A bin may be drawn: its clause is present, or its fetch has failed (06 R122). -/
def drawable (s : State) (part pg va : Nat) : Bool := clausePresent s part pg va || (fetchFailed s part pg va).isSome

/-- Lane positions of threads. -/
def lanesOf (tids : List Nat) : List Nat := (List.range 32).filter fun l => tids.any fun i => laneOf i = l

/-- A bin is full (06 R122). -/
def binFull (s : State) (c : Cand) : Bool :=
  let full := (s.lrOfPg c.pg).full
  decide (Nat.min (if full = 0 then 32 else full) (lanesOf (tidsWhere (s.pg c.pg) Thread.live)).length ≤ (lanesOf c.ready).length)

/-- The bin that is drawn (06 R122, R132), if one qualifies. -/
def chooseBin (s : State) (part : Nat) : Option Cand :=
  let cs := (binCands s part ++ overflowCand s part).filter fun c => pgRuns s c.pg && drawable s part c.pg c.pc
  let full := cs.filter (binFull s)
  let second := match dsmOfCore s (coreOfPart part) with
    | some _ => minBy? (fun c : Cand => c.pc) full
    | none => full.find? fun c => clausePresent s part c.pg c.pc
  match maxBy? (fun c : Cand => c.age) (cs.filter fun c => c.aged), second, full with
  | some c, _, _ => some c
  | none, some c, _ => some c
  | none, none, c :: _ => some c
  | none, none, [] => if (s.part part).groups.isEmpty then maxBy? (fun c : Cand => c.ready.length) cs else none

/-- The thread a draw takes at a lane position (06 R123). -/
def drawnAt (s : State) (c : Cand) (l : Nat) : Option Nat :=
  let here := c.ready.filter fun i => laneOf i = l
  match here.find? fun i => (s.thread { pg := c.pg, tid := i }).passed with
  | some i => some i
  | none => here.head?

/-- The threads a draw takes, in ascending `tid`. -/
def drawnOf (s : State) (c : Cand) : List Nat := sortBy id ((List.range 32).filterMap (drawnAt s c))

/-! Draws. -/

/-- A group of threads at a new position: it issues no earlier than the next clk (06 R122). -/
def newGroup (s : State) (part pg : Nat) (tids : List Nat) : State × Nat :=
  let pos := (firstFree 1024 fun n => (tget? (s.part part).groups n).isNone).getD 0
  let s := tids.foldl (fun s i => setPlace s { pg := pg, tid := i } (.running pos)) s
  (modPart s part fun p => { p with drew := true, groups := tput p.groups pos { Group.none with pg := pg, tids := tids, stall := 1,
                                                                                                ready := false } }, pos)

/-- A bin without ready threads has age 0 (06 R121). -/
def settleAge (s : State) (part n : Nat) : State :=
  if n = Config.bins then
    if (overflowReady s part).isEmpty then modPart s part fun p => { p with ovAge := 0 } else s
  else
    modPart s part fun p => { p with bins := p.bins.map fun b =>
      if b.1 = n && (readyTids (s.pg b.2.pg) fun pl => decide (pl = .bin n)).isEmpty then (n, { b.2 with age := 0, aged := false }) else b }

/-- Forget a failed fetch once its threads have been drawn. -/
def clearFail (s : State) (part pg va : Nat) : State :=
  modPart s part fun p => { p with failed := p.failed.filter fun f => !(decide (f.pg = pg) && decide (f.va = va)) }

/-- Draw from a bin (06 R123): the passed bits, the new group, and its arrival at the header. -/
def drawBin (s : State) (part : Nat) (c : Cand) : State :=
  let ts := drawnOf s c
  let served := ts.map laneOf
  let mark (b : Bool) (l : List Nat) (s : State) : State := l.foldl (fun s i => modThread s { pg := c.pg, tid := i } fun x =>
    { x with passed := b }) s
  let s := mark true (c.ready.filter fun i => !ts.contains i && served.contains (laneOf i)) s
  let s := mark false ts s
  let (s, pos) := newGroup s part c.pg ts
  let s := settleAge s part c.num
  match fetchFailed s part c.pg c.pc with
  | some cause => groupTraps (clearFail s part c.pg c.pc) c.pg ts (memTrap cause c.pc) c.pc
  | none => arriveHeader s part pos c.pc

/-- The word at which a thread drawn alone stands: the abandoned word that it issues again (18 R332), or its resume word (R325). -/
def Thread.aloneAt (t : Thread) : WordAt :=
  match t.redo with
  | some r => r.words.headD { pc := t.pc, hdr := t.hdr, len := 32 }
  | .none => { pc := t.pc, hdr := t.hdr, len := 32 }

/-- A thread may be drawn alone, or with its team: what it waits for does not keep it from issuing abandoned words again. -/
def Thread.special (t : Thread) : Bool :=
  (decide (t.place = .alone) && (t.ready || t.redo.isSome)) || (decide (t.place = .team) && t.ready)

/-- Threads that are drawn before any bin, at the next draw (14 R303, 18 R325): the first of a partition, in ascending place: the threads,
the clause's header, whether it stands inside its clause. A team waits for a member that still issues abandoned words again. -/
def specialCand (s : State) (part : Nat) : Option (Nat × List Nat × Nat × Bool) :=
  ((pgsOn s part).filter fun e => pgRuns s e.1).findSome? fun e =>
    (tidsWhere e.2 Thread.special).findSome? fun i =>
      let t := s.thread { pg := e.1, tid := i }
      if t.place = .alone then some (e.1, [i], t.aloneAt.hdr, true)
      else if (tidsWhere e.2 fun u => decide (u.redo.map (·.place) = some .team)).all (fun j => teamOf j ≠ teamOf i) then
        some (e.1, (tidsWhere e.2 fun u => decide (u.place = .team) && decide (u.pc = t.pc)).filter fun j => teamOf j = teamOf i, t.pc, false)
      else none

/-- A thread drawn alone enters its clause at its word (02 R37); an abandoned word is all that it then issues. -/
def enterAlone (s : State) (part pos : Nat) (t : ThreadRef) (cl : List IWord) : State :=
  let w := (s.thread t).aloneAt
  let s := resumeClause s part pos w.hdr w.pc cl
  if (s.thread t).redo.isNone then s
  else if (s.thread t).place = .running pos then modGroup s part pos fun g => { g with words := g.words.take 1, redo := true }
  else abandonedEnd s t w.pc

/-- A thread drawn alone stands at its word and waits for its clause there (06 R116); what a word of the group that it has left still waits
for holds it there too (18 R332). -/
def standAlone (s : State) (part pos : Nat) (t : ThreadRef) : State :=
  let th := s.thread t
  let s := modGroup s part pos fun g =>
    { g with pc := th.aloneAt.pc, hdr := th.aloneAt.hdr, words := [], hold := if th.redo.isSome then .free else th.held }
  if th.redo.isSome then s else modThread s t fun x => { x with held := .free }

/-- Draw a thread alone or a joined team. A thread alone whose clause cannot be fetched traps at its word. -/
def drawSpecial (s : State) (part : Nat) (c : Nat × List Nat × Nat × Bool) : State :=
  let (pg, ts, hdr, alone) := c
  let (s, pos) := newGroup s part pg ts
  let t : ThreadRef := { pg := pg, tid := ts.headD 0 }
  match fetchFailed s part pg hdr with
  | some cause =>
    let s := clearFail s part pg hdr
    let x := memTrap cause hdr
    if !alone then ts.foldl (fun s i => trapCall s { pg := pg, tid := i } x (atHeader hdr) false) s
    else if (s.thread t).redo.isSome then abandonedTrap s t x (s.thread t).aloneAt
    else trapCall s t x (s.thread t).aloneAt false
  | none =>
    if alone then
      let s := standAlone s part pos t
      match peekClause s part (s.launch (s.pg pg).lid).space hdr with
      | some cl => enterAlone s part pos t cl
      | none => s
    else arriveHeader s part pos hdr

/-- A partition may draw in this clk or slot, before it issues (06 R122, R132). -/
def mayDraw (s : State) (part : Nat) : Bool :=
  let p := s.part part
  !p.drew && !p.issued && !p.stopped && decide (p.groups.length < Config.groupPositions)

/-- A draw would take threads. -/
def canDraw (s : State) (part : Nat) : Bool := mayDraw s part && ((specialCand s part).isSome || (chooseBin s part).isSome)

/-! The overflow path and ageing. -/

/-- The overflowed thread in the lowest thread place. -/
def firstOverflowed (s : State) (part : Nat) : Option ThreadRef :=
  ((pgsOn s part).flatMap fun e => (tidsWhere e.2 fun t => decide (t.place = .overflow)).map fun i =>
    ({ pg := e.1, tid := i } : ThreadRef)).head?

/-- A bin is free and the overflow path holds threads. -/
def overflowWaits (s : State) (part : Nat) : Bool :=
  decide ((s.part part).bins.length < Config.bins) && (firstOverflowed s part).isSome

/-- One set of overflowed threads is still to move in this clk or slot (06 R119): a bin was free when it began. -/
def overflowDue (s : State) (part : Nat) : Bool := (s.part part).ovDue && overflowWaits s part

/-- OVERFLOW_MOVE (06 R119): at the start of a clk, one set of threads that share a PC; a path without ready threads has age 0 (R121). -/
def execOverflowMove (part : Nat) (s : State) : Host.Outcome State Fault Refusal :=
  if overflowDue s part then
    let s := modPart s part fun p => { p with ovDue := false }
    match firstOverflowed s part with
    | none => .next s
    | some t =>
      let pc := (s.thread t).pc
      match binFor (s.part part) t.pg pc with
      | .bin n =>
        let s := modPart s part fun p =>
          if (tget? p.bins n).isSome then p else { p with bins := tput p.bins n { pg := t.pg, pc := pc, age := 0, aged := false } }
        .next (settleAge (modPg s t.pg fun g => { g with threads := (g.threads.map fun x =>
          if x.place = .overflow ∧ x.pc = pc then { x with place := .bin n } else x) }) part Config.bins)
      | _ => .next s
  else .next s

/-- BIN_AGED (06 R121). -/
def execBinAged (part bin : Nat) (s : State) : Host.Outcome State Fault Refusal :=
  .next (modPart s part fun p => { p with bins := tmod p.bins bin fun b => { b with aged := b.aged || binAgedNow s b } })

/-- A group stands at a header that it has not entered. -/
def atHeaderNow (g : Group) : Bool := g.words.isEmpty && decide (g.hold = .free) && decide (g.pc = g.hdr)

/-- A group waits for its clause: at a header, or brought back inside it (02 R37, 18 R332). -/
def awaitsClause (g : Group) : Bool := g.words.isEmpty

/-- AGED_GROUP_FILING (06 R125); not while the partition is stopped (22 R381). -/
def execAgedGroupFiling (part pos : Nat) (s : State) : Host.Outcome State Fault Refusal :=
  match tget? (s.part part).groups pos with
  | none => .next s
  | some g =>
    if !(s.part part).stopped && atHeaderNow g && mustFileAged s part pos then
      .next (g.tids.foldl (fun s i => fileThread s { pg := g.pg, tid := i } g.hdr .ready) s)
    else .next s

/-! Stall counts and yields. -/

/-- STALL_EXPIRY (02 R34). -/
def execStallExpiry (part pos : Nat) (s : State) : Host.Outcome State Fault Refusal :=
  .next (modGroup s part pos fun g => if g.stall = 0 then { g with ready := true } else g)

/-- YIELD_EXPIRY (07 R144): the count of a YIELD, or of a finished join under DSM, has run out. -/
def execYieldExpiry (pg tid : Nat) (s : State) : Host.Outcome State Fault Refusal :=
  .next (if (s.thread { pg := pg, tid := tid }).wait = .yield 0 then modThread s { pg := pg, tid := tid } fun x => { x with wait := .ready }
         else s)

/-! Clause fetch. -/

/-- The clauses that a partition needs and that are neither present nor failed: those of groups that stand at a header, then those of
ready threads, oldest bin first (06 R116). -/
def neededFetches (s : State) (part : Nat) : List (Nat × Nat) :=
  let groups := ((s.part part).groups.filter fun e => awaitsClause e.2 && pgRuns s e.2.pg
    && !(atHeaderNow e.2 && mustFileAged s part e.1)).map fun e => (e.2.pg, e.2.hdr)
  let bins := sortBy (fun c : Cand => 65536 - c.age) (binCands s part ++ overflowCand s part)
  let special := (pgsOn s part).flatMap fun e =>
    (tidsWhere e.2 Thread.special).map fun i =>
      let t := s.thread { pg := e.1, tid := i }
      (e.1, if t.place = .alone then t.aloneAt.hdr else t.pc)
  dedup (groups ++ ((special ++ bins.map fun c => (c.pg, c.pc)).filter fun x => pgRuns s x.1 && !drawable s part x.1 x.2))

/-- Under DSM a fetch counts as complete 64 slots after it was asked for (06 R131). -/
def fetchDue (s : State) (part pg va : Nat) : Bool :=
  match dsmOfCore s (coreOfPart part) with
  | none => true
  | some cg => (s.part part).fetches.any fun f => decide (f.1 = pg) && decide (f.2.1 = va)
      && decide (f.2.2 + Config.dsmLatency ≤ (s.cg cg).dsm.slot)

/-- The groups of a partition group that wait for a clause. -/
def waitingFor (s : State) (part pg va : Nat) : Tab Group :=
  (s.part part).groups.filter fun e => awaitsClause e.2 && decide (e.2.pg = pg) && decide (e.2.hdr = va)

/-- The thread of a group that issues an abandoned word again, alone (18 R332). -/
def redoOf (s : State) (e : Nat × Group) : Option ThreadRef :=
  match e.2.tids with
  | [i] => if (s.thread { pg := e.2.pg, tid := i }).redo.isSome then some { pg := e.2.pg, tid := i } else none
  | _ => none

/-- Groups that wait for a clause enter it, or go on inside it after the checks of an entry (02 R37). -/
def enterWaiting (s : State) (part pg va : Nat) : State :=
  (waitingFor s part pg va).foldl (fun s e =>
    if e.2.pc = va then arriveHeader s part e.1 va
    else match peekClause s part (s.launch (s.pg pg).lid).space va with
      | some cl => match redoOf s e with
        | some t => enterAlone s part e.1 t cl
        | none => resumeClause s part e.1 va e.2.pc cl
      | none => s) s

/-- The fetch of a clause has failed: the threads of a group that waits for it trap, inside the clause at the group's word. -/
def waitingTraps (s : State) (e : Nat × Group) (x : Trap) : State :=
  if e.2.pc = e.2.hdr then groupTraps s e.2.pg e.2.tids x e.2.hdr
  else match redoOf s e with
  | some t => abandonedTrap s t x { pc := e.2.pc, hdr := e.2.hdr, len := 32 }
  | none => e.2.tids.foldl (fun s i => trapCall s { pg := e.2.pg, tid := i } x { pc := e.2.pc, hdr := e.2.hdr, len := 32 } false) s

/-- CLAUSE_FETCH_COMPLETE (06 R116, 08 R181): the clause is present and the groups that stand at its header enter it; or its fetch has
failed: those groups' threads trap, and bins with it are drawable. A fetch that waits for a frame goes on waiting, and the groups of a
stopped partition are held (22 R381). -/
def execClauseFetchComplete (part pg va : Nat) (s : State) : Host.Outcome State Fault Refusal :=
  if !(s.part part).stopped && (neededFetches s part).contains (pg, va) && fetchDue s part pg va then
    let l := (s.pg pg).lid
    let done (s : State) : State := modPart s part fun p =>
      { p with fetches := p.fetches.filter fun f => !(decide (f.1 = pg) && decide (f.2.1 = va)) }
    match fetchClause s part (s.launch l).space l va with
    | (s, none) => .next (enterWaiting (done s) part pg va)
    | (s, some c) =>
      if c = 0 then .next s
      else
        let s := done s
        let s := (waitingFor s part pg va).foldl (fun s e => waitingTraps s e (memTrap c va)) s
        let more := (binCands s part ++ overflowCand s part).any (fun x => decide (x.pg = pg) && decide (x.pc = va))
          || (s.pg pg).threads.any fun t => (decide (t.place = .alone) && decide (t.aloneAt.hdr = va))
            || (decide (t.place = .team) && decide (t.pc = va))
        .next (if more then modPart s part fun p => { p with failed := p.failed ++ [{ pg := pg, va := va, cause := c }] } else s)
  else .next s

/-! Results (02 R34, R36, R42). -/

/-- FIXED_RESULT_WRITE: a fixed-latency result, or a flag that drops, once it is due. -/
def execFixedResultWrite (id : Nat) (s : State) : Host.Outcome State Fault Refusal :=
  match s.w.pends.find? fun p => p.id = id with
  | none => .next s
  | some p => if !p.isVar && p.ready && decide (p.due ≤ timeOf s (cgOfPg p.th.pg)) then .next (writeResult s p) else .next s

/-- VARIABLE_RESULT_COMPLETE: a variable-latency result whose value is known; one that carries a trap takes it (14 R309, 13 R287). -/
def execVariableResultComplete (id : Nat) (s : State) : Host.Outcome State Fault Refusal :=
  match s.w.pends.find? fun p => p.id = id with
  | none => .next s
  | some p =>
    if p.isVar && p.ready && decide (p.due ≤ timeOf s (cgOfPg p.th.pg)) then
      match p.bad with
      | some x => .next (trapCall (lowerFlags (dropPend s p.id) p.th p.cflags) p.th x p.site false)
      | none => .next (writeResult s p)
    else .next s

end Sys2Proof.Machine
end

