-- ==== Sys2Proof/Machine/Debug.lean ====
section
/-! DEFINITION. The debug interface (22 R379, R381-R386): claims, trace buffers, stops and their release, dumps, watchpoints. -/

namespace Sys2Proof.Machine

/-! Claims. -/

/-- The launch that a debug message names. -/
def debugLid (s : State) : Nat := s.rx.addr.toNat

/-- The session may act on a launch: it is unbound or bound to the launch's space (24 R391, log 66). -/
def sessionSees (s : State) (l : Launch) : Bool := (rxSpace s).isNone || decide (rxSpace s = some l.space)

/-- The claim on the named launch, if the message's session holds it (22 R385). -/
def rxClaim (s : State) : Option Claim :=
  match tget? s.w.claims (debugLid s) with
  | none => none
  | some c => if connHome c.conn = connHome s.rx.conn then some c else none

def modClaim (s : State) (lid : Nat) (f : Claim → Claim) : State := { s with w := { s.w with claims := tmod s.w.claims lid f } }

/-- A message that needs the claim. -/
def claimWord (s : State) (needMgmt ok : Bool) (k : State → Nat → Claim → State) : Host.Outcome State Fault Refusal :=
  gate s needMgmt (decide (s.rx.addr.toNat < 65536) && ok) fun s =>
    match rxClaim s with
    | none => respond s 7 0 []
    | some c => k s (debugLid s) c

/-- DEBUG_CLAIM (22 R384, R385). -/
def execDebugClaim (s : State) : Host.Outcome State Fault Refusal :=
  gate s false (decide (s.rx.addr.toNat < 65536) && payLen s 8 && decide (payNat s 0 8 < 8)) fun s =>
    match tget? s.w.launches (debugLid s) with
    | none => respond s 7 0 []
    | some l =>
      if !sessionSees s l then respond s 7 0 []
      else if (tget? s.w.claims (debugLid s)).isSome then respond s 3 0 []
      else
        let c : Claim := { conn := s.rx.conn, mask := BitVec.ofNat 3 (payNat s 0 8), watches := [], trace := none, reclaimed := 0, lost := 0 }
        respond { s with w := { s.w with claims := tput s.w.claims (debugLid s) c } } 0 0 []

/-! Stops and their release (22 R381, R384). -/

/-- The fate of a caught thread: resume, deliver as if never caught, or containment. -/
def caughtFate (s : State) (fate : Nat) (x : ThreadRef × TqEntry) : State :=
  let t := x.1
  let e := x.2
  if !(s.thread t).live then s
  else
    if fate = 0 then resumeAt s t e
    else if fate = 1 && !(decide ((s.lrOfPg t.pg).trapvec = 0) || (s.thread t).handler) then
      let s := modThread s t fun th => { th with trap := some e, pc := e.pc }
      modPg s t.pg fun g => { g with trapq := g.trapq ++ [e] }
    else settleJoins (contain s t e.cause) t.pg

/-- The caught threads of a partition that meet a test meet their fate. -/
def endCaught (s : State) (part fate : Nat) (f : ThreadRef → Bool) : State :=
  ((s.part part).caught.filter fun x => f x.1).foldl (fun s x => caughtFate s fate x)
    (modPart s part fun p => { p with caught := p.caught.filter fun x => !f x.1 })

/-- Resume a stopped partition: every caught thread of it meets its fate. -/
def resumePart (s : State) (part fate : Nat) : State :=
  if (s.part part).stopped then
    endCaught (modPart s part fun p => { p with stopped := false, stopBy := [], snap := [] }) part fate fun _ => true
  else s

/-- The partitions that hold a launch's partition groups, or that have been stopped for it. -/
def partsOfLaunch (s : State) (lid : Nat) : List Nat :=
  dedup ((s.w.pgs.filter fun e => decide (e.2.lid = lid) && !e.2.ended).map (fun e => e.2.part)
    ++ (s.w.parts.filter fun p => p.2.stopBy.contains lid).map (·.1))

/-- A launch's claim no longer stops a partition, which resumes with fate 0 unless another claim has stopped it too. -/
def freePart (s : State) (lid part : Nat) : State :=
  let p := s.part part
  if !p.stopBy.contains lid then s
  else if p.stopBy = [lid] then resumePart s part 0
  else endCaught (modPart s part fun p => { p with stopBy := p.stopBy.filter (· != lid) }) part 0 fun t => decide ((s.pg t.pg).lid = lid)

/-- End a claim (22 R385): watchpoints, catches and the trace end with it, stopped partitions resume with fate 0, those of a saved launch
when it comes back (18 R334). -/
def endClaim (s : State) (lid : Nat) : State :=
  let free (i : Image) : Image :=
    if i.lid = lid then
      { i with world := { i.world with parts := i.world.parts.map fun p => (p.1, { p.2 with stopped := false, stopBy := [] }) } }
    else i
  (partsOfLaunch s lid).foldl (fun s p => freePart s lid p)
    { s with w := { s.w with claims := tdel s.w.claims lid }, images := s.images.map free }

/-- DEBUG_RELEASE. -/
def execDebugRelease (s : State) : Host.Outcome State Fault Refusal := claimWord s false true fun s lid _ => respond (endClaim s lid) 0 0 []

/-- The partition that a payload names; none if there is no such partition or it holds no partition group of the launch. -/
def namedPart (s : State) (lid : Nat) : Option Nat :=
  let c := payNat s 0 8 % 1024
  let p := payNat s 0 8 / 65536 % 8
  if c < Config.cores ∧ p < 6 ∧ (partsOfLaunch s lid).contains (partKey c p) then some (partKey c p) else none

/-- STOP_PARTITION, with a notice. -/
def execStopPartition (s : State) : Host.Outcome State Fault Refusal :=
  claimWord s false (payLen s 8) fun s lid _ =>
    match namedPart s lid with
    | none => respond s 3 0 []
    | some p => respond (sendNotice (stopPart s lid p) lid 0 (coreOfPart p) (p % 6) 0 0 0 0) 0 0 []

/-- RESUME. -/
def execResume (s : State) : Host.Outcome State Fault Refusal :=
  claimWord s false (payLen s 8 && decide (payNat s 0 8 / 2 ^ 24 % 4 ≠ 3)) fun s lid _ =>
    match namedPart s lid with
    | none => respond s 3 0 []
    | some p => respond (resumePart s p (payNat s 0 8 / 2 ^ 24 % 4)) 0 0 []

/-- SET_WATCHPOINT (22 R383). -/
def execSetWatchpoint (s : State) : Host.Outcome State Fault Refusal :=
  claimWord s false (payLen s 24) fun s lid _ =>
    let w := payNat s 0 8
    let x : Watch := { lo := payNat s 8 7, hi := payNat s 16 7, mask := BitVec.ofNat 4 (w / 256) }
    respond (modClaim s lid fun c => { c with watches := if bitAt w 16 then tput c.watches (w % 8) x else tdel c.watches (w % 8) }) 0 0 []

/-! Trace buffers (22 R379). -/

/-- Every page of a buffer is there and may be written: the first failing address and its cause (0: no frame). -/
def pinBuffer (s : State) (space va n : Nat) : State × Option (BitVec 8 × Nat) :=
  (pieces 0x10000 (n / 0x10000 + 2) va n).foldl (fun acc p =>
    match acc with
    | (s, some e) => (s, some e)
    | (s, none) =>
      match unitTranslate s 0 space p.1 .write with
      | (s, .fail c) => (s, some (c, p.1))
      | (s, .demand) => (s, some (0, p.1))
      | (s, _) => (s, none)) (s, none)

/-- ARM_TRACE: a buffer that cannot be pinned is refused with status 0x04 or 0x05; one for want of frames with 0x04 (log 67). -/
def execArmTrace (s : State) : Host.Outcome State Fault Refusal :=
  let va := payNat s 0 7
  let w := payNat s 8 8
  let ls := w % 32
  claimWord s true (payLen s 16 && decide (va % 4096 = 0) && decide (12 ≤ ls) && decide (ls ≤ 30) && decide (va + 2 ^ ls ≤ 2 ^ 56))
    fun s lid c =>
      match pinBuffer s (s.launch lid).space va (2 ^ ls) with
      | (s, some (e, a)) => respond s (accessStatus e) (a % 2 ^ 56 / 256) []
      | (s, none) =>
        let b : TraceBuf := { va := va, lsize := ls, mask := BitVec.ofNat 6 (w / 256), overwrite := bitAt w 16, written := 0 }
        respond (modClaim s lid fun x => { x with trace := some b, reclaimed := 0, lost := 0 }) 0 c.lost.toNat []

/-! Dumps (22 R382, R386). -/

/-- A set of thread numbers as a bitmap of 1,024 bits. -/
def tidMap (l : List Nat) : List Byte := bytesOfNat 128 (l.foldl (fun n i => n + 2 ^ i) 0)

/-- A bin record (06 R118). -/
def binRecord (used : Bool) (pc age : Nat) (filed ready passed : List Nat) : List Byte :=
  bytesOfNat 8 (bnat used * 2 ^ 63 + pc) ++ bytesOfNat 4 (age * 65536 + ready.length) ++ bytesOfNat 4 filed.length
    ++ bytesOfNat 24 ((List.range 32).foldl (fun n l => n + (ready.filter fun i => laneOf i = l).length * 2 ^ (6 * l)) 0)
    ++ bytesOfNat 8 0 ++ tidMap filed ++ tidMap ready ++ tidMap passed

/-- The record of a bin of a partition. -/
def dumpBin (s : State) (part n : Nat) : List Byte :=
  match tget? (s.part part).bins n with
  | none => binRecord false 0 0 [] [] []
  | some b =>
    let g := s.pg b.pg
    let here (f : Thread → Bool) : List Nat := tidsWhere g fun t => decide (t.place = .bin n) && f t
    binRecord true b.pc b.age (here fun _ => true) (here Thread.ready) (here fun t => t.passed)

/-- The overflow path as bin 64 (06 R119). -/
def dumpOverflow (s : State) (part : Nat) : List Byte :=
  match firstOverflowed s part with
  | none => binRecord false 0 0 [] [] []
  | some t =>
    let c := (overflowCand s part).head?
    let pg := (c.map fun x => x.pg).getD t.pg
    let here (f : Thread → Bool) : List Nat := tidsWhere (s.pg pg) fun t => decide (t.place = .overflow) && f t
    binRecord true ((c.map fun x => x.pc).getD (s.thread t).pc) (s.part part).ovAge (here fun _ => true)
      ((c.map fun x => x.ready).getD []) (here fun t => t.passed)

/-- The stall count that a group has left: what this clk itself stands for is not counted in the clk in which its word issued or it was
drawn. -/
def stallLeft (p : Partition) (g : Group) : Nat :=
  let fresh := (p.issued && decide (g.last = p.seq)) || decide (g.held = 0)
  Nat.min 7 (g.stall - g.trial - bnat fresh)

/-- The record of an active issue group. -/
def dumpGroup (s : State) (pos : Nat) (g : Group) : List Byte :=
  let at' (l : Nat) : Option Nat := g.tids.find? fun i => laneOf i = l
  bytesOfNat 8 (pos * 2 ^ 56 + g.pc) ++ bytesOfNat 4 ((List.range 32).foldl (fun n l => n + bnat (at' l).isSome * 2 ^ l) 0)
    ++ bytesOfNat 4 ((s.pg g.pg).base + stallLeft (s.part (s.pg g.pg).part) g * 65536)
    ++ (List.range 32).flatMap fun l => bytesOfNat 2 ((at' l).getD 0xFFFF)

/-- The resident threads of a partition, in ascending place. -/
def threadsOn (s : State) (part : Nat) : List ThreadRef :=
  (pgsOn s part).flatMap fun e => (tidsWhere e.2 Thread.live).map fun i => { pg := e.1, tid := i }

/-- The registers, predicates and PC of a thread: as they stood at its partition's stop. -/
def dumpRegs (s : State) (t : ThreadRef) : List Word × List Bool × Nat :=
  match (s.part (s.pg t.pg).part).snap.find? fun x => x.th = t with
  | some x => (x.regs, x.preds, x.pc)
  | none => ((s.thread t).ctx.regs, (s.thread t).ctx.preds, pcOf s t)

/-- The record of a thread. -/
def dumpThread (s : State) (t : ThreadRef) : List Byte :=
  let x := s.thread t
  let c := x.ctx
  let r := dumpRegs s t
  let preds := (List.range 7).foldl (fun n i => n + bnat (r.2.1.getD i false) * 2 ^ i) 0
  bytesOfNat 8 (bnat x.handler * 2 ^ 63 + r.2.2) ++ bytesOfNat 4 c.rgn.toNat
    ++ bytesOfNat 4 (t.tid + preds * 65536 + (s.lrOfPg t.pg).regs8 % 64 * 2 ^ 24) ++ bytesOfNat 4 c.fflags.toNat
    ++ (List.range 12).flatMap (fun i => bytesOfNat 1 (c.flags.getD i 0)) ++ bytesOfWords r.1

/-- The entries of a partition's trap queues; an entry beyond the 32nd still stands with its thread (18 R321). -/
def dumpQueue (s : State) (part : Nat) : List TqEntry := (pgsOn s part).flatMap fun e => e.2.trapq.take 32

/-- The scoreboard entries of one result in flight (22 R382). -/
def dumpPend (s : State) (p : Pend) : List (List Byte) :=
  let flag := if p.isVar then p.cflags.headD 15 else 15
  let left := if p.isVar then 0 else p.due - timeOf s (cgOfPg p.th.pg)
  let entry (pred : Bool) (reg val : Nat) : List Byte :=
    bytesOfNat 16 (p.site.pc * 2 ^ 72 + bnat p.isVar * 2 ^ 71 + bnat pred * 2 ^ 70 + flag * 2 ^ 66 + reg * 2 ^ 58 + p.th.tid * 2 ^ 48
      + left % 256 * 2 ^ 40 + (if p.isVar then 0 else val))
  (p.regs.zipIdx.map fun r => entry false r.1 (p.vals.getD r.2 0).toNat) ++ p.preds.map fun x => entry true x.1 (bnat x.2)

/-- A range-lock entry in the layout of stop dumps and context saves (09 R210). -/
def lockBytes (l : RLock) : List Byte :=
  bytesOfNat 16 (2 ^ 127 + bnat l.write * 2 ^ 126 + l.space % 4 * 2 ^ 124 + l.slot % 16 * 2 ^ 120 + l.eng % 16 * 2 ^ 116 + l.id % 64 * 2 ^ 110
    + l.lo % 2 ^ 49 * 2 ^ 49 + l.hi % 2 ^ 49)

/-- The dump of a partition (22 R386). DESIGN CHOICE (log 102): the valid range-lock entries of its core, which R210 puts into stop dumps
and for which R386 names no section, stand at the end. -/
def dumpPart (s : State) (part : Nat) : List Byte :=
  let p := s.part part
  let bins := (List.range Config.bins).flatMap (dumpBin s part) ++ dumpOverflow s part
  let groups := p.groups.map fun e => dumpGroup s e.1 e.2
  let ts := threadsOn s part
  let threads := ts.flatMap (dumpThread s)
  let queue := dumpQueue s part
  let board := (s.w.pends.filter fun x => decide ((s.pg x.th.pg).part = part)).flatMap (dumpPend s)
  let o1 := 64 + bins.length
  let o2 := o1 + 80 * groups.length
  let o3 := o2 + threads.length
  let o4 := o3 + 32 * queue.length
  let locks := (s.core (coreOfPart part)).locks.flatMap lockBytes
  let size := o4 + 16 * board.length + locks.length
  ([size, groups.length, ts.length, queue.length, board.length, 64, o1, o2, o3, o4, 0, 0, 0, 0, 0, 0]).flatMap (bytesOfNat 4)
    ++ bins ++ groups.flatten ++ threads ++ bytesOfWords (queue.flatMap tqWords) ++ board.flatten ++ locks

/-- READ_DUMP: the bytes from an offset, as far as the dump goes, filled up with zeros to a whole word of eight. -/
def execReadDump (s : State) : Host.Outcome State Fault Refusal :=
  let n := payNat s 12 4
  claimWord s false (payLen s 16 && decide (n ≤ 65536)) fun s lid _ =>
    match namedPart s lid with
    | none => respond s 3 0 []
    | some p =>
      let bs := ((dumpPart s p).drop (payNat s 8 4)).take n
      respond s 0 0 (bs ++ List.replicate ((8 - bs.length % 8) % 8) 0)

end Sys2Proof.Machine
end

