-- ==== Sys2Proof/Machine/Project.lean ====
section
/-! DEFINITION. The splat projection engine and the Sieve (12 R262-R268). -/

namespace Sys2Proof.Machine

/-! f32 lines: each rounds once; negation keeps the canonical NaN. -/

def f32V (x : Nat) : FVal := fmt32.value x
def fm (a b : Nat) : Nat := (fmt32.round (mulV (f32V a) (f32V b)).1).1
def fa (a b : Nat) : Nat := (fmt32.round (addV (f32V a) (f32V b)).1).1
def ff (a b c : Nat) : Nat := (fmt32.round (fmaV (f32V a) (f32V b) (f32V c)).1).1
def fneg (a : Nat) : Nat := if (f32V a).isNan then fmt32.nan else Nat.xor a (2 ^ 31)
def ftwice (a : Nat) : Nat := (fmt32.round (scaleV (f32V a) 1)).1
def f16Wide (x : Nat) : Nat := (fmt32.round ((fmtOf .f16).value x)).1
def dot3 (a b : Nat → Nat) : Nat := ff (a 2) (b 2) (ff (a 1) (b 1) (fm (a 0) (b 0)))
def f32Lt (a b : Nat) : Bool := decide (cmpV (f32V a) (f32V b) = some .lt)
def f32Finite (a : Nat) : Bool := !(f32V a).isNan && !(f32V a).isInf

/-- floor(x / 16), clamped to a range; an infinity takes the end it lies beyond. -/
def tileIndex (x : Nat) (lo hi : Int) : Nat :=
  let k : Int := match f32V x with
    | .fin s m e => (if s then -1 else 1) * (roundInt .rd s m (e - 4) : Nat)
    | .inf s => if s then lo else hi
    | .nan => lo
  (max lo (min hi k)).toNat

/-- A 3×3 product's entries are given as functions of row and column. -/
abbrev Mat3 := Nat → Nat → Nat

/-- A Gaussian's and a camera's words (12 R262, R263). -/
def gWord (g : List Byte) (off : Nat) : Nat := fieldAt g off 4
def gHalf (g : List Byte) (off : Nat) : Nat := f16Wide (fieldAt g off 2)
def camW (c : List Byte) (a b : Nat) : Nat := fieldAt c (16 * a + 4 * b) 4
def camF (c : List Byte) (off : Nat) : Nat := fieldAt c off 4
def camWd (c : List Byte) : Nat := fieldAt c 0x44 2
def camHt (c : List Byte) : Nat := fieldAt c 0x46 2

/-- The projection engine refuses a camera (12 R263). -/
def camBad (c : List Byte) : Bool :=
  let near := camF c 0x40
  let blur := camF c 0x48
  let negative (x : Nat) : Bool := (f32V x).isNeg && !(f32V x).isZero
  !f32Finite near || decide (2 ^ 31 ≤ near) || !f32Finite blur || negative blur || decide (camWd c = 0) || decide (32768 < camWd c)
    || decide (camHt c = 0) || decide (32768 < camHt c) || (c.drop 0x4C).any (· != 0)

/-- A culled splat (12 R264). -/
def culled (g : List Byte) (idx code : Nat) : List Byte :=
  bytesOfNat 0x24 0 ++ bytesOfNat 4 0xFFFFFFFF ++ bytesOfNat 4 idx ++ bytesOfNat 4 (gWord g 0x24) ++ bytesOfNat 12 0 ++ bytesOfNat 4 code

/-- The rotation of 12 R267 from a normalised quaternion (w, x, y, z). -/
def rotOf (w x y z : Nat) : Mat3 := fun a b =>
  let diag (p q : Nat) : Nat := (fmt32.round (addV (f32V 0x3F800000) (scaleV (f32V (fa p q)) 1).neg).1).1
  match a, b with
  | 0, 0 => diag (fm y y) (fm z z)
  | 0, 1 => ftwice (fa (fm x y) (fneg (fm w z)))
  | 0, _ => ftwice (fa (fm x z) (fm w y))
  | 1, 0 => ftwice (fa (fm x y) (fm w z))
  | 1, 1 => diag (fm x x) (fm z z)
  | 1, _ => ftwice (fa (fm y z) (fneg (fm w x)))
  | _, 0 => ftwice (fa (fm x z) (fneg (fm w y)))
  | _, 1 => ftwice (fa (fm y z) (fm w x))
  | _, _ => diag (fm x x) (fm y y)

/-- A function on small indices as a table, so that each entry is computed once. -/
def tab3 (f : Nat → Nat → Nat) : Mat3 :=
  let l := (List.range 3).map fun a => (List.range 3).map (f a)
  fun a b => (l.getD a []).getD b 0

/-- The 2D covariance (S00, S01, S11) of 12 R267. -/
def covOf (c : List Byte) (rot : Mat3) (sc : Nat → Nat) (iz xn yn : Nat) : Nat × Nat × Nat :=
  let m := tab3 fun a b => fm (rot a b) (sc b)
  let sg := tab3 fun a b => dot3 (m a) (m b)
  let j00 := fm (camF c 0x30) iz
  let j11 := fm (camF c 0x34) iz
  let j02 := fneg (fm j00 xn)
  let j12 := fneg (fm j11 yn)
  let t := tab3 fun a b => if a = 0 then ff j02 (camW c 2 b) (fm j00 (camW c 0 b)) else ff j12 (camW c 2 b) (fm j11 (camW c 1 b))
  let u := tab3 fun a b => dot3 (t a) fun k => sg k b
  let s := tab3 fun a b => dot3 (u a) (t b)
  (s 0 0, s 0 1, s 1 1)

/-- The record of a splat that is kept or off screen (12 R267, its last lines). -/
def splatTail (g c : List Byte) (idx u v op a b cc det tz : Nat) : List Byte :=
  let rcp (x : Nat) : Nat := (rcpBits fmt32 (f32V x)).1
  let sqrt (x : Nat) : Nat := (sqrtBits fmt32 (f32V x)).1
  let id := rcp det
  let mid := fm 0x3F000000 (fa a cc)
  let e := sqrt (minMaxBits fmt32 true 0x3DCCCCCD (ff mid mid (fneg det)))
  let rad := roundIntegral fmt32 .ru (fm 0x40400000 (sqrt (fa mid e)))
  let lx := fa u (fneg rad)
  let hx := fa u rad
  let ly := fa v (fneg rad)
  let hy := fa v rad
  let wd := (fmt32.round (intV (camWd c))).1
  let ht := (fmt32.round (intV (camHt c))).1
  if [lx, hx, ly, hy].any (fun x => (f32V x).isNan) || f32Lt hx 0 || !f32Lt lx wd || f32Lt hy 0 || !f32Lt ly ht then culled g idx 4
  else
    let ntx : Int := ((camWd c + 15) / 16 : Nat)
    let nty : Int := ((camHt c + 15) / 16 : Nat)
    let tx0 := tileIndex lx 0 65535
    let ty0 := tileIndex ly 0 65535
    let tx1 := tileIndex hx 0 (ntx - 1)
    let ty1 := tileIndex hy 0 (nty - 1)
    let radN := match f32V rad with
      | .fin s m x => if s then 0 else Nat.min 65535 (roundInt .rz false m x)
      | .inf _ | .nan => 65535
    [u, v, fm cc id, fneg (fm b id), fm a id, op, gHalf g 0x1C, gHalf g 0x1E, gHalf g 0x20, tz, idx % 2 ^ 32, gWord g 0x24,
      ty0 * 65536 + tx0, ty1 * 65536 + tx1, radN, 0].flatMap (bytesOfNat 4)

/-- One splat (12 R267). -/
def projectOne (g c : List Byte) (idx : Nat) : List Byte :=
  let t (a : Nat) : Nat := ff (camW c a 2) (gWord g 8) (ff (camW c a 1) (gWord g 4) (ff (camW c a 0) (gWord g 0) (camW c a 3)))
  let tx := t 0
  let ty := t 1
  let tz := t 2
  let op := gHalf g 0x1A
  if !f32Finite tx || !f32Finite ty || !f32Finite tz then culled g idx 3
  else if !f32Lt (camF c 0x40) tz then culled g idx 1
  else if (f32V op).isNan || f32Lt op 0x3B800000 then culled g idx 2
  else
    let iz := (rcpBits fmt32 (f32V tz)).1
    let xn := fm tx iz
    let yn := fm ty iz
    let sc (a : Nat) : Nat := (exp2Bits (gHalf g (match a with
      | 0 => 0x0C
      | 1 => 0x0E
      | _ => 0x10))).1
    let qw := gHalf g 0x12
    let qx := gHalf g 0x14
    let qy := gHalf g 0x16
    let qz := gHalf g 0x18
    let nn := ff qz qz (ff qy qy (ff qx qx (fm qw qw)))
    if !f32Lt 0 nn || !f32Finite nn then culled g idx 3
    else
      let n := (rsqBits fmt32 (f32V nn)).1
      let rot := tab3 (rotOf (fm qw n) (fm qx n) (fm qy n) (fm qz n))
      let s := covOf c rot (fun b => [sc 0, sc 1, sc 2].getD b 0) iz xn yn
      let a := fa s.1 (camF c 0x48)
      let cc := fa s.2.2 (camF c 0x48)
      let det := ff a cc (fneg (fm s.2.1 s.2.1))
      if !f32Lt 0 det || !f32Finite det then culled g idx 3
      else splatTail g c idx (ff (camF c 0x30) xn (camF c 0x38)) (ff (camF c 0x34) yn (camF c 0x3C)) op a s.2.1 cc det tz

/-! SPROJ (12 R266). -/

def pjN (d : List Byte) : Nat := fieldAt d 0x1C 4
def pjFirst (d : List Byte) : Nat := fieldAt d 0x18 4

/-- The checks of a projection descriptor that need no camera. -/
def pjBad (d : List Byte) (va : Nat) : Option (BitVec 8 × Nat) :=
  if pjN d = 0 ∨ 2 ^ 24 < pjN d then some (0x01, va)
  else if fieldAt d 0 8 % 64 ≠ 0 then some (0x05, fieldAt d 0 8)
  else if fieldAt d 8 8 % 64 ≠ 0 then some (0x05, fieldAt d 8 8)
  else if fieldAt d 16 8 % 128 ≠ 0 then some (0x05, fieldAt d 16 8)
  else none

/-- A word that issues one engine operation per guard-true thread under a tag (12 R266, R268; 13 R279): the descriptor, its checks,
its locks. -/
def tagOpWord (s : State) (w : Wd) (k : EngKind) (n : Nat) (bad : List Byte → Nat → Option (BitVec 8 × Nat))
    (locks : State → Issue → EngOp → List RLock) : Host.Outcome State Fault Refusal :=
  engineWord s w.ctl fun ix s' t =>
    let tag := resNum (s.launch ix.lid).lr w.a
    let va := effAddr s t w.b w.c
    match readDescAcq s' t va n n with
    | (s, .error e) => (s, some e)
    | (s, .ok d) =>
      match bad d va with
      | some (c, v) => (tagFail s ix.cg tag c v, none)
      | none =>
        let (o, s) := newOp s ix t k tag d va
        (offerEngOp s { o with locks := locks s ix o }, none)

/-- SPROJ (12 R266). -/
def execSproj (w : Wd) (s : State) : Host.Outcome State Fault Refusal :=
  tagOpWord s w .sproj 32 pjBad fun s ix o =>
    let slot := (s.cg ix.cg).slot
    let n := 64 * pjN o.desc
    [spanLock false 0 slot 5 o.tag o.id (fieldAt o.desc 0 8 + 64 * pjFirst o.desc) n (fieldAt o.desc 16 8) 128,
     spanLock true 0 slot 5 o.tag o.id (fieldAt o.desc 8 8) n 0 0]

/-- The splats from index `i` up, until one fails. -/
def projectFrom (fuel : Nat) (s : State) (o : EngOp) (cam : List Byte) (i : Nat) : State × Option (BitVec 8 × Nat) :=
  match fuel with
  | 0 => (s, none)
  | k + 1 =>
    let idx := pjFirst o.desc + i
    match opRead s o 6 (fieldAt o.desc 0 8 + 64 * idx) 64 with
    | (s, .error e) => (s, some e)
    | (s, .ok g) =>
      match opWrite s o (fieldAt o.desc 8 8 + 64 * i) (projectOne g cam idx) with
      | (s, some e) => (s, some e)
      | (s, none) => projectFrom k s o cam (i + 1)

/-- The camera of a projection, checked, then `k` splats from the one that it has reached (12 R266). -/
def projectSome (s : State) (o : EngOp) (k : Nat) : State × Option (BitVec 8 × Nat) :=
  match opRead s o 6 (fieldAt o.desc 16 8) 128 with
  | (s, .error e) => (s, some e)
  | (s, .ok cam) => if camBad cam then (s, some (0x01, fieldAt o.desc 16 8)) else projectFrom k s o cam o.row

/-- A projection from the splat that it has reached. -/
def projectRun (s : State) (o : EngOp) : State × Option (BitVec 8 × Nat) := projectSome s o (pjN o.desc - o.row)

/-- PROJECTION_COMPLETE (12 R266, R267). -/
def execProjectionComplete (id : Nat) (s : State) : Host.Outcome State Fault Refusal :=
  .next (unitComplete id (fun k => k = .sproj) projectRun s)

/-! SSORT (12 R268). -/

def ssN (d : List Byte) : Nat := fieldAt d 0x18 4
def ssCap (d : List Byte) : Nat := fieldAt d 0x1C 4
def ssNtx (d : List Byte) : Nat := fieldAt d 0x20 2
def ssNty (d : List Byte) : Nat := fieldAt d 0x22 2

def ssBad (d : List Byte) (va : Nat) : Option (BitVec 8 × Nat) :=
  let grid (n : Nat) : Bool := decide (n = 0) || decide (2048 < n)
  if (d.drop 0x28).any (· != 0) ∨ ssN d = 0 ∨ 2 ^ 24 < ssN d ∨ grid (ssNtx d) ∨ grid (ssNty d) then some (0x01, va)
  else if fieldAt d 0 8 % 64 ≠ 0 then some (0x05, fieldAt d 0 8)
  else if fieldAt d 8 8 % 8 ≠ 0 then some (0x05, fieldAt d 8 8)
  else if fieldAt d 16 8 % 8 ≠ 0 then some (0x05, fieldAt d 16 8)
  else none

/-- SSORT (12 R268): one write entry spans the pairs, the tile table and `ss.need` (log 17). -/
def execSsort (w : Wd) (s : State) : Host.Outcome State Fault Refusal :=
  tagOpWord s w .ssort 64 ssBad fun s ix o =>
    let slot := (s.cg ix.cg).slot
    let d := o.desc
    let tab := fieldAt d 16 8
    let need := o.descVa + 0x24
    let lo := Nat.min tab need
    let hi := Nat.max (tab + 8 * ssNtx d * ssNty d) (need + 4)
    [spanLock false 0 slot 6 o.tag o.id (fieldAt d 0 8) (64 * ssN d) 0 0,
     spanLock true 0 slot 6 o.tag o.id lo (hi - lo) (fieldAt d 8 8) (8 * ssCap d)]

/-- A splat's key, position and clipped rectangle, if it is kept and covers a tile of the grid. -/
def sieveEntry (d sp : List Byte) (i : Nat) : Option (Nat × Nat × Nat × Nat × Nat × Nat) :=
  let x0 := fieldAt sp 0x30 2
  let y0 := fieldAt sp 0x32 2
  let x1 := Nat.min (fieldAt sp 0x34 2) (ssNtx d - 1)
  let y1 := Nat.min (fieldAt sp 0x36 2) (ssNty d - 1)
  if fieldAt sp 0x3C 1 ≠ 0 ∨ x1 < x0 ∨ y1 < y0 then none else some (fieldAt sp 0x24 4, i, x0, y0, x1, y1)

/-- Read the splats of a sort. -/
def sieveRead (fuel : Nat) (s : State) (o : EngOp) (i : Nat) (acc : List (Nat × Nat × Nat × Nat × Nat × Nat)) :
    State × Except (BitVec 8 × Nat) (List (Nat × Nat × Nat × Nat × Nat × Nat)) :=
  match fuel with
  | 0 => (s, .ok acc.reverse)
  | k + 1 =>
    match opRead s o 6 (fieldAt o.desc 0 8 + 64 * i) 64 with
    | (s, .error e) => (s, .error e)
    | (s, .ok sp) => sieveRead k s o (i + 1) (match sieveEntry o.desc sp i with
      | some e => e :: acc
      | none => acc)

/-- The pairs of a tile, by ascending key, ties by position. -/
def tilePairs (l : List (Nat × Nat × Nat × Nat × Nat × Nat)) (tx ty : Nat) : List (Nat × Nat) :=
  sortBy (·.1) ((l.filter fun e => decide (e.2.2.1 ≤ tx) && decide (tx ≤ e.2.2.2.2.1) && decide (e.2.2.2.1 ≤ ty)
    && decide (ty ≤ e.2.2.2.2.2)).map fun e => (e.1, e.2.1))

/-- Write several ranges in order. -/
def opWrites (s : State) (o : EngOp) (l : List (Nat × List Byte)) : State × Option (BitVec 8 × Nat) :=
  l.foldl (fun acc x => match acc with
    | (s, some e) => (s, some e)
    | (s, none) => opWrite s o x.1 x.2) (s, none)

/-- A sort: the splats, the number of pairs, and, where they fit, the pairs and the tile table (12 R268). -/
def sortRun (s : State) (o : EngOp) : State × Option (BitVec 8 × Nat) :=
  let d := o.desc
  match sieveRead (ssN d) s o 0 [] with
  | (s, .error e) => (s, some e)
  | (s, .ok l) =>
    let area (e : Nat × Nat × Nat × Nat × Nat × Nat) : Nat := (e.2.2.2.2.1 + 1 - e.2.2.1) * (e.2.2.2.2.2 + 1 - e.2.2.2.1)
    let total := l.foldl (fun n e => n + area e) 0
    match opWrite s o (o.descVa + 0x24) (bytesOfNat 4 total) with
    | (s, some e) => (s, some e)
    | (s, none) =>
      if ssCap d < total then (s, some (0x09, total))
      else
        let tiles := (List.range (ssNtx d * ssNty d)).map fun n => tilePairs l (n % ssNtx d) (n / ssNtx d)
        let pairs := tiles.flatMap fun t => t.flatMap fun p => bytesOfNat 8 (p.1 * 2 ^ 32 + p.2)
        let table := (tiles.foldl (fun acc t => (acc.1 + t.length, acc.2 ++ bytesOfNat 8 (t.length * 2 ^ 32 + acc.1)))
          (0, ([] : List Byte))).2
        opWrites s o [(fieldAt d 8 8, pairs), (fieldAt d 16 8, table)]

/-- SORT_COMPLETE (12 R268). -/
def execSortComplete (id : Nat) (s : State) : Host.Outcome State Fault Refusal :=
  .next (unitComplete id (fun k => k = .ssort) sortRun s)

end Sys2Proof.Machine
end

