-- ==== Sys2Proof/Machine/Ladle.lean ====
section
/-! DEFINITION. The words that fetch splats and drive the Ladle, and the adjoint step (12 R269-R278). -/

namespace Sys2Proof.Machine

/-! SFETCH (12 R269). -/

/-- One lane of SFETCH: the pair, then the first 48 bytes of the record it names. -/
def sfetchLane (s : State) (ix : Issue) (w : Wd) (kn : BitVec 5) (s0 : State) (t : ThreadRef) : State × Option Trap :=
  let va := effAddr s0 t w.b w.c
  match readDesc s t va 8 8 with
  | (s, .error e) => (s, some e)
  | (s, .ok pair) =>
    let base := (pairOf (constOf s0 t (2 * kn.toNat)) (constOf s0 t (2 * kn.toNat + 1))).toNat
    match readDesc s t ((base + 64 * fieldAt pair 0 4) % 2 ^ 64) 4 48 with
    | (s, .error e) => (s, some e)
    | (s, .ok bs) =>
      (pushResult s ix w.ctl 0 true true t
        { regs := (List.range 12).map fun i => vNum w.a + i, vals := wordsOfBytes bs, preds := [], raise := 0 }, none)

/-- SFETCH (12 R269). -/
def execSfetch (w : Wd) (kn : BitVec 5) (s : State) : Host.Outcome State Fault Refusal :=
  actWord s w.ctl fun ix s' t => sfetchLane s' ix w kn s t

/-! Slots (12 R265, R270, R272). -/

/-- A slot of a core's Ladle. -/
def slotOf (s : State) (core k : Nat) : Option LadleSlot := tget? (s.core core).ladle k
def putSlot (s : State) (core k : Nat) (x : LadleSlot) : State :=
  modCore s core fun c => { c with ladle := tput c.ladle k x }

/-- Who holds a slot once the operations before it are accepted, and whether in ordered mode (12 R276). -/
def slotAfter (s : State) (core k : Nat) : Option (Nat × Bool) :=
  ((s.core core).ladleQ.filter fun o => decide (o.slot = k)).foldl (fun acc o => match o.kind with
    | .claim d _ => some (o.cg, bitAt (fieldAt d 12 4) 0)
    | .release => none
    | .deposit _ | .mark _ | .pixel _ | .entry .. => acc) ((slotOf s core k).map fun x => (x.cg, x.ordered))

/-- The slot an operand names, held by the core group, or the trap. -/
def heldSlot (s : State) (ix : Issue) (v : Word) : Except Trap Nat :=
  match slotAfter s ix.core v.toNat with
  | some x => if v.toNat < 8 ∧ x.1 = ix.cg then .ok v.toNat else .error (plainTrap 0x09 v.toNat)
  | none => .error (plainTrap 0x09 v.toNat)

/-! Pixels (12 R271). -/

/-- Word `i` of a pixel's state. -/
def pxWord (s : State) (core : Nat) (x : LadleSlot) (p i : Nat) : Nat := memNat (s.core core).abuf (x.state + 24 * p + 4 * i) 4
def pxN (s : State) (core : Nat) (x : LadleSlot) (p : Nat) : Nat := pxWord s core x p 4 % 65536
def pxOpaque (s : State) (core : Nat) (x : LadleSlot) (p : Nat) : Bool := bitAt (pxWord s core x p 4) 16
def pxBytes (s : State) (core : Nat) (x : LadleSlot) (p : Nat) : List Byte := memReadN (s.core core).abuf (x.state + 24 * p) 24

/-- The state CRST writes to each pixel. -/
def pxInit : List Byte := [0, 0, 0, 0x3F800000, 0, 0].flatMap (bytesOfNat 4)

/-- A pixel's six words after a commit of a term, and whether it is now opaque (12 R273). -/
def pxCommit (px : Nat → Nat) (t : Term) : List Nat × Bool :=
  let late := decide (t.key.toNat < px 5)
  let n := px 4 % 65536
  let fl := px 4 / 65536
  let lateN := if late then Nat.min 15 (fl / 16 % 16 + 1) else fl / 16 % 16
  let inex := late || bitAt fl 1
  let trunc := decide (n = 255) || bitAt fl 2
  let wt := fm (px 3) t.alpha.toNat
  let tr := fa (px 3) (fneg wt)
  let opq := f32Lt tr 0x39000000
  ([ff wt t.r.toNat (px 0), ff wt t.g.toNat (px 1), ff wt t.b.toNat (px 2), tr,
    lateN * 2 ^ 20 + bnat trunc * 2 ^ 18 + bnat inex * 2 ^ 17 + bnat (opq || bitAt fl 0) * 2 ^ 16 + Nat.min 65535 (n + 1),
    Nat.max (px 5) t.key.toNat], opq)

/-- The Ladle's list accesses stand for the thread whose word commits (log 37), under the slot's pins. -/
def ladleEng (s : State) (core : Nat) (o : LadleOp) : EngOp :=
  { id := ((slotOf s core o.slot).map fun x => x.owner).getD 0, kind := .sproj, core := core, cg := o.cg, th := o.th, space := (s.launch (s.cg o.cg).lid).space, tag := 0, desc := [],
    descVa := 0, site := o.site, word := o.word, locks := [], accepted := true, done := false, waits := [], due := 0 }

/-- Commit a term (12 R273). The list's pages are pinned, so its write does not fail; none where it waits for a frame that a checkpoint
has still to copy (20 R358). -/
def commitTerm (s : State) (o : EngOp) (k : Nat) (t : Term) : Option State :=
  match slotOf s o.core k with
  | none => some s
  | some x =>
    let n := pxN s o.core x t.pix
    let r := pxCommit (pxWord s o.core x t.pix) t
    let w := if n < 255 ∧ x.list ≠ 0 then
        opWrite s o (x.list + 4096 * t.pix + 16 * n) (bytesOfWords [t.key, t.idx, t.alpha, word (pxWord s o.core x t.pix 3)])
      else (s, none)
    match w with
    | (s, e) =>
      if e.map (·.1) = some 0 then none
      else
        let s := modCore s o.core fun c => { c with abuf := memWriteN c.abuf (x.state + 24 * t.pix) (r.1.flatMap (bytesOfNat 4)) }
        some (if r.2 then putSlot s o.core k { x with terms := x.terms.filter fun y => y.pix != t.pix } else s)

/-- Take a buffered term out and commit it. -/
def commitBuffered (s : State) (o : EngOp) (k : Nat) (t : Term) : Option State :=
  match slotOf s o.core k with
  | none => some s
  | some x => commitTerm (putSlot s o.core k { x with terms := x.terms.erase t }) o k t

/-- The order of final commits: ascending key, then index. -/
def termKey (t : Term) : Nat := t.key.toNat * 2 ^ 32 + t.idx.toNat

/-- How the Ladle takes an operation: done, with the words it gives; waiting for room in its slot or for lock entries; or waiting for a
frame that a checkpoint has still to copy. -/
inductive LadleEnd where
  | done (s : State) (vals : List Word)
  | full
  | frame
deriving DecidableEq, Repr

/-- An operation that ends with a commit. -/
def LadleEnd.ofCommit (r : Option State) : LadleEnd :=
  match r with
  | some s => .done s []
  | none => .frame

/-! Deposits (12 R272, R275). -/

/-- Put a term into the insertion buffer, after the early commits that make room for it. -/
def bufferTerm (fuel : Nat) (s : State) (o : EngOp) (k : Nat) (t : Term) : LadleEnd :=
  match fuel with
  | 0 => .done s []
  | n + 1 =>
    match slotOf s o.core k with
    | none => .done s []
    | some x =>
      let mine := x.terms.filter fun y => decide (y.pix = t.pix)
      if mine.length < 8 ∧ x.terms.length < 64 then .done (putSlot s o.core k { x with terms := x.terms ++ [t] }) []
      else if x.ordered then .full
      else
        match minBy? termKey ((if 8 ≤ mine.length then mine else x.terms) ++ [t]) with
        | none => .done s []
        | some e =>
          if termKey t < termKey e ∨ (termKey t = termKey e ∧ !x.terms.contains e) then .ofCommit (commitTerm s o k t)
          else
            match commitBuffered s o k e with
            | none => .frame
            | some s => if pxOpaque s o.core x t.pix then .done s [] else bufferTerm n s o k t

/-- Deposit a term (12 R272). -/
def depositTerm (s : State) (o : EngOp) (k : Nat) (x : LadleSlot) (t : Term) : LadleEnd :=
  let a := t.alpha.toNat
  if (f32V a).isNan ∨ f32Lt a 0x3B800000 then .done s []
  else
    let t := if f32Lt 0x3F7E0000 a then { t with alpha := 0x3F7E0000 } else t
    if pxOpaque s o.core x t.pix then .done s []
    else if (match x.mark with
      | some m => decide (t.key.toNat ≤ m.toNat)
      | none => false) then .ofCommit (commitTerm s o k t)
    else bufferTerm 65 s o k t

/-! Watermarks (12 R274). -/

/-- The buffered terms at or below a watermark, in the order in which they commit. -/
def dueTerms (x : LadleSlot) (m : Word) : List Term :=
  sortBy (·.pix) (sortBy termKey (x.terms.filter fun t => decide (t.key.toNat ≤ m.toNat)))

/-- Raise a slot's watermark and commit what it covers; a term discarded on the way does not commit. -/
def raiseMark (s : State) (o : EngOp) (k : Nat) (x : LadleSlot) (key : Word) : LadleEnd :=
  let m := match x.mark with
    | some m => if m.toNat < key.toNat then key else m
    | none => key
  .ofCommit ((dueTerms x m).foldl (fun acc t => match acc with
    | none => none
    | some s => match slotOf s o.core k with
      | some y => if y.terms.contains t then commitBuffered s o k t else some s
      | none => some s) (some (putSlot s o.core k { x with mark := some m })))

/-! Reads (12 R277). -/

/-- What CRLIST gives where there is no entry. -/
def noEntry : List Word := [0xFFFFFFFF, 0xFFFFFFFF, 0, 0]

/-- The words of list entry `j` from the back. -/
def listEntry (s : State) (o : EngOp) (x : LadleSlot) (p j : Nat) : LadleEnd :=
  let n := Nat.min (pxN s o.core x p) 255
  if n ≤ j ∨ x.list = 0 then .done s noEntry
  else
    match opRead s o 6 (x.list + 4096 * p + 16 * (n - 1 - j)) 16 with
    | (s, .ok bs) => .done s (wordsOfBytes bs)
    | (s, .error e) => if e.1 = 0 then .frame else .done s noEntry

/-! Claims and releases (12 R270). -/

/-- Release a slot: its buffered terms are discarded, its locks and pins go, and operations that waited for them are accepted. -/
def releaseSlot (s : State) (core k : Nat) : State :=
  match slotOf s core k with
  | none => s
  | some x =>
    let slot := (s.cg x.cg).slot
    let s := dropLocksWhere (modCore s core fun c => { c with ladle := tdel c.ladle k }) core fun l =>
      decide (l.eng = 4) && decide (l.id = k) && decide (l.slot = slot)
    acceptOps (acceptCopies (dropPins s core x.owner) core) core

/-- A claim first releases a slot that its core group holds, and does so before it waits for lock entries. -/
def releaseFirst (s : State) (core k : Nat) (kind : LadleKind) : State :=
  match kind with
  | .claim .. => releaseSlot s core k
  | .release | .deposit _ | .mark _ | .pixel _ | .entry .. => s

/-- The locks of a claimed slot. -/
def slotLocks (slot space k owner state list : Nat) : List RLock :=
  spanLock true 1 slot 4 k owner state 6144 0 0 :: (if list = 0 then [] else [spanLock true space slot 4 k owner list 0x100000 0 0])

/-- Claim a slot with a descriptor that has passed its checks: it waits for lock entries as an engine operation does (09 R211). -/
def claimSlot (s : State) (core k : Nat) (o : LadleOp) (d : List Byte) (owner : Nat) : LadleEnd :=
  let s := releaseSlot s core k
  let st := fieldAt d 8 4 % 2 ^ 20
  let list := fieldAt d 0 8
  let locks := slotLocks (s.cg o.cg).slot 0 k owner st list
  if !lockRoom (s.core core) locks.length || lockBlocked (s.core core).locks locks owner then .full
  else
    let x : LadleSlot := { cg := o.cg, space := (s.launch (s.cg o.cg).lid).space, list := list, state := st,
                           ordered := bitAt (fieldAt d 12 4) 0, terms := [], mark := none, owner := owner }
    .done (modCore (addLocks s core locks) core fun c =>
      { c with ladle := tput c.ladle k x, abuf := memWriteN c.abuf st (List.replicate 256 pxInit).flatten }) []

/-! Acceptance (12 R276). -/

/-- The Ladle of a core takes an operation. One whose slot its core group no longer holds does nothing. -/
def applyLadle (s : State) (core : Nat) (o : LadleOp) : LadleEnd :=
  let e := ladleEng s core o
  match o.kind with
  | .claim d owner => claimSlot s core o.slot o d owner
  | .release => .done (releaseSlot s core o.slot) []
  | .deposit _ | .mark _ | .pixel _ | .entry .. =>
    match slotOf s core o.slot with
    | none => .done s []
    | some x =>
      match o.kind with
      | .deposit t => depositTerm s e o.slot x t
      | .mark key => raiseMark s e o.slot x key
      | .pixel p => .done s (wordsOfBytes (pxBytes s core x p))
      | .entry p j => listEntry s e x p j
      | .claim .. | .release => .done s []

/-- An operation stands behind one that waits: of its thread, of its word, or, where that one waits for a frame, at its slot. -/
def LadleOp.behind (o : LadleOp) (w : LadleOp × Bool) : Bool :=
  decide (o.th = w.1.th) || decide (o.word = w.1.word) || (w.2 && decide (o.slot = w.1.slot))

/-- The Ladle of a core takes the operations whose slot of acceptance has come (06 R131), in order; what waits keeps its place. -/
def acceptLadle (s : State) (core now : Nat) : State :=
  ((s.core core).ladleQ.foldl (fun (acc : State × List (LadleOp × Bool)) o =>
    if now < o.due || acc.2.any o.behind then acc
    else
      let put (s : State) (f : List LadleOp → List LadleOp) : State := modCore s core fun c => { c with ladleQ := f c.ladleQ }
      match applyLadle acc.1 core o with
      | .done s vals => (readyPend (put s fun q => q.erase o) o.pend vals, acc.2)
      | .full => (put (releaseFirst acc.1 core o.slot o.kind) fun q => q.map fun x => if x = o then { o with waits := true } else x, acc.2 ++ [(o, false)])
      | .frame => (acc.1, acc.2 ++ [(o, true)])) (s, [])).1

/-- An operation should have been accepted by now and waits for neither room nor lock entries: its slot is blocked (06 R131). -/
def ladleLate (s : State) (core now : Nat) : Bool := (s.core core).ladleQ.any fun o => decide (o.due ≤ now) && !o.waits

/-! The words. -/

/-- What one thread asks of the Ladle: slot, operation, and the registers that get what it gives. -/
structure LadleReq where
  slot : Nat
  kind : LadleKind
  regs : List Nat
deriving DecidableEq, Repr

/-- The operation of a request. -/
def ladleOp (s : State) (ix : Issue) (t : ThreadRef) (q : LadleReq) (pend : Option Nat) : LadleOp :=
  { th := t, cg := ix.cg, part := ix.part, word := wordNow s, site := siteOf ix, slot := q.slot, kind := q.kind,
    pend := pend, due := timeOf s ix.cg + Config.dsmLatency, waits := false }

/-- A request is performed at once; under DSM it is put before the Ladle for its slot of acceptance (06 R131, 12 R276). None: done. -/
def sendLadle (s : State) (ix : Issue) (c : Ctl) (t : ThreadRef) (q : LadleReq) : State × Option Again :=
  let out (vals : List Word) : LaneOut := { regs := q.regs, vals := vals, preds := [], raise := 0 }
  if (s.launch ix.lid).lr.dsm then
    let o := ladleOp s ix t q (some s.w.nextId)
    (modCore (pushResult s ix c 0 true false t (out [])) ix.core fun x => { x with ladleQ := x.ladleQ ++ [o] }, none)
  else
    match applyLadle s ix.core (ladleOp s ix t q none) with
    | .done s vals =>
      let s := modCore s ix.core fun x => { x with ladleAt := (s.clk + 1, ix.part) }
      (if q.regs.isEmpty then s else pushResult s ix c 0 true true t (out vals), none)
    | .full => (s, some .unit)
    | .frame => (s, some .log)

/-- The lanes of a Ladle word in ascending `tid`: the state, the threads that are done, and why the word waits, if it does. -/
def ladleLanes (ts : List ThreadRef) (s : State) (ix : Issue) (c : Ctl) (f : State → ThreadRef → State × Except Trap (Option LadleReq))
    (did : List Nat) : State × List Nat × Option Again :=
  match ts with
  | [] => (s, did, none)
  | t :: rest =>
    match f s t with
    | (s', .error x) =>
      match x.again with
      | some why => (s, did, some why)
      | none => ladleLanes rest (trapAt s' ix t.tid x) ix c f did
    | (s', .ok none) => ladleLanes rest s' ix c f (did ++ [t.tid])
    | (s', .ok (some q)) =>
      match sendLadle s' ix c t q with
      | (_, some why) => (if why = .unit then releaseFirst s ix.core q.slot q.kind else s, did, some why)
      | (s', none) => ladleLanes rest s' ix c f (did ++ [t.tid])

/-- An operation for whose acceptance its group waits (12 R270, R275). -/
def LadleOp.holds (s : State) (core : Nat) (o : LadleOp) : Bool :=
  match o.kind with
  | .claim .. | .release => true
  | .deposit _ => ((slotAfter s core o.slot).map (·.2)).getD false
  | .mark _ | .pixel _ | .entry .. => false

/-- A Ladle word: the lanes that are done do not act again while the others wait (12 R275). -/
def ladleWord (s : State) (c : Ctl) (stall : Nat) (f : Issue → State → ThreadRef → State × Except Trap (Option LadleReq)) :
    Host.Outcome State Fault Refusal :=
  match s.issue with
  | none => .next s
  | some ix =>
    let did := (s.group ix.part ix.pos).did
    let ts := activeOf s ix c
    match ladleLanes (ts.filter fun t => !did.contains t.tid) s ix c (f ix) did with
    | (s, did, some why) => .next (holdWord (modGroup s ix.part ix.pos fun g => { g with did := did }) ix why)
    | (s', _, none) =>
      let s' := spendSlot (acceptFlags s s' ix c) ix c
      let holds := (s'.core ix.core).ladleQ.any fun o => decide (o.th.pg = ix.pg) && ix.tids.contains o.th.tid && o.holds s' ix.core
      .next (if ts.isEmpty || (stall = 0 && !holds) then advance s' ix
             else modGroup s' ix.part ix.pos fun g => { g with hold := .ladle, stall := Nat.max g.stall stall, ready := g.ready && decide (stall = 0) })

/-- A request at the slot an operand names. -/
def atSlot (s : State) (ix : Issue) (v : Word) (q : Nat → Except Trap LadleReq) : State × Except Trap (Option LadleReq) :=
  match heldSlot s ix v with
  | .error e => (s, .error e)
  | .ok k => match q k with
    | .error e => (s, .error e)
    | .ok q => (s, .ok (some q))

/-- The term in a thread's registers. -/
def termOf (s : State) (t : ThreadRef) (n : Nat) : Term :=
  let r (i : Nat) : Word := regOf s t (n + i)
  { pix := (r 0).toNat, key := r 1, idx := r 2, alpha := r 3, r := r 4, g := r 5, b := r 6 }

/-- CDEP (12 R272, R275). -/
def execCdep (w : Wd) (s : State) : Host.Outcome State Fault Refusal :=
  ladleWord s w.ctl 0 fun ix s' t => atSlot s' ix (srcWord s t w.a) fun k =>
    let tm := termOf s t (vNum w.b)
    if 255 < tm.pix then .error (plainTrap 0x09 tm.pix) else .ok { slot := k, kind := .deposit tm, regs := [] }

/-- CWMARK (12 R274). -/
def execCwmark (w : Wd) (s : State) : Host.Outcome State Fault Refusal :=
  ladleWord s w.ctl 0 fun ix s' t => atSlot s' ix (srcWord s t w.a) fun k =>
    .ok { slot := k, kind := .mark (srcWord s t w.b), regs := [] }

/-- CREAD (12 R277). -/
def execCread (w : Wd) (s : State) : Host.Outcome State Fault Refusal :=
  ladleWord s w.ctl 0 fun ix s' t => atSlot s' ix (srcWord s t w.b) fun k =>
    .ok { slot := k, kind := .pixel ((srcWord s t w.c).toNat % 256), regs := (List.range 6).map fun i => vNum w.a + i }

/-- CRLIST (12 R277). -/
def execCrlist (w : Wd) (s : State) : Host.Outcome State Fault Refusal :=
  ladleWord s w.ctl 0 fun ix s' t => atSlot s' ix (srcWord s t w.b) fun k =>
    let c := (srcWord s t w.c).toNat
    .ok { slot := k, kind := .entry (c % 256) (c / 256 % 256), regs := (List.range 4).map fun i => vNum w.a + i }

/-! CRST (12 R270). -/

/-- The checks of a tile descriptor in the order of R270; the pages of the list area are pinned on the way. Cause 0x12 is
NO_FRAME. -/
def checkTileDesc (s : State) (ix : Issue) (owner : Nat) (d : List Byte) (va : Nat) : State × Option Trap :=
  let w8 := fieldAt d 8 4
  let st := w8 % 2 ^ 20
  let list := fieldAt d 0 8
  if Config.abufSize (s.core ix.core).carve < st + 6144 ∨ inOthersRange s ix.core ix.cg st 6144 then (s, some (plainTrap 0x09 st))
  else if list % 4096 ≠ 0 then (s, some (plainTrap 0x05 list))
  else if st % 128 ≠ 0 then (s, some (plainTrap 0x05 st))
  else
    match if list = 0 then (s, none) else engineCheck s ix.core owner ix.space list 0x100000 .readWrite with
    | (s, some (c, a)) => (s, some (if c = 0 then holdTrap a else memTrap c a))
    | (s, none) =>
      if w8 / 2 ^ 20 ≠ 0 ∨ fieldAt d 12 4 / 2 ≠ 0 ∨ fieldAt d 16 8 ≠ 0 ∨ fieldAt d 24 8 ≠ 0 then (s, some (plainTrap 0x01 va))
      else (s, none)

/-- One lane of CRST: the slot, the descriptor and its checks. -/
def crstLane (s : State) (ix : Issue) (t : ThreadRef) (v : Word) (va : Nat) : State × Except Trap (Option LadleReq) :=
  let others := match slotAfter s ix.core v.toNat with
    | some x => decide (x.1 ≠ ix.cg)
    | none => false
  if decide (8 ≤ v.toNat) || others then (s, .error (plainTrap 0x09 v.toNat))
  else
    match readDesc s t va 32 32 with
    | (s, .error e) => (s, .error e)
    | (s, .ok d) =>
      let (owner, s) := nextId s
      match checkTileDesc s ix owner d va with
      | (s, some e) =>
        let s := dropPins s ix.core owner
        if e.cause = 0x12 then (contain s t 0x12, .ok none) else (s, .error e)
      | (s, none) => (s, .ok (some { slot := v.toNat, kind := .claim d owner, regs := [] }))

/-- CRST (12 R270): its group holds for 48 clk. -/
def execCrst (w : Wd) (s : State) : Host.Outcome State Fault Refusal :=
  ladleWord s w.ctl 49 fun ix s' t => crstLane s' ix t (srcWord s t w.a) (effAddr s t w.b w.c)

/-- One lane of CRST.rel: releasing a free slot does nothing (log 39). -/
def crstRelLane (s : State) (ix : Issue) (v : Word) : State × Except Trap (Option LadleReq) :=
  match slotAfter s ix.core v.toNat with
  | some x => if x.1 = ix.cg then (s, .ok (some { slot := v.toNat, kind := .release, regs := [] })) else (s, .error (plainTrap 0x09 v.toNat))
  | none => (s, if 8 ≤ v.toNat then .error (plainTrap 0x09 v.toNat) else .ok none)

/-- CRST.rel (12 R270): every commit's writes have been taken when it has committed (log 37), and its acquire at .cg drops nothing
(08 R189). -/
def execCrstRel (w : Wd) (s : State) : Host.Outcome State Fault Refusal :=
  ladleWord s w.ctl 0 fun ix s' t => crstRelLane s' ix (srcWord s t w.a)

/-! The adjoint step (12 R278). -/

/-- CADJ's results vd to vd+2 and vd+4 to vd+7 from vs and vd. -/
def adjoint (v d : Nat → Nat) : List Nat :=
  let w := fm (v 1) (v 0)
  let om := fa 0x3F800000 (fneg (v 0))
  let iom := (rcpBits fmt32 (f32V om)).1
  let tc (c : Nat) : Nat := fa (fm (v 1) (v (2 + c))) (fneg (fm (d c) iom))
  let da := ff (v 7) (tc 2) (ff (v 6) (tc 1) (fm (v 5) (tc 0)))
  let da := fa da (fneg (fm (d 3) iom))
  [ff w (v 2) (d 0), ff w (v 3) (d 1), ff w (v 4) (d 2), da, fm w (v 5), fm w (v 6), fm w (v 7)]

/-- CADJ (12 R278). -/
def execCadj (w : Wd) (s : State) : Host.Outcome State Fault Refusal :=
  laneWord s w.ctl 32 false fun s _ t =>
    let a := vNum w.a
    { regs := [a, a + 1, a + 2, a + 4, a + 5, a + 6, a + 7],
      vals := (adjoint (fun i => (regOf s t (vNum w.b + i)).toNat) fun i => (regOf s t (a + i)).toNat).map word,
      preds := [], raise := 0 }

end Sys2Proof.Machine
end

