-- ==== Sys2Proof/Machine/Clock.lean ====
section
/-! DEFINITION. The passing of a clk, and of a slot of a DSM core group (06 R121, R131-R135; 02 R34; 18 R335; 22 R376), with the
events of deterministic scheduling. -/

namespace Sys2Proof.Machine

/-! One clk or slot of a partition. -/

/-- A bin's age after a clk (06 R121). -/
def ageBin (s : State) (n : Nat) (b : Bin) : Bin :=
  if (readyTids (s.pg b.pg) fun pl => decide (pl = .bin n)).isEmpty then { b with age := 0, aged := false }
  else { b with age := Nat.min (b.age + 1) 65535 }

/-- An issue group after a clk: its stall count, with the end of which a trial's delay ends (22 R376), how long it has held its position, and the two clk that follow a scoreboard hold
(02 R34; 06 R125). DESIGN CHOICE (log 104): the hold of a clause's first word (01 R21, 02 R38) is counted as a scoreboard hold, so that it
too costs these two clk and is sampled as spacing. -/
def ageGroup (s : State) (g : Group) : Group :=
  { g with stall := g.stall - 1, held := g.held + 1, trial := if g.stall ≤ 1 then 0 else g.trial,
           spacing := if g.ready && decide (g.hold = .free) && groupHazard s g then 2 else g.spacing - 1 }

/-- A YIELD's count after a clk. -/
def ageYield (t : Thread) : Thread :=
  match t.wait with
  | .yield n => { t with wait := .yield (n - 1) }
  | .ready | .flags _ | .region | .barrier _ _ | .join => t

/-- A clk, or a slot, passes on a partition. The groups that a trial holds are counted in trial windows (22 R376, R377). -/
def advancePart (s : State) (part : Nat) : State :=
  let ov := if (overflowReady s part).isEmpty then 0 else Nat.min ((s.part part).ovAge + 1) 65535
  let held := ((s.part part).groups.filter fun e => decide (0 < e.2.stall) && decide (e.2.stall ≤ e.2.trial)
    && decide ((s.pg e.2.pg).lid = s.trial.launch)).length
  let s' := modPart s part fun p =>
    { p with issued := false, drew := false, ovAge := ov, ovDue := overflowWaits s part, bins := p.bins.map fun b => (b.1, ageBin s b.1 b.2),
             groups := p.groups.map fun g => (g.1, ageGroup s g.2) }
  let s' := { s' with w := { s'.w with pgs := s'.w.pgs.map fun e =>
    if e.2.part = part && !e.2.ended then (e.1, { e.2 with threads := e.2.threads.map ageYield }) else e } }
  if s.trial.left ≠ 0 ∧ s.trial.inTrial ∧ held ≠ 0 then
    { s' with trial := { s'.trial with counters := s'.trial.counters.modify 11 fun c => word (Nat.min (c.toNat + held) (2 ^ 32 - 1)) } }
  else s'

/-! The clk of core groups. -/

/-- A core group is resident (18 R335): placed, not ended, and its launch not saved. -/
def resident (s : State) (e : Nat × CoreGroup) : Bool := !e.2.ended && decide ((s.launch e.2.lid).run ≠ .saved)

/-- A thread's timer after a resident clk outside DSM (18 R335). -/
def ageTimer (t : Thread) : Thread := { t with timer := t.timer.map (· - 1) }

/-- A clk passes for the resident core groups: their clk and, outside DSM, their threads' timers. -/
def advanceGroups (s : State) : State :=
  let up (k : Nat) : Bool := match tget? s.w.cgs k with
    | some g => resident s (k, g)
    | none => false
  { s with w := { s.w with
    cgs := s.w.cgs.map fun e => if resident s e then (e.1, { e.2 with clk := e.2.clk + 1, dsm := { e.2.dsm with advanced := false } }) else e,
    pgs := s.w.pgs.map fun e => if up (cgOfPg e.1) && !dsmCg s (cgOfPg e.1) then (e.1, { e.2 with threads := e.2.threads.map ageTimer }) else e } }

/-- A clk passes for the sampling blocks (22 R373). -/
def advanceSampling (s : State) : State :=
  { s with w := { s.w with dies := s.w.dies.map fun d =>
    if d.2.sm.en then (d.1, { d.2 with sm := { d.2.sm with clk := d.2.sm.clk + 1 } }) else d } }

/-- A clk passes for a trial window, unless its launch has been pre-empted (22 R376, R378). -/
def advanceTrial (s : State) : State :=
  if s.trial.left ≠ 0 ∧ (s.launch s.trial.launch).run ≠ .saved then
    { s with trial := { s.trial with left := s.trial.left - 1, counters := s.trial.counters.modify 10 satInc } }
  else s

/-- The reserves of a die's cores are refilled while its ring holds frames and no access waits for one (08 R183). -/
def refillDie (s : State) (die : Nat) : State :=
  if ringEntries (s.die die).mcb = 0 || decide (waitingAccs s die ≠ 0) then s
  else s.w.cores.foldl (fun s c => if dieOfCore c.1 = die then refillReserve 64 s c.1 else s) s

/-- What the units of a die do as a clk ends: its dispatcher applies what arrived (05 R98), the frame reserves are refilled. -/
def endClk (s : State) (die : Nat) : State := refillDie (applyDisp s die) die

/-- A Ladle operation of a DSM core group whose acceptance is late is tried again (06 R131). -/
def retryLadle (s : State) (cg : Nat) : State :=
  let g := s.cg cg
  if dsmCg s cg && !g.ended && ladleLate s g.core g.dsm.slot then acceptLadle s g.core g.dsm.slot else s

/-- TICK: a clk passes. The partitions of a DSM core group pass with its slots instead. -/
def tick (s : State) : State :=
  let s := s.w.dies.foldl (fun s d => endClk s d.1) s
  let s := s.w.cgs.foldl (fun s g => retryLadle s g.1) s
  let s := s.w.parts.foldl (fun s p => if (dsmOfCore s (coreOfPart p.1)).isSome then s else advancePart s p.1) s
  let s := advanceTrial (advanceSampling (advanceGroups s))
  { s with clk := s.clk + 1 }

/-! Deterministic scheduling (06 R131-R134). -/

/-- The partition groups of a core group. -/
def pgsOfCg (s : State) (cg : Nat) : List (Nat × PartGroup) := s.w.pgs.filter fun e => decide (cgOfPg e.1 = cg)

/-- An engine operation whose completion slot has been reached and that could complete now (06 R131). One that a lock holds back
completes in the slot in which it is let go. -/
def opBlocks (s : State) (o : EngOp) (now : Nat) : Bool :=
  decide (o.due ≤ now) && (opMayRun s o || (o.done && !((s.core o.core).eng.ops.any fun x => o.waits.contains x.id)))

/-- A matrix operation whose completion slot has been reached and that could complete now. -/
def matBlocks (s : State) (core : Nat) (o : MatOp) (now : Nat) : Bool :=
  match o.due with
  | some d => decide (d ≤ now)
  | none => decide (o.since + Config.dsmLatency ≤ now) && (portReady s core o || decide (startable s core = some o))

/-! Task starts of a DSM launch (05 R99; 06 R134). -/

/-- Ready records of a die group: queue, record, the one ready longest first. -/
def readyTasks (s : State) (lid dgid : Nat) : List (Nat × QRec) :=
  sortBy (fun x : Nat × QRec => x.2.seq) ((List.range (s.launch lid).lr.nq).flatMap fun q =>
    ((queueOf s lid dgid q).filter fun r => r.held.isNone).map fun r => (q, r))

/-- The event in which a task starts in a thread of a DSM core group. -/
def startEvent (t : ThreadRef) : Nat := 2 ^ 60 + t.pg * 1024 + t.tid

/-- The free slots of a launch on a die, in ascending core group, partition group and `tid`; under DSM in ascending core, and without
those in which a task is to start. -/
def freeSlots (s : State) (lid dgid : Nat) : List ThreadRef :=
  let pgs := s.w.pgs.filter fun e => decide (e.2.lid = lid) && decide (e.2.dgid = dgid) && !(s.cg (cgOfPg e.1)).killed
  let free (e : Nat × PartGroup) : List ThreadRef := (tidsWhere e.2 fun t => decide (t.place = .empty)).map fun i => { pg := e.1, tid := i }
  if (s.launch lid).lr.dsm then
    ((sortBy (fun e : Nat × PartGroup => e.2.core * 8 + e.2.pgid) pgs).flatMap free).filter fun t =>
      !((s.cg (cgOfPg t.pg)).dsm.due.any fun d => decide (d.1 = startEvent t))
  else (pgs.filter fun e => pgRuns s e.1).flatMap free

/-- The phase in which a slot became free; one that no task has had is free from the first. -/
def freedPhase (s : State) (t : ThreadRef) : Nat := tget (s.pg t.pg).freed t.tid 0

/-- The task of a DSM launch that starts next on a die group, with its slot: in the lowest phase in which both are known, the task that
became ready first and the lowest slot. Both are known once every core group has finished that phase. -/
def dsmTask (s : State) (lid dgid : Nat) : Option (Nat × Nat × QRec × ThreadRef) :=
  let slots := freeSlots s lid dgid
  let tasks := readyTasks s lid dgid
  match minBy? id (slots.map (freedPhase s)), minBy? id (tasks.map fun x => x.2.phase) with
  | some f, some p =>
    let e := Nat.max f p
    match tasks.find? fun x => decide (x.2.phase ≤ e), slots.find? fun t => decide (freedPhase s t ≤ e) with
    | some x, some t => some (e, x.1, x.2, t)
    | _, _ => none
  | _, _ => none

/-- The dispatcher of a DSM launch has tasks to start before it applies operations of a phase. -/
def startsBefore (s : State) (lid phase : Nat) : Bool :=
  let l := s.launch lid
  l.lr.taskServer && decide (l.out ≠ 3) && (List.range l.lr.ndg).any fun dg => match dsmTask s lid dg with
    | some x => decide (x.1 < phase)
    | none => false

/-- A result whose slot has been reached and whose value is not known. Completion flags of a word that its unit has not accepted, and
the result of a Ladle operation that waits there, are not due. -/
def pendBlocks (s : State) (p : Pend) (now : Nat) : Bool :=
  decide (p.due ≤ now) && (!p.flagOnly || p.ready || p.win)
    && !((s.core (s.cg (cgOfPg p.th.pg)).core).ladleQ.any fun o => o.waits && decide (o.pend = some p.id))

/-- A completion slot has been reached whose real completion has not happened (06 R131; 14 R310). What no slot stands for, a write on its
way to another die or a record, holds back every slot (19 R345). -/
def slotBlocked (s : State) (cg : Nat) : Bool :=
  let g := s.cg cg
  let now := g.dsm.slot
  (s.w.pends.any fun p => decide (cgOfPg p.th.pg = cg) && pendBlocks s p now)
    || (g.dsm.due.any fun d => decide (d.2 ≤ now))
    || (s.w.ops.any fun o => decide (o.cg = cg) && opBlocks s o now)
    || ((s.core g.core).eng.ops.any fun o => decide (o.gang.cg = cg) && matBlocks s g.core o now)
    || (g.bars.any fun b => b.rels.any fun r => decide (r.2 ≤ now))
    || ((pgsOfCg s cg).any fun e => e.2.bars.any fun b => b.rels.any fun r => decide (r.2 ≤ now))
    || ((List.range 6).any fun p => !(s.part (partKey g.core p)).stopped
      && (s.part (partKey g.core p)).fetches.any fun f => decide (f.2.2 + Config.dsmLatency ≤ now))
    || (s.w.accs.any fun a => decide (a.lid = g.lid) && match a.key with
        | some (ph, _) => decide (deliverySlot (s.launch g.lid).dist ph ≤ now)
        | none => decide (cgOfPg a.pg = cg) && decide (a.stage ≠ .window) && mayPerform s a)
    || ladleLate s g.core now || ((s.die (dieOfCore g.core)).wq.any fun q => decide (q.lid = g.lid))
    || startsBefore s g.lid ((now / Config.phaseSlots) - 2 * (s.launch g.lid).dist)

/-- A core group does not begin the next phase (06 R133): it stands at the end of a phase whose boundary it has not passed. -/
def phaseHeld (s : State) (cg : Nat) : Bool :=
  let d := (s.cg cg).dsm
  decide ((d.slot + 1) % Config.phaseSlots = 0) && !d.phaseDone

/-- A DSM core group is frozen (06 R131, R133; 04 R84; 18 R331; 22 R381). -/
def dsmFrozen (s : State) (cg : Nat) : Bool :=
  let g := s.cg cg
  slotBlocked s cg || phaseHeld s cg || s.mgmt.throttling || !launchRuns s g.lid || !engineBack s cg
    || ((partsOfCore g.core).any fun p => (s.part p).stopped) || g.ended || g.killed

/-- Ask for the clauses that a partition needs at a slot (06 R116, R131). -/
def askFetches (s : State) (part slot : Nat) : State :=
  let need := neededFetches s part
  modPart s part fun p =>
    { p with fetches := (p.fetches.filter fun f => need.contains (f.1, f.2.1)) ++
      ((need.filter fun n => !p.fetches.any fun f => decide (f.1 = n.1) && decide (f.2.1 = n.2)).map fun n => (n.1, n.2, slot)) }

/-- The phase of a core group; one that has ended counts as having begun every later phase (19 R346). -/
def phaseOf (g : CoreGroup) : Option Nat := if g.ended then none else some (g.dsm.slot / Config.phaseSlots)

/-- Whether two core groups of a launch are neighbours (06 R133). -/
def neighbours (a b : CoreGroup) : Bool :=
  let dist (x y : Nat) : Nat := (x - y) + (y - x)
  decide (a.lid = b.lid) &&
    ((decide (a.dgid = b.dgid) && decide (dist (a.cgid % 8) (b.cgid % 8) + dist (a.cgid / 8) (b.cgid / 8) = 1))
      || (decide (a.cgid = 0 ∧ b.cgid = 0) && decide (dist a.dgid b.dgid = 1)))

/-- The partition groups of a core group whose threads an event of a barrier reaches. -/
def pgKeysOf (s : State) (cg : Nat) : List Nat := (pgsOfCg s cg).map (·.1)

/-- A task begins in its slot (05 R90, R102), with acquire ordering at .dev. -/
def beginTask (s : State) (t : ThreadRef) (words : List Word) : State :=
  let g := s.pg t.pg
  let lr := (s.launch g.lid).lr
  let s := acquireActions s g.core .dev
  let s := modThread s t fun _ => { Thread.start (lr.regs8 * 8) (trEntry words) with place := .parked, task := words, born := s.w.nextId }
  fileThread s t (trEntry words) .ready

/-- DSM_EVENT_DELIVERY (06 R134): an event from outside reaches a core group at its slot: a barrier release, or the start of a task.
Results of accesses and of the dispatcher are due at their own slots. -/
def execDsmEventDelivery (cg id : Nat) (s : State) : Host.Outcome State Fault Refusal :=
  let g := s.cg cg
  match g.dsm.due.find? fun d => decide (d.1 = id) && decide (d.2 ≤ g.dsm.slot) with
  | none => .next s
  | some d =>
    let s := modCg s cg fun x => { x with dsm := { x.dsm with due := x.dsm.due.filter fun y => y != d } }
    if 2 ^ 60 ≤ id then
      let t : ThreadRef := { pg := (id - 2 ^ 60) / 1024, tid := (id - 2 ^ 60) % 1024 }
      .next (if (s.launch g.lid).out = 3 then s else beginTask s t (s.thread t).task)
    else
      let b := (id - 2 ^ 40) / 65536
      let gen := BitVec.ofNat 16 (id % 65536)
      .next (releaseWaiters s (pgKeysOf s cg) b gen)

/-- The lowest phase that a core group of a launch has not finished (14 R310; 19 R346). -/
def openPhase (s : State) (lid : Nat) : Option Nat :=
  (minBy? id ((s.w.cgs.filter fun e => decide (e.2.lid = lid)).filterMap fun e => phaseOf e.2))

/-- The order of keys (14 R310): phase, die group, core group, count. -/
def keyBefore (s : State) (a b : Acc) : Bool :=
  let k (x : Acc) : List Nat :=
    let g := s.pg x.pg
    [(x.key.getD (0, 0)).1, g.dgid, g.cgid, (x.key.getD (0, 0)).2]
  decide (k a < k b)

/-- The keyed access of a launch that commits next: the lowest key of the phases that are closed. -/
def nextCommit (s : State) (lid : Nat) : Option Acc :=
  let closed (a : Acc) : Bool := match openPhase s lid with
    | none => true
    | some p => decide ((a.key.getD (0, 0)).1 < p)
  (s.w.accs.filter fun a => decide (a.lid = lid) && a.key.isSome && closed a).foldl (fun best a => match best with
    | none => some a
    | some b => if keyBefore s a b then some a else some b) none

/-- A thread of a keyed access has issued a window access with acquire ordering before it that is still to be performed (19 R345). -/
def acquireFirst (s : State) (a : Acc) : Bool :=
  s.w.accs.any fun b => decide (b.stage = .window) && b.key.isNone && ordAcq b.ord && decide (b.id < a.id) && a.shares b

/-- DSM_PHASE_COMMIT (14 R310): the accesses of the phases that every core group has finished are applied in ascending key. One that
cannot be applied yet (it waits for a frame, or for an acquire of the window) stops the commit, and so does a task start of an earlier
phase. -/
def commitPhase (fuel : Nat) (s : State) (lid : Nat) : State :=
  match fuel with
  | 0 => s
  | k + 1 =>
    match nextCommit s lid with
    | none => s
    | some a =>
      if a.stage = .frame || acquireFirst s a || startsBefore s lid (a.key.getD (0, 0)).1 then s
      else
        match performAcc s a with
        | (s', true) => commitPhase k s' lid
        | (s', false) => s'

def execDsmPhaseCommit (lid : Nat) (s : State) : Host.Outcome State Fault Refusal := .next (commitPhase s.w.accs.length s lid)

/-! What a slot still owes before its words issue, so that the composition of every issue group follows from the slot alone (06 R132). -/

/-- A scheduler event of a partition that precedes its draw and its issue in a slot. -/
def partOwes (s : State) (part : Nat) : Bool :=
  let p := s.part part
  (p.groups.any fun g => decide (g.2.stall = 0) && !g.2.ready) || overflowDue s part
    || (p.bins.any fun b => !b.2.aged && binAgedNow s b.2)
    || (!p.stopped && p.groups.any fun g => atHeaderNow g.2 && mustFileAged s part g.1)
    || ((pgsOn s part).any fun e => mayDeliver s e.1
      || (e.2.threads.any fun t => decide (t.wait = .yield 0) || (decide (t.timer = some 0) && t.live))
      || ((List.range 4).any fun q => (e.2.streams.getD q Stream.init).active
        && (List.range e.2.threads.length).any fun i => (fetchable s { pg := e.1, tid := i } q).isSome))

/-- The completions, deliveries and scheduler events of a DSM core group's slot have happened. -/
def slotSettled (s : State) (cg : Nat) : Bool :=
  let g := s.cg cg
  let e := (s.core g.core).eng
  !slotBlocked s cg && (partsOfCore g.core).all (fun p => !partOwes s p)
    && !(e.owner.isNone && !engFrozen e && !e.queue.isEmpty) && (nextCommit s g.lid).isNone

/-- BIN_DRAW is due on a partition. -/
def drawNow (s : State) (part : Nat) : Bool :=
  canDraw s part && match dsmOfCore s (coreOfPart part) with
    | some cg => slotSettled s cg
    | none => true

/-- A causal trial's window has run out and has still to be closed (22 R377). -/
def windowOver (s : State) : Bool := s.trial.en && decide (s.trial.left = 0)

/-- A position issues next (06 R124); under DSM once its slot is settled and drawn, partitions in ascending order (06 R132, 14 R310). A
word issued in a clk belongs to the trial window of that clk. -/
def issueNow (s : State) (part pos : Nat) : Bool :=
  decide (nextIssuer s part = some pos) && !windowOver s && match dsmOfCore s (coreOfPart part) with
    | some cg => slotSettled s cg && !canDraw s part
        && (partsOfCore (coreOfPart part)).all fun p => decide (part ≤ p) || ((nextIssuer s p).isNone && !canDraw s p)
    | none => true

/-- BIN_DRAW (06 R122, R123). -/
def execBinDraw (part : Nat) (s : State) : Host.Outcome State Fault Refusal :=
  if drawNow s part then
    match specialCand s part, chooseBin s part with
    | some c, _ => .next (drawSpecial s part c)
    | none, some c => .next (drawBin s part c)
    | none, none => .next s
  else .next s

/-- Every partition of a DSM core group has issued its word or has none to issue. -/
def slotReady (s : State) (cg : Nat) : Bool :=
  slotSettled s cg && (partsOfCore (s.cg cg).core).all fun p => (nextIssuer s p).isNone && !canDraw s p

/-- An event that a core group sent to its unit and that the unit has not accepted: a keyed access or a dispatcher operation is in its
commit queue as soon as it is issued, so only an access that waits for a frame counts (06 R133). -/
def unaccepted (s : State) (cg : Nat) : Bool := s.w.accs.any fun a => decide (cgOfPg a.pg = cg) && a.key.isSome && decide (a.stage = .frame)

/-- DSM_PHASE_BOUNDARY (06 R133): the words of the phase's last slot have been issued, every neighbour has begun the phase before, and
what was sent has been accepted. -/
def execDsmPhaseBoundary (cg : Nat) (s : State) : Host.Outcome State Fault Refusal :=
  let g := s.cg cg
  let p := g.dsm.slot / Config.phaseSlots
  let ahead := s.w.cgs.all fun e => !neighbours g e.2 || match phaseOf e.2 with
    | some q => decide (p ≤ q + 1)
    | none => true
  if dsmCg s cg && phaseHeld s cg && slotReady s cg && ahead && !unaccepted s cg then
    .next (modCg s cg fun x => { x with dsm := { x.dsm with phaseDone := true, limit := p + 1 } })
  else .next s

/-- DSM_SLOT_ADVANCE (06 R131): once in a clk, unless the core group is frozen. -/
def execDsmSlotAdvance (cg : Nat) (s : State) : Host.Outcome State Fault Refusal :=
  let g := s.cg cg
  if !dsmCg s cg || g.dsm.advanced || dsmFrozen s cg || !slotReady s cg then .next s
  else
    let parts := partsOfCore g.core
    let s := parts.foldl (fun s p => askFetches s p g.dsm.slot) s
    let s := parts.foldl (fun s p => if (tget? s.w.parts p).isSome then advancePart s p else s) s
    let s := modCg s cg fun x => { x with dsm := { x.dsm with slot := x.dsm.slot + 1, advanced := true, phaseDone := false } }
    .next (acceptLadle (slotEngine s cg) g.core (g.dsm.slot + 1))

/-! Barriers and timers. -/

/-- A partition group through which a barrier of a launch is reached: `bar` numbers the launch's barriers as partition group key × 24 +
barrier. -/
def releaseDue (s : State) (pg b : Nat) : Option (BitVec 16) :=
  let now := if b < 16 then timeOf s (cgOfPg pg) else s.clk
  ((barOf s pg b).rels.find? fun r => decide (r.2 ≤ now)).map (·.1)

/-- BARRIER_RELEASE (14 R298): a completed generation reaches its waiting threads; `bar` is a partition group of the tier instance × 24 +
the barrier's number. -/
def execBarrierRelease (lid bar : Nat) (s : State) : Host.Outcome State Fault Refusal :=
  let pg := bar / 24
  let b := bar % 24
  if (s.pg pg).lid ≠ lid then .next s
  else
    match releaseDue s pg b with
    | none => .next s
    | some gen =>
      let s := modBar s pg b fun x => { x with rels := x.rels.filter fun r => r.1 != gen }
      .next (releaseWaiters s (tierPgs s pg b) b gen)

/-- TIMER_EXPIRY (18 R335): the thread takes TIMER at its next clause header. -/
def execTimerExpiry (pg tid : Nat) (s : State) : Host.Outcome State Fault Refusal :=
  let t : ThreadRef := { pg := pg, tid := tid }
  .next (if (s.thread t).timer = some 0 ∧ (s.thread t).live then modThread s t fun x => { x with timer := none, timerDue := true } else s)

end Sys2Proof.Machine
end

