-- ==== Sys2Proof/Machine/Sha.lean ====
section
/-! DEFINITION. The reproducibility signature (05 R89, 20 R357): the SHA-256 digest that the manual names, and the message it is taken
of. -/

namespace Sys2Proof.Machine

/-- The largest number, of n bits above those found, whose `k`-th power is at most `m`. -/
def floorRoot (k m n found : Nat) : Nat :=
  match n with
  | 0 => found
  | b + 1 => floorRoot k m b (if (found + 2 ^ b) ^ k ≤ m then found + 2 ^ b else found)

/-- The first 64 primes: a number below 312 that no smaller prime up to 17 divides. -/
def digestPrimes : List Nat :=
  (List.range 312).filter fun n => decide (2 ≤ n) && [2, 3, 5, 7, 11, 13, 17].all fun d => decide (n = d) || decide (n % d ≠ 0)

/-- The first 32 bits of the fraction of a prime's `k`-th root. PRESUMED (log 47): SHA-256, which the manual names and does not repeat, takes
its constants so: of the cube roots for its rounds, of the first eight square roots for its start. -/
def rootFraction (k p : Nat) : Word := BitVec.ofNat 32 (floorRoot k (p * 2 ^ (32 * k)) 35 0)

/-- The exclusive or of a word turned right by some amounts. -/
def turned (by' : List Nat) (x : Word) : Word := by'.foldl (fun y n => y ^^^ x.rotateRight n) 0

/-- A block's sixteen words, taken from bytes with the most significant first, then as many more as there are rounds left: each from the
words sixteen, fifteen, seven and two before it. -/
def digestWords (n : Nat) (w : List Word) : List Word :=
  match n with
  | 0 => w
  | k + 1 =>
    let back (i : Nat) : Word := w.getD (w.length - i) 0
    digestWords k (w ++ [back 16 + (turned [7, 18] (back 15) ^^^ back 15 >>> 3) + back 7 + (turned [17, 19] (back 2) ^^^ back 2 >>> 10)])

/-- One round on the eight words of the digest: they move up by one, the fourth and the last give way to sums with the round's word. -/
def digestRound (v : List Word) (x : Word) : List Word :=
  let at' (i : Nat) : Word := v.getD i 0
  let choice := at' 6 ^^^ (at' 4 &&& (at' 5 ^^^ at' 6))
  let most := (at' 0 &&& (at' 1 ||| at' 2)) ||| (at' 1 &&& at' 2)
  let sum := at' 7 + turned [6, 11, 25] (at' 4) + choice + x
  [sum + turned [2, 13, 22] (at' 0) + most] ++ v.take 3 ++ [at' 3 + sum] ++ (v.drop 4).take 3

/-- The digest after one block of 64 bytes. -/
def digestBlock (keys h : List Word) (block : List Byte) : List Word :=
  let w := digestWords 48 ((List.range 16).map fun i => BitVec.ofNat 32 (natOfBytes ((block.drop (4 * i)).take 4).reverse))
  List.zipWith (· + ·) h ((List.zipWith (· + ·) keys w).foldl digestRound h)

/-- SHA-256: the 32 bytes of the digest, of a message followed by a one bit, zeros and its length in bits. -/
def sha256 (bs : List Byte) : List Byte :=
  let m := bs ++ [0x80] ++ List.replicate ((119 - bs.length % 64) % 64) 0 ++ (bytesOfNat 8 (8 * bs.length)).reverse
  let keys := digestPrimes.map (rootFraction 3)
  let h := (List.range (m.length / 64)).foldl (fun h i => digestBlock keys h ((m.drop (64 * i)).take 64))
    ((digestPrimes.take 8).map (rootFraction 2))
  h.flatMap fun w => (bytesOfNat 4 w.toNat).reverse

/-- The record with the fields that R89 excludes counted as zero. -/
def signedRecord (b : List Byte) : List Byte :=
  putBytes (putBytes b 8 (List.replicate 16 0)) 0x34 (bytesOfNat 4 (fieldAt b 0x34 4 / 0x2000 * 0x2000))

/-- The 64-byte message of R357. -/
def signatureMessage (version : Nat) (b : List Byte) : List Byte :=
  sha256 (signedRecord b) ++ bytesOfNat 8 version ++ bytesOfNat 8 1 ++ List.replicate 16 0

/-- The signature's words; word 0 holds bits [31:0], the digest's first four bytes (DEDUCED, log 47). -/
def signatureOf (version : Nat) (b : List Byte) : List Word := wordsOfBytes (sha256 (signatureMessage version b))

end Sys2Proof.Machine
end

