-- ==== Sys2Proof/Machine/Records.lean ====
section
/-! DEFINITION. Launch records (05 R86-R90): their fields, and the checks of R88 that need the record alone. -/

namespace Sys2Proof.Machine

/-- The persistent A-buffer ranges of a record in bytes: offset and length. -/
def recordRanges (b : List Byte) : List (Nat × Nat) :=
  ((List.range 4).map fun i => (fieldAt b (0x42 + 4 * i) 2 * 128, fieldAt b (0x40 + 4 * i) 2 * 128)).filter fun r => r.2 != 0

/-- The fields of a record (05 R87). -/
def parseLaunch (b : List Byte) : LaunchRec :=
  let w18 := fieldAt b 0x18 4
  let w1c := fieldAt b 0x1C 4
  let w30 := fieldAt b 0x30 4
  let w34 := fieldAt b 0x34 4
  let w50 := fieldAt b 0x50 4
  { entry := fieldAt b 0 8, trapvec := fieldAt b 8 8, status := fieldAt b 0x10 8, ndg := bitsOf w18 24 21, ncg := bitsOf w18 20 14,
    npg := bitsOf w18 13 11, nthr := bitsOf w18 10 0, age := bitsOf w1c 31 22, full := bitsOf w1c 21 16, taskServer := bitAt w1c 14,
    retry := bitsOf w1c 13 11, relaunch := bitAt w1c 10, idem := bitAt w1c 9, dsm := bitAt w1c 8, carve := bitsOf w1c 7 6,
    regs8 := bitsOf w1c 5 0, cvin := fieldAt b 0x20 8, cvout := fieldAt b 0x28 8, cvmode := bitsOf w30 17 16,
    cvstride := bitsOf w30 15 0, pdcV := bitAt w34 12, pdc := bitsOf w34 11 0, cvkey := BitVec.ofNat 64 (fieldAt b 0x38 8),
    pr := recordRanges b, nq := bitsOf w50 16 13, dccnt := bitsOf w50 12 0, ver := fieldAt b 0x54 1,
    queues := (List.range 8).map fun k => let d := fieldAt b (0x3C0 + 8 * k) 8; (bitsOf d 55 12 * 4096, bitsOf d 4 0),
    consts := (List.range 64).map fun n => word (fieldAt b (0x80 + 4 * n) 4),
    roles := (List.range 256).map fun n => BitVec.ofNat 16 (fieldAt b (0x180 + 2 * n) 2),
    task := (List.range 16).map fun n => word (fieldAt b (0x380 + 4 * n) 4) }

/-- A reserved bit or code of a record is nonzero (code 0x02). -/
def recordReserved (b : List Byte) (lr : LaunchRec) : Bool :=
  let grid := !lr.taskServer
  let desc (k : Nat) : Nat := fieldAt b (0x3C0 + 8 * k) 8
  decide (bitsOf (fieldAt b 0x18 4) 31 25 ≠ 0) || bitAt (fieldAt b 0x1C 4) 15 || decide (bitsOf (fieldAt b 0x30 4) 31 18 ≠ 0)
    || decide (bitsOf (fieldAt b 0x34 4) 31 13 ≠ 0) || decide (bitsOf (fieldAt b 0x50 4) 31 17 ≠ 0)
    || decide (bitsOf (fieldAt b 0x54 4) 31 8 ≠ 0) || ((b.drop 0x58).take 0x28).any (· != 0) || decide (lr.cvmode = 3)
    || (List.range 8).any (fun k => decide (bitsOf (desc k) 63 56 ≠ 0) || decide (bitsOf (desc k) 11 5 ≠ 0)
      || ((grid || decide (lr.nq ≤ k)) && decide (desc k ≠ 0)))
    || (grid && lr.task.any (· != 0)) || decide (2 ^ 26 ≤ (lr.task.getD 2 0).toNat) || decide (2 ^ 24 ≤ (lr.task.getD 1 0).toNat) || (grid && decide (2 ^ 56 ≤ lr.entry)) || decide (2 ^ 56 ≤ lr.trapvec)
    || decide (2 ^ 56 ≤ lr.status)

/-- A count of a record outside its range (code 0x03). DEDUCED (log 50): `lr.full` above 32 is one. -/
def recordCounts (lr : LaunchRec) : Bool :=
  let out (n lo hi : Nat) : Bool := decide (n < lo) || decide (hi < n)
  out lr.ndg 1 8 || out lr.ncg 1 72 || out lr.npg 1 6 || out lr.nthr 1 1024 || out lr.regs8 1 32 || out lr.full 0 32 || out lr.nq 0 8
    || out lr.dccnt 0 4096 || ((decide (lr.cvin ≠ 0) || decide (lr.cvout ≠ 0)) && decide (lr.cvstride = 0))

/-- Two spans of offset and length overlap. -/
def spansMeet (a b : Nat × Nat) : Bool := decide (a.1 < b.1 + b.2) && decide (b.1 < a.1 + a.2)

/-- Two of a list of spans overlap. -/
def anyMeet (l : List (Nat × Nat)) : Bool :=
  match l with
  | [] => false
  | x :: r => r.any (spansMeet x) || anyMeet r

/-- The queues of a task server are malformed (code 0x07). In grid mode no queue is in use (DEDUCED, log 50). -/
def recordQueues (lr : LaunchRec) : Bool :=
  lr.taskServer && (decide (lr.nq = 0) || (lr.queues.take lr.nq).any fun q =>
    decide (q.2 < 6) || decide (16 < q.2) || decide (q.1 % (64 * 2 ^ q.2) ≠ 0))

/-- The first code below 0x07 that refuses a record, or 0 (05 R88). -/
def recordCode (b : List Byte) (lr : LaunchRec) : Nat :=
  if lr.ver ≠ 1 then 1
  else if recordReserved b lr then 2
  else if recordCounts lr then 3
  else if 65536 < lr.nthr * 8 * lr.regs8 then 4
  else if (lr.relaunch && (!lr.idem || lr.taskServer)) || (!lr.relaunch && decide (lr.retry ≠ 0)) then 5
  else if lr.pr.any (fun r => decide (Config.abufSize lr.carve < r.1 + r.2)) || anyMeet lr.pr then 6
  else 0

/-- The number of threads, or slots, of a launch. -/
def recordThreads (lr : LaunchRec) : Nat := lr.ndg * lr.ncg * lr.npg * lr.nthr

end Sys2Proof.Machine
end

