-- ==== Sys2Proof/Machine/Placement.lean ====
section
/-! DEFINITION. Placing work on cores (06 R111, R113, R114, R130): what fits where, fresh core groups, and core groups brought back
from a context image (18 R334). -/

namespace Sys2Proof.Machine

/-! What a core holds. -/

/-- The core groups that a core holds. -/
def cgsOn (s : State) (core : Nat) : List (Nat × CoreGroup) := s.w.cgs.filter fun e => decide (e.2.core = core) && !e.2.ended

/-- The partition groups that take places on a partition: a core group keeps its place until it ends (06 R114). -/
def pgsPlaced (s : State) (part : Nat) : List (Nat × PartGroup) :=
  s.w.pgs.filter fun e => decide (e.2.part = part) && !(s.cg (cgOfPg e.1)).ended

/-- The base of a run of n places that are free among 1,024 (06 R111): DESIGN CHOICE (log 118), the lowest. -/
def freeRun (taken : List (Nat × Nat)) (n : Nat) : Option Nat :=
  let bases := 0 :: (taken.map fun t => t.1 + t.2)
  minBy? id (bases.filter fun b => decide (b + n ≤ Config.partPlaces) && taken.all fun t => !spansMeet (b, n) t)

/-- A partition has places and registers for a partition group: the base (06 R111). -/
def fitPart (s : State) (part : Nat) (lr : LaunchRec) : Option Nat :=
  let pgs := pgsPlaced s part
  let regs := pgs.foldl (fun n e => n + e.2.threads.length * 8 * (s.launch e.2.lid).lr.regs8) 0
  if Config.partRegs < regs + lr.nthr * 8 * lr.regs8 then none
  else freeRun (pgs.map fun e => (e.2.base, e.2.threads.length)) lr.nthr

/-- The partitions, in ascending order, that a core group's partition groups would take, each with its base; none where R111 does not
let the core hold it. `need` says how many group positions a partition group brings along: a partition has sixteen (06 R122). -/
def fitCore (s : State) (core : Nat) (lr : LaunchRec) (need : Nat → Nat) : Option (List (Nat × Nat)) :=
  let here := cgsOn s core
  let places := (List.range Config.partsPerCore).foldl (fun l p => match fitPart s (partKey core p) lr with
    | some b => if lr.npg ≤ l.length ∨ Config.groupPositions < (s.part (partKey core p)).groups.length + need l.length then l else l ++ [(p, b)]
    | none => l) []
  if 16 ≤ here.length ∨ places.length < lr.npg ∨ (!here.isEmpty && decide ((s.core core).carve ≠ lr.carve)) = true then none
  else if here.any (fun e => (s.launch e.2.lid).lr.dsm) then none
  else if anyMeet (lr.pr ++ here.flatMap fun e => (s.launch e.2.lid).lr.pr) then none
  else some places

/-- The cores of a die. -/
def coresOf (die : Nat) : List Nat := (List.range Config.coresPerDie).map fun i => die * Config.coresPerDie + i

/-- The line that holds a launch's entry, if a TLB translates it. -/
def entryLine (s : State) (core space : Nat) (lr : LaunchRec) : Option Nat :=
  if lr.taskServer then none else (peekFetch s core space lr.entry).map (· / 128)

/-- The partitions a core group would take hold its entry (06 R114; log 52). -/
def entryHot (s : State) (core space : Nat) (lr : LaunchRec) (places : List (Nat × Nat)) : Bool :=
  match entryLine s core space lr with
  | none => false
  | some l => places.all fun p => (findLine (s.part (partKey core p.1)).icache l).isSome

/-- Partitions of a core that hold no group. -/
def idleParts (s : State) (core : Nat) : Nat :=
  ((List.range Config.partsPerCore).filter fun p => (pgsPlaced s (partKey core p)).isEmpty).length

/-- The core that R114 chooses on a die for a core group, with its places; `extra` is a further condition on the core. -/
def chooseCore (s : State) (die space : Nat) (lr : LaunchRec) (need : Nat → Nat) (extra : Nat → Bool) : Option (Nat × List (Nat × Nat)) :=
  let cands := (coresOf die).filterMap fun c => if extra c then (fitCore s c lr need).map fun p => (c, p) else none
  let hot := cands.filter fun c => entryHot s c.1 space lr c.2
  maxBy? (fun c => idleParts s c.1) (if hot.isEmpty then cands else hot)

/-- The cores of a die that hold no group of any launch (06 R130). -/
def emptyCores (s : State) (die : Nat) : List Nat := (coresOf die).filter fun c => (cgsOn s c).isEmpty

/-- The dies of a DSM launch (06 R130). -/
def dsmDies (s : State) (lr : LaunchRec) : Option (List Nat) :=
  let l := (List.range Config.dies).filter fun d => decide (lr.ncg ≤ (emptyCores s d).length)
  if lr.ndg ≤ l.length then some (l.take lr.ndg) else none

/-- The dies of a launch by die group (06 R113): each the free die with the most cores that can hold one of its core groups, among those
that meet a further condition. -/
def assignDies (n : Nat) (s : State) (lr : LaunchRec) (extra : Nat → Nat → Bool) (taken : List Nat) : Option (List Nat) :=
  match n with
  | 0 => some taken
  | k + 1 =>
    let able (d : Nat) : Nat := ((coresOf d).filter fun c => (fitCore s c lr fun _ => 0).isSome).length
    match maxBy? able ((List.range Config.dies).filter fun d => !taken.contains d && extra taken.length d) with
    | none => none
    | some d => assignDies k s lr extra (taken ++ [d])

/-! Fresh core groups. -/

/-- A memory of free bytes: a buffer whose contents are undefined (08 R193). -/
def freeBytes (s : State) (n : Nat) : State × Memory :=
  ({ s with fresh := s.fresh + n }, (List.range n).filterMap fun i =>
    let b : Byte := (Config.freeWord (s.fresh + i)).truncate 8
    if b = memDefault then none else some (i, b))

/-- The carve-out of a launch is applied to a core: a change invalidates L1 and leaves the A-buffer undefined (08 R193). -/
def applyCarve (s : State) (core carve : Nat) : State :=
  if (s.core core).carve = carve then s
  else
    let (s, m) := freeBytes s (Config.abufSize carve)
    modCore s core fun c => { c with carve := carve, l1 := [], abuf := m }

/-- The lowest free core-group slot of a core (06 R111). -/
def freeSlot (s : State) (core : Nat) : Nat :=
  (firstFree 16 fun n => !((cgsOn s core).any fun e => decide (e.2.slot = n))).getD 0

/-- A partition group at its start: fresh threads (05 R90), in task-server mode empty slots (R95). -/
def freshPg (lr : LaunchRec) (lid dgid cgid pgid core p base : Nat) : PartGroup :=
  { PartGroup.none with lid := lid, dgid := dgid, cgid := cgid, pgid := pgid, core := core, part := partKey core p, base := base,
                        threads := List.replicate lr.nthr (Thread.start (lr.regs8 * 8) lr.entry), ended := false }

/-- Every thread of a partition group begins: it is filed at the entry (05 R90, 06 R117). -/
def startThreads (s : State) (pg : Nat) (lr : LaunchRec) : State :=
  if lr.taskServer then s
  else (List.range lr.nthr).foldl (fun s i =>
    fileThread (modThread s { pg := pg, tid := i } fun x => { x with born := s.w.nextId }) { pg := pg, tid := i } lr.entry .ready) s

/-- The partitions of a DSM core group begin without cached code, so that what they held before changes nothing (06 R131; log 53). DESIGN
CHOICE (log 120): the rotation of R132 begins at position 1, as if position 0 had issued last. -/
def clearCode (s : State) (core : Nat) : State :=
  (partsOfCore core).foldl (fun s p => modPart s p fun x => { x with icache := [], fetches := [], failed := [], rot := 0 }) s

/-- The sampling counts of a fresh DSM core group run from its first slot, on whatever die it stands (22 R373). -/
def startSampling (s : State) (key : Nat) : State :=
  { s with w := { s.w with dies := s.w.dies.map fun d => (d.1, { d.2 with sm := { d.2.sm with
    slots := tput d.2.sm.slots key 0, sampled := d.2.sm.sampled.filter fun x => !(List.range 6).any fun p => decide (x.1 = slotKey key p) } }) } }

/-- Place a fresh core group (05 R90; 06 R111, R114; log 36). -/
def placeFresh (s : State) (lid dgid cgid core : Nat) (places : List (Nat × Nat)) : State :=
  let lr := (s.launch lid).lr
  let key := cgKey lid dgid cgid
  let slot := freeSlot s core
  let s := applyCarve s core lr.carve
  let s := modCore (acquireActions s core .dev) core fun c => { c with kcache := [] }
  let s := if lr.dsm then startSampling (clearCode s core) key else s
  let g : CoreGroup := { CoreGroup.none with lid := lid, dgid := dgid, cgid := cgid, core := core, slot := slot, ended := false }
  let s := { s with w := { s.w with cgs := tput s.w.cgs key g } }
  places.zipIdx.foldl (fun s p =>
    let pk := pgKey key p.2
    startThreads { s with w := { s.w with pgs := tput s.w.pgs pk (freshPg lr lid dgid cgid p.2 core p.1.1 p.1.2) } } pk lr) s

/-! Core groups brought back (18 R332, R334). An image's `parts` are keyed by partition group and its `cores` by core group (log 54). -/

/-- The image from which a launch is being brought back. -/
def imageOf (s : State) (lid : Nat) : Option Image :=
  if (s.launch lid).run = .saved then none else s.images.find? fun i => i.lid = lid

/-- The further conditions on a core for a core group of an image: its reservations, Ladle slots and lock entries are free there. -/
def imageFits (s : State) (saved : Core) (core : Nat) : Bool :=
  let c := s.core core
  saved.resv.all (fun r => (tget? c.resv r.1).isNone && c.resv.all fun q => !spansMeet (r.2.off, r.2.len) (q.2.off, q.2.len))
    && saved.ladle.all (fun l => (tget? c.ladle l.1).isNone) && lockRoom c saved.locks.length

/-- Issue groups that a partition group of an image brings along. -/
def savedGroups (img : Image) (key p : Nat) : Nat := (tget img.world.parts (pgKey key p) Partition.init).groups.length

/-- Positions of saved groups on a partition: the saved one. DESIGN CHOICE (log 103): where it is in use, the lowest free one, which R332
leaves open. -/
def mapPositions (s : State) (part : Nat) (saved : Tab Group) : List (Nat × Nat) :=
  (saved.foldl (fun acc g =>
    let used (n : Nat) : Bool := (tget? (s.part part).groups n).isSome || acc.any fun x => x.2 = n
    let n := if used g.1 then (firstFree Config.groupPositions fun n => !used n && !saved.any fun h => h.1 = n).getD g.1 else g.1
    acc ++ [(g.1, n)]) [])

/-- Numbers of saved bins on a partition: the saved one, else the lowest free one, else none (its threads overflow). -/
def mapBins (s : State) (part : Nat) (saved : Tab Bin) : List (Nat × Option Nat) :=
  (saved.foldl (fun acc b =>
    let used (n : Nat) : Bool := (tget? (s.part part).bins n).isSome || acc.any fun x => x.2 = some n
    let n := if used b.1 then firstFree Config.bins (fun n => !used n && !saved.any fun h => h.1 = n) else some b.1
    acc ++ [(b.1, n)]) [])

/-- The new number of an old one. -/
def mapped (l : List (Nat × Nat)) (n : Nat) : Nat := ((l.find? fun x => x.1 = n).map (·.2)).getD n

/-- A thread's place under new numbers. -/
def mapPlace (pos : List (Nat × Nat)) (bins : List (Nat × Option Nat)) (p : Place) : Place :=
  match p with
  | .running n => .running (mapped pos n)
  | .bin n => match (bins.find? fun x => x.1 = n).bind (·.2) with
    | some m => .bin m
    | none => .overflow
  | .empty | .overflow | .parked | .alone | .team | .ended => p

/-- A restored group inside a clause has its words fetched again from the header, with the checks of an entry (02 R37). Under DSM that
takes no slot (06 R135). -/
def refetchGroup (s : State) (part pos : Nat) : State :=
  let g := s.group part pos
  if g.words.isEmpty then s
  else
    let s := modGroup s part pos fun g => { g with words := [] }
    let lid := (s.pg g.pg).lid
    if !(s.launch lid).lr.dsm then s
    else
      match fetchClause s part (s.launch lid).space lid g.hdr with
      | (s, some _) => s
      | (s, none) => match peekClause s part (s.launch lid).space g.hdr with
        | some cl => resumeClause s part pos g.hdr g.pc cl
        | none => s

/-- Bring back one partition group: the state, and its positions' new numbers. A stop that its claim has outlived holds again, and dumps show
the partition's other threads as they stand now; the caught threads of one that has ended resume (22 R381, R385). Its groups issued last
before those that stand there (06 R124). -/
def restorePg (s : State) (img : Image) (pk core p base : Nat) : State × List (Nat × Nat) :=
  match tget? img.world.pgs pk with
  | none => (s, [])
  | some g =>
    let part := partKey core p
    let saved := tget img.world.parts pk Partition.init
    let pos := mapPositions s part saved.groups
    let bins := mapBins s part saved.bins
    let g := { g with core := core, part := part, base := base,
                      threads := g.threads.map fun t => { t with place := mapPlace pos bins t.place } }
    let snap := (if saved.stopped && !(s.part part).stopped then snapOf s part else (s.part part).snap) ++ saved.snap
    let s := { s with w := { s.w with pgs := tput s.w.pgs pk g } }
    let s := modPart s part fun x =>
      let later (g : Group) : Group := { g with last := if g.last = 0 then 0 else g.last + saved.seq }
      let groups := saved.groups.foldl (fun t e => tput t (mapped pos e.1) { e.2 with yieldFor := e.2.yieldFor.map (mapped pos) })
        (x.groups.map fun e => (e.1, later e.2))
      let bs := saved.bins.foldl (fun t e => match (bins.find? fun b => b.1 = e.1).bind (·.2) with
        | some n => tput t n e.2
        | none => t) x.bins
      { x with groups := groups, bins := bs, stopped := x.stopped || saved.stopped, stopBy := dedup (x.stopBy ++ saved.stopBy),
               seq := if x.groups.isEmpty then saved.seq else x.seq + saved.seq,
               lastIssue := if saved.issued then saved.lastIssue else x.lastIssue, snap := snap, caught := saved.caught ++ x.caught, icache := saved.icache ++ x.icache,
               fetches := saved.fetches ++ x.fetches, failed := saved.failed ++ x.failed, rot := if saved.rot = 0 then x.rot else saved.rot,
               f64Free := Nat.max x.f64Free saved.f64Free, divFree := Nat.max x.divFree saved.divFree,
               fragFree := Nat.max x.fragFree saved.fragFree, ovAge := Nat.max x.ovAge saved.ovAge, ovDue := x.ovDue || saved.ovDue,
               issued := x.issued || saved.issued, drew := x.drew || saved.drew }
    let s := pos.foldl (fun s q => refetchGroup s part q.2) s
    let s := if saved.stopped then sendNotice s g.lid 4 core p 0 0 0 0 else endCaught s part 0 fun t => decide (t.pg = pk)
    (s, pos)

/-- The number of a stream's lock entry on another partition. -/
def moveLock (slot : Nat) (parts : List (Nat × Nat)) (l : RLock) : RLock :=
  { l with slot := slot, id := if l.eng = 1 then 4 * mapped parts (l.id / 4) + l.id % 4 else l.id }

/-- What a gang that did not own the engine brings back to it: its operations, which wait for ownership, and, if no other gang has the
engine or waits for it, its place as the last owner with the tiles (11 R242, R243). -/
def restoreLast (s : State) (core key : Nat) (b : EngImage) : State :=
  let g : Gang := { cg := key, serial := (s.launch (s.cg key).lid).serial, members := b.members }
  let s := modEng s core fun e =>
    let e := { e with ops := e.ops ++ b.ops, armed := e.armed ++ b.armed }
    if !b.members.isEmpty && e.owner.isNone && e.queue.isEmpty then
      { e with last := some g, lastEnded := false, tiles := b.tiles, frozenM := if b.frozen then some key else e.frozenM }
    else e
  modCg s key fun c => { c with engBack := none }

/-- Bring back a core group on a core (18 R334): its partition groups, its part of the core, its operations, and its gang's claim to the
engine, which stands first in the queue if it owned the engine (11 R257). Every thread begins with the acquire action of .dev. -/
def restoreCg (s : State) (img : Image) (key core : Nat) (places : List (Nat × Nat)) : State :=
  match tget? img.world.cgs key with
  | none => s
  | some g =>
    let lr := (s.launch g.lid).lr
    let slot := freeSlot s core
    let s := applyCarve s core lr.carve
    let s := if lr.dsm then clearCode s core else s
    let s := modCore (acquireActions s core .dev) core fun c => { c with kcache := [] }
    let r := places.zipIdx.foldl (fun (acc : State × List (Nat × List (Nat × Nat))) p =>
      let x := restorePg acc.1 img (pgKey key p.2) core p.1.1 p.1.2
      (x.1, acc.2 ++ [(p.2, x.2)])) (s, [])
    let s := r.1
    let at' (w : Nat × Nat) : Nat × Nat := (w.1, mapped (((r.2.find? fun x => x.1 = w.1).map (·.2)).getD []) w.2)
    let op (o : MatOp) : MatOp := { o with core := core, waiters := o.waiters.map at' }
    let parts := places.zipIdx.map fun p => ((tget img.world.pgs (pgKey key p.2) PartGroup.none).part % 6, p.1.1)
    let g := { g with core := core, slot := slot, latch := g.latch.map (fun x => { x with pos := (at' (x.pgid, x.pos)).2 }),
                      engBack := g.engBack.map fun b => { b with ops := b.ops.map op } }
    let saved := tget img.world.cores key Core.init
    let kept : List (Nat × Nat) := lr.pr ++ saved.ladle.map fun l => (l.2.state, 6144)
    let s := { s with w := { s.w with cgs := tput s.w.cgs key g } }
    let s := modCore s core fun c =>
      { c with resv := saved.resv.foldl (fun t e => tput t e.1 e.2) c.resv, ladle := saved.ladle.foldl (fun t e => tput t e.1 e.2) c.ladle,
               locks := c.locks ++ saved.locks.map (moveLock slot parts),
               wbuf := saved.resv.foldl (fun m e => memWriteN m e.2.off (memReadN saved.wbuf e.2.off e.2.len)) c.wbuf,
               ladleQ := c.ladleQ ++ saved.ladleQ.map fun o => { o with part := partKey core (mapped parts (o.part % 6)) },
               abuf := kept.foldl (fun m e => memWriteN m e.1 (memReadN saved.abuf e.1 e.2)) c.abuf }
    let claim : List Gang := match g.engBack with
      | some b => if b.owned then [{ cg := key, serial := (s.launch g.lid).serial, members := b.members }] else []
      | none => []
    let s := modEng s core fun e => { e with queue := claim ++ e.queue ++ saved.eng.queue }
    let s := match g.engBack with
      | some b => if b.owned then s else restoreLast s core key b
      | none => s
    let mine (t : ThreadRef) : Bool := decide (cgOfPg t.pg = key)
    { s with w := { s.w with
      ops := s.w.ops ++ (img.world.ops.filter (fun o => decide (o.cg = key))).map (fun o => { o with core := core }),
      pends := s.w.pends ++ img.world.pends.filter (fun p => mine p.th),
      accs := s.w.accs ++ (img.world.accs.filter (fun a => decide (cgOfPg a.pg = key))).map (fun a => { a with core := core }),
      travs := s.w.travs ++ (img.world.travs.filter (fun v => mine v.th)).map (fun v => { v with core := core }) } }

/-- An image from which a core group has been brought back; one that holds no core group any more is dropped. -/
def takeFromImage (s : State) (lid key : Nat) : State :=
  let cut (i : Image) : Image := if i.lid = lid then { i with world := { i.world with cgs := tdel i.world.cgs key } } else i
  { s with images := (s.images.map cut).filter (fun i => !(decide (i.lid = lid) && i.world.cgs.isEmpty)) }

/-- A core group of an image that had ended comes back as ended, without a place; accesses that it had issued, in phases still open, stay
to be committed (19 R346, R347). -/
def restoreEnded (s : State) (img : Image) (key : Nat) (g : CoreGroup) : State :=
  let pgs := (img.world.pgs.filter (fun e => decide (cgOfPg e.1 = key))).foldl (fun t e => tput t e.1 e.2) s.w.pgs
  { s with w := { s.w with cgs := tput s.w.cgs key g, pgs := pgs,
                           accs := s.w.accs ++ img.world.accs.filter fun a => decide (cgOfPg a.pg = key) } }

/-! CORE_GROUP_PLACEMENT (06 R114). -/

/-- What the next placement of a die group does, if there is room: the core and places, or none of both for a core group that had ended. -/
def nextPlacement (s : State) (lid dgid : Nat) : Option (Nat × Option (Nat × List (Nat × Nat))) :=
  let l := s.launch lid
  let cgid := l.placed.getD dgid 0
  if !(tget? s.w.launches lid).isSome || !launchRuns s lid || l.lr.dsm || decide (l.lr.ndg ≤ dgid) || decide (l.lr.ncg ≤ cgid) then none
  else
    let die := l.dies.getD dgid 0
    let key := cgKey lid dgid cgid
    match (imageOf s lid).bind fun i => (tget? i.world.cgs key).map fun g => (i, g) with
    | some (i, g) =>
      if g.ended then some (cgid, none)
      else (chooseCore s die l.space l.lr (savedGroups i key) (imageFits s (tget i.world.cores key Core.init))).map fun c => (cgid, some c)
    | none => (chooseCore s die l.space l.lr (fun _ => 0) fun _ => true).map fun c => (cgid, some c)

/-- CORE_GROUP_PLACEMENT (06 R114, 18 R334). -/
def execCoreGroupPlacement (lid dgid : Nat) (s : State) : Host.Outcome State Fault Refusal :=
  match nextPlacement s lid dgid with
  | none => .next s
  | some (cgid, c) =>
    let key := cgKey lid dgid cgid
    let img := (imageOf s lid).bind fun i => (tget? i.world.cgs key).map fun g => (i, g)
    let s' := match img, c with
      | some (i, g), none => takeFromImage (restoreEnded s i key g) lid key
      | some (i, _), some (core, places) => takeFromImage (restoreCg s i key core places) lid key
      | none, some (core, places) => placeFresh s lid dgid cgid core places
      | none, none => s
    .next (modLaunch s' lid fun l => { l with placed := l.placed.set dgid (cgid + 1) })

end Sys2Proof.Machine
end

