-- ==== Sys2Proof/Machine/Whisk.lean ====
section
/-! DEFINITION. The mutation relaunch engine, the Whisk (20 R352-R356, 21 R368-R371): building the child's input table and judging the
finished child. MUTL's own part stands in Dispatcher. -/

namespace Sys2Proof.Machine

/-! The descriptor (20 R352). -/

def mdX (j : Job) : Nat := fieldAt j.desc 0 8
def mdY (j : Job) : Nat := fieldAt j.desc 8 8
def mdIn (j : Job) : Nat := fieldAt j.desc 16 8
def mdAcc (j : Job) : Nat := fieldAt j.desc 32 8
def mdDone (j : Job) : Nat := fieldAt j.desc 40 8
def mdKey (j : Job) : Word := word (fieldAt j.desc 48 8)
def mdFirst (j : Job) : Nat := fieldAt j.desc 56 4
def mdN (j : Job) : Nat := fieldAt j.desc 60 4
def mdOp (j : Job) : Nat := fieldAt j.desc 64 4 / 2 ^ 30
def mdCommit (j : Job) : Bool := bitAt (fieldAt j.desc 64 4) 29
def mdB (j : Job) : Nat := fieldAt j.desc 64 4 / 2 ^ 24 % 32
def mdArg (j : Job) : Nat := fieldAt j.desc 68 4

/-- The record of the child. -/
def jobLr (j : Job) : LaunchRec := parseLaunch j.record

/-- The child's record as it is submitted (20 R355). -/
def childRecord (j : Job) : List Byte :=
  putBytes (putBytes j.record 0x20 (bytesOfNat 8 (mdIn j))) 0x30 (bytesOfNat 4 (fieldAt j.record 0x30 4 / 2 ^ 18 * 2 ^ 18
    + 2 * 2 ^ 16 + fieldAt j.record 0x30 4 % 2 ^ 16))

/-! Building (20 R354). -/

/-- The entries of a record's bytes: `cv.count` capped at the capacity. -/
def cvEntries (lr : LaunchRec) (bs : List Byte) : List Nat :=
  (List.range (Nat.min (fieldAt bs 4 4) (cvCap lr))).map fun i => fieldAt bs (32 + 8 * i) 8

/-- An entry with only `cv.mut` in bits [7:0], which is set where asked. -/
def cvEntry (e : Nat) (mutated : Bool) : Nat := e / 256 * 256 + (if mutated || bitAt e 2 then 4 else 0)

/-- Perturb an entry (20 R354). -/
def perturb (j : Job) (g e : Nat) : Nat :=
  let b := mdB j
  let d := (dfn (mdKey j) (word g) (word (bitsOf e 31 20)) (word (bitsOf e 19 8)) >>> (32 - b)) - word (2 ^ (b - 1))
  (word (e / 2 ^ 32) + d).toNat * 2 ^ 32 + e % 2 ^ 32

/-- The entries of the new record of `gtid` g from those of X and Y (20 R354, 21 R369). -/
def newEntries (j : Job) (g : Nat) (xs ys : List Nat) : List Nat :=
  let keep (l : List Nat) : List Nat := l.map fun e => cvEntry e false
  if g < mdFirst j ∨ mdFirst j + mdN j ≤ g then keep xs
  else
    match mdOp j with
    | 0 => xs.zipIdx.map fun p =>
        if mdArg j / 65536 ≤ p.2 ∧ p.2 ≤ mdArg j % 65536 then cvEntry (perturb j g p.1) true else cvEntry p.1 false
    | 1 => keep (xs.drop (mdArg j))
    | _ => (keep (xs.take (mdArg j)) ++ ys.map fun e => cvEntry e true).take (cvCap (jobLr j))

/-- The new record: its header holds the count and X's score. -/
def newRecord (xhdr : List Byte) (es : List Nat) : List Byte :=
  bytesOfNat 4 0 ++ bytesOfNat 4 es.length ++ bytesOfNat 16 0 ++ bytesOfNat 4 (fieldAt xhdr 24 4) ++ bytesOfNat 4 0
    ++ es.flatMap (bytesOfNat 8)

/-- How a step of the Whisk went: on, waiting for a frame, or failed. -/
inductive WhiskStep where
  | ok
  | wait
  | failed
deriving DecidableEq, Repr

def whiskStep (e : Option (BitVec 8 × Nat)) : WhiskStep :=
  match e with
  | none => .ok
  | some (c, _) => if c = 0 then .wait else .failed

/-- A record of a table: its header, then the entries it counts. -/
def readRecord (s : State) (space base : Nat) (lr : LaunchRec) (g : Nat) : State × Except (BitVec 8 × Nat) (List Byte) :=
  let a := (base + cvSize lr * g) % 2 ^ 64
  match unitRead s 0 space a 32 with
  | (s, .error e) => (s, .error e)
  | (s, .ok h) =>
    match unitRead s 0 space (a + 32) (8 * Nat.min (fieldAt h 4 4) (cvCap lr)) with
    | (s, .error e) => (s, .error e)
    | (s, .ok es) => (s, .ok (h ++ es))

/-- A write of the Whisk, which is compared with the watchpoints of the launch that asked while it lives (22 R383). -/
def jobWrite (s : State) (j : Job) (a : Nat) (bs : List Byte) : State × Option (BitVec 8 × Nat) :=
  match unitWrite s 0 j.space a bs with
  | (s, some e) => (s, some e)
  | (s, none) =>
    (if decide ((s.launch j.lid).serial = j.serial) && watched s j.lid a bs.length 3 then deferWatch s j.th j.site a j.word else s, none)

/-- Build the input record of one `gtid`. -/
def buildOne (s : State) (j : Job) (g : Nat) : State × WhiskStep :=
  let lr := jobLr j
  match readRecord s j.space (mdX j) lr g with
  | (s, .error e) => (s, whiskStep (some e))
  | (s, .ok x) =>
    let useY := decide (mdOp j = 2) && decide (mdFirst j ≤ g) && decide (g < mdFirst j + mdN j)
    match if useY then readRecord s j.space (mdY j) lr g else (s, .ok []) with
    | (s, .error e) => (s, whiskStep (some e))
    | (s, .ok y) =>
      let es := newEntries j g (cvEntries lr x) (if useY then cvEntries lr y else [])
      let (s, e) := jobWrite s j ((mdIn j + cvSize lr * g) % 2 ^ 64) (newRecord x es)
      (s, whiskStep e)

/-- Build the records of n `gtid` from g up. -/
def buildAll (n : Nat) (s : State) (j : Job) (g : Nat) : State × WhiskStep :=
  match n with
  | 0 => (s, .ok)
  | k + 1 =>
    match buildOne s j g with
    | (s, .ok) => buildAll k s j (g + 1)
    | r => r

/-! Ending a job (20 R355). -/

/-- The completion word. -/
def doneWord (code refuse acc rej : Nat) : Nat := code * 2 ^ 57 + refuse * 2 ^ 50 + acc * 2 ^ 25 + rej

/-- The launch and the die group that a partition group's key names. -/
def lidOfPg (pg : Nat) : Nat := pg / 6 / 72 / 8
def dgOfPg (pg : Nat) : Nat := pg / 6 / 72 % 8

/-- A counter operation of a saved DSM core group joins the commit queue that its image holds (18 R331, 19 R347). -/
def queueSaved (s : State) (lid : Nat) (th : ThreadRef) (op : TaskOp) : State :=
  match s.images.find? fun i => i.lid = lid with
  | none => s
  | some img =>
    let t := queueTask { s with w := { s.w with cgs := img.world.cgs, pgs := img.world.pgs, accs := img.world.accs } } th op
    { s with w := { s.w with nextId := t.w.nextId },
             images := s.images.map fun i =>
               if i.lid = lid then { i with world := { i.world with cgs := t.w.cgs, accs := t.w.accs } } else i }

/-- Decrement the counter that a record names in the window of a thread, if its launch is the same live one (05 R94, 20 R355); a saved
launch stays live (18 R331). DESIGN CHOICE (log 116): a number at or above the launch's `lr.dccnt` names the die's counter that lies as far
beyond the window's base. -/
def parentDec (s : State) (th : ThreadRef) (serial c : Nat) : State :=
  let lid := lidOfPg th.pg
  let l := s.launch lid
  if (tget? s.w.launches lid).isNone || decide (l.serial ≠ serial) then s
  else if !l.lr.dsm then arriveDisp s (s.pg th.pg).core lid (dgOfPg th.pg) th none (.dcdec c 1)
  else if (tget? s.w.pgs th.pg).isSome then queueTask s th (.dcdec c 1)
  else queueSaved s lid th (.dcdec c 1)

/-- End a job: the completion word, its number freed, then the decrement. False: the word waits for a frame. -/
def finishJob (s : State) (num : Nat) (code refuse acc rej : Nat) : State × Bool :=
  match tget? s.w.jobs num with
  | none => (s, true)
  | some j =>
    match jobWrite s j (mdDone j) (bytesOfNat 8 (doneWord code refuse acc rej)) with
    | (s, some (0, _)) => (s, false)
    | (s, _) =>
      let s := { s with w := { s.w with jobs := tdel s.w.jobs num } }
      let lr := jobLr j
      (if lr.pdcV then parentDec s j.th j.serial lr.pdc else s, true)

/-- A job waits to build its table: it has neither submitted its child nor ended. -/
def mayBuild (s : State) (num : Nat) : Bool :=
  match tget? s.w.jobs num with
  | none => false
  | some j => j.child.isNone && j.done.isNone && !(s.w.submits.any fun x => decide (x.answer = .job num))

/-- WHISK_BUILD (20 R354, R355): the input table, then the child at the launch engine. DEDUCED (log 51): the `gtid` of a child are as
many as its threads or slots. -/
def execWhiskBuild (num : Nat) (s : State) : Host.Outcome State Fault Refusal :=
  if !mayBuild s num then .next s
  else
    match tget? s.w.jobs num with
    | none => .next s
    | some j =>
      match buildAll (recordThreads (jobLr j)) s j 0 with
      | (_, .wait) => .next s
      | (s', .failed) =>
        match finishJob s' num 3 0 0 0 with
        | (s', true) => .next s'
        | (_, false) => .next s
      | (s', .ok) =>
        let x : Submit := { record := childRecord j, space := j.space, sess := j.sess, priv := j.priv, parent := some j.th,
                            parentSerial := j.serial, answer := .job num }
        .next { s' with w := { s'.w with submits := s'.w.submits ++ [x] } }

/-! Judging (20 R355). -/

/-- The verdict on a child thread: bad, accepted. -/
def verdict (j : Job) (g : Nat) (hdr : List Byte) (old : Nat) : Bool × Bool :=
  let fl := fieldAt hdr 20 4
  let bad := !bitAt fl 8 || bitAt fl 9 || bitAt fl 10
  let u : FVal := .fin false (dfn (mdKey j) (word g) 4095 0 >>> 8).toNat (-24)
  let p := (fmt32.round (mulV u (fmt32.value old)).1).1
  (bad, !bad && decide (cmpV (fmt32.value p) (fmt32.value (fieldAt hdr 24 4)) = some .lt))

/-- Judge one `gtid`: whether it was accepted. -/
def judgeOne (s : State) (j : Job) (g : Nat) : State × WhiskStep × Bool :=
  let lr := jobLr j
  match unitRead s 0 j.space ((lr.cvout + cvSize lr * g) % 2 ^ 64) 32, unitRead s 0 j.space ((mdIn j + cvSize lr * g) % 2 ^ 64 + 24) 4 with
  | (_, .error e), _ | _, (_, .error e) => (s, whiskStep (some e), false)
  | (_, .ok hdr), (_, .ok old) =>
    let v := verdict j g hdr (natOfBytes old)
    match jobWrite s j ((mdAcc j + 4 * (g - mdFirst j)) % 2 ^ 64) (bytesOfNat 4 (bnat v.2 * 2 ^ 31 + bnat v.1 * 2 ^ 30)) with
    | (s, some e) => (s, whiskStep (some e), false)
    | (s, none) =>
      if v.2 && mdCommit j then
        match readRecord s j.space lr.cvout lr g with
        | (s, .error e) => (s, whiskStep (some e), true)
        | (s, .ok r) =>
          let (s, e) := jobWrite s j ((mdX j + cvSize lr * g) % 2 ^ 64) r
          (s, whiskStep e, true)
      else (s, .ok, v.2)

/-- Judge n `gtid` from g up, counting the accepted and the rejected. -/
def judgeAll (n : Nat) (s : State) (j : Job) (g acc rej : Nat) : State × WhiskStep × Nat × Nat :=
  match n with
  | 0 => (s, .ok, acc, rej)
  | k + 1 =>
    match judgeOne s j g with
    | (s, .ok, a) => judgeAll k s j (g + 1) (acc + bnat a) (rej + bnat (!a))
    | (s, r, _) => (s, r, acc, rej)

/-- WHISK_JUDGE (20 R355): once the child's status has been written. -/
def execWhiskJudge (num : Nat) (s : State) : Host.Outcome State Fault Refusal :=
  match tget? s.w.jobs num with
  | none => .next s
  | some j =>
    match j.done with
    | none => .next s
    | some out =>
      let finish (s' : State) (code acc rej : Nat) : State :=
        match finishJob s' num code 0 acc rej with
        | (s', true) => s'
        | (_, false) => s
      if out ≠ 0 then .next (finish s 2 0 0)
      else
        match judgeAll (mdN j) s j (mdFirst j) 0 0 with
        | (_, .wait, _, _) => .next s
        | (s', .failed, acc, rej) => .next (finish s' 3 acc rej)
        | (s', .ok, acc, rej) => .next (finish s' 0 acc rej)

end Sys2Proof.Machine
end

