-- ==== Sys2Proof/Machine/Launches.lean ====
section
/-! DEFINITION. Launches from acceptance to end (05 R88-R103; 18 R329; 20 R349, R350): the launch engine, task starts, the end of core
groups and launches. -/

namespace Sys2Proof.Machine

/-! Acceptance. -/

/-- The counter windows of the live launches on a die, but for one of them: base and length (05 R98). -/
def dcWindows (s : State) (die but : Nat) : List (Nat × Nat) :=
  s.w.launches.flatMap fun e => if e.1 = but then [] else
    (e.2.dies.zip e.2.dcBase).filterMap fun d => if d.1 = die ∧ e.2.lr.dccnt ≠ 0 then some (d.2, e.2.lr.dccnt) else none

/-- The base of n contiguous free counters of a die (05 R98): DESIGN CHOICE (log 118), the lowest. -/
def dcFit (s : State) (die but n : Nat) : Option Nat :=
  let w := dcWindows s die but
  minBy? id ((0 :: w.map fun x => x.1 + x.2).filter fun b => decide (b + n ≤ 4096) && (decide (n = 0) || w.all fun x => !spansMeet (b, n) x))

/-- Queues of live launches on a die, but for one of them. -/
def queuesOn (s : State) (die but : Nat) : Nat :=
  s.w.launches.foldl (fun n e => if e.1 ≠ but ∧ e.2.lr.taskServer ∧ e.2.dies.contains die then n + e.2.lr.nq else n) 0

/-- The dies a launch would have (06 R113, R130). -/
def launchDies (s : State) (lr : LaunchRec) : Option (List Nat) :=
  if lr.dsm then dsmDies s lr else assignDies lr.ndg s lr (fun _ _ => true) []

/-- The first code that refuses a record (05 R88). -/
def launchCode (s : State) (b : List Byte) : Nat :=
  let lr := parseLaunch b
  let c := recordCode b lr
  let dies := launchDies s lr
  let on := dies.getD []
  if c ≠ 0 then c
  else if recordQueues lr || (lr.taskServer && on.any fun d => decide (64 < queuesOn s d 65536 + lr.nq)) then 7
  else if on.any fun d => (dcFit s d 65536 lr.dccnt).isNone then 8
  else if dies.isNone then 9
  else if 4096 ≤ s.w.launches.length then 10
  else if (!lr.taskServer && decide (lr.entry % 4 ≠ 0)) || decide (lr.trapvec % 4 ≠ 0) then 11
  else if s.mgmt.phase ≠ 6 ∨ !s.mgmt.ready then 12
  else 0

/-- *D* (06 R134): the largest number of neighbour links between two core groups of a launch. Within a die group it is the distance on
the mesh; between die groups it goes by way of their core groups 0 (R133). -/
def leadDistance (lr : LaunchRec) : Nat :=
  let gap (a b : Nat) : Nat := (a - b) + (b - a)
  let steps (a b : Nat) : Nat := gap (a % 8) (b % 8) + gap (a / 8) (b / 8)
  let farthest (a : Nat) : Nat := (List.range lr.ncg).foldl (fun m b => Nat.max m (steps a b)) 0
  let within := (List.range lr.ncg).foldl (fun m a => Nat.max m (farthest a)) 0
  if lr.ndg = 1 then within else Nat.max within (2 * farthest 0 + (lr.ndg - 1))

/-- Every counter of a window is cleared at acceptance (05 R98). -/
def clearCounters (s : State) (lid : Nat) : State :=
  let l := s.launch lid
  (List.range l.lr.ndg).foldl (fun s dg => (List.range l.lr.dccnt).foldl (fun s c => modDie s (l.dies.getD dg 0) fun d =>
    { d with counters := tdel d.counters (dcSlot s lid dg c) }) s) s

/-- Place every core group of a DSM launch (06 R130). -/
def placeDsm (s : State) (lid : Nat) (place : State → Nat → Nat → Nat → State) : State :=
  let l := s.launch lid
  let cores := l.dies.map fun d => (emptyCores s d).take l.lr.ncg
  let s := (List.range l.lr.ndg).foldl (fun s dg => (List.range l.lr.ncg).foldl (fun s cgid =>
    place s dg cgid ((cores.getD dg []).getD cgid 0)) s) s
  modLaunch s lid fun l => { l with placed := List.replicate l.lr.ndg l.lr.ncg }

/-- Partition group p takes partition p (06 R130). -/
def dsmPlaces (lr : LaunchRec) : List (Nat × Nat) := (List.range lr.npg).map fun p => (p, 0)

/-- Accept a record that no code refuses (05 R92, R95; 20 R357): the launch, with the lowest free identifier. -/
def createLaunch (s : State) (x : Submit) : State × Nat :=
  let lr := parseLaunch x.record
  let lid := (firstFree 65536 fun n => (tget? s.w.launches n).isNone).getD 0
  let dies := (launchDies s lr).getD []
  let version := (s.mgmt.slots.getD s.mgmt.slot FlashSlot.empty).version
  let l : Launch := { Launch.none with
    serial := s.nextSerial, lr := lr, space := x.space, sess := x.sess, priv := x.priv, parent := x.parent, parentSerial := x.parentSerial,
    whisk := (match x.answer with
      | .job _ => true
      | .message .. | .thread .. => false),
    sig := signatureOf version x.record, dist := leadDistance lr, dies := dies, placed := List.replicate lr.ndg 0,
    dcBase := dies.map fun d => (dcFit s d 65536 lr.dccnt).getD 0 }
  let s := { s with nextSerial := s.nextSerial + 1, w := { s.w with launches := tput s.w.launches lid l } }
  let s := clearCounters s lid
  let s := if lr.taskServer then enqueue s lid 0 0 lr.task else s
  (if lr.dsm then placeDsm s lid fun s dg cgid core => placeFresh s lid dg cgid core (dsmPlaces lr) else s, lid)

/-- LAUNCH's status word (05 R108). -/
def launchStatus (lid code : Nat) : Nat := if code = 0 then lid * 65536 else code

/-- Answer a submission (05 R91, R108; 20 R355): a response, a result, or the job's note of its child. A job whose child is refused
ends; false if its completion word waits for a frame. -/
def answerSubmit (s : State) (x : Submit) (lid code : Nat) : State × Bool :=
  match x.answer with
  | .message conn tag => (respondTo s conn tag 0x01 0 0 (launchStatus lid code), true)
  | .thread _ pend => (readyPend s (some pend) [word (launchStatus lid code)], true)
  | .job num =>
    if code = 0 then
      ({ s with w := { s.w with jobs := tmod s.w.jobs num fun j => { j with child := some (lid, (s.launch lid).serial) } } }, true)
    else finishJob s num 1 code 0 0

/-- LAUNCH_ACCEPT (05 R88, R91, R92): the launch engine takes the record that has waited longest. -/
def execLaunchAccept (s : State) : Host.Outcome State Fault Refusal :=
  match s.w.submits with
  | [] => .next s
  | x :: rest =>
    let s' := { s with w := { s.w with submits := rest } }
    let c := launchCode s' x.record
    let r := if c = 0 then createLaunch s' x else (s', 0)
    match answerSubmit r.1 x r.2 c with
    | (s', true) => .next s'
    | (_, false) => .next s

/-- LAUNCH_MESSAGE (05 R91, 24 R390): the record goes to the launch engine, which answers. A session without a space cannot launch
(24 R394): status 0x07 (log 55). -/
def execLaunchMessage (s : State) : Host.Outcome State Fault Refusal :=
  gate s false (payLen s 1024) fun s =>
    match rxSpace s with
    | none => respond s 7 0 []
    | some sp =>
      let x : Submit := { record := s.rx.payload, space := sp, sess := ((rxSession s).map fun x => x.serial).getD 0, priv := rxManagement s, parent := none,
                          parentSerial := 0, answer := .message s.rx.conn s.rx.tag }
      { s with w := { s.w with submits := s.w.submits ++ [x] } }

/-! Task starts (05 R97, R99, R100). -/

/-- A bin has threads but not as many as a draw takes at most (05 R99, 06 R122). DESIGN CHOICE (log 117): the lane positions of all its filed
threads, ready or not, are counted against `lr.full` alone. -/
def partlyFilled (s : State) (pg n : Nat) : Bool :=
  let full := (s.lrOfPg pg).full
  decide ((lanesOf (tidsWhere (s.pg pg) fun t => decide (t.place = .bin n))).length < (if full = 0 then 32 else full))

/-- A slot's partition holds a task's entry, or a partly filled bin for it (05 R99). -/
def taskAffine (s : State) (t : ThreadRef) (entry : Nat) : Bool :=
  let g := s.pg t.pg
  let p := s.part g.part
  (p.bins.any fun b => decide (b.2.pg = t.pg) && decide (b.2.pc = entry) && partlyFilled s t.pg b.1)
    || (match peekFetch s g.core (s.launch g.lid).space entry with
        | some pa => (findLine p.icache (pa / 128)).isSome
        | none => false)

/-- The task that starts next and its slot (05 R99), under DSM once the phase that both are known in is closed and applied, with that
phase (06 R134). -/
def nextTask (s : State) (lid dgid : Nat) : Option (Nat × Nat × QRec × ThreadRef) :=
  if (s.launch lid).lr.dsm then
    (dsmTask s lid dgid).filter fun x => (match openPhase s lid with
      | some p => decide (x.1 < p)
      | none => true) && !(s.w.accs.any fun a => decide (a.lid = lid) && match a.key with
      | some k => decide (k.1 ≤ x.1)
      | none => false)
  else
    let slots := freeSlots s lid dgid
    let tasks := readyTasks s lid dgid
    match slots, tasks with
    | t0 :: _, (q0, r0) :: _ =>
      let pair := tasks.findSome? fun x => (slots.find? fun t => taskAffine s t (trEntry x.2.words)).map fun t => (0, x.1, x.2, t)
      some (pair.getD (0, q0, r0, t0))
    | _, _ => none

/-- Start a task in a slot (05 R90, R95, R102; 20 R364), logged: at once, under DSM at the slot at which the event of its phase takes
effect (06 R134). -/
def startTask (s : State) (t : ThreadRef) (words : List Word) (phase : Nat) : State :=
  let g := s.pg t.pg
  let l := s.launch g.lid
  let s := appendLog s { type := 3, launch := g.lid, who := (words.getD 3 0).toNat,
                         seq := (g.cgid * l.lr.npg + g.pgid) * l.lr.nthr + t.tid, val := (words.getD 3 0).toNat }
  if l.lr.dsm then
    modCg (modThread s t fun x => { x with task := words }) (cgOfPg t.pg) fun x =>
      { x with dsm := { x.dsm with due := x.dsm.due ++ [(startEvent t, deliverySlot l.dist phase)] } }
  else beginTask s t words

/-- The slot in which a task starts: in a replay the logged one (20 R365). -/
def loggedSlot (s : State) (lid dgid : Nat) (words : List Word) (t : ThreadRef) : ThreadRef :=
  let lr := (s.launch lid).lr
  match s.logged 3 lid (words.getD 3 0).toNat with
  | some r => { pg := pgKey (cgKey lid dgid (r.seq / lr.nthr / lr.npg)) (r.seq / lr.nthr % lr.npg), tid := r.seq % lr.nthr }
  | none => t

/-- The dispatcher of a launch starts tasks (05 R97): of a DSM launch also while it is being stopped, so that what is due at a slot is
known at the stop (06 R135). -/
def startsTasks (s : State) (lid : Nat) : Bool :=
  let l := s.launch lid
  (tget? s.w.launches lid).isSome && l.lr.taskServer && decide (l.out ≠ 3)
    && (launchRuns s lid || (l.lr.dsm && decide (l.run ≠ .saved)))

/-- A record's ring slot holds it: one that its page still had to get a frame for is written now (08 R182). -/
def settleRecord (s : State) (lid dgid q : Nat) (r : QRec) : State × Bool :=
  if !r.unwritten then (s, true)
  else
    match writeRecord s lid dgid q r.slot r.words with
    | (s, false) => (s, false)
    | (s, true) => (modQueue s lid dgid q fun x => x.map fun y => if y.slot = r.slot then { y with unwritten := false } else y, true)

/-- TASK_START (05 R97, R99): the record is read again from its ring; one that fails the checks of TENQ, or cannot be read (DEDUCED,
log 56), is discarded and counted. -/
def execTaskStart (lid dgid : Nat) (s : State) : Host.Outcome State Fault Refusal :=
  if !startsTasks s lid then .next s
  else
    let l := s.launch lid
    match nextTask s lid dgid with
    | none => .next s
    | some (e, q, r, t) =>
      let taken (s : State) : State := modQueue s lid dgid q fun x => x.filter fun y => y.slot != r.slot
      let discard (s : State) : State := modLaunch (taken s) lid fun l => { l with disc := Nat.min (l.disc + 1) 8191 }
      match settleRecord s lid dgid q r with
      | (_, false) => .next s
      | (s', true) =>
        match unitRead s' (l.dies.getD dgid 0) l.space (ringAddr l.lr dgid q r.slot) 64 with
        | (s', .error (c, _)) => .next (if c = 0 then s else discard s')
        | (s, .ok bs) =>
          let words := wordsOfBytes bs
          .next (if taskCode l.lr words ≠ 0 then discard s else startTask (taken s) (loggedSlot s lid dgid words t) words e)

/-! The end of a core group (06 R128; 20 R349). -/

/-- A core group's engine work has drained. -/
def engineDrained (s : State) (cg : Nat) : Bool :=
  let e := (s.core (s.cg cg).core).eng
  !(s.w.ops.any fun o => decide (o.cg = cg)) && !(e.ops.any fun o => decide (o.gang.cg = cg)) && !(e.armed.any fun a => decide (a.cg = cg))
    && (s.cg cg).latch.isEmpty && !((s.core (s.cg cg).core).ladleQ.any fun o => decide (o.cg = cg))

/-- The grid core groups that may end. -/
def mayEndCg (s : State) (cg : Nat) : Bool :=
  let g := s.cg cg
  (tget? s.w.cgs cg).isSome && !g.ended && !g.killed && !(s.launch g.lid).lr.taskServer
    && (pgsOfCg s cg).all (fun e => e.2.ended) && engineDrained s cg

/-- Release what a core group holds (20 R349): locks, tags, Ladle slots, the engine, reservations and codebook, barriers and ranges; a
freeze of its own ends (18 R336). -/
def releaseCg (s : State) (cg : Nat) : State :=
  let g := s.cg cg
  let core := g.core
  let s := modCore (dropLocksWhere s core fun l => decide (l.slot = g.slot)) core fun c =>
    { c with ladle := c.ladle.filter (fun l => l.2.cg != cg),
             ladleQ := c.ladleQ.filter (fun o => o.cg != cg), resv := c.resv.filter fun r => r.2.cg != cg }
  let s := modEng s core fun e =>
    let owned := match e.owner with
      | some o => decide (o.cg = cg)
      | none => false
    { e with owner := if owned then none else e.owner, last := if owned then e.owner else e.last,
             lastEnded := if owned then true else e.lastEnded, queue := e.queue.filter (fun o => o.cg != cg),
             frozenM := if e.frozenM = some cg then none else e.frozenM }
  let s := modCg s cg fun x => { x with tags := [], codebook := [], bars := List.replicate 8 Bar.init, gangs := [], gangAsk := [],
                                        ended := true }
  thawed s core

/-- CORE_GROUP_END (06 R128; 20 R349). -/
def execCoreGroupEnd (cg : Nat) (s : State) : Host.Outcome State Fault Refusal := .next (if mayEndCg s cg then releaseCg s cg else s)

/-- CORE_GROUP_RELAUNCH (18 R329): a killed core group starts again from `lr.entry` on its core, with the default codebook (11 R248) and its
own barriers at generation 0 (14 R296). Its `clk` counts from the new start (log 57). -/
def execCoreGroupRelaunch (cg : Nat) (s : State) : Host.Outcome State Fault Refusal :=
  let g := s.cg cg
  if !g.killed ∨ g.ended ∨ !launchRuns s g.lid then .next s
  else
    let lr := (s.launch g.lid).lr
    let s := modLaunch s g.lid fun l => { l with retries := l.retries + 1 }
    let s := modCg s cg fun x => { x with killed := false, clk := 0, codebook := [], bars := List.replicate 8 Bar.init }
    let s := (pgsOfCg s cg).foldl (fun s e =>
      let s := modPg s e.1 fun p =>
        { p with threads := List.replicate lr.nthr (Thread.start (lr.regs8 * 8) lr.entry), trapq := [], handling := false, joints := 0,
                 bars := List.replicate 8 Bar.init, ended := false }
      startThreads s e.1 lr) s
    .next (thawed s g.core)

/-! The end of a launch (05 R94, R101; 20 R349, R350). -/

/-- Records are held on counters. -/
def anyHeld (l : Launch) : Bool := l.queues.any fun q => q.2.any fun r => r.held.isSome

/-- Nothing of a launch is left to run: for a grid every core group has been placed and has ended; for a task server no ready record, no
occupied slot and no engine work (05 R101). Its accesses have been performed. -/
def launchOver (s : State) (lid : Nat) : Bool :=
  let l := s.launch lid
  let cgs := s.w.cgs.filter fun e => decide (e.2.lid = lid)
  (tget? s.w.launches lid).isSome && launchRuns s lid && !(s.w.accs.any fun a => decide (a.lid = lid)) && (imageOf s lid).isNone
    && !(s.w.dies.any fun d => d.2.wq.any fun q => decide (q.lid = lid)) && !dispHolds s lid &&
    (if l.lr.taskServer then
      (decide (l.out = 3) || !(l.queues.any fun q => q.2.any fun r => r.held.isNone))
        && (decide (l.out = 3) || !(cgs.any fun e => e.2.dsm.due.any fun d => decide (2 ^ 60 ≤ d.1)))
        && !(s.w.pgs.any fun e => decide (e.2.lid = lid) && e.2.threads.any Thread.live) && cgs.all fun e => engineDrained s e.1
     else l.placed.all (fun n => decide (l.lr.ncg ≤ n)) && cgs.all fun e => e.2.ended)

/-- `st.out` at the end (05 R94, R101; 18 R328). -/
def finalOut (l : Launch) : BitVec 8 :=
  if l.out ≠ 0 then l.out else if l.term ≠ 0 then 1 else if l.lr.taskServer && anyHeld l then 2 else 0

/-- The status word (05 R94). -/
def statusWord (l : Launch) : Nat :=
  (finalOut l).toNat * 2 ^ 56 + l.cause.toNat * 2 ^ 48 + l.retries % 8 * 2 ^ 45 + l.disc % 8192 * 2 ^ 32 + l.term

/-- Take a launch out of the device: its groups, what it held, its claim and images. Watchpoint events it still owes stay. -/
def removeLaunch (s : State) (lid : Nat) : State :=
  let mine (pg : Nat) : Bool := decide ((s.pg pg).lid = lid)
  let s := (s.w.cgs.filter fun e => decide (e.2.lid = lid) && !e.2.ended).foldl (fun s e => releaseCg s e.1) s
  let parts := s.w.parts.map fun p => (p.1, { p.2 with
    bins := p.2.bins.filter (fun b => !mine b.2.pg), groups := p.2.groups.filter (fun g => !mine g.2.pg),
    fetches := p.2.fetches.filter (fun f => !mine f.1), failed := p.2.failed.filter fun f => !mine f.pg })
  { s with images := s.images.filter (fun i => i.lid != lid),
           w := { s.w with parts := parts, pends := s.w.pends.filter (fun p => !mine p.th.pg), travs := s.w.travs.filter (fun v => !mine v.th.pg),
                           cgs := s.w.cgs.filter (fun e => e.2.lid != lid), pgs := s.w.pgs.filter (fun e => e.2.lid != lid),
                           launches := tdel s.w.launches lid, claims := tdel s.w.claims lid } }

/-- A pre-empt message whose stop a launch's end has overtaken is answered (log 58). -/
def answerAsk (s : State) (lid : Nat) (status result : Nat) : State :=
  modLaunch ((s.launch lid).ask.foldl (fun s a => respondTo s a.1 a.2 0x07 0 status result) s) lid fun l => { l with ask := [] }

/-- The Whisk job that waits for a launch learns its outcome (20 R355). -/
def tellJob (s : State) (lid : Nat) (out : BitVec 8) : State :=
  let serial := (s.launch lid).serial
  { s with w := { s.w with jobs := s.w.jobs.map fun j => if j.2.child = some (lid, serial) then (j.1, { j.2 with done := some out }) else j } }

/-- End a launch: its status word, the decrement, the removal (05 R94). None: the status word waits for a frame. -/
def endLaunch (s : State) (lid : Nat) : Option State :=
  let l := s.launch lid
  let w := bytesOfNat 8 (statusWord l)
  let r := if l.lr.status = 0 then (s, none) else unitWriteWhole s (l.dies.getD 0 0) l.space l.lr.status w
  if r.2.map (·.1) = some 0 then none
  else
    let s := match r.2 with
      | some (_, va) => raiseEvent r.1 2 (lid * 2 ^ 56 + va)
      | none => r.1
    let s := tellJob s lid (finalOut l)
    let s := match l.parent with
      | some th => if l.lr.pdcV && !l.whisk then parentDec s th l.parentSerial l.lr.pdc else s
      | none => s
    some (removeLaunch (answerAsk s lid 7 0) lid)

/-- LAUNCH_END (05 R94, R101; 20 R350). -/
def execLaunchEnd (lid : Nat) (s : State) : Host.Outcome State Fault Refusal :=
  if launchOver s lid then .next ((endLaunch s lid).getD s) else .next s

end Sys2Proof.Machine
end

