-- ==== Sys2Proof/Machine/Interrupt.lean ====
section
/-! DEFINITION. Traps that are delivered or raised later (18 R322, R337; 22 R383), and pre-emption: notice, stop, save, restore and kill
(18 R331-R337; 19 R347; 24 R390). -/

namespace Sys2Proof.Machine

/-! Delivery (18 R322). -/

/-- TRAP_DELIVERY (18 R322); a core group that a stop lets finish its slot has its deliveries first (R331). -/
def execTrapDelivery (pg : Nat) (s : State) : Host.Outcome State Fault Refusal :=
  .next (if (tget? s.w.pgs pg).isSome && (launchRuns s (s.pg pg).lid || midSlot s (cgOfPg pg)) && mayDeliver s pg then deliver s pg else s)

/-- Set the trap that a thread takes at its next header: a deferred watchpoint that it already owes waits again, an earlier PREEMPT gives
way. -/
def oweTrap (s : State) (t : ThreadRef) (e : TqEntry) : State :=
  let s := match (s.thread t).pendTrap with
    | none => s
    | some o =>
      if o.defer then
        deferWatch s t { pc := o.pc, hdr := o.hdr, len := o.len } (o.vahi.toNat * 2 ^ 32 + o.val.toNat) s.w.nextId
      else s
  modThread s t fun x => { x with pendTrap := some e }

/-- WATCHPOINT_DEFERRED (22 R383): an engine write that matched a watchpoint: a live issuer takes the trap at its next header, a saved one
once it is back, else the debugger is told. A task in the issuer's place is not the issuer. -/
def execWatchpointDeferred (id : Nat) (s : State) : Host.Outcome State Fault Refusal :=
  match s.w.deferred.find? fun d => d.id = id with
  | none => .next s
  | some d =>
    let gone (s : State) : State := { s with w := { s.w with deferred := s.w.deferred.filter fun x => x.id != id } }
    if (s.thread d.th).live && decide ((s.thread d.th).born ≤ d.word) then
      if (s.thread d.th).pendTrap.isSome then .next s
      else .next (gone (oweTrap s d.th (trapEntry s d.th (memTrap 0x15 d.va) d.site true)))
    else if s.images.any fun i => (tget? i.world.cgs (cgOfPg d.th.pg)).isSome && match tget? i.world.pgs d.th.pg with
        | some g => (g.threads.getD d.th.tid Thread.none).live && decide ((g.threads.getD d.th.tid Thread.none).born ≤ d.word)
        | none => false then .next s
    else
      let g := s.pg d.th.pg
      .next (gone (sendNotice s g.lid 2 g.core (g.part % 6) (gtidOf s d.th) 0x15 (d.va % 2 ^ 32) d.site.pc))

/-! The context area (18 R333). -/

/-- Round up to 4 KiB. -/
def up4k (n : Nat) : Nat := (n + 4095) / 4096 * 4096

/-- Bytes of reservations of a core group among a core's. -/
def resvBytes (resv : Tab Resv) (cg : Nat) : Nat := up4k (resv.foldl (fun m r => if r.2.cg = cg then m + r.2.len else m) 0)

/-- The bytes a context area holds at least (18 R333): *W* is each core group's own, on the device or still in an image. -/
def contextSize (s : State) (lid : Nat) : Nat :=
  let lr := (s.launch lid).lr
  let p := up4k (lr.pr.foldl (fun n r => n + r.2) 0)
  let w := (s.w.cgs.filter fun e => decide (e.2.lid = lid) && !e.2.ended).foldl (fun n e => n + resvBytes (s.core e.2.core).resv e.1) 0
  let w := (s.images.filter fun i => decide (i.lid = lid)).foldl (fun n i => i.world.cgs.foldl (fun n e =>
    n + resvBytes (tget i.world.cores e.1 Core.init).resv e.1) n) w
  4096 + lr.ndg * (4096 + lr.ncg * (1179648 + p + lr.npg * (32768 + lr.nthr * (128 + 32 * lr.regs8)))) + w

/-- Translate every page of a context area with write permission, filling demand-zero leaves: the first failure (cause 0: it waits for a
frame). -/
def checkArea (s : State) (lid ctx n : Nat) : State × Option (BitVec 8 × Nat) :=
  let l := s.launch lid
  (pieces 0x10000 (n / 0x10000 + 2) ctx n).foldl (fun acc p =>
    match acc with
    | (s, some e) => (s, some e)
    | (s, none) =>
      match unitTranslate s (l.dies.getD 0 0) l.space p.1 .write with
      | (s, .fail c) => (s, some (c, p.1))
      | (s, .demand) => (s, some (0, p.1))
      | (s, .window _) | (s, .dram _ _) => (s, none)) (s, none)

/-! The stop (18 R331, R332). -/

/-- The engines that the gangs of some launches own are frozen, or are no longer frozen by a stop (11 R257). -/
def freezeEngines (s : State) (p : Nat → Bool) (on : Bool) : State :=
  (s.w.cgs.filter fun e => p e.2.lid && !e.2.ended).foldl (fun s e => modEng s e.2.core fun g =>
    match g.owner with
    | some o => if o.cg = e.1 then { g with frozenP := on } else g
    | none => g) s

/-- The stop of a launch begins: its groups issue no more, and the engines its gangs own are frozen (11 R257). -/
def beginStop (s : State) (lid ctx : Nat) : State :=
  freezeEngines (modLaunch s lid fun l => { l with run := .stopping ctx }) (fun l => decide (l = lid)) true

/-- A launch's core groups that an image still holds have live threads. -/
def imageLives (s : State) (lid : Nat) : Bool :=
  s.images.any fun i => decide (i.lid = lid) && i.world.pgs.any fun e =>
    (tget? i.world.cgs (cgOfPg e.1)).isSome && e.2.threads.any Thread.live

/-- Every core group of a launch has ended, by KILLG or otherwise: no thread is live, no core group is still to be placed, and no task is
still to start. -/
def allQuiet (s : State) (lid : Nat) : Bool :=
  let l := s.launch lid
  !imageLives s lid && !(s.w.pgs.any fun e => decide (e.2.lid = lid) && e.2.threads.any Thread.live)
    && (if l.lr.taskServer then decide (l.out = 3) || !(l.queues.any fun q => q.2.any fun r => r.held.isNone)
        else l.placed.all fun n => decide (l.lr.ncg ≤ n))

/-- PREEMPT_GRACE_EXPIRY (18 R337): the stop begins when the grace period ends, or when every core group has ended. -/
def execPreemptGraceExpiry (lid : Nat) (s : State) : Host.Outcome State Fault Refusal :=
  match (s.launch lid).run with
  | .notice deadline ctx => .next (if decide (deadline ≤ s.clk) || allQuiet s lid then beginStop s lid ctx else s)
  | .running | .stopping _ | .saved => .next s

/-- A logical clock is full (20 R363): an access, or the oldest write of a die's queue, waits for the checkpoint that the launches have
been stopped for. -/
def clockHeld (s : State) (a : Acc) : Bool :=
  let r := performAcc { s with ckptForced := false } a
  s.ckptStop && mayPerform s a && !r.2 && r.1.ckptForced
def queueHeld (s : State) (die : Nat) : Bool := s.ckptStop && (performQueued { s with ckptForced := false } die).ckptForced

/-- Accesses that a stop makes their threads abandon (18 R332): they wait for a frame, or behind one that does; and, while a checkpoint
has stopped the launches, those that wait for it. -/
def stuckAccs (s : State) : List Acc :=
  s.w.accs.foldl (fun l a =>
    if a.stage = .frame ∨ a.stage = .again ∨ a.stuck.isSome ∨ clockHeld s a ∨ (a.behindQueue s && queueHeld s (dieOfCore a.core)) = true
      ∨ l.any (fun b => b.before s a) then l ++ [a] else l) []

/-- A result that a stop waits for: not a traversal's, not that of an access that is abandoned, and not a completion flag of a word that
its unit has still to accept. -/
def stopWaits (s : State) (stuck : List Acc) (p : Pend) : Bool :=
  !(s.w.travs.any fun v => decide (v.pend = p.id)) && !(stuck.any fun a => a.lanes.any fun l => decide (l.pend = some p.id))
    && !(p.flagOnly && !p.ready && !p.win)

/-- The engines, dispatchers and barriers of a launch outside DSM have reached their stop units (18 R331, R332). -/
def unitsStopped (s : State) (lid : Nat) : Bool :=
  let stuck := stuckAccs s
  !(s.w.pends.any fun p => decide ((s.pg p.th.pg).lid = lid) && stopWaits s stuck p)
    && !(s.w.accs.any fun a => decide (a.lid = lid) && !stuck.any fun b => decide (b.id = a.id))
    && (s.w.cgs.all fun e => decide (e.2.lid ≠ lid) || (e.2.bars.all (fun b => b.rels.isEmpty)
      && !((s.core e.2.core).eng.ops.any fun o => decide (o.gang.cg = e.1) && o.due.isSome)))
    && (s.w.pgs.all fun e => decide (e.2.lid ≠ lid) || e.2.bars.all fun b => b.rels.isEmpty)

/-- A DSM launch has reached slot boundaries (18 R331), and what closed phases hold has been applied: what is due at a slot stays due (06
R135), and accesses of open phases stay in their queues (19 R347). -/
def slotsStopped (s : State) (lid : Nat) : Bool :=
  (nextCommit s lid).isNone && !((List.range (s.launch lid).lr.ndg).any fun dg => startsTasks s lid && (nextTask s lid dg).isSome)
    && !(s.w.accs.any fun a => decide (a.lid = lid) && a.key.isNone && decide (a.stage ≠ .frame) && a.stuck.isNone)
    && s.w.cgs.all fun e => decide (e.2.lid ≠ lid) || e.2.ended || !midSlot s e.1 || slotReady s e.1

/-- Every unit that holds work of a launch has reached its stop unit (18 R331, R332): words are complete, no launch request or release of
a die or grid barrier is on its way, its writes have reached their homes. -/
def stopSettled (s : State) (lid : Nat) : Bool :=
  let l := s.launch lid
  (if l.lr.dsm then slotsStopped s lid else unitsStopped s lid)
    && !(s.w.submits.any fun x => match x.answer with
      | .thread t _ => decide ((s.pg t.pg).lid = lid)
      | .message .. | .job _ => false)
    && !(s.w.dies.any fun d => d.2.wq.any (fun q => decide (q.lid = lid)) && !queueHeld s d.1) && !dispHolds s lid
    && l.bars.all fun b => b.2.rels.isEmpty

/-! The stop units of copies and projections (18 R332). -/

/-- How many rows or splats an operation has that a stop may come between. -/
def unitsOf (o : EngOp) : Nat := if o.kind.isCopy then bdRows o.desc else if o.kind = .sproj then pjN o.desc else 0

/-- The first units of an operation from the one it has reached. -/
def runUnits (s : State) (o : EngOp) (k : Nat) : State × Option (BitVec 8 × Nat) :=
  if o.kind.isCopy then copyRows k s o o.row else projectSome s o k

/-- How far the engine has come with an operation when the stop comes is free (log 19): any number of rows, or of groups of 4 splats. -/
def stopOp (s : State) (o : EngOp) : State :=
  let left := unitsOf o - o.row
  if left = 0 ∨ !opMayRun s o ∨ (o.kind.isCopy && clearingHit s o) = true then s
  else
    let k := (Config.freeWord s.fresh).toNat % left
    let k := if o.kind.isCopy then k else k / 4 * 4
    let s := { s with fresh := s.fresh + 1 }
    opOutcome s o (runUnits s o k) fun s => modOp s o.id fun o => { o with row := o.row + k }

/-! The save (18 R332, R333; 19 R347). -/

/-- At a stop a live thread leaves its group, and issues its abandoned words again, alone (18 R332). -/
def leavesGroup (s : State) (t : ThreadRef) : Bool := (s.thread t).live

/-- An abandoned access as one for each of its threads. -/
def splitAcc (s : State) (a : Acc) : State × List Acc :=
  a.lanes.foldl (fun acc l =>
    let (id, s) := nextId acc.1
    let t : ThreadRef := { pg := a.pg, tid := l.tid }
    (s, acc.2 ++ [{ a with id := id, va := l.va, pa := 0, nc := false, stuck := none, lanes := [l], stage := if leavesGroup s t then .again else .frame }])) (s, [])

/-- A traversal that starts again (18 R332). -/
def Trav.again (v : Trav) (idle : Bool) : Trav :=
  { v with stack := [0], best := [v.ray.getD 7 0, 0xFFFFFFFF, 0, 0], visited := 0, refetched := 0, waits := 0, due := 0, idle := idle,
           stuck := false }

/-- The accesses and traversals that a stop abandons, as they are issued again. -/
def abandonAll (s : State) (lid : Nat) : State :=
  let stuck := (stuckAccs s).filter fun a => decide (a.lid = lid)
  let r := s.w.accs.foldl (fun acc a =>
    if stuck.any fun b => decide (b.id = a.id) then
      let x := splitAcc acc.1 a
      (x.1, acc.2 ++ x.2)
    else (acc.1, acc.2 ++ [a])) (s, ([] : List Acc))
  { r.1 with w := { r.1.w with accs := r.2, travs := r.1.w.travs.map fun v =>
    if (s.pg v.th.pg).lid = lid then v.again (leavesGroup s v.th) else v } }

/-- The words that a thread has abandoned, in the order of their issue. -/
def abandonedWords (s : State) (t : ThreadRef) : List WordAt :=
  let accs := (s.w.accs.filter fun a => a.abandonedOf t).map fun a => (a.word, a.site)
  let travs := (s.w.travs.filter fun v => v.idle && decide (v.th = t)).filterMap fun v =>
    (s.w.pends.find? fun p => decide (p.id = v.pend)).map fun p => (v.id, p.site)
  dedup ((sortBy (fun x : Nat × WordAt => x.1) (accs ++ travs)).map (·.2))

/-- What a thread that leaves its group still waits for at a word that the group has issued. -/
def Hold.alone (h : Hold) : Hold :=
  match h with
  | .free | .result => .free
  | .joint | .joined => .joined
  | .own => .own
  | .gang => .gang
  | .locks => .locks
  | .ladle => .ladle

/-- A thread with abandoned words leaves its group: it issues them again alone, then goes on where its group had come to, or stands where
it stood (18 R332); at a word that its group had issued it still waits for what that word waits for. -/
def leaveAbandoned (s : State) (t : ThreadRef) : State :=
  let th := s.thread t
  let words := abandonedWords s t
  if words.isEmpty || !leavesGroup s t then s
  else
    match th.place, th.redo with
    | pl, some r => if pl = .alone then s else modThread (setPlace s t .alone) t fun x => { x with redo := some { r with words := words } }
    | .running pos, none =>
      let g := s.group (s.pg t.pg).part pos
      let done := decide (g.hold = .result)
      let pc := if done then g.pc + 12 else g.pc
      let header := if done then decide (g.words.length ≤ 1) else decide (g.pc = g.hdr)
      modThread (setPlace s t .alone) t fun x =>
        { x with pc := pc, hdr := g.hdr, wait := .ready, held := g.hold.alone, redo := some { words := words, place := if header then .bin 0 else .alone } }
    | pl, none => modThread (setPlace s t .alone) t fun x => { x with redo := some { words := words, place := pl } }

/-- The live threads of a launch. -/
def threadsOf (s : State) (lid : Nat) : List ThreadRef :=
  (s.w.pgs.filter fun e => decide (e.2.lid = lid)).flatMap fun e => (tidsWhere e.2 Thread.live).map fun i => { pg := e.1, tid := i }

/-- What the stop of a launch leaves half done: rows and splats done, and outside DSM words abandoned. Under DSM an access or traversal
keeps its slot and is not issued again (06 R135; DEDUCED, log 59). -/
def settleStop (s : State) (lid : Nat) : State :=
  let s := (s.w.ops.filter fun o => decide ((s.cg o.cg).lid = lid)).foldl (fun s o => stopOp s o) s
  if (s.launch lid).lr.dsm then
    { s with w := { s.w with travs := s.w.travs.map fun v => if (s.pg v.th.pg).lid = lid then v.again false else v } }
  else (threadsOf s lid).foldl leaveAbandoned (abandonAll s lid)

/-- What a core group brings to the engine of the core it will come back to. -/
def engineImage (s : State) (key : Nat) : Option EngImage :=
  let e := (s.core (s.cg key).core).eng
  match (s.cg key).engBack with
  | some b => some b
  | none =>
    let ops := e.ops.filter fun o => o.gang.cg = key
    let armed := e.armed.filter fun a => a.cg = key
    let frozen := decide (e.frozenM = some key)
    let wait := e.readyAt - timeOf s key
    let gang (o : Option Gang) : Option Gang := o.bind fun g => if g.cg = key then some g else none
    match gang e.owner, gang e.last with
    | some g, _ => some { members := g.members, owned := true, wait := wait, frozen := frozen, tiles := e.tiles, ops := ops, armed := armed }
    | none, some g =>
      if e.owner.isNone && !e.lastEnded then
        some { members := g.members, owned := false, wait := 0, frozen := frozen, tiles := e.tiles, ops := ops, armed := armed }
      else some { members := [], owned := false, wait := 0, frozen := false, tiles := [], ops := ops, armed := armed }
    | none, none =>
      if ops.isEmpty && armed.isEmpty then none
      else some { members := [], owned := false, wait := 0, frozen := false, tiles := [], ops := ops, armed := armed }

/-- A partition group's share of its partition: its active groups and bins, a stop of a claimed launch, and under DSM what its slots
depend on. -/
def partImage (s : State) (pk : Nat) : Partition :=
  let g := s.pg pk
  let p := s.part g.part
  let dsm := (s.launch g.lid).lr.dsm
  let claimed := (tget? s.w.claims g.lid).isSome
  let base : Partition := { Partition.init with
    bins := p.bins.filter (fun b => b.2.pg = pk), groups := p.groups.filter (fun x => x.2.pg = pk), stopped := p.stopped && claimed,
    stopBy := if p.stopped && claimed then [g.lid] else [], snap := p.snap.filter (fun x => decide (x.th.pg = pk)), seq := p.seq,
    caught := p.caught.filter fun c => decide (c.1.pg = pk), failed := p.failed.filter fun f => f.pg = pk }
  if dsm then { base with icache := p.icache, fetches := p.fetches, rot := p.rot, f64Free := p.f64Free, divFree := p.divFree,
                          fragFree := p.fragFree, ovAge := p.ovAge, ovDue := p.ovDue, issued := p.issued, drew := p.drew,
                          lastIssue := p.lastIssue }
  else base

/-- A core group's share of its core. -/
def coreImage (s : State) (key : Nat) : Core :=
  let g := s.cg key
  let c := s.core g.core
  { Core.init with resv := c.resv.filter (fun r => r.2.cg = key), ladle := c.ladle.filter (fun l => l.2.cg = key),
                   ladleQ := c.ladleQ.filter (fun o => o.cg = key), locks := c.locks.filter (fun l => l.slot = g.slot), abuf := c.abuf, wbuf := c.wbuf,
                   eng := { Engine.init with queue := c.eng.queue.filter fun o => o.cg = key } }

/-- A partition group as the image holds it: entries fetched ahead are discarded (18 R332), under DSM with the slots from which they are
present, since they are fetched again. -/
def pgImage (dsm : Bool) (g : PartGroup) : PartGroup :=
  { g with streams := g.streams.map fun st => { st with entries := if dsm then st.entries.map fun e => { e with stale := true } else [] } }

/-- The image of a launch's work (18 R333): what is on the device, with what an earlier image still holds. -/
def imageWorld (s : State) (lid : Nat) : World :=
  let mine (pg : Nat) : Bool := decide ((s.pg pg).lid = lid)
  let cgs := s.w.cgs.filter fun e => decide (e.2.lid = lid)
  let pgs := s.w.pgs.filter fun e => decide (e.2.lid = lid)
  let dsm := (s.launch lid).lr.dsm
  let old := ((s.images.find? fun i => i.lid = lid).map fun i => i.world).getD World.init
  let still (cg : Nat) : Bool := (tget? old.cgs cg).isSome
  let overlay {α : Type} (t u : Tab α) : Tab α := u.foldl (fun t e => tput t e.1 e.2) t
  { World.init with
    cgs := overlay old.cgs (cgs.map fun e => (e.1, { e.2 with engBack := if e.2.ended then none else engineImage s e.1 })),
    pgs := overlay old.pgs (pgs.map fun e => (e.1, pgImage dsm e.2)), parts := overlay old.parts (pgs.map fun e => (e.1, partImage s e.1)),
    cores := overlay old.cores ((cgs.filter fun e => !e.2.ended).map fun e => (e.1, coreImage s e.1)),
    ops := old.ops.filter (fun o => still o.cg) ++ s.w.ops.filter (fun o => cgs.any fun e => e.1 = o.cg),
    pends := old.pends.filter (fun p => still (cgOfPg p.th.pg)) ++ s.w.pends.filter (fun p => mine p.th.pg),
    accs := old.accs.filter (fun a => still (cgOfPg a.pg)) ++ s.w.accs.filter (fun a => a.lid = lid),
    travs := old.travs.filter (fun v => still (cgOfPg v.th.pg)) ++ s.w.travs.filter fun v => mine v.th.pg }

/-- Take a stopped launch's groups off the device: what they held is free for others, the freeze of the stop ends. -/
def clearLaunch (s : State) (lid : Nat) : State :=
  let mine (pg : Nat) : Bool := decide ((s.pg pg).lid = lid)
  let here := s.w.cgs.filter fun e => decide (e.2.lid = lid)
  let keys := here.map (·.1)
  let ids := (s.w.ops.filter fun o => keys.contains o.cg).map fun o => o.id
  let cores := dedup ((here.filter fun e => !e.2.ended).map fun e => e.2.core)
  let parts := s.w.parts.map fun p =>
    let others := s.w.pgs.any fun e => decide (e.2.lid ≠ lid) && decide (e.2.part = p.1) && !(s.cg (cgOfPg e.1)).ended
    (p.1, { p.2 with bins := p.2.bins.filter (fun b => !mine b.2.pg), groups := p.2.groups.filter (fun g => !mine g.2.pg),
                     fetches := p.2.fetches.filter (fun f => !mine f.1), failed := p.2.failed.filter (fun f => !mine f.pg),
                     stopped := p.2.stopped && others, stopBy := if others then p.2.stopBy else [],
                     snap := p.2.snap.filter (fun x => !mine x.th.pg), caught := p.2.caught.filter fun c => !mine c.1.pg })
  let s := { s with w := { s.w with parts := parts } }
  let s := (here.filter fun e => !e.2.ended).foldl (fun s e =>
    let s := modCore (dropLocksWhere s e.2.core fun l => decide (l.slot = e.2.slot)) e.2.core fun c =>
      { c with pins := c.pins.filter (fun p => !ids.contains p.1), resv := c.resv.filter (fun r => r.2.cg != e.1), ladle := c.ladle.filter (fun l => l.2.cg != e.1),
               ladleQ := c.ladleQ.filter fun o => o.cg != e.1 }
    modEng s e.2.core fun g =>
      let owned := match g.owner with
        | some o => decide (o.cg = e.1)
        | none => false
      let wasLast := match g.last with
        | some o => decide (o.cg = e.1)
        | none => false
      { g with ops := g.ops.filter (fun o => o.gang.cg != e.1), armed := g.armed.filter (fun a => a.cg != e.1),
               queue := g.queue.filter (fun o => o.cg != e.1), owner := if owned then none else g.owner,
               last := if owned || wasLast then none else g.last, frozenP := g.frozenP && !owned,
               frozenM := if g.frozenM = some e.1 then none else g.frozenM }) s
  let s := { s with w := { s.w with
    ops := s.w.ops.filter (fun o => !keys.contains o.cg), pends := s.w.pends.filter (fun p => !mine p.th.pg),
    accs := s.w.accs.filter (fun a => a.lid != lid), travs := s.w.travs.filter (fun v => !mine v.th.pg),
    cgs := s.w.cgs.filter (fun e => e.2.lid != lid), pgs := s.w.pgs.filter (fun e => e.2.lid != lid) } }
  cores.foldl (fun s c => acceptCopies (thawed s c) c) s

/-- Free bytes for what the spec leaves private to the device: the image's layout (18 R333; log 60). -/
def privateBytes (s : State) (n : Nat) : State × List Byte :=
  ({ s with fresh := s.fresh + n }, (List.range n).map fun i => (Config.freeWord (s.fresh + i)).truncate 8)

/-- The records that an image lays out as the chapters give them: the bins (06 R118), range locks (09 R210) and trap-queue entries (18
R320) of a launch. -/
def imageRecords (s : State) (lid : Nat) : List Byte :=
  let bins := s.w.parts.flatMap fun p => (p.2.bins.filter fun b => decide ((s.pg b.2.pg).lid = lid)).flatMap fun b => dumpBin s p.1 b.1
  let locks := (s.w.cgs.filter fun e => decide (e.2.lid = lid) && !e.2.ended).flatMap fun e =>
    ((s.core e.2.core).locks.filter fun l => decide (l.slot = e.2.slot)).flatMap lockBytes
  let queues := (s.w.pgs.filter fun e => decide (e.2.lid = lid)).flatMap fun e => bytesOfWords ((e.2.trapq.take 32).flatMap tqWords)
  bins ++ locks ++ queues

/-- Save a launch whose stop is complete: the image, with its bytes in the context area, and the launch off the device. DESIGN CHOICE (log
60): the records whose form the chapters give stand from the second 4 KiB on, as many as the area holds. -/
def saveLaunch (s : State) (lid ctx : Nat) : State :=
  let n := contextSize s lid
  let l := s.launch lid
  let s := settleStop s lid
  let w := imageWorld s lid
  let recs := (imageRecords s lid).take (n - 4096)
  let s := modLaunch (clearLaunch s lid) lid fun l => { l with run := .saved }
  let (s, bs) := privateBytes s n
  let s := (unitWrite s (l.dies.getD 0 0) l.space ctx (putBytes bs 4096 recs)).1
  { s with images := s.images.filter (fun i => i.lid != lid) ++ [{ va := ctx, space := l.space, lid := lid, world := w, notice := false }] }

/-- PREEMPT_STOP_COMPLETE (18 R331): the stop is complete; the launch is saved and the message answered with the saved size. -/
def execPreemptStopComplete (lid : Nat) (s : State) : Host.Outcome State Fault Refusal :=
  match (s.launch lid).run with
  | .stopping ctx =>
    if stopSettled s lid then
      let n := contextSize s lid
      .next (answerAsk (saveLaunch s lid ctx) lid 0 n)
    else .next s
  | .running | .notice _ _ | .saved => .next s

/-! Messages of class 0x07 (24 R390). -/

/-- The launch that the message names, if the session may act on it (24 R391). -/
def namedLaunch (s : State) : Option Nat :=
  let lid := s.rx.addr.toNat
  match tget? s.w.launches lid with
  | none => none
  | some l => if (rxSpace s).isNone || decide (rxSpace s = some l.space) then some lid else none

/-- A launch is resident: live, not saved and not already being stopped (18 R331). -/
def stoppable (s : State) (lid : Nat) : Bool :=
  match (s.launch lid).run with
  | .running | .notice _ _ => true
  | .stopping _ | .saved => false

/-- A pre-empt message that stops a launch: the checks of 18 R333, then `k`. -/
def preemptWord (s : State) (n : Nat) (k : State → Nat → Nat → State) : Host.Outcome State Fault Refusal :=
  gate s true (payLen s n) fun s =>
    match namedLaunch s with
    | none => respond s 7 0 []
    | some lid =>
      let ctx := payNat s 0 8
      let size := contextSize s lid
      if !stoppable s lid then respond s 7 0 []
      else if ctx % 4096 ≠ 0 ∨ 2 ^ 56 < ctx + size then respond s 3 size []
      else
        match checkArea s lid ctx size with
        | (s, some (c, va)) => if c = 0 then holdMsg s else respond s (accessStatus c) (va % 2 ^ 56 / 256) []
        | (s, none) => k (modLaunch s lid fun l => { l with ask := l.ask ++ [(s.rx.conn, s.rx.tag)] }) lid ctx

/-- PREEMPT_STOP_AND_SAVE (18 R331, R333). -/
def execPreemptStopAndSave (s : State) : Host.Outcome State Fault Refusal := preemptWord s 8 fun s lid ctx => beginStop s lid ctx

/-- The notice to a partition group (18 R337): its lowest live thread takes PREEMPT at its next header. -/
def noticePg (s : State) (pk grace : Nat) : State :=
  match tidsWhere (s.pg pk) Thread.live with
  | [] => s
  | i :: _ =>
    let t : ThreadRef := { pg := pk, tid := i }
    oweTrap s t (trapEntry s t (plainTrap 0x13 grace) (atHeader 0) false)

/-- The notice to the partition groups of a launch, on the device or still in an image. -/
def noticeLaunch (s : State) (lid grace : Nat) : State :=
  let s := (s.w.pgs.filter fun e => decide (e.2.lid = lid)).foldl (fun s e => noticePg s e.1 grace) s
  match s.images.find? fun i => i.lid = lid with
  | none => s
  | some i =>
    let r := (i.world.pgs.filter fun e => (tget? i.world.cgs (cgOfPg e.1)).isSome).foldl (fun s e => noticePg s e.1 grace)
      { s with w := { s.w with pgs := i.world.pgs } }
    { r with w := { r.w with pgs := s.w.pgs }, images := r.images.map fun j =>
      if j.lid = lid then { j with world := { j.world with pgs := r.w.pgs } } else j }

/-- PREEMPT_WITH_NOTICE (18 R337). -/
def execPreemptWithNotice (s : State) : Host.Outcome State Fault Refusal :=
  preemptWord s 16 fun s lid ctx =>
    let grace := payNat s 8 8
    let s := modLaunch s lid fun l => { l with run := .notice (s.clk + grace * Config.clkPerUs) ctx }
    if (s.launch lid).lr.trapvec = 0 then s
    else noticeLaunch s lid grace

/-- The counters of a launch move with its die groups (18 R332): their contents, read before any is cleared. -/
def moveCounters (s : State) (lid : Nat) (dies base : List Nat) : State :=
  let l := s.launch lid
  let at' (f : State → Nat → Nat → State) (s : State) : State :=
    (List.range l.lr.ndg).foldl (fun s dg => (List.range l.lr.dccnt).foldl (fun s c => f s dg c) s) s
  let old := s
  let s := at' (fun s dg c => modDie s (l.dies.getD dg 0) fun d => { d with counters := tdel d.counters (dcSlot s lid dg c) }) s
  let s := modLaunch s lid fun l => { l with dies := dies, dcBase := base }
  at' (fun s dg c => dcPut s lid dg c (dcGet old lid dg c)) s

/-- Bring a saved launch back (18 R334): outside DSM its die groups are assigned afresh and its core groups wait for places; under DSM
all are placed at once. None where there is no room: code 0x09 under DSM, 0x08 for the counters and queues of the dies (log 61). -/
def restoreLaunch (s : State) (img : Image) : Except Nat State :=
  let lid := img.lid
  let l := s.launch lid
  let back (s : State) : State := modLaunch s lid fun l => { l with run := .running, restores := l.restores + 1 }
  if l.lr.dsm then
    match dsmDies s l.lr with
    | none => .error 9
    | some dies =>
      let base := dies.map fun d => (dcFit s d lid l.lr.dccnt).getD 0
      if dies.any fun d => (dcFit s d lid l.lr.dccnt).isNone then .error 8
      else
        let s := back (moveCounters s lid dies base)
        let s := placeDsm s lid fun s dg cgid core =>
          let key := cgKey lid dg cgid
          match tget? img.world.cgs key with
          | none => s
          | some g => if g.ended then restoreEnded s img key g else restoreCg s img key core (dsmPlaces l.lr)
        .ok { s with images := s.images.filter fun i => i.lid != lid }
  else
    match assignDies l.lr.ndg s l.lr (fun _ d => (dcFit s d lid l.lr.dccnt).isSome
        && (!l.lr.taskServer || decide (queuesOn s d lid + l.lr.nq ≤ 64))) [] with
    | none => .error 8
    | some dies =>
      let base := dies.map fun d => (dcFit s d lid l.lr.dccnt).getD 0
      let s := back (moveCounters s lid dies base)
      .ok (modLaunch { s with images := s.images.filter fun i => i.lid != lid || !i.world.cgs.isEmpty } lid fun l =>
        { l with placed := List.replicate l.lr.ndg 0 })

/-- RESTORE (18 R334): the message names the image by its address in the launch's space. -/
def execRestore (s : State) : Host.Outcome State Fault Refusal :=
  gate s true true fun s =>
    match s.images.find? fun i => decide (i.va = s.rx.addr.toNat) && decide ((s.launch i.lid).run = .saved)
        && ((rxSpace s).isNone || decide (rxSpace s = some i.space)) with
    | none => respond s 7 0 []
    | some img =>
      match restoreLaunch s img with
      | .error c => respond s 0 c []
      | .ok s => respond s 0 0 []

/-- Kill a launch from outside (24 R390): every thread ends by containment in terminate mode, engine operations are abandoned, `st.out`
is 0x03 and `st.cause` stays; core groups still to be placed never start. -/
def killLaunch (s : State) (lid : Nat) : State :=
  let s := unpackImage s lid none
  let pgs := (s.w.pgs.filter fun e => decide (e.2.lid = lid)).map (·.1)
  let s := (s.w.cgs.filter fun e => decide (e.2.lid = lid) && !e.2.ended).foldl (fun s e =>
    modEng (abandonEngines s e.1) e.2.core fun g => { g with frozenP := match g.owner with
      | some o => g.frozenP && decide (o.cg ≠ e.1)
      | none => false }) s
  let s := killThreads s pgs 0
  let s := (s.w.cgs.filter fun e => decide (e.2.lid = lid)).foldl (fun s e => modCg s e.1 fun g => { g with killed := false }) s
  modLaunch (killUnplaced s lid none) lid fun l => { l with out := 3, run := .running }

/-- KILL (24 R390). -/
def execKill (s : State) : Host.Outcome State Fault Refusal :=
  gate s true true fun s =>
    match namedLaunch s with
    | none => respond s 7 0 []
    | some lid => respond (answerAsk (killLaunch s lid) lid 7 0) 0 0 []

end Sys2Proof.Machine
end

