-- ==== Sys2Proof/Machine/Manage.lean ====
section
/-! DEFINITION. Management reads and writes and checkpoint control (04 R79; 20 R362, R366; 22 R373, R377; 24 R390, R395): 8-byte words
of the control blocks. The old value stands in the result as far as its 56 bits reach, and whole in the payload (log 72). -/

namespace Sys2Proof.Machine

/-- The bring-up status word (04 R79). -/
def statusBits (s : State) : Nat :=
  let m := s.mgmt
  m.phase * 2 ^ 29 + m.cause.toNat * 2 ^ 24 + m.die.toNat * 2 ^ 16 + m.spares % 128 * 2 ^ 9 + m.slot % 2 * 2 ^ 8 + bnat m.alarm * 2 + bnat m.ready

/-- What a management address names (24 R395). -/
inductive MgmtWord where
  | status
  | memory (die off : Nat)
  | sampling (die off : Nat)
  | trial (off : Nat)
deriving DecidableEq, Repr

/-- The word at a management address, aligned to 8. -/
def mgmtWord (a : Nat) : Option MgmtWord :=
  if a % 8 ≠ 0 then none
  else if a = 0 then some .status
  else if 0x100 ≤ a ∧ a < 0x300 then (if a % 0x40 < 0x30 then some (.memory ((a - 0x100) / 0x40) (a % 0x40)) else none)
  else if 0x400 ≤ a ∧ a < 0x500 then (if a % 0x20 < 0x18 then some (.sampling ((a - 0x400) / 0x20) (a % 0x20)) else none)
  else if 0x800 ≤ a ∧ a < 0x880 then some (.trial (a - 0x800))
  else none

/-- The value of a word. -/
def mgmtGet (s : State) (w : MgmtWord) : Nat :=
  match w with
  | .status => statusBits s
  | .memory d off => fieldAt (mcbBytes s d) off 8
  | .sampling d off => fieldAt (smBytes (s.die d).sm) off 8
  | .trial off => fieldAt (trialBytes s.trial) off 8

/-- Write a word; the status word is only read. -/
def mgmtPut (s : State) (w : MgmtWord) (bs : List Byte) : State :=
  match w with
  | .status => s
  | .memory d off => mcbWrite s d off bs
  | .sampling d off => smWrite s d off bs
  | .trial off => trialWrite s off bs

/-- The response with an old value (log 72). -/
def respondOld (s : State) (v : Nat) : State := respond s 0 v (bytesOfNat 8 v)

/-- MANAGEMENT_READ: the bring-up status word also without a session (04 R79, R80). -/
def execManagementRead (s : State) : Host.Outcome State Fault Refusal :=
  gate s true (mgmtWord s.rx.addr.toNat).isSome fun s =>
    match mgmtWord s.rx.addr.toNat with
    | none => s
    | some w => respondOld s (mgmtGet s w)

/-- A management write: the word takes the payload under its block's rules. -/
def managementPut (s : State) : Host.Outcome State Fault Refusal :=
  gate s true ((mgmtWord s.rx.addr.toNat).isSome && payLen s 8) fun s =>
    match mgmtWord s.rx.addr.toNat with
    | none => s
    | some w => mgmtPut (respondOld s (mgmtGet s w)) w s.rx.payload

/-- MANAGEMENT_WRITE. -/
def execManagementWrite (s : State) : Host.Outcome State Fault Refusal := managementPut s
/-- HOTNESS_ENABLE (08 R184, R194). -/
def execHotnessEnable (s : State) : Host.Outcome State Fault Refusal := managementPut s
/-- FREE_FRAMES_ADD (08 R182, R184): the accesses that wait go on by their own events. -/
def execFreeFramesAdd (s : State) : Host.Outcome State Fault Refusal := managementPut s
/-- SAMPLING_ENABLE (22 R373). -/
def execSamplingEnable (s : State) : Host.Outcome State Fault Refusal := managementPut s
/-- TRIAL_ENABLE (22 R377). -/
def execTrialEnable (s : State) : Host.Outcome State Fault Refusal := managementPut s
/-- TRIAL_DISABLE (22 R377). -/
def execTrialDisable (s : State) : Host.Outcome State Fault Refusal := managementPut s

/-! Checkpoint control (20 R362). -/

/-- A word of the 64-byte block. -/
def controlWordOk (a : Nat) : Bool := decide (a % 8 = 0) && decide (a < 64)

/-- CHECKPOINT_CONTROL_READ. -/
def execCheckpointControlRead (s : State) : Host.Outcome State Fault Refusal :=
  let a := s.rx.addr.toNat
  gate s true (controlWordOk a) fun s => respondOld s (fieldAt (replayBytes s.rb) a 8)

/-- A write of the block. -/
def controlPut (s : State) : Host.Outcome State Fault Refusal :=
  let a := s.rx.addr.toNat
  gate s true (controlWordOk a && payLen s 8) fun s => replayWrite (respondOld s (fieldAt (replayBytes s.rb) a 8)) a s.rx.payload

/-- CHECKPOINT_CONTROL_WRITE. -/
def execCheckpointControlWrite (s : State) : Host.Outcome State Fault Refusal := controlPut s
/-- RACE_COUNT_ENABLE (20 R366). -/
def execRaceCountEnable (s : State) : Host.Outcome State Fault Refusal := controlPut s

end Sys2Proof.Machine
end

