-- ==== Sys2Proof/Machine/HostMem.lean ====
section
/-! DEFINITION. The messages that reach memory: write, read, flush, window and peer access (24 R390-R395). -/

namespace Sys2Proof.Machine

/-- WRITE (24 R390, R391): 8 to 65,536 bytes at an aligned address. -/
def execWrite (s : State) : Host.Outcome State Fault Refusal :=
  gate s false (decide (s.rx.addr.toNat % 8 = 0) && !s.rx.payload.isEmpty) fun s =>
    hostWrite s s.rx.addr.toNat s.rx.payload (accessDone [])

/-- READ: the payload is the length, which one response can carry. -/
def execRead (s : State) : Host.Outcome State Fault Refusal :=
  let n := payNat s 0 8
  gate s false (decide (s.rx.addr.toNat % 8 = 0) && payLen s 8 && decide (n ≠ 0) && decide (n % 8 = 0) && decide (n ≤ 65536)) fun s =>
    hostRead s s.rx.addr.toNat n fun s bs e => accessDone bs s e

/-! Flush. -/

/-- Messages of the session that were delivered before this one and are not performed yet (24 R395): those that wait in the port, the
launch messages at the launch engine and the pre-empt messages whose stop is not over. -/
def sessionWaits (s : State) : Bool :=
  s.inbox.any (fun x => connHome x.1 = connHome s.rx.conn) || underWay s fun c => connHome c = connHome s.rx.conn

/-- A flush in physical addresses that passes the top of DRAM (24 R394): its first address there. -/
def flushFails (s : State) : Option (BitVec 8 × Nat) :=
  let a := s.rx.addr.toNat
  let n := payNat s 0 8
  if (rxSpace s).isNone && decide (Config.dramTop ≤ a ∨ Config.dramTop < a + n) then some (0x06, Nat.max a Config.dramTop) else none

/-- FLUSH_DATA (24 R390, R395; 08 R190): host writes are performed at their homes when they are performed at all. -/
def execFlushData (s : State) : Host.Outcome State Fault Refusal :=
  gate s false (payLen s 8) fun s => if sessionWaits s then holdMsg s else accessDone [] s (flushFails s)

/-- Whether a page of 64 KiB lies in a range. -/
def pageIn (page a n : Nat) : Bool := decide (n ≠ 0) && decide (a / 0x10000 ≤ page) && decide (page ≤ (a + n - 1) / 0x10000)

/-- A translation covers a page of a range. -/
def TlbEntry.meets (e : TlbEntry) (space a n : Nat) : Bool :=
  decide (e.space = space) && decide (n ≠ 0) && decide (e.vpn ≤ (a + n - 1) / 0x10000)
    && decide (a / 0x10000 < e.vpn + (if e.large then 32 else 1))

/-- Drop a range's translations of a space from every TLB (08 R180). -/
def dropTranslations (s : State) (space a n : Nat) : State :=
  { s with w := { s.w with
    cores := s.w.cores.map fun c => (c.1, { c.2 with tlb := c.2.tlb.filter fun e => !e.meets space a n }),
    dies := s.w.dies.map fun d => (d.1, { d.2 with tlb := d.2.tlb.filter fun e => !e.meets space a n }) } }

/-- The bytes from an address on, `k` of them, have a page in common with a range. -/
def pagesMeet (lo k a n : Nat) : Bool :=
  decide (k ≠ 0) && decide (n ≠ 0) && decide (lo / 0x10000 ≤ (a + n - 1) / 0x10000) && decide (a / 0x10000 ≤ (lo + k - 1) / 0x10000)

/-- A lock range over memory covers a page of a range. -/
def lockMeets (l : RLock) (a n : Nat) : Bool := decide (l.space = 0) && pagesMeet (l.lo * 128) ((l.hi + 1 - l.lo) * 128) a n

/-- A stream pins a page of a range (08 R183, 09 R218): one on which an element lies that it has fetched for a thread. -/
def streamPins (d : List Byte) (st : Stream) (tid pos a n : Nat) : Bool :=
  decide (sdSpace d = 0) && (List.range (pos + (entriesOf st tid).length)).any fun e => pagesMeet (sdAddr d tid e) (sdType d).bytes a n

/-- A partition group's streams pin a page of a range. -/
def groupPins (g : PartGroup) (a n : Nat) : Bool :=
  (List.range 4).any fun q =>
    let st := g.streams.getD q Stream.init
    st.active && g.threads.zipIdx.any fun t => t.1.live && streamPins st.desc st t.2 (t.1.pos.getD q 0) a n

/-- A Whisk job pins a page of a range: once it has built its input table, the tables that it has read and written (20 R354, R355). -/
def jobPins (s : State) (num : Nat) (j : Job) (a n : Nat) : Bool :=
  let size := cvSize (jobLr j) * recordThreads (jobLr j)
  !mayBuild s num && (pagesMeet (mdX j) size a n || pagesMeet (mdIn j) size a n || (decide (mdOp j = 2) && pagesMeet (mdY j) size a n))

/-- An access or a queued write is on its way to a page of a range, or an engine pins one (08 R180, R183): an operation under way those of
its range locks and those it has used, such as an index list's, a Ladle slot those of its list area (12 R270), a stream those it has fetched
from, a Whisk job those of its tables. -/
def rangeBusy (s : State) (space a n : Nat) : Bool :=
  (s.w.accs.any fun x => decide (x.space = space) && decide (x.stage = .home) && x.lanes.any fun l => pagesMeet l.va x.bytes a n)
    || (s.w.dies.any fun d => d.2.wq.any fun q => decide (q.space = space) && pageIn (q.va / 0x10000) a n)
    || (s.w.ops.any fun o => decide (o.space = space) && o.accepted && o.locks.any fun l => lockMeets l a n)
    || (s.w.cores.any fun c =>
      (c.2.eng.ops.any fun o => decide (o.space = space) && o.accepted && (opLocks s o).any fun l => lockMeets l a n)
        || (c.2.pins.any fun p => p.2.meets space a n)
        || c.2.ladle.any fun r => decide (r.2.space = space) && decide (r.2.list ≠ 0) && pagesMeet r.2.list 0x100000 a n)
    || (s.w.jobs.any fun j => decide (j.2.space = space) && jobPins s j.1 j.2 a n)
    || (s.w.pgs.any fun g => decide ((s.launch g.2.lid).space = space) && groupPins g.2 a n)

/-- Reclaim the armed trace buffers of a space that lie in a range (22 R379), with a notice. -/
def reclaimTraces (s : State) (space a n : Nat) : State :=
  s.w.claims.foldl (fun s c =>
    match c.2.trace with
    | none => s
    | some b =>
      if decide ((s.launch c.1).space = space) && pagesMeet b.va (2 ^ b.lsize) a n then
        let s := { s with w := { s.w with claims := tput s.w.claims c.1 { c.2 with trace := none, reclaimed := b.mask } } }
        sendNotice s c.1 3 0 0 0 0 0 0
      else s) s

/-- FLUSH_DATA_AND_TLB (08 R180): the translations go; the response comes when what was translated through them is done. An unbound
management session has no translations. -/
def execFlushDataAndTlb (s : State) : Host.Outcome State Fault Refusal :=
  gate s false (payLen s 8) fun s =>
    let a := s.rx.addr.toNat
    let n := payNat s 0 8
    match rxSpace s with
    | none => if sessionWaits s then holdMsg s else accessDone [] s (flushFails s)
    | some sp =>
      let s := dropTranslations (reclaimTraces s sp a n) sp a n
      if sessionWaits s || rangeBusy s sp a n then holdMsg s else respond s 0 0 []

/-! The window (24 R390, R392; 08 R191). -/

/-- A window message: over an ordered connection, at an offset inside the window; a malformed one is refused before `k` gets the value
that the offset holds (log 49). -/
def windowWord (s : State) (n : Nat) (k : State → Nat → Nat → State) : Host.Outcome State Fault Refusal :=
  let off := s.rx.addr.toNat
  gate s false (connOrdered s.rx.conn && payLen s n && decide (off % 4 = 0) && decide (off < Config.windowSize)) fun s =>
    match stampHost s [(clockLine true off, n)] with
    | (s, false) => holdMsg s
    | (s, true) => k s off (memNat s.w.window off 4)

def windowPut (s : State) (off v : Nat) : State := modWindow s fun m => memWriteN m off (bytesOfNat 4 v)

/-- WINDOW_READ. -/
def execWindowRead (s : State) : Host.Outcome State Fault Refusal := windowWord s 0 fun s _ old => respond s 0 old []
/-- WINDOW_WRITE. -/
def execWindowWrite (s : State) : Host.Outcome State Fault Refusal :=
  windowWord s 8 fun s off old => respond (windowPut s off (payNat s 0 4)) 0 old []
/-- WINDOW_FETCH_ADD. -/
def execWindowFetchAdd (s : State) : Host.Outcome State Fault Refusal :=
  windowWord s 8 fun s off old => respond (windowPut s off ((old + payNat s 0 4) % 2 ^ 32)) 0 old []

/-! Peer access (24 R390): fabric address, virtual address and byte length in three words of the payload (log 65). -/

/-- COPY_TO_PEER. -/
def execCopyToPeer (s : State) : Host.Outcome State Fault Refusal :=
  gate s false (payLen s 24) fun s =>
    hostRead s s.rx.addr.toNat (payNat s 16 8) fun s bs e =>
      accessDone [] (if s.replay.isSome || bs.isEmpty then s
                     else { s with peerOut := s.peerOut ++ [(payNat s 0 8, payNat s 8 8, bs)] }) e

/-- COPY_FROM_PEER: what the peer's memory holds is free (log 7). -/
def execCopyFromPeer (s : State) : Host.Outcome State Fault Refusal :=
  gate s false (payLen s 24) fun s =>
    let bs := (List.range (payNat s 16 8)).map fun i => Config.peerByte s.fresh i
    hostWrite { s with fresh := s.fresh + 1 } s.rx.addr.toNat bs (accessDone [])

/-- MALFORMED_MESSAGE (24 R389-R391): status 0x03. -/
def execMalformedMessage (s : State) : Host.Outcome State Fault Refusal := gate s false false fun s => s

end Sys2Proof.Machine
end

