-- ==== Sys2Proof/Machine/Sessions.lean ====
section
/-! DEFINITION. Sessions and address spaces (24 R388, R393, R394). The credential and its checks are free functions of the payload
(log 7); where the number of the space and the role asked for stand in it is the model's choice (log 68). -/

namespace Sys2Proof.Machine

/-- The space an open binds to (0xFF: none) and whether it asks for the management role (log 68). -/
def openSpace (s : State) : Nat := payNat s 0 1
def openAsksMgmt (s : State) : Bool := bitAt (payNat s 1 1) 0

/-- The lowest free session number. -/
def freeSession (s : State) : Option Nat := firstFree 1024 fun n => !s.sessions.any fun x => x.2.number = n

/-- The access list of a space grants a credential (24 R394). -/
def spaceGrants (s : State) (space : Nat) : Bool :=
  match tget? s.spaces space with
  | none => false
  | some x => x.access.contains (Config.credentialHash s.rx.payload)

/-- The key share and the signature that answer an open: free (log 7). -/
def openAnswer (s : State) : List Byte := (Config.openAnswer s.fresh).flatMap fun x => bytesOfNat 8 x.toNat

/-- A failed authentication counts towards the alarm of 04 R82; so does, in the safe talkative state, a credential without the management
attribute (log 98). -/
def authFail (s : State) : State := respond { s with mgmt := { s.mgmt with authFails := s.mgmt.authFails + 1 } } 6 0 []

/-- SESSION_OPEN (24 R393): on an ordered connection without a session. -/
def execSessionOpen (s : State) : Host.Outcome State Fault Refusal :=
  gate s false (connOrdered s.rx.conn && decide (8 ≤ s.rx.payload.length) && (rxSession s).isNone) fun s =>
    let mgmt := openAsksMgmt s && Config.credentialManagement s.rx.payload
    let sp := openSpace s
    if !Config.credentialOk s.rx.payload || (s.mgmt.safe && !Config.credentialManagement s.rx.payload) then authFail s
    else
      let s := { s with mgmt := { s.mgmt with authFails := 0 } }
      if !mgmt && !spaceGrants s sp then respond s 6 0 []
      else if sp ≠ 0xFF ∧ (tget? s.spaces sp).isNone then respond s 3 0 []
      else
        match freeSession s with
        | none => respond s 8 0 []
        | some n =>
          let x : Session := { number := n, serial := s.nextSession, management := mgmt, space := if sp = 0xFF then none else some sp, clock := 0, ords := 0 }
          let s := { s with sessions := tput s.sessions s.rx.conn x, nextSession := s.nextSession + 1 }
          { respond s 0 (n + bnat mgmt * 1024) (openAnswer s) with fresh := s.fresh + 1 }

/-- End the session of a connection: its claims end with it (log 66), its launches do not. -/
def endSession (s : State) (home : Nat) : State :=
  let s := { s with sessions := tdel s.sessions home }
  (s.w.claims.filter fun c => decide (connHome c.2.conn = home)).foldl (fun s c => endClaim s c.1) s

/-- SESSION_CLOSE. -/
def execSessionClose (s : State) : Host.Outcome State Fault Refusal :=
  gate s false true fun s => endSession (respond s 0 0 []) (connHome s.rx.conn)

/-- CREATE_ADDRESS_SPACE (24 R394). -/
def execCreateAddressSpace (s : State) : Host.Outcome State Fault Refusal :=
  let root := s.rx.addr.toNat
  gate s true (decide (root % 0x8000 = 0) && decide (root < Config.dramTop) && decide (s.rx.payload.length ≤ 128)) fun s =>
    match firstFree 64 fun n => (tget? s.spaces n).isNone with
    | none => respond s 8 0 []
    | some n =>
      let access := (List.range (s.rx.payload.length / 8)).map fun i => BitVec.ofNat 64 (payNat s (8 * i) 8)
      respond { s with spaces := tput s.spaces n { root := root, access := access } } 0 n []

/-- DESTROY_ADDRESS_SPACE (24 R394): refused while a launch of the space is live or a session bound to it; R394 asks for the management
role at the creation of a space alone. -/
def execDestroyAddressSpace (s : State) : Host.Outcome State Fault Refusal :=
  let n := s.rx.addr.toNat % 64
  gate s false true fun s =>
    if (tget? s.spaces n).isNone || (s.w.launches.any fun l => decide (l.2.space = n)) || s.sessions.any (fun x => decide (x.2.space = some n))
    then respond s 3 0 []
    else respond { dropTranslations s n 0 (2 ^ 56) with spaces := tdel s.spaces n } 0 0 []

/-- CONNECTION_LOST (24 R393): the session that was opened on it ends; what the connection brought and is not performed is gone. -/
def execConnectionLost (conn : Nat) (s : State) : Host.Outcome State Fault Refusal :=
  let s := { s with inbox := s.inbox.filter fun x => x.1 != conn }
  .next (if (tget? s.sessions conn).isSome then endSession s conn else s)

/-- REFUSED_DELIVERY_MODE (24 R388, R389) of a message whose header begins with the 8 bytes `hdr`: one response over ROD with status
0x02 and the message's tag, class and operation; a replay does not hold it back, since nothing of it was sent before (18 R339). -/
def execRefusedDeliveryMode (conn : Nat) (hdr : DWord) (s : State) : Host.Outcome State Fault Refusal :=
  if s.mgmt.powered && s.mgmt.ports.getLsbD (connPort conn) then
    let m : OutMsg := { conn := connHome conn, cls := hdr.extractLsb' 0 8 ||| 0x80, op := hdr.extractLsb' 8 7,
                        tag := hdr.extractLsb' 32 32, addr := 2, payload := [] }
    .next { s with outbox := s.outbox ++ [m], counts := { s.counts with refusedModes := s.counts.refusedModes + 1 } }
  else .next s

end Sys2Proof.Machine
end

