-- ==== Sys2Proof/Machine/Bringup.lean ====
section
/-! DEFINITION. Power, bring-up, the safe talkative state, alarms, throttling and error correction (04 R74-R85; 18 R338), the
management reset and the update of the image (04 R76, R78). -/

namespace Sys2Proof.Machine

def modMgmt (s : State) (f : Mgmt → Mgmt) : State := { s with mgmt := f s.mgmt }

/-! What is lost. -/

/-- What power loss or a management reset discards (04 R83): everything volatile. Module flash, the secure element, valid checkpoints and
what has left the device stay, and so does the loss of the wrapping key (R82). -/
def dropVolatile (s : State) : State :=
  let m := s.mgmt
  { s with w := World.init, clk := 0, phase6 := 0, counts := MgmtCounts.init, sessions := [], spaces := [], inbox := [], signals := [],
           rb := ReplayBlock.init, ckpts := s.ckpts.filter (fun c => c.valid), ckptAt := 0, ckptForced := false, ckptStop := false, dirty := [], interval := 0, log := [],
           logLost := false, logOff := 0, logData := [], replay := none, images := [], nextSerial := 0, trial := Trial.init, cur := none,
           rx := Msg.init, mgmt := { Mgmt.init with slots := m.slots, counter := m.counter, wrapLost := m.wrapLost } }

/-- Stop all work without saving it (04 R82): memory stays, and the control blocks of the dies. -/
def haltWork (s : State) : State :=
  { s with w := { World.init with mem := s.w.mem, window := s.w.window, nextId := s.w.nextId,
                                  dies := s.w.dies.map fun d => (d.1, { Die.init with mcb := d.2.mcb, sm := d.2.sm }) },
           images := [], signals := [], ckptStop := false, replay := none, cur := none,
           trial := { s.trial with en := false, stopReq := false, left := 0 } }

/-- The address of port 0 in the safe talkative state (04 R80, 24 R387): formed from the module's serial number, which is free (log 7). -/
def safeAddr : PortAddr := { v4 := none, v6 := Config.linkLocal, fabric := none }

/-- Enter the safe talkative state (04 R78, R80): only port 0 can be up, sessions of other ports are gone. -/
def enterSafe (s : State) (port0 : Bool) : State :=
  let s := modMgmt s fun m => { m with safe := true, ready := false, overCap := false, throttling := false,
                                       ports := if port0 then 1 else 0, addrs := [(0, safeAddr)] }
  { s with sessions := s.sessions.filter fun x => decide (connPort x.1 = 0), inbox := s.inbox.filter fun x => decide (connPort x.1 = 0) }

/-! Alarms (04 R82). -/

/-- The place of a source in the policy. -/
def alarmIndex (a : AlarmSource) : Nat := match a with
  | .tamper => 0
  | .secureElement => 1
  | .supply => 2
  | .clock => 3
  | .junction => 4
  | .auth => 5

/-- A source is asserted. The supply is watched once phase 0 has checked it (R74); the enclosure's latch is read in phase 2. -/
def alarmAsserted (s : State) (a : AlarmSource) : Bool := match a with
  | .tamper => s.env.tamper
  | .secureElement => s.env.seTamper
  | .supply => !s.env.supplyOk && (s.mgmt.safe || decide (s.mgmt.phase ≠ 0))
  | .clock => !s.env.clockOk
  | .junction => decide (110 < s.env.junction)
  | .auth => decide (8 ≤ s.mgmt.authFails)

/-- A checkpoint that is being written is abandoned (04 R82): its frames are written since the last checkpoint again, and the interval that it
closed goes on, with its records and its overflow (20 R358, R359, R364). -/
def abandonCkpt (s : State) : State :=
  match s.ckpts.find? fun c => !c.valid with
  | none => s
  | some c =>
    let recs := c.recs ++ s.log
    recs.foldl appendLog { s with ckpts := s.ckpts.filter (fun c => c.valid), dirty := c.frames ++ s.dirty, logLost := s.logLost || c.lost,
                                  log := [], rb := { s.rb with olWr := 0 } }

/-- The effects of a level, each level's as of the lower one and its own, then the report (a management event of kind 4, log 12), which a
replay makes too. A checkpoint that is being written is abandoned. An alarm before port 0 has trained brings it up as a failure of an early phase does
(log 93). -/
def alarmEffect (s : State) (level : Nat) (srcs : List AlarmSource) : State :=
  let now := srcs.filter fun a => a != .auth && alarmAsserted s a
  let s := modMgmt s fun m => { m with alarm := true, alarms := m.alarms ++ srcs, raised := m.raised ++ now }
  let s := abandonCkpt s
  let s := if 1 ≤ level then enterSafe (haltWork s) (!s.mgmt.safe || s.mgmt.ports.getLsbD 0) else s
  let s := if 2 ≤ level then { modMgmt s (fun m => { m with keysLoaded := false }) with sessions := [] } else s
  let s := if 3 ≤ level then { modMgmt s (fun m => { m with wrapLost := true }) with ckpts := [] } else s
  reportEvent s 4 level

/-- The highest level among sources; before an image is booted the policy is the table's (log 94). -/
def alarmLevel (s : State) (srcs : List AlarmSource) : Nat := srcs.foldl (fun n a => Nat.max n (s.mgmt.policy.getD (alarmIndex a) 0)) 0

/-- A source is asserted and its alarm has not been raised since. -/
def alarmDue (s : State) (a : AlarmSource) : Bool := alarmAsserted s a && !s.mgmt.raised.contains a

/-- SECURITY_ALARM: the sources among those named whose alarm is due; the count of failed authentications starts afresh. -/
def execSecurityAlarm (srcs : List AlarmSource) (s : State) : Host.Outcome State Fault Refusal :=
  let fired := srcs.filter (alarmDue s)
  if !s.mgmt.powered || fired.isEmpty then .next s
  else
    let s := alarmEffect s (alarmLevel s fired) fired
    .next (if fired.contains .auth then modMgmt s fun m => { m with authFails := 0 } else s)

/-- The surroundings change: a source that is asserted no longer can raise an alarm again. -/
def environment (s : State) (e : Env) : State :=
  let s := { s with env := e }
  modMgmt s fun m => { m with raised := m.raised.filter (alarmAsserted s) }

/-! Bring-up (04 R74). -/

/-- A phase fails: the cause and the dies at fault are recorded. -/
def phaseFails (s : State) (cause die : Nat) : State :=
  let s := modMgmt s fun m => { m with cause := BitVec.ofNat 5 cause, die := BitVec.ofNat 8 die,
                                       statusOnly := m.statusOnly || decide (cause = 3) || decide (cause = 4) }
  enterSafe s (decide (s.mgmt.phase ≠ 5))

/-- The image slot that boots (04 R75): the valid one with the higher version, slot 0 on a tie. -/
def bootSlot (m : Mgmt) : Option Nat :=
  let ok (n : Nat) : Bool := match m.slots[n]? with
    | some x => x.signed && decide (m.counter ≤ x.version)
    | none => false
  let v (n : Nat) : Nat := (m.slots.getD n FlashSlot.empty).version
  match ok 0, ok 1 with
  | true, true => if v 0 < v 1 then some 1 else some 0
  | true, false => some 0
  | false, true => some 1
  | false, false => none

/-- What the booted image fixes: the first image's values are the tables' (log 5), a committed image's are free (log 5), and so are the
addresses of the ports (24 R387) in every image. -/
def applyImage (s : State) (slot : Nat) : State :=
  let b := (s.mgmt.slots.getD slot FlashSlot.empty).bytes
  let addr (i : Nat) : Nat × PortAddr :=
    (i, { v4 := some (Config.imageV4 b i), v6 := Config.imageV6 b i, fabric := some (Config.imageFabric b i) })
  let s := modMgmt s fun m => { m with slot := slot, addrs := (List.range 8).map addr }
  if b.isEmpty then s
  else
    let s := modMgmt s fun m => { m with policy := (List.range 6).map (fun i => Config.imagePolicy b i % 4),
                                         capMw := Nat.min 3200000 (Config.imageCap b) }
    { s with rb := { s.rb with t := Nat.min 1000 (Config.imageInterval b), tier := Config.imageTier b } }

/-- The physical cores of a die that pass (04 R81). -/
def passing (s : State) (die : Nat) : List Nat :=
  (List.range Config.physicalCores).filter fun c => !s.env.coreFail.contains (die, c)

/-- Spares a die uses: its logical cores on physical cores beyond the 72nd. -/
def sparesOf (cores : List Nat) : Nat := (cores.filter fun c => decide (Config.coresPerDie ≤ c)).length

/-- Core self-test and spare mapping (04 R81). -/
def mapCores (s : State) : State :=
  let maps := (List.range Config.dies).map fun d => (passing s d).take Config.coresPerDie
  let short := ((List.range Config.dies).filter fun d => decide ((maps.getD d []).length < Config.coresPerDie)).foldl (fun n d => n + 2 ^ d) 0
  if short ≠ 0 then phaseFails s 6 short
  else modMgmt s fun m => { m with phase := 5, coreMap := maps, spares := (maps.map sparesOf).sum }

/-- Phase 6 (04 R74, R75): launches are accepted, the secure element's counter rises to the booted version, a missing port is reported
(event kind 5, log 12), and the first checkpoint comes due, which copies every frame (20 R358, R359, log 70). -/
def reachReady (s : State) : State :=
  let s := modMgmt s fun m => { m with phase := 6, ports := s.env.ports, ready := true,
                                       counter := Nat.max m.counter (m.slots.getD m.slot FlashSlot.empty).version }
  let s := { s with phase6 := s.clk, ckptAt := s.clk + s.rb.t * Config.clkPerMs, dirty := allFrames }
  if s.env.ports = 0xFF then s else raiseEvent s 5 s.env.ports.toNat

/-- BRINGUP_PHASE_COMPLETE (04 R74): the action of the phase entered last ends. A secure element that has destroyed its wrapping key has
none to release, which is its failure (log 95). -/
def execBringupPhaseComplete (s : State) : Host.Outcome State Fault Refusal :=
  let m := s.mgmt
  let go (s : State) : State := modMgmt s fun m => { m with phase := m.phase + 1 }
  if !m.powered || m.safe then .next s
  else
    match m.phase with
    | 0 => .next (if s.env.supplyOk then go s else phaseFails s 1 0)
    | 1 => match bootSlot m with
      | none => .next (phaseFails s 2 0)
      | some n => .next (go (applyImage s n))
    | 2 =>
      if !s.env.seOk || m.wrapLost then .next (phaseFails s 3 0)
      else if s.env.tamper || s.env.tamperLatch then .next (phaseFails (alarmEffect s (alarmLevel s [.tamper]) [.tamper]) 4 0)
      else .next (go (modMgmt s fun m => { m with keysLoaded := true }))
    | 3 => .next (if s.env.memFail = 0 then go s else phaseFails s 5 s.env.memFail.toNat)
    | 4 => .next (mapCores s)
    | 5 => .next (if s.env.ports.getLsbD 0 then reachReady s else phaseFails s 7 0)
    | _ => .next s

/-- POWER_GOOD (04 R74). -/
def execPowerGood (s : State) : Host.Outcome State Fault Refusal :=
  .next (if s.mgmt.powered then s else dropVolatile s)

/-- POWER_LOSS (04 R83). -/
def execPowerLoss (s : State) : Host.Outcome State Fault Refusal :=
  .next (if s.mgmt.powered then modMgmt (dropVolatile s) fun m => { m with powered := false } else s)

/-- PORT0_RETRAIN (04 R80): after a failure in phase 5 the controller trains port 0 from its own settings. -/
def execPort0Retrain (s : State) : Host.Outcome State Fault Refusal :=
  let m := s.mgmt
  .next (if m.powered && m.safe && decide (m.cause = 7) && s.env.ports.getLsbD 0 then modMgmt s fun m => { m with ports := 1 } else s)

/-- The power has exceeded the cap and has not fallen below it since (04 R84). -/
def overCap (s : State) : Bool :=
  decide (s.mgmt.capMw < s.env.powerMw) || (s.mgmt.overCap && decide (s.mgmt.capMw ≤ s.env.powerMw))

/-- POWER_THROTTLE_STEP (04 R84, R85): in each step, slots are withheld until the power has fallen below the cap, and while the junction is
above its limit. -/
def execPowerThrottleStep (s : State) : Host.Outcome State Fault Refusal :=
  .next (if s.mgmt.powered && s.mgmt.ready then
      modMgmt s fun m => { m with overCap := overCap s, throttling := overCap s || decide (95 < s.env.junction) }
    else s)

/-- ECC_CORRECTION (18 R338). -/
def execEccCorrection (s : State) : Host.Outcome State Fault Refusal :=
  .next (if s.mgmt.powered then { s with counts := { s.counts with ecc := s.counts.ecc + 1 } } else s)

/-! Messages. -/

/-- MANAGEMENT_RESET (04 R78): the response, then bring-up from phase 0; the record of alarms since power-up stays. -/
def execManagementReset (s : State) : Host.Outcome State Fault Refusal :=
  gate s true true fun s =>
    let m := s.mgmt
    modMgmt (dropVolatile (respond s 0 0 [])) fun x => { x with alarm := m.alarm, alarms := m.alarms }

/-- The slot that an update writes: the one that the device did not boot; slot 1 where it booted none (log 96). -/
def targetSlot (m : Mgmt) : Nat := 1 - m.slot

def modSlot (m : Mgmt) (n : Nat) (x : FlashSlot) : Mgmt := { m with slots := m.slots.set n x }

/-- Bytes written into a slot at an offset; a gap reads as erased flash (log 71). -/
def flashPut (old : List Byte) (off : Nat) (new : List Byte) : List Byte :=
  putBytes (old ++ List.replicate (off - old.length) 0xFF) off new

/-- IMAGE_WRITE (04 R76): the first write after a commit or a reset erases the target slot; a write of no bytes is malformed (log 97). -/
def execImageWrite (s : State) : Host.Outcome State Fault Refusal :=
  let off := s.rx.addr.toNat
  gate s true (!s.rx.payload.isEmpty && decide (off + s.rx.payload.length ≤ 67108864)) fun s =>
    let m := s.mgmt
    let n := targetSlot m
    let old := if m.erased then (m.slots.getD n FlashSlot.empty).bytes else []
    let m := modSlot m n { bytes := flashPut old off s.rx.payload, signed := false, version := 0 }
    respond { s with mgmt := { m with erased := true } } 0 0 []

/-- IMAGE_COMMIT (04 R76): the signature, then the version; a failure erases the slot and says which check failed. -/
def execImageCommit (s : State) : Host.Outcome State Fault Refusal :=
  gate s true true fun s =>
    let m := s.mgmt
    let n := targetSlot m
    let b := (m.slots.getD n FlashSlot.empty).bytes
    let v := Config.imageVersion b
    let fail (c : Nat) : State := respond { s with mgmt := { modSlot m n FlashSlot.empty with erased := false } } 3 c []
    if b.isEmpty || !Config.imageSigned b then fail 1
    else if v < m.counter ∨ v ≤ (m.slots.getD m.slot FlashSlot.empty).version then fail 2
    else respond { s with mgmt := { modSlot m n { bytes := b, signed := true, version := v } with erased := false } } 0 0 []

end Sys2Proof.Machine
end

