-- ==== Sys2Proof/Machine/MemEvents.lean ====
section
/-! DEFINITION. Events of memory and of observation: walks and frames (08 R178, R182), accesses at their homes and at the window
(08 R190, R191), hotness and stall samples (08 R194, R195; 22 R373-R375), trial windows (22 R377) and signals (09 R209). -/

namespace Sys2Proof.Machine

/-! Walks and frames. -/

/-- A core holds a core group of a launch whose address space it is. -/
def spaceOnCore (s : State) (core space : Nat) : Bool :=
  s.w.cgs.any fun e => decide (e.2.core = core) && !e.2.ended && decide ((s.launch e.2.lid).space = space)

/-- TRANSLATION_WALK_COMPLETE (08 R178, R179): a walk that runs before the access that needs it fills the TLBs and sets `pte.a`; one that
an access makes is part of that access (log 24). -/
def execTranslationWalkComplete (core space va : Nat) (need : Need) (s : State) : Host.Outcome State Fault Refusal :=
  let inWindow := decide (Config.windowBase ≤ va) && decide (va < Config.windowBase + Config.windowSize)
  .next (if spaceOnCore s core space && decide (va < 2 ^ 56) && !inWindow && tlbMiss s core space va then (walkFill s core space va need).1
         else s)

/-- A filled page lets the accesses that wait for it go on their way (08 R182). -/
def settleFrames (s : State) (space va : Nat) : State :=
  (s.w.accs.filter fun a => decide (a.stage = .frame) && decide (a.space = space) && decide (a.va / 0x10000 = va / 0x10000)).foldl
    (fun s a => match translate s a.core a.space a.va a.kind.need with
      | (s, .dram pa nc) => { s with w := { s.w with accs := s.w.accs.map fun b =>
          if b.id = a.id then { b with stage := .home, pa := pa, nc := nc } else b } }
      | (s, _) => s) s

/-- An access waits for a frame at an address. -/
def awaitsFrame (s : State) (core space va : Nat) : Bool :=
  s.w.accs.any fun a => decide (a.stage = .frame) && decide (a.core = core) && decide (a.space = space)
    && decide (a.va / 0x10000 = va / 0x10000)

/-- DEMAND_ZERO_FILL (08 R182): the leaf that an access waits for gets a frame, or the access goes on waiting. -/
def execDemandZeroFill (core space va : Nat) (s : State) : Host.Outcome State Fault Refusal :=
  .next (if awaitsFrame s core space va then settleFrames (demandFill s core space va).1 space va else s)

/-! Accesses. -/

/-- An access at a stage that may be performed now, apart from the keyed ones of a DSM launch. -/
def accNow (s : State) (id : Nat) (st : Stage) : Option Acc :=
  s.w.accs.find? fun a => decide (a.id = id) && decide (a.stage = st) && a.key.isNone && mayPerform s a

/-- The die whose remote write queue has this write at its head (08 R188). -/
def queueHead (s : State) (id : Nat) : Option Nat := (s.w.dies.find? fun d => decide (d.2.wq.head?.map QWrite.id = some id)).map (·.1)

/-- HOME_ACCESS_PERFORM (08 R190): an access at its home, or the oldest write of a remote write queue (R188). -/
def execHomeAccessPerform (id : Nat) (s : State) : Host.Outcome State Fault Refusal :=
  match accNow s id .home, queueHead s id with
  | some a, _ => .next (performAcc s a).1
  | none, some die => .next (performQueued s die)
  | none, none => .next s

/-- WINDOW_ACCESS (08 R191). -/
def execWindowAccess (id : Nat) (s : State) : Host.Outcome State Fault Refusal :=
  match accNow s id .window with
  | some a => .next (performAcc s a).1
  | none => .next s

/-! Sample rings (08 R195). -/

/-- Where record `wr` of a ring of 2^lsize bytes goes; none if the ring is full. -/
def ringSlot (base lsize : Nat) (wr rd : Word) : Option Nat :=
  let cap := 2 ^ lsize / 16
  if (wr - rd).toNat = cap then none else some (base + 16 * (wr.toNat % cap))

/-- The device's clk count in a record. -/
def sampleTime (s : State) : Nat := s.clk / 64 % 2 ^ 24

/-- A hotness record (08 R194). -/
def hotRecord (s : State) (core : Nat) (x : Nat × Nat × Nat × Bool) : Nat :=
  x.1 / 128 * 2 ^ 79 + core * 2 ^ 69 + x.2.1 * 2 ^ 65 + bnat x.2.2.2 * 2 ^ 64 + x.2.2.1 % 65536 * 2 ^ 48 + sampleTime s

/-- HOTNESS_SAMPLE (08 R194, R195): the oldest sample that a core owes. -/
def execHotnessSample (core : Nat) (s : State) : Host.Outcome State Fault Refusal :=
  match (s.core core).hsDue with
  | [] => .next s
  | x :: rest =>
    let die := dieOfCore core
    let m := (s.die die).mcb
    let s := modCore s core fun c => { c with hsDue := rest }
    match ringSlot m.hsBase m.hsLsize m.hsWr m.hsRd with
    | none => .next (modDie s die fun d => { d with mcb := { d.mcb with hsLost := satInc d.mcb.hsLost } })
    | some a =>
      let s := homeWrite s none a (bytesOfNat 16 (hotRecord s core x))
      .next (modDie s die fun d => { d with mcb := { d.mcb with hsWr := d.mcb.hsWr + 1 } })

/-! Stall-reason samples (22 R373-R375). -/

/-- The number under which a partition's last sample is kept: under DSM that of its core group's partition, wherever it stands (18 R332). -/
def sampleKey (s : State) (part : Nat) : Nat :=
  match dsmOfCore s (coreOfPart part) with
  | some cg => slotKey cg (part % 6)
  | none => part

/-- A partition's count of clk, or of its core group's slots, since `sm.en` was set. -/
def sampleCount (s : State) (part : Nat) : Nat :=
  let m := (s.die (dieOfCore (coreOfPart part))).sm
  match dsmOfCore s (coreOfPart part) with
  | some cg => (s.cg cg).dsm.slot - tget m.slots cg 0
  | none => m.clk

/-- The code of a word that a unit holds (22 R374): CFLUSH, CINV and HWSIG are held as a fence is (09 R206), ASQ for a traversal, the others
for an engine or a queue. -/
def unitReason (i : Option Instr) : Nat :=
  match i with
  | some (.cflush _) | some (.cinv ..) | some (.hwsig ..) => 6
  | some (.asq _) => 8
  | _ => 7

/-- What a group's next word waits for, other than its operands (22 R374): a fence, or a unit. -/
def waitReasons (s : State) (ix : Issue) (i : Instr) (c : Ctl) : List Nat :=
  let ts := activeOf s ix c
  (if fenceWaits s ix i ts then [6] else []) ++ (if unitWaits s ix i ts then [unitReason (some i)] else [])

/-- The reason of a word that is tried again (log 62): an earlier access of its threads is a fence's hold, a page without a frame or a unit
without room that of its unit, a full log or clock that of a checkpoint. -/
def againReason (i : Option Instr) (a : Again) : List Nat := match a with
  | .no => []
  | .order => [6]
  | .frame _ | .unit => [unitReason i]
  | .log => [11]

/-- The reasons that hold an active group (22 R374). -/
def groupReasons (s : State) (part pos : Nat) (g : Group) : List Nat :=
  let p := s.part part
  let dsm := (s.lrOfPg g.pg).dsm
  let some (b : Bool) (n : Nat) : List Nat := if b then [n] else []
  let word := match issueAt s part pos, nextWord g with
    | .some ix, .some i =>
      some (unitBusy s part dsm i) 3 ++ (match i.ctl? with
        | .some c => some (flagsFull s ix c) 9 ++ waitReasons s ix i c
            ++ some (wordWaits s ix i c && s.w.accs.any fun a => decide (a.pg = g.pg) && frameHeld s a
              && a.lanes.any fun l => g.tids.contains l.tid) 11
        | none => [])
    | _, _ => []
  some (decide (g.trial < g.stall) && decide (g.again = .no)) 1 ++ againReason (nextWord g) g.again
    ++ some (decide (0 < g.spacing) || groupHazard s g) 2 ++ some (yieldHeld s part g) 4 ++ some (awaitsClause g) 5 ++ word
    ++ some (decide (g.hold = .own) || decide (g.hold = .locks) || decide (g.hold = .result) || decide (g.hold = .ladle)) 7
    ++ some (decide (g.hold = .gang) || decide (g.hold = .joint) || decide (g.hold = .joined)) 10 ++ some (decide (0 < g.stall) && decide (g.stall ≤ g.trial)) 12
    ++ some s.ckptStop 11 ++ some (p.stopped || !pgRuns s g.pg || dsm) 13

/-- A thread waits on a completion flag of a TRACE that reads an odd node again (13 R287). -/
def awaitsTrav (s : State) (t : ThreadRef) (f : Nat → Bool) : Bool :=
  s.w.travs.any fun v => decide (v.th = t) && s.w.pends.any fun p => decide (p.id = v.pend) && p.cflags.any f

/-- The reason of a filed thread's wait condition. -/
def binReason (s : State) (r : ThreadRef) : Nat :=
  let t := s.thread r
  if t.ready then 14
  else match t.wait with
    | .flags m => if awaitsTrav s r fun i => m.getLsbD i then 8 else 9
    | .region => if awaitsTrav s r fun _ => true then 8 else 9
    | .barrier _ _ | .join => 10
    | .yield _ => 4
    | .ready => 14

/-- A sample's subject: address, reason, threads, launch. -/
structure Subject where
  pc : Nat
  why : Nat
  n : Nat
  lid : Nat
deriving DecidableEq, Repr

/-- The subject among the bins, the overflow path last. -/
def binSubject (s : State) (part : Nat) : Subject :=
  let filed (pl : Place → Bool) : List ThreadRef :=
    (pgsOn s part).flatMap fun e => (tidsWhere e.2 fun t => pl t.place).map fun i => ({ pg := e.1, tid := i } : ThreadRef)
  let bins := ((List.range (Config.bins + 1)).map fun n =>
    if n = Config.bins then filed (fun pl => decide (pl = .overflow)) else filed (fun pl => decide (pl = .bin n))).filter fun l => !l.isEmpty
  match bins with
  | [] => { pc := 0, why := 15, n := 0, lid := 0 }
  | l :: _ =>
    match minBy? (fun t : ThreadRef => t.tid) l with
    | none => { pc := 0, why := 15, n := 0, lid := 0 }
    | some t => { pc := (s.thread t).pc, why := binReason s t, n := Nat.min l.length 63, lid := (s.pg t.pg).lid }

/-- The subject of a partition's sample (22 R374). A group drawn in this clk counts as the bin it was drawn from; a sample of an issue
names the issued word (log 62). -/
def sampleSubject (s : State) (part : Nat) : Subject :=
  let p := s.part part
  match (if p.issued then p.lastIssue else none) with
  | some (pc, n, lid) => { pc := pc, why := 0, n := n, lid := lid }
  | none =>
    match minBy? (fun e : Nat × Group => e.2.last) (p.groups.filter fun e => decide (e.2.held ≠ 0)) with
    | some (pos, g) =>
      let why := (minBy? id (groupReasons s part pos g)).getD 13
      { pc := if atHeaderNow g then g.hdr else g.pc, why := why, n := g.tids.length, lid := (s.pg g.pg).lid }
    | none =>
      match p.groups with
      | (_, g) :: _ => { pc := g.hdr, why := 14, n := g.tids.length, lid := (s.pg g.pg).lid }
      | [] => binSubject s part

/-- A partition's sample is due in this clk or slot, and what it shows is settled: it has issued, or has nothing to draw or issue. -/
def sampleNow (s : State) (part : Nat) : Bool :=
  let m := (s.die (dieOfCore (coreOfPart part))).sm
  let n := sampleCount s part
  m.en && decide (n ≠ 0) && decide (n % 2 ^ m.k = 0) && decide (tget m.sampled (sampleKey s part) 0 ≠ n) && decide (part < Config.cores * 6)
    && (match dsmOfCore s (coreOfPart part) with
        | some cg => slotReady s cg
        | none => (s.part part).issued || ((nextIssuer s part).isNone && !drawNow s part))

/-- STALL_SAMPLE (22 R373-R375). -/
def execStallSample (part : Nat) (s : State) : Host.Outcome State Fault Refusal :=
  if sampleNow s part then
    let die := dieOfCore (coreOfPart part)
    let m := (s.die die).sm
    let x := sampleSubject s part
    let v := x.pc * 2 ^ 72 + x.why * 2 ^ 68 + coreOfPart part * 2 ^ 58 + part % 6 * 2 ^ 55 + x.n * 2 ^ 49 + x.lid * 2 ^ 33 + sampleTime s
    let took := { s with w := { s.w with dies := s.w.dies.map fun d =>
      (d.1, { d.2 with sm := { d.2.sm with sampled := tput d.2.sm.sampled (sampleKey s part) (sampleCount s part) } }) } }
    match ringSlot m.base m.lsize m.wr m.rd with
    | none => .next (modDie took die fun d => { d with sm := { d.sm with lost := satInc d.sm.lost } })
    | some a =>
      .next (modDie (homeWrite took none a (bytesOfNat 16 v)) die fun d => { d with sm := { d.sm with wr := d.sm.wr + 1 } })
  else .next s

/-! Trials and signals. -/

/-- TRIAL_WINDOW_END (22 R376, R377): the window's report replaces the earlier one of its kind, and the next window starts. -/
def execTrialWindowEnd (s : State) : Host.Outcome State Fault Refusal :=
  let t := s.trial
  if t.en && decide (t.left = 0) then
    let u : Trial := if t.inTrial then { t with trial := t.counters } else { t with base := t.counters }
    let u := { u with nwin := u.nwin + 1 }
    .next { s with trial := if t.stopReq then { u with en := false, stopReq := false, inTrial := false } else trialWindow u (!t.inTrial) }
  else .next s

/-- The connection a signal goes to (09 R209): that of the submitter's session, else of the lowest-numbered open one bound to the
space. -/
def signalConn (s : State) (m : Signal) : Option Nat :=
  match s.sessions.find? fun e => decide (e.2.serial = m.sess) with
  | some e => some e.1
  | none => (minBy? (fun e : Nat × Session => e.2.number) (s.sessions.filter fun e => decide (e.2.space = some m.space))).map (·.1)

/-- The message of a signal on a connection (24 R390): class 0x06, the launch and window offset in the address, the value as 8 bytes. -/
def signalMsg (conn : Nat) (m : Signal) : OutMsg :=
  { conn := conn, cls := 0x06, op := 0, tag := 0, addr := BitVec.ofNat 64 (m.lid * 2 ^ 48 + m.off), payload := bytesOfNat 8 m.val.toNat }

/-- SIGNAL_SEND (09 R209): the oldest queued signal; one that no session is there to take is dropped and counted. -/
def execSignalSend (s : State) : Host.Outcome State Fault Refusal :=
  match s.signals with
  | [] => .next s
  | m :: rest =>
    let s := { s with signals := rest }
    .next (match signalConn s m with
      | some c => { s with outbox := s.outbox ++ [signalMsg c m] }
      | none => { s with counts := { s.counts with droppedSignals := s.counts.droppedSignals + 1 } })

end Sys2Proof.Machine
end

