-- ==== Sys2Proof/Machine/Rollback.lean ====
section
/-! DEFINITION. Checkpoints, rollback and replay (18 R338, R339; 20 R358-R361). -/

namespace Sys2Proof.Machine

/-! Checkpoints. -/

/-- The last valid checkpoint. -/
def lastValid (s : State) : Option Ckpt := maxBy? (fun c : Ckpt => c.num) (s.ckpts.filter fun c => c.valid)

/-- Logical clocks are zero at each checkpoint (20 R363). -/
def clearClocks (s : State) : State :=
  let th (t : Thread) : Thread := { t with clock := 0, ords := 0 }
  { s with sessions := s.sessions.map fun x => (x.1, { x.2 with clock := 0, ords := 0 }),
           w := { s.w with lineClocks := [], pgs := s.w.pgs.map fun g => (g.1, { g.2 with threads := g.2.threads.map th }) } }

/-- A checkpoint is due: its time has come, or a full log or clock asks for one (20 R358, R363, R364); none is being written. -/
def checkpointDue (s : State) : Bool :=
  s.mgmt.ready && s.replay.isNone && s.ckpts.all (fun c => c.valid)
    && (s.ckptForced || (decide (s.rb.t ≠ 0) && decide (s.ckptAt ≤ s.clk)))

/-- The engines of the launches that only a checkpoint has stopped. -/
def ckptEngines (s : State) (on : Bool) : State := freezeEngines s (fun l => stoppable s l) on

/-- A checkpoint begins: every live launch is stopped (20 R358). -/
def stopAll (s : State) : State :=
  let s := ckptEngines s true
  { s with ckptStop := true, ckptAt := s.clk + s.rb.t * Config.clkPerMs }

/-- Every launch on the device has reached its stop units. -/
def allStopped (s : State) : Bool := s.w.launches.all fun l => decide (l.2.run = .saved) || stopSettled s l.1

/-- The launches go on after a checkpoint. -/
def resumeAll (s : State) : State :=
  let s := ckptEngines { s with ckptStop := false } false
  (dedup ((s.w.cgs.filter fun e => !e.2.ended).map fun e => e.2.core)).foldl thawed s

/-- The launches being stopped, their contexts are captured with the records of the interval's log, the frames written since the last
checkpoint are pending, and the launches go on (20 R358, R364). An abandoned unit has shown nothing, so in place it goes on where it stood.
The account of what is done (log 44) marks the place. -/
def captureCkpt (s : State) : State :=
  let old := lastValid s
  let s := clearClocks (resumeAll s)
  let num := (s.ckpts.foldl (fun n c => Nat.max n c.num) s.rb.num.toNat) + 1
  let acts := if s.ckpts.isEmpty then s.logData else .event .checkpointStart :: s.logData
  let c : Ckpt := { num := num, world := s.w, images := s.images, spaces := s.spaces, clk := s.clk, fresh := s.fresh,
                    mark := acts.length, lost := s.logLost, recs := s.log, frames := s.dirty, pending := s.dirty, valid := false }
  { s with ckpts := (old.map fun o => [o]).getD [] ++ [c], ckptForced := false, dirty := [], logData := acts,
           interval := s.interval + 1, log := [], logLost := false, logOff := 0, rb := { s.rb with olWr := 0 } }

/-- CHECKPOINT_START (20 R358): a due checkpoint stops the launches; once they have stopped it is taken. In a replay (18 R339) it stands for
a checkpoint that began there and never became valid: the logical clocks begin again (20 R363). -/
def execCheckpointStart (s : State) : Host.Outcome State Fault Refusal :=
  .next (if s.replay.isSome then clearClocks s
    else if s.ckptStop then (if allStopped s then captureCkpt s else s) else if checkpointDue s then stopAll s else s)

/-- PENDING_FRAME_COPIED (20 R358): writes to the frame go on. -/
def execPendingFrameCopied (frame : Nat) (s : State) : Host.Outcome State Fault Refusal :=
  .next { s with ckpts := s.ckpts.map fun c => if c.valid then c else { c with pending := cutFrame c.pending frame } }

/-- CHECKPOINT_VALID (20 R358, R360): every frame is copied and the commit record acknowledged; a checkpoint that came due meanwhile is
late. -/
def execCheckpointValid (s : State) : Host.Outcome State Fault Refusal :=
  match s.ckpts.find? fun c => !c.valid with
  | none => .next s
  | some c =>
    if !c.pending.isEmpty then .next s
    else
      let late := decide (s.rb.t ≠ 0) && decide (s.ckptAt ≤ s.clk)
      .next { s with ckpts := s.ckpts.map fun x => if x.num = c.num then { x with valid := true, mark := 0, lost := false } else x,
                     logData := s.logData.take (s.logData.length - c.mark),
                     rb := { s.rb with num := BitVec.ofNat 64 c.num, late := if late then satInc s.rb.late else s.rb.late } }

/-! Rollback (18 R338). -/

/-- A launch that is not replayed ends: `st.out` 1 and `st.cause` ROLLBACK in its status word (18 R339). -/
def endUnreplayed (s : State) (l : Launch) : State :=
  if l.lr.status = 0 then s
  else (unitWriteWhole s (l.dies.getD 0 0) l.space l.lr.status (bytesOfNat 8 (statusWord { l with out := 1, cause := 0x14 }))).1

/-- The launch at the end of a launch's chain of parents that the device knows. -/
def rootOf (fuel : Nat) (ls : Tab Launch) (l : Launch) : Launch :=
  match fuel with
  | 0 => l
  | k + 1 => match l.parent with
    | none => l
    | some _ => match ls.find? fun x => x.2.serial = l.parentSerial with
      | none => l
      | some p => rootOf k ls p.2

/-- Whether a launch of a table runs under another's serial number. -/
def hasSerial (ls : Tab Launch) (n : Nat) : Bool := ls.any fun x => x.2.serial = n

/-- Take the work of a launch that is not replayed out of the restored world. -/
def removeUnreplayed (s : State) (lid : Nat) : State :=
  let l := s.launch lid
  removeLaunch (answerAsk (tellJob (clearLaunch (endUnreplayed s l) lid) lid 1) lid 7 0) lid

/-- What the log lets a replay do again: what the device did, and the messages that act on what a checkpoint holds. Launches, sessions,
address spaces, images and checkpoint control are not part of it (log 44). -/
def replayable (a : Action) : Bool :=
  match a with
  | .message conn bs =>
    match (decodeMessage conn bs).2.cls.toNat with
    | 0x01 | 0x08 | 0x0C => false
    | 0x09 => decide ((decodeMessage conn bs).2.op = 1)
    | _ => true
  | .event i =>
    match i with
    | .checkpointValid | .pendingFrameCopied _ | .uncorrectableError | .replayComplete | .powerGood | .powerLoss
    | .bringupPhaseComplete | .port0Retrain | .securityAlarm _ | .connectionLost _ | .refusedDeliveryMode .. | .eccCorrection
    | .powerThrottleStep | .signalSend => false
    | _ => true
  | .environment _ => false
  | .issue _ | .tick => true

/-- After a rollback no engine has a last owner (11 R242, R243). -/
def freshEngines (w : World) : World :=
  { w with cores := w.cores.map fun x => (x.1, { x.2 with eng := { x.2.eng with last := none, lastEnded := false } }) }

/-- UNCORRECTABLE_ERROR (18 R338, R339): memory and contexts are those of the last valid checkpoint, and what happened since is to be
replayed. Launches accepted since, and after an overflow of the log all but DSM launches, end with ROLLBACK. Without a valid checkpoint
every launch ends so (log 44). A management event (kind 3, log 12) reports the rollback. -/
def execUncorrectableError (s : State) : Host.Outcome State Fault Refusal :=
  if !s.mgmt.ready then .next s
  else
    let done := s.logData.reverse ++ ((s.replay.map fun r => r.left).getD [])
    let recs := (s.ckpts.filter fun x => !x.valid).flatMap (fun x => x.recs) ++ s.log ++ ((s.replay.map fun r => r.recs).getD [])
    let s := { s with replay := none, ckptStop := false }
    let live := s.w.launches
    match lastValid s with
    | none =>
      let s := live.foldl (fun s l => endUnreplayed s l.2) s
      .next { raiseEvent (haltWork s) 3 0 with ckpts := [], logData := [], dirty := allFrames }
    | some c =>
      let lost := s.logLost || s.ckpts.any fun x => !x.valid && x.lost
      let claims := s.w.claims
      let since := (s.ckpts.filter fun x => !x.valid).flatMap (fun x => x.frames) ++ s.dirty
      let s := clearClocks { s with w := freshEngines { c.world with claims := claims }, images := c.images, clk := c.clk, fresh := c.fresh,
                                    ckpts := s.ckpts.filter (fun x => x.valid), log := [], logLost := false, logOff := 0, logData := [],
                                    ckptForced := false, ckptAt := c.clk + s.rb.t * Config.clkPerMs, dirty := since, cur := none,
                                    rb := { s.rb with olWr := 0 } }
      let held := s.w.launches
      let s := (live.filter fun l => !hasSerial held l.2.serial && !hasSerial held (rootOf 64 live l.2).serial).foldl
        (fun s l => endUnreplayed s l.2) s
      let s := if lost then (held.filter fun l => !l.2.lr.dsm).foldl (fun s l => removeUnreplayed s l.1) s else s
      .next { raiseEvent s 3 0 with replay := some { left := done.filter replayable, recs := recs } }

/-- REPLAY_COMPLETE (18 R339): the error point is reached. -/
def execReplayComplete (s : State) : Host.Outcome State Fault Refusal :=
  match s.replay with
  | none => .next s
  | some r => .next (if r.left.isEmpty then { s with replay := none } else s)

/-! CHECKPOINT_RESTORE (20 R361). -/

/-- The checkpoint that the message names. -/
def namedCkpt (s : State) : Option Ckpt :=
  if s.rx.addr.toNat = 2 ^ 64 - 1 then lastValid s else s.ckpts.find? fun c => c.valid && decide (c.num = s.rx.addr.toNat)

/-- The writes that the dies have still to perform are performed, so that no accepted store is lost (18 R331, R333). -/
def performAllQueued (w : World) : World :=
  w.dies.foldl (fun w d => d.2.wq.foldl (fun w q => { w with mem := q.parts.foldl (fun m p => memWriteN m p.1 p.2) w.mem }) w)
    { w with dies := w.dies.map fun d => (d.1, { d.2 with wq := [] }) }

/-- The context image of a resident launch as a save makes it (18 R332, R333), with the launch off the device. -/
def packLaunch (s : State) (lid : Nat) : State :=
  let s := settleStop s lid
  let w := imageWorld s lid
  let s := modLaunch (clearLaunch s lid) lid fun l => { l with run := .saved, ask := [] }
  { s with images := s.images.filter (fun i => i.lid != lid) ++
      [{ va := 0, space := (s.launch lid).space, lid := lid, world := w, notice := false }] }

/-- Bring a launch of a checkpoint back as a restore message does (18 R334); one that finds no room stays saved. -/
def unpackLaunch (s : State) (lid : Nat) : State :=
  match s.images.find? fun i => i.lid = lid with
  | none => s
  | some img => match restoreLaunch s img with
    | .ok t => t
    | .error _ => s

/-- The device that a checkpoint's memory, window, launch records and tables of counters come back to after power loss (20 R361): nothing
else of it is on the device yet. -/
def emptyDevice (s : State) (w : World) : State :=
  let counters (d : Nat) : Tab Counter := (tget w.dies d Die.init).counters
  let dies := w.dies.foldl (fun t d => tupd t d.1 Die.init fun x => { x with counters := counters d.1 }) s.w.dies
  { s with w := { World.init with mem := w.mem, window := w.window, launches := w.launches, jobs := w.jobs, nextId := w.nextId, dies := dies } }

/-- Restore a checkpoint after power loss (20 R361): every launch that it held on the device comes back as a restore message brings it
back; one that was saved then stays so. The time of the launches goes on from the checkpoint's (log 74). -/
def restoreCkpt (s : State) (c : Ckpt) : State :=
  let lids := (c.world.launches.filter fun l => decide (l.2.run ≠ .saved)).map (·.1)
  let packed := lids.foldl packLaunch { s with w := performAllQueued { c.world with claims := [] }, images := c.images, fresh := Nat.max s.fresh c.fresh }
  let s := emptyDevice { packed with w := s.w } packed.w
  let s := { s with spaces := c.spaces.foldl (fun t e => if (tget? t e.1).isSome then t else tput t e.1 e.2) s.spaces,
                    clk := c.clk + (s.clk - s.phase6), phase6 := c.clk, ckptAt := c.clk + (s.clk - s.phase6) + s.rb.t * Config.clkPerMs,
                    nextSerial := s.w.launches.foldl (fun n l => Nat.max n (l.2.serial + 1)) 0, logData := [], dirty := allFrames,
                    rb := { s.rb with num := BitVec.ofNat 64 c.num } }
  lids.foldl unpackLaunch s

/-- CHECKPOINT_RESTORE: in phase 6, before any launch has been accepted. -/
def execCheckpointRestore (s : State) : Host.Outcome State Fault Refusal :=
  gate s true true fun s =>
    if !s.mgmt.ready || decide (s.nextSerial ≠ 0) then respond s 3 0 []
    else
      match namedCkpt s with
      | none => respond s 3 0 []
      | some c => respond (restoreCkpt s c) 0 0 []

end Sys2Proof.Machine
end

