-- ==== Sys2Proof/Machine/Agenda.lean ====
section
/-! DEFINITION. The events that may be due, in the order in which a step without a choice of its own looks at them (log 2), and the
state that stands ready to issue a given word. -/

namespace Sys2Proof.Machine

/-- The rows that are events of the device itself: neither words nor messages. -/
def isEvent (i : Instr) : Bool :=
  match i with
  | .securityAlarm _ | .pendingFrameCopied _ | .coreGroupPlacement .. | .taskStart .. | .coreGroupEnd _ | .launchEnd _ | .binDraw _
  | .overflowMove _ | .binAged .. | .agedGroupFiling .. | .stallExpiry .. | .yieldExpiry .. | .clauseFetchComplete ..
  | .fixedResultWrite _ | .variableResultComplete _ | .dsmSlotAdvance _ | .dsmPhaseBoundary _ | .dsmEventDelivery .. | .dsmPhaseCommit _
  | .barrierRelease .. | .trapDelivery _ | .coreGroupRelaunch _ | .timerExpiry .. | .watchpointDeferred _ | .preemptGraceExpiry _
  | .preemptStopComplete _ | .translationWalkComplete .. | .demandZeroFill .. | .homeAccessPerform _ | .windowAccess _ | .hotnessSample _
  | .stallSample _ | .copyComplete _ | .codebookSwap _ | .reservationClearComplete .. | .engineGrant _ | .matrixOpStart _
  | .matrixOpComplete _ | .drainPortComplete .. | .streamFetch .. | .projectionComplete _ | .sortComplete _ | .reprojectionComplete _
  | .worklistComplete _ | .traversalRefetch _ | .whiskBuild _ | .whiskJudge _ | .connectionLost _ | .refusedDeliveryMode .. | .powerGood
  | .bringupPhaseComplete | .port0Retrain | .powerLoss | .powerThrottleStep | .eccCorrection | .uncorrectableError | .replayComplete
  | .checkpointStart | .checkpointValid | .launchAccept | .trialWindowEnd | .signalSend => true
  | _ => false

/-! Candidates. -/

/-- Events of bring-up and safety (04). -/
def mgmtEvents (s : State) : List Instr :=
  let fired := [AlarmSource.tamper, .secureElement, .supply, .clock, .junction, .auth].filter (alarmDue s)
  (if fired.isEmpty then [] else [.securityAlarm fired]) ++ [.bringupPhaseComplete, .port0Retrain, .powerThrottleStep]

/-- Events of checkpoints and replay (20). -/
def checkpointEvents (s : State) : List Instr :=
  [.replayComplete] ++ (s.ckpts.filter fun c => !c.valid).flatMap (fun c => (c.pending.take 1).map fun r => .pendingFrameCopied r.1)
    ++ [.checkpointValid, .checkpointStart]

/-- Events of launches and core groups (05, 06, 18, 20). -/
def launchEvents (s : State) : List Instr :=
  [.launchAccept] ++ s.w.launches.flatMap (fun l =>
      [.preemptGraceExpiry l.1, .preemptStopComplete l.1] ++ (List.range l.2.lr.ndg).flatMap fun d => [.coreGroupPlacement l.1 d, .taskStart l.1 d])
    ++ s.w.jobs.flatMap (fun j => [.whiskBuild j.1, .whiskJudge j.1])
    ++ s.w.cgs.flatMap (fun g => [.coreGroupEnd g.1, .coreGroupRelaunch g.1]) ++ s.w.launches.map (fun l => .launchEnd l.1)

/-- A step without a choice of its own leaves an engine operation under way for 64 clk, so that what its issuer does meanwhile meets
its range locks, as in the example of 09 R217; the event itself may come at any time (log 2). -/
def opInTurn (s : State) (o : EngOp) : Bool :=
  decide (o.due = 0) || (s.launch (s.cg o.cg).lid).lr.dsm || decide (o.due + Config.dsmLatency ≤ s.clk)

/-- Results, accesses and engine operations that complete (02, 08, 09, 11, 12, 13). -/
def completionEvents (s : State) : List Instr :=
  s.w.pends.map (fun p => if p.isVar then .variableResultComplete p.id else .fixedResultWrite p.id)
    ++ s.w.accs.filterMap (fun a => match a.stage with
        | .home => some (.homeAccessPerform a.id)
        | .window => some (.windowAccess a.id)
        | .frame => some (.demandZeroFill a.core a.space a.va)
        | .again => none)
    ++ s.w.dies.flatMap (fun d => (d.2.wq.take 1).map fun q => .homeAccessPerform q.id)
    ++ s.w.travs.map (fun v => .traversalRefetch v.id)
    ++ (s.w.ops.filter (opInTurn s)).map (fun o => match o.kind with
        | .bcopy | .bgath | .bscat => .copyComplete o.id
        | .cbld => if o.done then .codebookSwap o.id else .copyComplete o.id
        | .sproj => .projectionComplete o.id
        | .ssort => .sortComplete o.id
        | .rproj => .reprojectionComplete o.id
        | .rwlist => .worklistComplete o.id)
    ++ s.w.cores.flatMap (fun c => (c.2.resv.filter fun r => r.2.clearing).map (fun r => .reservationClearComplete c.1 r.1)
        ++ [.matrixOpComplete c.1] ++ c.2.eng.ops.map (fun o => .drainPortComplete c.1 o.id) ++ [.engineGrant c.1, .matrixOpStart c.1])
    ++ s.w.deferred.map fun d => .watchpointDeferred d.id

/-- Barriers, and the events of DSM core groups but for their slots. -/
def orderEvents (s : State) : List Instr :=
  s.w.pgs.flatMap (fun g => (List.range 24).map fun b => .barrierRelease g.2.lid (g.1 * 24 + b))
    ++ s.w.launches.filterMap (fun l => if l.2.lr.dsm then some (.dsmPhaseCommit l.1) else none)
    ++ s.w.cgs.flatMap fun g => g.2.dsm.due.map (fun d => .dsmEventDelivery g.1 d.1) ++ [.dsmPhaseBoundary g.1]

/-- The scheduler's events apart from draws and issues (06). -/
def schedEvents (s : State) : List Instr :=
  s.w.pgs.flatMap (fun g => [.trapDelivery g.1]
      ++ (tidsWhere g.2 fun t => decide (t.timer = some 0)).map (fun i => .timerExpiry g.1 i)
      ++ (tidsWhere g.2 fun t => decide (t.wait = .yield 0)).map (fun i => .yieldExpiry g.1 i)
      ++ (List.range 4).flatMap fun q => if (g.2.streams.getD q Stream.init).active then
          (List.range g.2.threads.length).map (fun i => .streamFetch g.1 q i) else [])
    ++ s.w.parts.flatMap fun p =>
      [.overflowMove p.1] ++ (p.2.groups.filter fun g => decide (g.2.stall = 0) && !g.2.ready).map (fun g => .stallExpiry p.1 g.1)
        ++ p.2.bins.map (fun b => .binAged p.1 b.1) ++ (p.2.groups.filter fun g => atHeaderNow g.2).map (fun g => .agedGroupFiling p.1 g.1)
        ++ (neededFetches s p.1).map fun f => .clauseFetchComplete p.1 f.1 f.2

/-- Draws, the end of a trial window, then issues. -/
def issueActions (s : State) : List Action :=
  s.w.parts.map (fun p => .event (.binDraw p.1)) ++ (if windowOver s then [.event .trialWindowEnd] else [])
    ++ s.w.parts.filterMap fun p => match nextIssuer s p.1 with
      | some pos => if issueNow s p.1 pos then some (.issue { part := p.1, pos := pos }) else none
      | none => none

/-- What closes a clk: messages to the host, samples, the slots of DSM core groups. -/
def closingEvents (s : State) : List Instr :=
  [.signalSend] ++ s.w.cores.map (fun c => .hotnessSample c.1)
    ++ (s.w.dies.filter fun d => d.2.sm.en).flatMap (fun d =>
        (List.range (Config.coresPerDie * 6)).map fun p => .stallSample (d.1 * Config.coresPerDie * 6 + p))
    ++ s.w.cgs.map fun g => .dsmSlotAdvance g.1

/-- Every candidate in order. -/
def candidates (s : State) : List Action :=
  (mgmtEvents s).map .event ++ (checkpointEvents s ++ launchEvents s ++ completionEvents s ++ orderEvents s ++ schedEvents s).map .event
    ++ issueActions s ++ (closingEvents s).map .event

/-- Whether an event has achieved something. One that goes on waiting for a frame has not, whatever its walk has left in a cache. -/
def achieved (i : Instr) (s t : State) : Bool :=
  match i with
  | .homeAccessPerform id | .windowAccess id => !(t.w.accs.any fun a => a.id = id) && !(t.w.dies.any fun d => d.2.wq.any fun q => q.id = id)
  | .demandZeroFill core space va => !awaitsFrame t core space va
  | .clauseFetchComplete part pg va => !(neededFetches t part).contains (pg, va)
  | .launchAccept => decide (t.w.submits.length < s.w.submits.length)
  | _ => decide (t ≠ s)

/-! Fetching a given word. -/

/-- Where a given word stands: launch 1, its first core group and partition group on core 0, partition 0, thread 0. -/
def wordCg : Nat := cgKey 1 0 0
def wordPg : Nat := pgKey wordCg 0
def wordPc : Nat := 0x10000C

def wordRec : LaunchRec := { LaunchRec.none with entry := 0x100000, trapvec := 0x200000, regs8 := 8, dccnt := 16, carve := 0 }

def wordThread : Thread := { Thread.start 64 0x100000 with pc := wordPc, place := .running 0 }

def wordGroup (x : IWord) : Group :=
  { Group.none with pg := wordPg, tids := [0], pc := wordPc, hdr := 0x100000, words := [x], header := { Header.none with count := 0 } }

/-- A device in phase 6 whose core 0 holds one thread of one launch, at a word of its clause. -/
def readyWorld (w : World) (x : IWord) : World :=
  { w with launches := tput w.launches 1 { Launch.none with lr := wordRec, dies := [0], placed := [1], dcBase := [0] },
           cgs := tput w.cgs wordCg { CoreGroup.none with lid := 1, ended := false },
           pgs := tput w.pgs wordPg { PartGroup.none with lid := 1, threads := [wordThread], ended := false },
           parts := tput w.parts 0 { Partition.init with groups := [(0, wordGroup x)] },
           cores := tput w.cores 0 Core.init }

/-- Bring-up is over, as a word's execution needs it (04 R74). -/
def readyMgmt (m : Mgmt) : Mgmt := { m with powered := true, phase := 6, ready := true, safe := false, throttling := false, ports := 0xFF }

end Sys2Proof.Machine
end

