-- ==== Sys2Proof/Machine/Choice.lean ====
section
/-! DEFINITION. The instructions that draw (10 R234-R236). -/

namespace Sys2Proof.Machine

/-- The occurrence of a draw (10 R235): the low 12 bits of C. -/
def occOf (s : State) (t : ThreadRef) (o : Opd) : Nat := (srcWord s t o).toNat % 4096

/-- A word that draws for each guard-true thread with its site and occurrence, and turns the value into its result. -/
def drawWord (s : State) (w : Wd) (f : Word → LaneOut) : Host.Outcome State Fault Refusal :=
  actWord s w.ctl fun ix s t =>
    match draw s t (immNat w.b % 4096) (occOf s t w.c) with
    | (s, .error e) => (s, some e)
    | (s, .ok x) => (pushResult s ix w.ctl 0 true true t (f x), none)

/-- DRAW (10 R235). -/
def execDraw (w : Wd) (s : State) : Host.Outcome State Fault Refusal := drawWord s w fun x => out1 (vNum w.a) x 0

/-- DRAWF (10 R235): the f32 value (x >> 8) × 2^-24, exact. -/
def execDrawf (w : Wd) (s : State) : Host.Outcome State Fault Refusal :=
  drawWord s w fun x => out1 (vNum w.a) (word (fmt32.round (.fin false (x.toNat / 256) (-24))).1) 0

/-- DRAWB (10 R235). -/
def execDrawb (w : Wd) (s : State) : Host.Outcome State Fault Refusal := drawWord s w fun x => outP (pNum w.a) (x.getLsbD 31) 0

/-- CVPOS (10 R236): `cvout` in the even register, `cvin` in the odd one. -/
def execCvpos (w : Wd) (s : State) : Host.Outcome State Fault Refusal :=
  laneWord s w.ctl 6 false fun s _ t =>
    let cv := (s.thread t).ctx.cv
    out2 (vNum w.a) (pairOf cv.cvout cv.cvin) 0

/-- A 32-bit pattern with a NaN replaced by the canonical NaN (03 R54). -/
def canon32 (x : Nat) : Nat := match fmt32.value x with
  | .nan => fmt32.nan
  | .inf _ | .fin _ _ _ => x

/-- CVSCORE (10 R236). -/
def execCvscore (w : Wd) (s : State) : Host.Outcome State Fault Refusal :=
  stateWord s w.ctl fun ix s =>
    ((activeOf s ix w.ctl).map fun t => (t, word (canon32 (srcF32 s t w.b)))).foldl
      (fun s r => modCtx s r.1 fun c => { c with cv := { c.cv with score := r.2 } }) s

end Sys2Proof.Machine
end

