-- ==== Sys2Proof/Machine/Fragments.lean ====
section
/-! DEFINITION. Register fragments (11 R258-R261). -/

namespace Sys2Proof.Machine

/-- The participant at a lane position. -/
def atLane (ts : List ThreadRef) (l : Nat) : Option ThreadRef := ts.find? fun t => laneOf t.tid = l

/-- Element A(i, k) or B(k, j) of a VMMA fragment (11 R259), held at lane r + 16 ⌊k / 8⌋, where r is i or j. -/
def fragHalf (s : State) (ts : List ThreadRef) (base r k : Nat) : Option Nat :=
  (atLane ts (r + 16 * (k / 8))).map fun u => (regOf s u (base + k % 8 / 2)).toNat / 65536 ^ (k % 2) % 65536

/-- Element of a VMMAI fragment: a signed byte, held at lane r + 16 ⌊k / 16⌋. -/
def fragByte (s : State) (ts : List ThreadRef) (base r k : Nat) : Option Int :=
  (atLane ts (r + 16 * (k / 16))).map fun u =>
    let x := (regOf s u (base + k % 16 / 4)).toNat / 256 ^ (k % 4) % 256
    if x < 128 then (x : Int) else x - 256

/-- Eight results from register `d` up. -/
def out8 (d : Nat) (f : Nat → Word) : LaneOut :=
  { regs := (List.range 8).map fun m => d + m, vals := (List.range 8).map f, preds := [], raise := 0 }

/-- A fragment word: the unit takes one each 16 clk (11 R258, 02 R43). -/
def fragWord (s : State) (w : Wd) (f : State → Issue → ThreadRef → LaneOut) : Host.Outcome State Fault Refusal :=
  stateWord s w.ctl fun ix s =>
    laneResults (modPart s ix.part fun p => { p with fragFree := timeOf s ix.cg + 16 }) ix w.ctl 16 false f

/-- VMMA (11 R260): products of absent or guard-false lanes are omitted. -/
def execVmma (w : Wd) (aty : Ty) (s : State) : Host.Outcome State Fault Refusal :=
  fragWord s w fun s ix t =>
    let ts := activeOf s ix w.ctl
    let i := laneOf t.tid % 16
    let h := laneOf t.tid / 16
    let k := fmtOf aty
    out8 (vNum w.a) fun m =>
      let ps := (List.range 16).filterMap fun n =>
        match fragHalf s ts (vNum w.b) i n, fragHalf s ts (vNum w.c) (8 * h + m) n with
        | some a, some b => some (mulV (k.value a) (k.value b)).1
        | _, _ => none
      let sum := fmt32.value (fmt32.round (sumV ps).1).1
      word (fmt32.round (addV (fmt32.value (regOf s t (vNum w.a + m)).toNat) sum).1).1

/-- VMMAI (11 R260). -/
def execVmmai (w : Wd) (s : State) : Host.Outcome State Fault Refusal :=
  fragWord s w fun s ix t =>
    let ts := activeOf s ix w.ctl
    let i := laneOf t.tid % 16
    let h := laneOf t.tid / 16
    out8 (vNum w.a) fun m =>
      let sum := (List.range 32).foldl (fun (x : Int) n =>
        match fragByte s ts (vNum w.b) i n, fragByte s ts (vNum w.c) (8 * h + m) n with
        | some a, some b => x + a * b
        | _, _ => x) 0
      regOf s t (vNum w.a + m) + BitVec.ofInt 32 sum

/-- The D element that VFRAG takes to K index 8h + n of a thread (11 R261): its own row, or transposed. -/
def fragSource (s : State) (ts : List ThreadRef) (t : ThreadRef) (tr : Bool) (vs n : Nat) : Nat :=
  let l := laneOf t.tid
  if !tr then (regOf s t (vs + n)).toNat
  else
    match atLane ts (8 * (l / 16) + n + 16 * (l % 16 / 8)) with
    | some u => (regOf s u (vs + l % 16 % 8)).toNat
    | none => 0

/-- VFRAG (11 R261). -/
def execVfrag (w : Wd) (aty : Ty) (tr : Bool) (s : State) : Host.Outcome State Fault Refusal :=
  laneWord s w.ctl 6 false fun s ix t =>
    let ts := activeOf s ix w.ctl
    let conv (n : Nat) : Nat := ((fmtOf aty).round (fmt32.value (fragSource s ts t tr (vNum w.b) n))).1
    { regs := (List.range 4).map fun m => vNum w.a + m, preds := [], raise := 0,
      vals := (List.range 4).map fun m => word (conv (2 * m) + conv (2 * m + 1) * 65536) }

end Sys2Proof.Machine
end

