-- ==== Sys2Proof/Machine/Integer.lean ====
section
/-! DEFINITION. Integers (07 R147-R149), bits and shifts (07 R150, R151). -/

namespace Sys2Proof.Machine

/-- A two-source integer word: exact value, then the wrap or sat step (07 R148). -/
def intWord (s : State) (w : Wd) (lat : Nat) (ty : Ty) (sat : Bool) (f : Int → Int → Int) : Host.Outcome State Fault Refusal :=
  laneWord s w.ctl lat false fun s _ t =>
    let r := intStep ty sat (f (srcInt s t ty w.b) (srcInt s t ty w.c))
    outTy ty (vNum w.a) r.1 r.2

/-- IADD (07 R148). -/
def execIadd (w : Wd) (ty : Ty) (sat : Bool) (s : State) : Host.Outcome State Fault Refusal := intWord s w 4 ty sat fun b c => b + c
/-- ISUB (07 R148). -/
def execIsub (w : Wd) (ty : Ty) (sat : Bool) (s : State) : Host.Outcome State Fault Refusal := intWord s w 4 ty sat fun b c => b - c
/-- IMUL (07 R148). -/
def execImul (w : Wd) (ty : Ty) (sat : Bool) (s : State) : Host.Outcome State Fault Refusal := intWord s w 6 ty sat fun b c => b * c
/-- IMULH (07 R148): bits [63:32] of the exact product. -/
def execImulh (w : Wd) (ty : Ty) (s : State) : Host.Outcome State Fault Refusal :=
  intWord s w 6 ty false fun b c => b * c / 2 ^ 32
/-- IMAD (07 R148): A is the addend. -/
def execImad (w : Wd) (ty : Ty) (sat : Bool) (s : State) : Host.Outcome State Fault Refusal :=
  laneWord s w.ctl 6 false fun s _ t =>
    let r := intStep ty sat (srcInt s t ty w.b * srcInt s t ty w.c + srcInt s t ty w.a)
    outTy ty (vNum w.a) r.1 r.2
/-- IMIN (07 R148). -/
def execImin (w : Wd) (ty : Ty) (s : State) : Host.Outcome State Fault Refusal := intWord s w 4 ty false fun b c => min b c
/-- IMAX (07 R148). -/
def execImax (w : Wd) (ty : Ty) (s : State) : Host.Outcome State Fault Refusal := intWord s w 4 ty false fun b c => max b c
/-- IABS (07 R148). -/
def execIabs (w : Wd) (sat : Bool) (s : State) : Host.Outcome State Fault Refusal :=
  intWord s w 4 .i32 sat fun b _ => (b.natAbs : Int)
/-- IADD64 (07 R148). -/
def execIadd64 (w : Wd) (ty : Ty) (sat : Bool) (s : State) : Host.Outcome State Fault Refusal := intWord s w 6 ty sat fun b c => b + c
/-- IMUL64 (07 R148). -/
def execImul64 (w : Wd) (ty : Ty) (sat : Bool) (s : State) : Host.Outcome State Fault Refusal := intWord s w 10 ty sat fun b c => b * c
/-- LEA (07 R148): b + ext(c) × 2^N, an n64. -/
def execLea (w : Wd) (ty : Ty) (sh : BitVec 3) (s : State) : Host.Outcome State Fault Refusal :=
  laneWord s w.ctl 4 false fun s _ t =>
    out2 (vNum w.a) (wrapBits .n64 ((srcPair s t w.b).toNat + srcInt s t ty w.c * 2 ^ sh.toNat)) 0

/-- Quotient, remainder and flags of IDIVN (07 R149). -/
def divide (ty : Ty) (sat : Bool) (b c : Int) : Int × Int × BitVec 6 :=
  if c = 0 then (if ty.isSigned then -1 else 2 ^ ty.bits - 1, b, 0)
  else if ty.isSigned && decide (b = -(2 ^ (ty.bits - 1))) && decide (c = -1) then
    (if sat then 2 ^ (ty.bits - 1) - 1 else -(2 ^ (ty.bits - 1)), 0, flagIf sat flSat)
  else (b.tdiv c, b - b.tdiv c * c, 0)

/-- IDIVN (07 R149); the divider is busy until the result is written (02 R43). -/
def execIdivn (w : Wd) (ty : Ty) (sat rem : Bool) (s : State) : Host.Outcome State Fault Refusal :=
  stateWord s w.ctl fun ix s =>
    let lat := if ty.is64 then 68 else 36
    let s := modPart s ix.part fun p => { p with divFree := timeOf s ix.cg + lat }
    laneResults s ix w.ctl lat false fun s _ t =>
      let r := divide ty sat (srcInt s t ty w.b) (srcInt s t ty w.c)
      outTy ty (vNum w.a) (wrapBits ty (if rem then r.2.1 else r.1)) r.2.2

/-! Bits. -/

/-- A two-source bit word. -/
def bitWord (s : State) (w : Wd) (f : Word → Word → Word) : Host.Outcome State Fault Refusal :=
  laneWord s w.ctl 4 false fun s _ t => out1 (vNum w.a) (f (srcWord s t w.b) (srcWord s t w.c)) 0

/-- AND (07 R151). -/
def execAnd (w : Wd) (s : State) : Host.Outcome State Fault Refusal := bitWord s w fun b c => b &&& c
/-- OR (07 R151). -/
def execOr (w : Wd) (s : State) : Host.Outcome State Fault Refusal := bitWord s w fun b c => b ||| c
/-- XOR (07 R151). -/
def execXor (w : Wd) (s : State) : Host.Outcome State Fault Refusal := bitWord s w fun b c => b ^^^ c
/-- ANDN (07 R151). -/
def execAndn (w : Wd) (s : State) : Host.Outcome State Fault Refusal := bitWord s w fun b c => b &&& ~~~c

/-- A two-input function given by its truth table, on words (07 R151). -/
def tableFn (fn : Nat) (x y : Word) : Word :=
  (if bitAt fn 0 then ~~~x &&& ~~~y else 0) ||| (if bitAt fn 1 then x &&& ~~~y else 0)
    ||| (if bitAt fn 2 then ~~~x &&& y else 0) ||| (if bitAt fn 3 then x &&& y else 0)

/-- BFN3 (07 R151). -/
def execBfn3 (w : Wd) (s : State) : Host.Outcome State Fault Refusal :=
  laneWord s w.ctl 4 false fun s _ t =>
    let p := srcPair s t w.b
    let x : Word := p.extractLsb' 0 32
    let y : Word := p.extractLsb' 32 32
    let z := srcWord s t w.a
    let fn := immNat w.c
    out1 (vNum w.a) ((tableFn fn x y &&& ~~~z) ||| (tableFn (fn / 16) x y &&& z)) 0

/-- SHL (07 R151). -/
def execShl (w : Wd) (s : State) : Host.Outcome State Fault Refusal := bitWord s w fun b c => b <<< c.toNat
/-- SHR.n and SHR.i (07 R151). -/
def execShr (w : Wd) (arith : Bool) (s : State) : Host.Outcome State Fault Refusal :=
  bitWord s w fun b c => if arith then b.sshiftRight c.toNat else b >>> c.toNat
/-- ROTR (07 R151). -/
def execRotr (w : Wd) (s : State) : Host.Outcome State Fault Refusal := bitWord s w fun b c => b.rotateRight (c.toNat % 32)

/-- Position and length of a bit field named by c (07 R151). -/
def fieldOf (c : Word) : Nat × Nat :=
  let p := c.toNat % 32
  (p, Nat.min (c.toNat / 256 % 64) (32 - p))

/-- BFE (07 R151). -/
def bfeValue (signed : Bool) (b c : Word) : Word :=
  let f := fieldOf c
  let x := b.toNat / 2 ^ f.1 % 2 ^ f.2
  if f.2 = 0 then 0
  else if signed && decide (2 ^ (f.2 - 1) ≤ x) then BitVec.ofInt 32 ((x : Int) - 2 ^ f.2) else word x

/-- BFE (07 R151). -/
def execBfe (w : Wd) (ty : Ty) (s : State) : Host.Outcome State Fault Refusal := bitWord s w fun b c => bfeValue (decide (ty = .i32)) b c

/-- BFI (07 R151). -/
def bfiValue (old b c : Word) : Word :=
  let f := fieldOf c
  let mask : Word := word ((2 ^ f.2 - 1) * 2 ^ f.1)
  (old &&& ~~~mask) ||| ((b <<< f.1) &&& mask)

/-- BFI (07 R151). -/
def execBfi (w : Wd) (s : State) : Host.Outcome State Fault Refusal :=
  laneWord s w.ctl 4 false fun s _ t => out1 (vNum w.a) (bfiValue (srcWord s t w.a) (srcWord s t w.b) (srcWord s t w.c)) 0

/-- A one-source bit word. -/
def bitWord1 (s : State) (w : Wd) (f : Word → Word) : Host.Outcome State Fault Refusal :=
  laneWord s w.ctl 4 false fun s _ t => out1 (vNum w.a) (f (srcWord s t w.b)) 0

/-- The count of set bits. -/
def popCount (x : Word) : Nat := ((List.range 32).filter fun i => x.getLsbD i).length
/-- The count of leading zeros, 32 for zero. -/
def leadZeros (x : Word) : Nat := if x = 0 then 32 else 31 - Nat.log2 x.toNat

/-- POPC (07 R151). -/
def execPopc (w : Wd) (s : State) : Host.Outcome State Fault Refusal := bitWord1 s w fun b => word (popCount b)
/-- CLZ (07 R151). -/
def execClz (w : Wd) (s : State) : Host.Outcome State Fault Refusal := bitWord1 s w fun b => word (leadZeros b)
/-- BREV (07 R151). -/
def execBrev (w : Wd) (s : State) : Host.Outcome State Fault Refusal :=
  bitWord1 s w fun b => word ((List.range 32).foldl (fun n i => n + if b.getLsbD i then 2 ^ (31 - i) else 0) 0)

/-- One result byte of BSEL (07 R151). -/
def bselByte (bytes c k : Nat) : Nat :=
  let x := bytes / 256 ^ (c / 8 ^ k % 8) % 256
  if bitAt c (12 + k) then 0 else if bitAt c (16 + k) then (if 128 ≤ x then 255 else 0) else x

/-- BSEL (07 R151). -/
def execBsel (w : Wd) (s : State) : Host.Outcome State Fault Refusal :=
  laneWord s w.ctl 4 false fun s _ t =>
    let bytes := (srcWord s t w.b).toNat + (srcWord s t w.a).toNat * 2 ^ 32
    let c := (srcWord s t w.c).toNat
    out1 (vNum w.a) (word (bselByte bytes c 0 + bselByte bytes c 1 * 2 ^ 8 + bselByte bytes c 2 * 2 ^ 16 + bselByte bytes c 3 * 2 ^ 24)) 0

end Sys2Proof.Machine
end

