-- ==== Sys2Proof/Machine/Move.lean ====
section
/-! DEFINITION. Compare, select and move (07 R152-R154); lane exchange, vote and team identity (07 R155-R157). -/

namespace Sys2Proof.Machine

/-- ICMP (07 R153). -/
def execIcmp (w : Wd) (ty : Ty) (cmp : Cmp) (comb : Comb) (s : State) : Host.Outcome State Fault Refusal :=
  laneWord s w.ctl 4 false fun s _ t =>
    outP (pNum w.a) (combinePred comb (predOf s t (pNum w.a)) (cmpInt cmp (srcInt s t ty w.b) (srcInt s t ty w.c))) 0

/-- SEL (07 R154). -/
def execSel (w : Wd) (ty : Ty) (inv : Bool) (pn : BitVec 3) (s : State) : Host.Outcome State Fault Refusal :=
  laneWord s w.ctl 4 false fun s _ t =>
    let o := if predOf s t pn.toNat != inv then w.b else w.c
    if ty.is64 then out2 (vNum w.a) (srcPair s t o) 0 else out1 (vNum w.a) (srcWord s t o) 0

/-- MOV (07 R154). -/
def execMov (w : Wd) (s : State) : Host.Outcome State Fault Refusal :=
  laneWord s w.ctl 4 false fun s _ t => out1 (vNum w.a) (srcWord s t w.b) 0

/-- MOVI (07 R154). -/
def execMovi (w : WideWd) (s : State) : Host.Outcome State Fault Refusal :=
  laneWord s w.ctl 4 false fun _ _ _ => out1 (vNum w.a) w.imm 0

/-- PSET (07 R153): predicates as the integers 0 and 1. -/
def execPset (w : Wd) (cmp : Cmp) (comb : Comb) (s : State) : Host.Outcome State Fault Refusal :=
  laneWord s w.ctl 4 false fun s _ t =>
    outP (pNum w.a) (combinePred comb (predOf s t (pNum w.a))
      (cmpInt cmp (bnat (srcPred s t w.b)) (bnat (srcPred s t w.c)))) 0

/-- P2V (07 R154). -/
def execP2v (w : Wd) (s : State) : Host.Outcome State Fault Refusal :=
  laneWord s w.ctl 4 false fun s _ t =>
    out1 (vNum w.a) (word ((List.range 7).foldl (fun n i => n + bnat (predOf s t i) * 2 ^ i) 0)) 0

/-- V2P (07 R154). -/
def execV2p (w : Wd) (s : State) : Host.Outcome State Fault Refusal :=
  laneWord s w.ctl 4 false fun s _ t =>
    { regs := [], vals := [], raise := 0,
      preds := ((List.range 7).filter fun i => bitAt (immNat w.c) i).map fun i => (i, (srcWord s t w.b).getLsbD i) }

/-- The lane an XLANE mode reads (07 R155); none outside 0 to 31. -/
def sourceLane (mode : LaneMode) (l d : Nat) : Option Nat :=
  match mode with
  | .idx => if d ≤ 31 then some d else none
  | .up => if d ≤ l then some (l - d) else none
  | .down => if l + d ≤ 31 then some (l + d) else none
  | .xor => if Nat.xor l d ≤ 31 then some (Nat.xor l d) else none

/-- XLANE (07 R155): every source is the value before the instruction. -/
def execXlane (w : Wd) (ty : Ty) (pn : BitVec 3) (mode : LaneMode) (s : State) : Host.Outcome State Fault Refusal :=
  laneWord s w.ctl 6 false fun s ix t =>
    let src := match sourceLane mode (laneOf t.tid) (srcWord s t w.c).toNat with
      | some m => (activeOf s ix w.ctl).find? fun u => laneOf u.tid = m
      | none => none
    let preds (ok : Bool) : List (Nat × Bool) := if pn = 7 then [] else [(pn.toNat, ok)]
    match src with
    | some u =>
      let o := if ty.is64 then out2 (vNum w.a) (srcPair s u w.b) 0 else out1 (vNum w.a) (srcWord s u w.b) 0
      { o with preds := preds true }
    | none => { regs := [], vals := [], preds := preds false, raise := 0 }

/-- VOTE (07 R156). -/
def execVote (w : Wd) (form : VoteForm) (s : State) : Host.Outcome State Fault Refusal :=
  laneWord s w.ctl 6 false fun s ix _ =>
    let set := activeOf s ix w.ctl
    match form with
    | .any => outP (pNum w.a) (set.any fun u => srcPred s u w.b) 0
    | .all => outP (pNum w.a) (set.all fun u => srcPred s u w.b) 0
    | .ballot => out1 (vNum w.a) (word (set.foldl (fun n u => n + bnat (srcPred s u w.b) * 2 ^ laneOf u.tid) 0)) 0

/-- TEAMID (07 R157): threads in the group, the lowest team, and whether there is more than one. -/
def execTeamid (w : Wd) (s : State) : Host.Outcome State Fault Refusal :=
  laneWord s w.ctl 4 false fun _ ix _ =>
    let teams := ix.tids.map teamOf
    let low := (minBy? id teams).getD 0
    out1 (vNum w.a) (word (bnat (teams.any (· != low)) * 2 ^ 31 + ix.tids.length * 256 + low)) 0

end Sys2Proof.Machine
end

