-- ==== Sys2Proof/Machine/Reuse.lean ====
section
/-! DEFINITION. The reprojection unit and the worklist (13 R280-R284). -/

namespace Sys2Proof.Machine

/-! The reuse descriptor (13 R280). -/

def rdPrev (d : List Byte) : Nat := fieldAt d 0 8
def rdMot (d : List Byte) : Nat := fieldAt d 8 8
def rdCur (d : List Byte) : Nat := fieldAt d 16 8
def rdRef (d : List Byte) : Nat := fieldAt d 24 8
def rdList (d : List Byte) : Nat := fieldAt d 32 8
def rdCnt (d : List Byte) : Nat := fieldAt d 40 8
def rdWd (d : List Byte) : Nat := fieldAt d 48 2
def rdHt (d : List Byte) : Nat := fieldAt d 50 2
def rdTol (d : List Byte) : Nat := fieldAt d 52 4
def rdCap (d : List Byte) : Nat := fieldAt d 56 4
def rdArea (d : List Byte) : Nat := rdWd d * rdHt d

/-- An entry of a visibility buffer that is empty (13 R281). -/
def vbAllOnes : Nat := 2 ^ 64 - 1
def vbEmpty (e : Nat) : Bool := decide (e % 2 ^ 32 = 2 ^ 32 - 1)

/-- The checks of the descriptor (13 R284): for RPROJ, `rd.cur` must not overlap what it reads. -/
def rdBad (proj : Bool) (d : List Byte) (va : Nat) : Option (BitVec 8 × Nat) :=
  let size (n : Nat) : Bool := decide (n = 0) || decide (32768 < n)
  let n := rdArea d
  let hits (a w : Nat) : Bool := decide (rdCur d < a + w * n) && decide (a < rdCur d + 8 * n)
  if fieldAt d 60 4 ≠ 0 ∨ 2 ^ 31 ≤ rdTol d ∨ !f32Finite (rdTol d) ∨ size (rdWd d) ∨ size (rdHt d)
      ∨ (proj && (hits (rdPrev d) 8 || hits (rdMot d) 8 || (decide (rdRef d ≠ 0) && hits (rdRef d) 4))) then some (0x01, va)
  else
    match [(rdPrev d, 8), (rdMot d, 8), (rdCur d, 8), (rdRef d, 4), (rdList d, 4), (rdCnt d, 4)].find? fun x => decide (x.1 % x.2 ≠ 0) with
    | some x => some (0x05, x.1)
    | none => none

/-- RPROJ (13 R284). -/
def execRproj (w : Wd) (s : State) : Host.Outcome State Fault Refusal :=
  tagOpWord s w .rproj 64 (rdBad true) fun s ix o =>
    let slot := (s.cg ix.cg).slot
    let n := rdArea o.desc
    let lock (wr : Bool) (a k : Nat) : RLock := spanLock wr 0 slot 7 o.tag o.id a (k * n) 0 0
    [lock false (rdPrev o.desc) 8, lock false (rdMot o.desc) 8] ++ (if rdRef o.desc = 0 then [] else [lock false (rdRef o.desc) 4])
      ++ [lock true (rdCur o.desc) 8]

/-- RWLIST (13 R284). -/
def execRwlist (w : Wd) (s : State) : Host.Outcome State Fault Refusal :=
  tagOpWord s w .rwlist 64 (rdBad false) fun s ix o =>
    let slot := (s.cg ix.cg).slot
    let lock (wr : Bool) (a n : Nat) : RLock := spanLock wr 0 slot 7 o.tag o.id a n 0 0
    [lock false (rdCur o.desc) (8 * rdArea o.desc)] ++ (if rdCap o.desc = 0 then [] else [lock true (rdList o.desc) (4 * rdCap o.desc)])
      ++ [lock true (rdCnt o.desc) 4]

/-! Warping (13 R282). -/

/-- floor of a finite f32. -/
def floorOf (x : Nat) : Option Int :=
  match f32V x with
  | .fin s m e => some ((if s then -1 else 1) * (roundInt .rd s m e : Nat))
  | .inf _ | .nan => none

/-- n + 0.5 as f32, exact for a coordinate. -/
def halfUp (n : Nat) : Nat := (fmt32.round (.fin false (2 * n + 1) (-1))).1

/-- A positive finite f32. -/
def f32Positive (x : Nat) : Bool := f32Finite x && f32Lt 0 x

/-- Where a previous pixel lands, and the key it brings. -/
def warpPixel (wd ht x y e mot : Nat) : Option (Nat × Nat) :=
  let half (k : Nat) : Nat := f16Wide (mot / 2 ^ (16 * k) % 65536)
  let z := fa (e / 2 ^ 32) (half 2)
  if vbEmpty e || !f32Positive z then none
  else
    match floorOf (fa (halfUp x) (half 0)), floorOf (fa (halfUp y) (half 1)) with
    | some xs, some ys =>
      if 0 ≤ xs ∧ xs < wd ∧ 0 ≤ ys ∧ ys < ht then some (ys.toNat * wd + xs.toNat, z * 2 ^ 32 + e % 2 ^ 32) else none
    | _, _ => none

/-- Take one row of previous pixels into the best keys. -/
def warpRow (d prev mot : List Byte) (y : Nat) (best : Tab Nat) : Tab Nat :=
  (List.range (rdWd d)).foldl (fun best x =>
    match warpPixel (rdWd d) (rdHt d) x y (fieldAt prev (8 * x) 8) (fieldAt mot (8 * x) 8) with
    | some (p, k) => tput best p (Nat.min (tget best p vbAllOnes) k)
    | none => best) best

/-- The first pass, row by row from `y`. -/
def warpRows (fuel : Nat) (s : State) (o : EngOp) (y : Nat) (best : Tab Nat) : State × Except (BitVec 8 × Nat) (Tab Nat) :=
  match fuel with
  | 0 => (s, .ok best)
  | k + 1 =>
    let n := 8 * rdWd o.desc
    match opRead s o 6 (rdPrev o.desc + n * y) n with
    | (s, .error e) => (s, .error e)
    | (s, .ok prev) =>
      match opRead s o 6 (rdMot o.desc + n * y) n with
      | (s, .error e) => (s, .error e)
      | (s, .ok mot) => warpRows k s o (y + 1) (warpRow o.desc prev mot y best)

/-- The test of a winner against the reference depth. -/
def keepWinner (tol best r : Nat) : Bool :=
  let diff := fa (best / 2 ^ 32) (fneg r) % 2 ^ 31
  f32Positive r && !f32Lt (fm tol r) diff

/-- The second pass, row by row from `y`: test and write. -/
def writeRows (fuel : Nat) (s : State) (o : EngOp) (y : Nat) (best : Tab Nat) : State × Option (BitVec 8 × Nat) :=
  match fuel with
  | 0 => (s, none)
  | k + 1 =>
    let d := o.desc
    let n := rdWd d
    let ref := if rdRef d = 0 then (s, .ok []) else opRead s o 6 (rdRef d + 4 * n * y) (4 * n)
    match ref with
    | (s, .error e) => (s, some e)
    | (s, .ok rs) =>
      let row := (List.range n).flatMap fun x =>
        let b := tget best (y * n + x) vbAllOnes
        bytesOfNat 8 (if b ≠ vbAllOnes ∧ rdRef d ≠ 0 ∧ !keepWinner (rdTol d) b (fieldAt rs (4 * x) 4) then vbAllOnes else b)
      match opWrite s o (rdCur d + 8 * n * y) row with
      | (s, some e) => (s, some e)
      | (s, none) => writeRows k s o (y + 1) best

/-- A reprojection: the best keys of every pixel, then the rows (13 R282). -/
def warpRun (s : State) (o : EngOp) : State × Option (BitVec 8 × Nat) :=
  match warpRows (rdHt o.desc) s o 0 [] with
  | (s, .error e) => (s, some e)
  | (s, .ok best) => writeRows (rdHt o.desc) s o 0 best

/-- REPROJECTION_COMPLETE (13 R282, R284). -/
def execReprojectionComplete (id : Nat) (s : State) : Host.Outcome State Fault Refusal :=
  .next (unitComplete id (fun k => k = .rproj) warpRun s)

/-! The worklist (13 R283). -/

/-- The entries of the empty pixels in row-major order. -/
def emptyRows (fuel : Nat) (s : State) (o : EngOp) (y : Nat) (acc : List Nat) : State × Except (BitVec 8 × Nat) (List Nat) :=
  match fuel with
  | 0 => (s, .ok acc)
  | k + 1 =>
    let n := 8 * rdWd o.desc
    match opRead s o 6 (rdCur o.desc + n * y) n with
    | (s, .error e) => (s, .error e)
    | (s, .ok row) =>
      emptyRows k s o (y + 1) (acc ++ ((List.range (rdWd o.desc)).filter fun x => vbEmpty (fieldAt row (8 * x) 8)).map fun x =>
        y * 65536 + x)

/-- A worklist: the empty pixels, where they fit, and their number (13 R283). -/
def worklistRun (s : State) (o : EngOp) : State × Option (BitVec 8 × Nat) :=
  match emptyRows (rdHt o.desc) s o 0 [] with
  | (s, .error e) => (s, some e)
  | (s, .ok l) =>
    let m := l.length
    let body := if rdCap o.desc < m ∨ m = 0 then [] else [(rdList o.desc, l.flatMap (bytesOfNat 4))]
    match opWrites s o (body ++ [(rdCnt o.desc, bytesOfNat 4 m)]) with
    | (s, some e) => (s, some e)
    | (s, none) => (s, if rdCap o.desc < m then some (0x09, m) else none)

/-- WORKLIST_COMPLETE (13 R283, R284). -/
def execWorklistComplete (id : Nat) (s : State) : Host.Outcome State Fault Refusal :=
  .next (unitComplete id (fun k => k = .rwlist) worklistRun s)

end Sys2Proof.Machine
end

