-- ==== Sys2Proof/Machine/Tasks.lean ====
section
/-! DEFINITION. The instructions of tasks, counters and launches (05 R104-R108) and MUTL (20 R351, R353). Release waits stand before
the word issues (mayIssue). -/

namespace Sys2Proof.Machine

/-- What the launch engine or the Whisk takes at once; the dispatcher's operations wait for the end of the clk (05 R98). -/
def TaskOp.atOnce (op : TaskOp) : Bool := match op with
  | .launch _ | .mutl .. => true
  | .tenq .. | .dcnew .. | .dcdec .. | .dcq _ => false

/-- Hand an operation to its unit, its result due after `lat`; for a DSM launch with the key of 14 R310, applied and
delivered with the phase (05 R98, 06 R134). `va` is where the record or descriptor it was read from stands. -/
def giveTask (s : State) (ix : Issue) (c : Ctl) (t : ThreadRef) (op : TaskOp) (va lat : Nat) (dst : Option Nat) : State :=
  let dg := (s.pg ix.pg).dgid
  if (s.launch ix.lid).lr.dsm then
    pushAcc s ix c { kind := .task op, bytes := 0, scope := .th, ord := .rlx, nt := false } va (.dram 0 false) [(t, va)] (fun _ => 0)
      (fun _ => 0) fun _ => dst.map fun n => out1 n 0 0
  else
    let id := dst.map fun _ => s.w.nextId
    let s := match dst with
      | none => s
      | some n => pushResult s ix c lat false false t (out1 n 0 0)
    if op.atOnce then applyTask s ix.lid dg t id op else arriveDisp s ix.core ix.lid dg t id op

/-- TENQ (05 R105). -/
def execTenq (w : Wd) (q : BitVec 3) (s : State) : Host.Outcome State Fault Refusal :=
  actWord s w.ctl fun ix s' t =>
    match readDesc s' t (effAddr s t w.b w.c) 64 64 with
    | (x, .error e) => (x, some e)
    | (x, .ok bs) => (giveTask x ix w.ctl t (.tenq q.toNat (wordsOfBytes bs)) (effAddr s t w.b w.c) 32 (some (vNum w.a)), none)

/-- TARG (05 R106). -/
def execTarg (w : Wd) (s : State) : Host.Outcome State Fault Refusal :=
  laneWord s w.ctl 6 false fun s _ t => out1 (vNum w.a) ((s.thread t).task.getD (4 + immNat w.b) 0) 0

/-- A counter word. -/
def counterWord (s : State) (w : Wd) (o : Opd) (lat : Nat) (dst : Option Nat) (op : Nat → Word → TaskOp) :
    Host.Outcome State Fault Refusal :=
  actWord s w.ctl fun ix s' t =>
    match counterOf s ix t o with
    | .error e => (s', some e)
    | .ok c => (giveTask s' ix w.ctl t (op c (srcWord s t w.b)) 0 lat dst, none)

/-- DCNEW (05 R107). -/
def execDcnew (w : Wd) (s : State) : Host.Outcome State Fault Refusal := counterWord s w w.a 0 none fun c v => .dcnew c v.toNat
/-- DCDEC (05 R107). -/
def execDcdec (w : Wd) (s : State) : Host.Outcome State Fault Refusal := counterWord s w w.a 0 none fun c v => .dcdec c v.toNat
/-- DCQ (05 R107). -/
def execDcq (w : Wd) (s : State) : Host.Outcome State Fault Refusal := counterWord s w w.b 32 (some (vNum w.a)) fun c _ => .dcq c

/-- LAUNCH (05 R108): the record is read with acquire ordering at .dev. -/
def execLaunch (w : Wd) (s : State) : Host.Outcome State Fault Refusal :=
  actWord s w.ctl fun ix s' t =>
    match readDescAcq (acquireActions s' ix.core .dev) t (effAddr s t w.b w.c) 128 1024 with
    | (x, .error e) => (x, some e)
    | (x, .ok bs) => (giveTask x ix w.ctl t (.launch bs) (effAddr s t w.b w.c) 32 (some (vNum w.a)), none)

/-- MUTL (20 R353): descriptor, then the child's record. -/
def execMutl (w : Wd) (s : State) : Host.Outcome State Fault Refusal :=
  actWord s w.ctl fun ix s' t =>
    match readDescAcq (acquireActions s' ix.core .dev) t (effAddr s t w.b w.c) 128 128 with
    | (x, .error e) => (x, some e)
    | (x, .ok d) =>
      if mdBad d then (giveTask x ix w.ctl t (.mutl (siteOf ix) (wordNow x) d []) (effAddr s t w.b w.c) 32 (some (vNum w.a)), none)
      else
        match readNowAcq x t (fieldAt d 24 8) 1024 with
        | (x, .error e) => (x, some e)
        | (x, .ok r) => (giveTask x ix w.ctl t (.mutl (siteOf ix) (wordNow x) d r) (effAddr s t w.b w.c) 32 (some (vNum w.a)), none)

end Sys2Proof.Machine
end

