-- ==== Sys2Proof/Machine/Texture.lean ====
section
/-! DEFINITION. Textures and images (13 R290-R293). -/

namespace Sys2Proof.Machine

/-- An aligned read of a thread through the constant cache (09 R201): the checks of LD but for range locks. -/
def constRead (s : State) (t : ThreadRef) (va n : Nat) : State × Except Trap (List Byte) :=
  if va % n ≠ 0 then (s, .error (plainTrap 0x05 va))
  else readPiece s t va n false false fun s pa n => constLoad s (s.pg t.pg).core pa n

/-! Texture descriptors (13 R291). -/

def txBase (d : List Byte) : Nat := fieldAt d 0 8
def txPitch (d : List Byte) : Nat := fieldAt d 8 4
def txWd (d : List Byte) : Nat := fieldAt d 12 2
def txHt (d : List Byte) : Nat := fieldAt d 14 2
def txFmt (d : List Byte) : Nat := fieldAt d 16 4 / 16 % 16
def txCh (d : List Byte) : Nat := fieldAt d 16 4 / 4 % 4 + 1
def txWrap (d : List Byte) : Bool := bitAt (fieldAt d 16 4) 1
def txLin (d : List Byte) : Bool := bitAt (fieldAt d 16 4) 0

/-- Bytes of a channel; 0 for a `tx.fmt` outside the list. -/
def txWidth (d : List Byte) : Nat := match txFmt d with
  | 7 => 1
  | 8 => 4
  | 10 | 11 => 2
  | _ => 0

/-- The descriptor at the constant pair, or the trap. -/
def readTx (s : State) (t : ThreadRef) (va : Nat) : State × Except Trap (List Byte) :=
  match constRead s t va 32 with
  | (s, .error e) => (s, .error e)
  | (s, .ok d) =>
    if fieldAt d 16 4 / 256 ≠ 0 ∨ (d.drop 20).any (· != 0) ∨ txWidth d = 0 ∨ txWd d = 0 ∨ txHt d = 0 then
      (s, .error (plainTrap 0x01 va))
    else (s, .ok d)

/-- Resolve a coordinate (13 R292). -/
def txResolve (wrap : Bool) (size : Nat) (x : Int) : Nat :=
  if wrap then (x % size).toNat else (max 0 (min ((size : Int) - 1) x)).toNat

/-- Channel `c` of a texel's bytes as f32. -/
def txChannel (d bs : List Byte) (c : Nat) : Nat :=
  if txCh d ≤ c then (if c = 3 then 0x3F800000 else 0)
  else
    let n := fieldAt bs (c * txWidth d) (txWidth d)
    match txFmt d with
    | 7 => if n = 0 then 0 else (roundQuot fmt32 false n 0 255 0).1
    | 8 => n
    | 10 => f16Wide n
    | _ => (fmt32.round ((fmtOf .bf16).value n)).1

/-- Read a texel at resolved coordinates: its four channels. -/
def readTexel (s : State) (t : ThreadRef) (d : List Byte) (x y : Nat) : State × Except Trap (List Nat) :=
  let a := (txBase d + y * txPitch d + x * txCh d * txWidth d) % 2 ^ 64
  match readDesc s t a (txWidth d) (txCh d * txWidth d) with
  | (s, .error e) => (s, .error e)
  | (s, .ok bs) => (s, .ok ((List.range 4).map (txChannel d bs)))

/-- Read several texels in order. -/
def readTexels (l : List (Nat × Nat)) (s : State) (t : ThreadRef) (d : List Byte) : State × Except Trap (List (List Nat)) :=
  match l with
  | [] => (s, .ok [])
  | p :: rest =>
    match readTexel s t d p.1 p.2 with
    | (s, .error e) => (s, .error e)
    | (s, .ok x) =>
      match readTexels rest s t d with
      | (s, .error e) => (s, .error e)
      | (s, .ok xs) => (s, .ok (x :: xs))

/-- floor of an f32 as a coordinate; of an infinity, which only the product of a nearest sample can be, the end of the range under
clamp and a free index under wrap, which the manual does not state (log 41). -/
def txFloor (wrap : Bool) (size free x : Nat) : Int :=
  match f32V x with
  | .fin s m e => (if s then -1 else 1) * (roundInt .rd s m e : Nat)
  | .inf s => if wrap then ((Config.freeWord free).toNat : Int) else if s then -1 else size
  | .nan => 0

/-- Four canonical NaNs. -/
def txNans : List Nat := List.replicate 4 fmt32.nan

/-- A nearest sample. -/
def texNearest (s : State) (t : ThreadRef) (d : List Byte) (u v : Nat) : State × Except Trap (List Nat) :=
  let x := txFloor (txWrap d) (txWd d) s.fresh (fm u (fmt32.round (intV (txWd d))).1)
  let y := txFloor (txWrap d) (txHt d) (s.fresh + 1) (fm v (fmt32.round (intV (txHt d))).1)
  readTexel { s with fresh := s.fresh + 2 } t d (txResolve (txWrap d) (txWd d) x) (txResolve (txWrap d) (txHt d) y)

/-- A bilinear sample's cell on one axis, and its fraction, which is exact (13 R292). -/
def texCell (a : Nat) : Int × FVal :=
  let i := txFloor false 0 0 a
  (i, (addV (f32V a) (intV (-i))).1)

/-- The weight of the nearer cell: 1 minus the fraction, rounded. -/
def texRest (f : FVal) : FVal := f32V (fmt32.round (addV (f32V 0x3F800000) f.neg).1).1

/-- A bilinear sample from the coordinates a and b. -/
def texBilinear (s : State) (t : ThreadRef) (d : List Byte) (a b : Nat) : State × Except Trap (List Nat) :=
  let cx := texCell a
  let cy := texCell b
  let x (k : Int) : Nat := txResolve (txWrap d) (txWd d) (cx.1 + k)
  let y (k : Int) : Nat := txResolve (txWrap d) (txHt d) (cy.1 + k)
  match readTexels [(x 0, y 0), (x 1, y 0), (x 0, y 1), (x 1, y 1)] s t d with
  | (s, .error e) => (s, .error e)
  | (s, .ok ts) =>
    let w (p q : FVal) : Nat := (fmt32.round (mulV p q).1).1
    let fx := cx.2
    let fy := cy.2
    let gx := texRest fx
    let gy := texRest fy
    let tx (k c : Nat) : Nat := (ts.getD k []).getD c 0
    (s, .ok ((List.range 4).map fun c =>
      ff (tx 3 c) (w fx fy) (ff (tx 2 c) (w gx fy) (ff (tx 1 c) (w fx gy) (fm (tx 0 c) (w gx gy))))))

/-- A sample of TEX (13 R292). -/
def texSample (s : State) (t : ThreadRef) (d : List Byte) (u v : Nat) : State × Except Trap (List Nat) :=
  let half (x size : Nat) : Nat := fa (fm x (fmt32.round (intV size)).1) 0xBF000000
  if !f32Finite u || !f32Finite v then (s, .ok txNans)
  else if txLin d then
    let a := half u (txWd d)
    let b := half v (txHt d)
    if !f32Finite a || !f32Finite b then (s, .ok txNans) else texBilinear s t d a b
  else texNearest s t d u v

/-- A texture word: the descriptor, the sample, four registers. -/
def texWord (s : State) (w : Wd) (f : State → ThreadRef → List Byte → DWord → State × Except Trap (List Nat)) :
    Host.Outcome State Fault Refusal :=
  actWord s w.ctl fun ix s' t =>
    match readTx s' t (srcPair s t w.c).toNat with
    | (s', .error e) => (s', some e)
    | (s', .ok d) =>
      match f s' t d (srcPair s t w.b) with
      | (s', .error e) => (s', some e)
      | (s', .ok v) => (pushResult s' ix w.ctl 0 true true t
          { regs := (List.range 4).map fun i => vNum w.a + i, vals := v.map word, preds := [], raise := 0 }, none)

/-- TEX (13 R292). -/
def execTex (w : Wd) (s : State) : Host.Outcome State Fault Refusal :=
  texWord s w fun s t d p => texSample s t d (p.extractLsb' 0 32).toNat (p.extractLsb' 32 32).toNat

/-- TLD (13 R292). -/
def execTld (w : Wd) (s : State) : Host.Outcome State Fault Refusal :=
  texWord s w fun s t d p =>
    readTexel s t d (txResolve (txWrap d) (txWd d) (p.extractLsb' 0 32).toInt) (txResolve (txWrap d) (txHt d) (p.extractLsb' 32 32).toInt)

/-! Images (13 R291, R293). -/

/-- Where a thread's element lies, if inside the image. -/
def imAddr (d : List Byte) (ty : Ty) (p : DWord) : Option Nat :=
  let x := (p.extractLsb' 0 32).toNat
  let y := (p.extractLsb' 32 32).toNat
  if x < txWd d ∧ y < txHt d then some ((txBase d + y * txPitch d + x * ty.bytes) % 2 ^ 64) else none

/-- The elements of the lanes of an image word, and the traps of those whose descriptor has one; or why one waits. -/
def imElems (ts : List ThreadRef) (s : State) (w : Wd) (ty : Ty) :
    State × Except Again (List (ThreadRef × Option Nat) × List (ThreadRef × Trap)) :=
  ts.foldl (fun acc t =>
    match acc with
    | (s, .error e) => (s, .error e)
    | (s, .ok (l, traps)) =>
      match readTx s t (srcPair s t w.c).toNat with
      | (s, .ok d) => (s, .ok (l ++ [(t, imAddr d ty (srcPair s t w.b))], traps))
      | (s, .error e) => (s, match e.again with
        | some why => .error why
        | none => .ok (l, traps ++ [(t, e)]))) (s, .ok ([], []))

/-- An image word: the accesses of the lanes inside their image as those of LD and ST. -/
def imageWord (s : State) (w : Wd) (sh : AccShape) (ty : Ty) (need : Need) (val : State → ThreadRef → DWord)
    (out : ThreadRef → Option LaneOut) (outside : State → Issue → ThreadRef → State) : Host.Outcome State Fault Refusal :=
  match s.issue with
  | none => .next s
  | some ix =>
    match imElems (byLane (activeOf s ix w.ctl)) s w ty with
    | (_, .error why) => .next (holdWord s ix why)
    | (s', .ok (l, traps)) =>
      let ea (t : ThreadRef) : Nat := ((l.find? fun x => x.1 = t).bind (·.2)).getD 0
      let r := checkLanes s' ix.pg ((l.filter fun x => x.2.isSome).map (·.1)) ea ty.bytes need
      let done := (l.filter fun x => x.2.isNone).foldl (fun s x => outside s ix x.1)
        (pushAccs r.1 ix w.ctl sh r.2.ok (val s) (fun _ => 0) out)
      .next (retire (acceptFlags s (takeTraps done ix (traps ++ r.2.traps)) ix w.ctl) ix w.ctl)

/-- IMLD (13 R293): zero outside the image. -/
def execImld (w : Wd) (ty : Ty) (scope : Scope) (ord : MemOrd) (s : State) : Host.Outcome State Fault Refusal :=
  imageWord s w { kind := .load ty, bytes := ty.bytes, scope := scope, ord := ord, nt := false } ty .read (fun _ _ => 0)
    (fun _ => some (later ty (vNum w.a))) fun s ix t => pushResult s ix w.ctl 0 true true t (outTy ty (vNum w.a) 0 0)

/-- IMST (13 R293): dropped outside the image. -/
def execImst (w : Wd) (ty : Ty) (scope : Scope) (ord : MemOrd) (s : State) : Host.Outcome State Fault Refusal :=
  imageWord s w { kind := .store, bytes := ty.bytes, scope := scope, ord := ord, nt := false } ty .write (dataOf w.a)
    (fun _ => none) fun s _ _ => s

end Sys2Proof.Machine
end

