-- ==== Sys2Proof/Machine/Trace.lean ====
section
/-! DEFINITION. Acceleration structures, the traversal unit and node updates (13 R285-R289). -/

namespace Sys2Proof.Machine

/-! Nodes (13 R285). -/

def nodeKind (n : List Byte) : Nat := fieldAt n 4 4 / 2 ^ 30
/-- Word `i` of a node. -/
def nodeF (n : List Byte) (i : Nat) : Nat := fieldAt n (4 * i) 4

/-- A reserved kind, or a nonzero reserved bit. -/
def nodeBad (n : List Byte) : Bool :=
  decide (2 ≤ nodeKind n) || decide (nodeF n 1 % 2 ^ 30 ≠ 0)
    || (decide (nodeKind n = 1) && (decide (nodeF n 3 ≠ 0) || (n.drop 0x34).any (· != 0)))

/-- VA of a node. -/
def nodeVa (root n : Nat) : Nat := (root + 64 * n) % 2 ^ 64

/-- How a fetch of a node ends: its bytes and the reads beyond the first, an odd counter, or a trap or a wait. -/
inductive NodeRead where
  | whole (n : List Byte) (again : Nat)
  | odd
  | bad (x : Trap)
deriving DecidableEq, Repr

/-- A node's bytes at its home or in the window, none of them older than the thread's own writes (15 R313): those on their way there, and
those of a DSM launch that are still to be committed. -/
def homeNode (s : State) (t : ThreadRef) (va : Nat) (tgt : Target) : List Byte :=
  overOwn s t va (match tgt with
    | .dram pa _ => (overQueue s (dieOfThread s t) (pa / 128) (lineBytes s (pa / 128))).drop (pa % 128) |>.take 64
    | .window _ | .demand | .fail _ => readTarget s tgt 64)

/-- Read a node there: its bytes if the counter is even. -/
def evenNode (s : State) (t : ThreadRef) (va : Nat) (tgt : Target) (again : Nat) : NodeRead :=
  let n := homeNode s t va tgt
  if nodeF n 0 % 2 = 0 then .whole n again else .odd

/-- `fetch(n)` (13 R287), relaxed at .dev: the first read may be served by the die L2; an odd node is read again at its home, which within
one step gives one answer. -/
def fetchNode (s : State) (t : ThreadRef) (va : Nat) (first : Bool) : State × NodeRead :=
  if va % 64 ≠ 0 then (s, .bad (plainTrap 0x05 va))
  else
    match resolveNow s t va 64 .read true with
    | (s, .error e) => (s, .bad e)
    | (s, .ok tgt) =>
      let g := s.pg t.pg
      if ownBefore s t va 64 tgt then (s, .bad (againTrap .order))
      else
        match stampNow (countLine s g.core va 0 g.lid tgt.isWindow) t false tgt with
        | (s, false) => (s, .bad (againTrap .log))
        | (s, true) =>
          match tgt with
          | .dram pa false =>
            if first then
              let (s, line) := l2Line s (dieOfCore g.core) (pa / 128)
              let n := overOwn s t va ((line.drop (pa % 128)).take 64)
              (s, if nodeF n 0 % 2 = 0 then .whole n 0 else evenNode s t va tgt 1)
            else (s, evenNode s t va tgt 0)
          | .dram _ true | .window _ => (s, evenNode s t va tgt 0)
          | .demand => (s, .bad (holdTrap va))
          | .fail c => (s, .bad (memTrap c va))

/-! The traversal (13 R286). -/

def f3 (l : List Word) (i : Nat) : Nat := (l.getD i 0).toNat
def mn (a b : Nat) : Nat := minMaxBits fmt32 false a b
def mx (a b : Nat) : Nat := minMaxBits fmt32 true a b
def fsub (a b : Nat) : Nat := fa a (fneg b)
/-- `a ≤ b`; false where either is NaN. -/
def f32Le (a b : Nat) : Bool := match cmpV (f32V a) (f32V b) with
  | some .lt | some .eq => true
  | some .gt | none => false

/-- cross(a, b). -/
def cross (a b : Nat → Nat) (c : Nat) : Nat :=
  let y := (c + 1) % 3
  let z := (c + 2) % 3
  ff (a y) (b z) (fneg (fm (a z) (b y)))

/-- Entry and exit of a box whose words start at `w`, and whether it is hit. -/
def boxHit (ray : List Word) (bestT : Nat) (n : List Byte) (w : Nat) : Nat × Bool :=
  let inv (a : Nat) : Nat := (rcpBits fmt32 (f32V (f3 ray (3 + a)))).1
  let lo (a : Nat) : Nat := fm (fa (nodeF n (w + a)) (fneg (f3 ray a))) (inv a)
  let hi (a : Nat) : Nat := fm (fa (nodeF n (w + 3 + a)) (fneg (f3 ray a))) (inv a)
  let te := [0, 1, 2].foldl (fun x a => mx x (mn (lo a) (hi a))) (f3 ray 6)
  let tx := [0, 1, 2].foldl (fun x a => mn x (mx (lo a) (hi a))) bestT
  (te, f32Le te tx)

/-- The hit children of an interior node, in the order in which they are popped. -/
def childOrder (ray : List Word) (bestT : Nat) (n : List Byte) : List Nat :=
  let l := boxHit ray bestT n 4
  let r := boxHit ray bestT n 10
  let lf := nodeF n 2
  let rt := nodeF n 3
  match l.2, r.2 with
  | true, true => if f32Lt r.1 l.1 then [rt, lf] else [lf, rt]
  | true, false => [lf]
  | false, true => [rt]
  | false, false => []

/-- A triangle's hit (t, u, v) on a ray, with the best so far, if it is accepted. -/
def leafHit (ray best : List Word) (n : List Byte) : Option (List Word) :=
  let p (k a : Nat) : Nat := nodeF n (4 + 3 * k + a)
  let o (a : Nat) : Nat := f3 ray a
  let d (a : Nat) : Nat := f3 ray (3 + a)
  let tab (f : Nat → Nat) : Nat → Nat := fun a => [f 0, f 1, f 2].getD a 0
  let e1 := tab fun a => fsub (p 1 a) (p 0 a)
  let e2 := tab fun a => fsub (p 2 a) (p 0 a)
  let pv := tab (cross d e2)
  let det := dot3 e1 pv
  if (f32V det).isNan || (f32V det).isZero then none
  else
    let id := (rcpBits fmt32 (f32V det)).1
    let sv := tab fun a => fsub (o a) (p 0 a)
    let u := fm (dot3 sv pv) id
    let qv := tab (cross sv e1)
    let v := fm (dot3 d qv) id
    let t := fm (dot3 e2 qv) id
    let prim := nodeF n 2
    if f32Le 0 u && f32Le 0 v && f32Le (fa u v) 0x3F800000 && f32Le (f3 ray 6) t && f32Le t (f3 best 0)
        && (f32Lt t (f3 best 0) || decide (prim < f3 best 1)) then some [word t, word prim, word u, word v]
    else none

/-- How a run of a traversal ends. -/
inductive TraceEnd where
  | done (tv : Trav)
  | wait (tv : Trav)
  | bad (x : Trap)
deriving DecidableEq, Repr

/-- What a node does to a traversal: goes on, has found its answer, or a trap. -/
def visitNode (tv : Trav) (va : Nat) (n : List Byte) (rest : List Nat) : Except Trap (Trav × Bool) :=
  let ill := plainTrap 0x01 va
  if nodeBad n ∨ 2 ^ 20 ≤ tv.visited then .error ill
  else
    let tv := { tv with visited := tv.visited + 1, stack := rest }
    if nodeKind n = 0 then
      let st := childOrder tv.ray (f3 tv.best 0) n ++ rest
      if 64 < st.length then .error ill else .ok ({ tv with stack := st }, false)
    else
      match leafHit tv.ray tv.best n with
      | some b => .ok ({ tv with best := b }, tv.any)
      | none => .ok (tv, false)

/-- Run a traversal until it is done, meets an odd node or faults. `first` is false for a node that is read again. -/
def traceRun (fuel : Nat) (s : State) (tv : Trav) (first : Bool) : State × TraceEnd :=
  match fuel with
  | 0 => (s, .done tv)
  | k + 1 =>
    match tv.stack with
    | [] => (s, .done tv)
    | n :: rest =>
      let va := nodeVa tv.root n
      match fetchNode s tv.th va first with
      | (s, .bad x) => (s, .bad x)
      | (s, .odd) => (s, .wait (if first then { tv with refetched := tv.refetched + 3 } else tv))
      | (s, .whole b again) =>
        match visitNode { tv with refetched := tv.refetched + again } va b rest with
        | .error x => (s, .bad x)
        | .ok (tv, true) => (s, .done tv)
        | .ok (tv, false) => traceRun k s tv true

/-- The results of a traversal, and the statistics ASQ reads (13 R286, R289). -/
def traceVals (tv : Trav) : List Word :=
  if f3 tv.best 1 = 2 ^ 32 - 1 then 0x7F800000 :: tv.best.drop 1 else tv.best
def traceStats (tv : Trav) : Word :=
  word (Nat.min tv.visited 65535 * 65536 + Nat.min tv.refetched 255 * 256 + Nat.min tv.waits 255)

/-- A traversal is complete. -/
def traceDone (s : State) (tv : Trav) : State :=
  modCtx (readyPend s (some tv.pend) (traceVals tv)) tv.th fun c => { c with traceStat := traceStats tv }

/-- One lane of TRACE (13 R286): a fault before any wait is precise. -/
def traceLane (s : State) (ix : Issue) (w : Wd) (any : Bool) (s0 : State) (t : ThreadRef) : State × Option Trap :=
  let n := vNum w.b
  let ray := (List.range 8).map fun i => regOf s0 t (n + i)
  let id := s.w.nextId
  let tv : Trav := { id := id, th := t, pc := ix.pc, space := ix.space, core := ix.core, root := (srcPair s0 t w.c).toNat, ray := ray,
                     any := any, stack := [0], best := [ray.getD 7 0, 0xFFFFFFFF, 0, 0], visited := 0, refetched := 0, waits := 0,
                     pend := id, due := s.clk + 256 }
  let push (s : State) : State := pushResult s ix w.ctl 0 true false t
    { regs := (List.range 4).map fun i => vNum w.a + i, vals := [], preds := [], raise := 0 }
  match traceRun (2 ^ 20 + 1) s tv true with
  | (s, .bad x) => (s, some x)
  | (s, .done tv) => (traceDone (push s) tv, none)
  | (s, .wait tv) => let s := push s; ({ s with w := { s.w with travs := s.w.travs ++ [tv] } }, none)

/-- TRACE (13 R286). -/
def execTrace (w : Wd) (any : Bool) (s : State) : Host.Outcome State Fault Refusal :=
  actWord s w.ctl fun ix s' t => traceLane s' ix w any s t

/-- TRAVERSAL_REFETCH (13 R287): the node is read at its home again once its 256 clk are over; a traversal that a pre-emption has
abandoned (`due` 0) starts again (18 R332). One that has to wait, for a frame or for what stands before a read, tries again in the next
clk. A fault that a traversal meets after a wait is taken where its result would be delivered (log 40). -/
def execTraversalRefetch (id : Nat) (s : State) : Host.Outcome State Fault Refusal :=
  match s.w.travs.find? fun v => v.id = id with
  | none => .next s
  | some tv =>
    if tv.idle || decide (s.clk < tv.due) then .next s
    else
      let again := decide (tv.due = 0)
      let gone (s : State) : State := { s with w := { s.w with travs := s.w.travs.filter fun v => v.id != id } }
      let keep (s : State) (tv : Trav) : State :=
        { s with w := { s.w with travs := s.w.travs.map fun v => if v.id = id then tv else v } }
      match traceRun (2 ^ 20 + 1) s { tv with waits := if again then 0 else tv.waits + 1, due := s.clk + 256, stuck := false } again with
      | (s, .done tv) => .next (traceDone (gone s) tv)
      | (s, .wait tv) => .next (keep s tv)
      | (x, .bad e) => .next (match e.again with
        | some why =>
          let due := if again then 0 else s.clk + 1
          match why with
          | .frame va => keep (demandFill s tv.core tv.space va).1 { tv with due := due, stuck := true }
          | .log => keep { s with ckptForced := true } { tv with due := due, stuck := false }
          | .no | .order | .unit => keep s { tv with due := due, stuck := false }
        | none => { gone x with w := { (gone x).w with pends := x.w.pends.map fun p =>
            if p.id = tv.pend then { p with ready := true, bad := some e } else p } })

/-- ASQ (13 R289): earlier traversals of its threads have completed before it issues (mayIssue). -/
def execAsq (w : Wd) (s : State) : Host.Outcome State Fault Refusal :=
  laneWord s w.ctl 32 false fun s _ t => out1 (vNum w.a) (s.thread t).ctx.traceStat 0

/-! ASUPD (13 R288). -/

/-- ASUPD: one access per lane, in ascending lane position, performed at the home once the counter is even, after a release wait at
.dev. -/
def execAsupd (w : Wd) (s : State) : Host.Outcome State Fault Refusal :=
  match s.issue with
  | none => .next s
  | some ix =>
    let r := checkLanes s ix.pg (activeOf s ix w.ctl) (fun t => effAddr s t w.b w.c) 64 .readWrite
    let lines := dedup (r.2.ok.map fun x => (x.2.1 / 128, x.2.2.isWindow))
    let counted := lines.foldl (fun s l => countLine s ix.core (l.1 * 128) 1 ix.lid l.2) r.1
    let done := r.2.ok.foldl (fun s' x =>
      let ws := (List.range 15).map fun i => regOf s x.1 (vNum w.a + 1 + i)
      pushAcc s' ix w.ctl { kind := .node ws, bytes := 64, scope := .dev, ord := .rel, nt := false } x.2.1 x.2.2 [(x.1, x.2.1)]
        (fun _ => 0) (fun _ => 0) fun _ => none) counted
    .next (retire (acceptFlags s (takeTraps done ix r.2.traps) ix w.ctl) ix w.ctl)

end Sys2Proof.Machine
end

