-- ==== Sys2Proof/Machine/Dispatch.lean ====
section
/-! DEFINITION. The dispatch from an instruction to its meaning: one arm per constructor, each one direct call. -/

namespace Sys2Proof.Machine

def exec (i : Instr) (s : State) : Host.Outcome State Fault Refusal :=
  match i with
  | .illz rest => Sys2Proof.Machine.execIllz rest s
  | .nop w => Sys2Proof.Machine.execNop w s
  | .braD w => Sys2Proof.Machine.execBraD w s
  | .braU w => Sys2Proof.Machine.execBraU w s
  | .brx w => Sys2Proof.Machine.execBrx w s
  | .call w => Sys2Proof.Machine.execCall w s
  | .ret w => Sys2Proof.Machine.execRet w s
  | .reform w => Sys2Proof.Machine.execReform w s
  | .exit w => Sys2Proof.Machine.execExit w s
  | .yield w => Sys2Proof.Machine.execYield w s
  | .waitf w => Sys2Proof.Machine.execWaitf w s
  | .trap w => Sys2Proof.Machine.execTrap w s
  | .bkpt w => Sys2Proof.Machine.execBkpt w s
  | .iadd w ty sat => Sys2Proof.Machine.execIadd w ty sat s
  | .isub w ty sat => Sys2Proof.Machine.execIsub w ty sat s
  | .imul w ty sat => Sys2Proof.Machine.execImul w ty sat s
  | .imulh w ty => Sys2Proof.Machine.execImulh w ty s
  | .imad w ty sat => Sys2Proof.Machine.execImad w ty sat s
  | .imin w ty => Sys2Proof.Machine.execImin w ty s
  | .imax w ty => Sys2Proof.Machine.execImax w ty s
  | .iabs w sat => Sys2Proof.Machine.execIabs w sat s
  | .iadd64 w ty sat => Sys2Proof.Machine.execIadd64 w ty sat s
  | .imul64 w ty sat => Sys2Proof.Machine.execImul64 w ty sat s
  | .lea w ty sh => Sys2Proof.Machine.execLea w ty sh s
  | .idivn w ty sat rem => Sys2Proof.Machine.execIdivn w ty sat rem s
  | .and w => Sys2Proof.Machine.execAnd w s
  | .or w => Sys2Proof.Machine.execOr w s
  | .xor w => Sys2Proof.Machine.execXor w s
  | .andn w => Sys2Proof.Machine.execAndn w s
  | .bfn3 w => Sys2Proof.Machine.execBfn3 w s
  | .shl w => Sys2Proof.Machine.execShl w s
  | .shr w arith => Sys2Proof.Machine.execShr w arith s
  | .rotr w => Sys2Proof.Machine.execRotr w s
  | .bfe w ty => Sys2Proof.Machine.execBfe w ty s
  | .bfi w => Sys2Proof.Machine.execBfi w s
  | .popc w => Sys2Proof.Machine.execPopc w s
  | .clz w => Sys2Proof.Machine.execClz w s
  | .brev w => Sys2Proof.Machine.execBrev w s
  | .bsel w => Sys2Proof.Machine.execBsel w s
  | .icmp w ty cmp comb => Sys2Proof.Machine.execIcmp w ty cmp comb s
  | .sel w ty inv pn => Sys2Proof.Machine.execSel w ty inv pn s
  | .mov w => Sys2Proof.Machine.execMov w s
  | .movi w => Sys2Proof.Machine.execMovi w s
  | .pset w cmp comb => Sys2Proof.Machine.execPset w cmp comb s
  | .p2v w => Sys2Proof.Machine.execP2v w s
  | .v2p w => Sys2Proof.Machine.execV2p w s
  | .xlane w ty pn mode => Sys2Proof.Machine.execXlane w ty pn mode s
  | .vote w form => Sys2Proof.Machine.execVote w form s
  | .teamid w => Sys2Proof.Machine.execTeamid w s
  | .fadd w => Sys2Proof.Machine.execFadd w s
  | .fsub w => Sys2Proof.Machine.execFsub w s
  | .fmul w => Sys2Proof.Machine.execFmul w s
  | .ffma w => Sys2Proof.Machine.execFfma w s
  | .fmin w => Sys2Proof.Machine.execFmin w s
  | .fmax w => Sys2Proof.Machine.execFmax w s
  | .fcmp w cmp comb => Sys2Proof.Machine.execFcmp w cmp comb s
  | .frnd w rm => Sys2Proof.Machine.execFrnd w rm s
  | .fchk w => Sys2Proof.Machine.execFchk w s
  | .fflags w => Sys2Proof.Machine.execFflags w s
  | .dadd w => Sys2Proof.Machine.execDadd w s
  | .dmul w => Sys2Proof.Machine.execDmul w s
  | .dfma w => Sys2Proof.Machine.execDfma w s
  | .dmin w => Sys2Proof.Machine.execDmin w s
  | .dmax w => Sys2Proof.Machine.execDmax w s
  | .dcmp w cmp comb => Sys2Proof.Machine.execDcmp w cmp comb s
  | .drnd w rm => Sys2Proof.Machine.execDrnd w rm s
  | .hadd2 w ty => Sys2Proof.Machine.execHadd2 w ty s
  | .hmul2 w ty => Sys2Proof.Machine.execHmul2 w ty s
  | .hfma2 w ty => Sys2Proof.Machine.execHfma2 w ty s
  | .hmin2 w ty => Sys2Proof.Machine.execHmin2 w ty s
  | .hmax2 w ty => Sys2Proof.Machine.execHmax2 w ty s
  | .hdot2 w ty => Sys2Proof.Machine.execHdot2 w ty s
  | .idot4 w ty sat => Sys2Proof.Machine.execIdot4 w ty sat s
  | .rcp w ty => Sys2Proof.Machine.execRcp w ty s
  | .rsq w ty => Sys2Proof.Machine.execRsq w ty s
  | .sqrt w ty => Sys2Proof.Machine.execSqrt w ty s
  | .exp2 w => Sys2Proof.Machine.execExp2 w s
  | .log2 w => Sys2Proof.Machine.execLog2 w s
  | .sin w => Sys2Proof.Machine.execSin w s
  | .cos w => Sys2Proof.Machine.execCos w s
  | .tanh w => Sys2Proof.Machine.execTanh w s
  | .cvt w ty sty sat => Sys2Proof.Machine.execCvt w ty sty sat s
  | .cvts w ty sat => Sys2Proof.Machine.execCvts w ty sat s
  | .pack8 w ty sat hi => Sys2Proof.Machine.execPack8 w ty sat hi s
  | .unpack8 w ty => Sys2Proof.Machine.execUnpack8 w ty s
  | .cbdec w => Sys2Proof.Machine.execCbdec w s
  | .scale w => Sys2Proof.Machine.execScale w s
  | .draw w => Sys2Proof.Machine.execDraw w s
  | .drawf w => Sys2Proof.Machine.execDrawf w s
  | .drawb w => Sys2Proof.Machine.execDrawb w s
  | .cvpos w => Sys2Proof.Machine.execCvpos w s
  | .cvscore w => Sys2Proof.Machine.execCvscore w s
  | .ld w ty scope ord nt => Sys2Proof.Machine.execLd w ty scope ord nt s
  | .st w ty scope ord nt => Sys2Proof.Machine.execSt w ty scope ord nt s
  | .pref w l1 => Sys2Proof.Machine.execPref w l1 s
  | .ldk w ty => Sys2Proof.Machine.execLdk w ty s
  | .lda w ty scope ord => Sys2Proof.Machine.execLda w ty scope ord s
  | .sta w ty scope ord => Sys2Proof.Machine.execSta w ty scope ord s
  | .ldc w ty => Sys2Proof.Machine.execLdc w ty s
  | .stc w ty => Sys2Proof.Machine.execStc w ty s
  | .atom w ty scope ord => Sys2Proof.Machine.execAtom w ty scope ord s
  | .cas w ty scope ord => Sys2Proof.Machine.execCas w ty scope ord s
  | .red w ty scope ord => Sys2Proof.Machine.execRed w ty scope ord s
  | .fred w ty scope ord => Sys2Proof.Machine.execFred w ty scope ord s
  | .redobjInit w ty scope ord => Sys2Proof.Machine.execRedobjInit w ty scope ord s
  | .redobjFold w ty scope ord => Sys2Proof.Machine.execRedobjFold w ty scope ord s
  | .fence w scope ord => Sys2Proof.Machine.execFence w scope ord s
  | .cflush w => Sys2Proof.Machine.execCflush w s
  | .cinv w icache => Sys2Proof.Machine.execCinv w icache s
  | .hwsig w ty => Sys2Proof.Machine.execHwsig w ty s
  | .bcopy w => Sys2Proof.Machine.execBcopy w s
  | .bgath w => Sys2Proof.Machine.execBgath w s
  | .bscat w => Sys2Proof.Machine.execBscat w s
  | .tgwait w chk => Sys2Proof.Machine.execTgwait w chk s
  | .tgany w err => Sys2Proof.Machine.execTgany w err s
  | .tgfirst w err => Sys2Proof.Machine.execTgfirst w err s
  | .tgclr w => Sys2Proof.Machine.execTgclr w s
  | .aslice w => Sys2Proof.Machine.execAslice w s
  | .qpop w => Sys2Proof.Machine.execQpop w s
  | .qstat w => Sys2Proof.Machine.execQstat w s
  | .qend w => Sys2Proof.Machine.execQend w s
  | .macq w => Sys2Proof.Machine.execMacq w s
  | .mrel w => Sys2Proof.Machine.execMrel w s
  | .gang w => Sys2Proof.Machine.execGang w s
  | .resv w => Sys2Proof.Machine.execResv w s
  | .rfree w => Sys2Proof.Machine.execRfree w s
  | .cbld w => Sys2Proof.Machine.execCbld w s
  | .mma w aty => Sys2Proof.Machine.execMma w aty s
  | .mmas w aty => Sys2Proof.Machine.execMmas w aty s
  | .mzero w => Sys2Proof.Machine.execMzero w s
  | .mdrain w => Sys2Proof.Machine.execMdrain w s
  | .mfill w => Sys2Proof.Machine.execMfill w s
  | .mwait w => Sys2Proof.Machine.execMwait w s
  | .mdep w => Sys2Proof.Machine.execMdep w s
  | .vmma w aty => Sys2Proof.Machine.execVmma w aty s
  | .vmmai w => Sys2Proof.Machine.execVmmai w s
  | .vfrag w aty tr => Sys2Proof.Machine.execVfrag w aty tr s
  | .bara w => Sys2Proof.Machine.execBara w s
  | .barw w => Sys2Proof.Machine.execBarw w s
  | .baraw w => Sys2Proof.Machine.execBaraw w s
  | .barq w => Sys2Proof.Machine.execBarq w s
  | .teamj w => Sys2Proof.Machine.execTeamj w s
  | .tenq w q => Sys2Proof.Machine.execTenq w q s
  | .targ w => Sys2Proof.Machine.execTarg w s
  | .dcnew w => Sys2Proof.Machine.execDcnew w s
  | .dcdec w => Sys2Proof.Machine.execDcdec w s
  | .dcq w => Sys2Proof.Machine.execDcq w s
  | .launch w => Sys2Proof.Machine.execLaunch w s
  | .mutl w => Sys2Proof.Machine.execMutl w s
  | .sproj w => Sys2Proof.Machine.execSproj w s
  | .ssort w => Sys2Proof.Machine.execSsort w s
  | .sfetch w kn => Sys2Proof.Machine.execSfetch w kn s
  | .cdep w => Sys2Proof.Machine.execCdep w s
  | .cwmark w => Sys2Proof.Machine.execCwmark w s
  | .cread w => Sys2Proof.Machine.execCread w s
  | .crlist w => Sys2Proof.Machine.execCrlist w s
  | .cadj w => Sys2Proof.Machine.execCadj w s
  | .crst w => Sys2Proof.Machine.execCrst w s
  | .crstRel w => Sys2Proof.Machine.execCrstRel w s
  | .rproj w => Sys2Proof.Machine.execRproj w s
  | .rwlist w => Sys2Proof.Machine.execRwlist w s
  | .trace w any => Sys2Proof.Machine.execTrace w any s
  | .asupd w => Sys2Proof.Machine.execAsupd w s
  | .asq w => Sys2Proof.Machine.execAsq w s
  | .tex w => Sys2Proof.Machine.execTex w s
  | .tld w => Sys2Proof.Machine.execTld w s
  | .imst w ty scope ord => Sys2Proof.Machine.execImst w ty scope ord s
  | .imld w ty scope ord => Sys2Proof.Machine.execImld w ty scope ord s
  | .srd w d => Sys2Proof.Machine.execSrd w d s
  | .swr w => Sys2Proof.Machine.execSwr w s
  | .clk w => Sys2Proof.Machine.execClk w s
  | .wtime w => Sys2Proof.Machine.execWtime w s
  | .sigrd w => Sys2Proof.Machine.execSigrd w s
  | .tretRes w => Sys2Proof.Machine.execTretRes w s
  | .tretRst w => Sys2Proof.Machine.execTretRst w s
  | .tretTerm w => Sys2Proof.Machine.execTretTerm w s
  | .tqrd w => Sys2Proof.Machine.execTqrd w s
  | .killg w scope => Sys2Proof.Machine.execKillg w scope s
  | .privw w d => Sys2Proof.Machine.execPrivw w d s
  | .mfrz w => Sys2Proof.Machine.execMfrz w s
  | .mfrzThaw w => Sys2Proof.Machine.execMfrzThaw w s
  | .ctxq w => Sys2Proof.Machine.execCtxq w s
  | .progress w => Sys2Proof.Machine.execProgress w s
  | .mark w => Sys2Proof.Machine.execMark w s
  | .stopp w => Sys2Proof.Machine.execStopp w s
  | .securityAlarm srcs => Sys2Proof.Machine.execSecurityAlarm srcs s
  | .pendingFrameCopied frame => Sys2Proof.Machine.execPendingFrameCopied frame s
  | .coreGroupPlacement lid dgid => Sys2Proof.Machine.execCoreGroupPlacement lid dgid s
  | .taskStart lid dgid => Sys2Proof.Machine.execTaskStart lid dgid s
  | .coreGroupEnd cg => Sys2Proof.Machine.execCoreGroupEnd cg s
  | .launchEnd lid => Sys2Proof.Machine.execLaunchEnd lid s
  | .binDraw part => Sys2Proof.Machine.execBinDraw part s
  | .overflowMove part => Sys2Proof.Machine.execOverflowMove part s
  | .binAged part bin => Sys2Proof.Machine.execBinAged part bin s
  | .agedGroupFiling part pos => Sys2Proof.Machine.execAgedGroupFiling part pos s
  | .stallExpiry part pos => Sys2Proof.Machine.execStallExpiry part pos s
  | .yieldExpiry pg tid => Sys2Proof.Machine.execYieldExpiry pg tid s
  | .clauseFetchComplete part pg va => Sys2Proof.Machine.execClauseFetchComplete part pg va s
  | .fixedResultWrite id => Sys2Proof.Machine.execFixedResultWrite id s
  | .variableResultComplete id => Sys2Proof.Machine.execVariableResultComplete id s
  | .dsmSlotAdvance cg => Sys2Proof.Machine.execDsmSlotAdvance cg s
  | .dsmPhaseBoundary cg => Sys2Proof.Machine.execDsmPhaseBoundary cg s
  | .dsmEventDelivery cg id => Sys2Proof.Machine.execDsmEventDelivery cg id s
  | .dsmPhaseCommit lid => Sys2Proof.Machine.execDsmPhaseCommit lid s
  | .barrierRelease lid bar => Sys2Proof.Machine.execBarrierRelease lid bar s
  | .trapDelivery pg => Sys2Proof.Machine.execTrapDelivery pg s
  | .coreGroupRelaunch cg => Sys2Proof.Machine.execCoreGroupRelaunch cg s
  | .timerExpiry pg tid => Sys2Proof.Machine.execTimerExpiry pg tid s
  | .watchpointDeferred id => Sys2Proof.Machine.execWatchpointDeferred id s
  | .preemptGraceExpiry lid => Sys2Proof.Machine.execPreemptGraceExpiry lid s
  | .preemptStopComplete lid => Sys2Proof.Machine.execPreemptStopComplete lid s
  | .translationWalkComplete core space va need => Sys2Proof.Machine.execTranslationWalkComplete core space va need s
  | .demandZeroFill core space va => Sys2Proof.Machine.execDemandZeroFill core space va s
  | .homeAccessPerform id => Sys2Proof.Machine.execHomeAccessPerform id s
  | .windowAccess id => Sys2Proof.Machine.execWindowAccess id s
  | .hotnessSample core => Sys2Proof.Machine.execHotnessSample core s
  | .stallSample part => Sys2Proof.Machine.execStallSample part s
  | .copyComplete id => Sys2Proof.Machine.execCopyComplete id s
  | .codebookSwap id => Sys2Proof.Machine.execCodebookSwap id s
  | .reservationClearComplete core num => Sys2Proof.Machine.execReservationClearComplete core num s
  | .engineGrant core => Sys2Proof.Machine.execEngineGrant core s
  | .matrixOpStart core => Sys2Proof.Machine.execMatrixOpStart core s
  | .matrixOpComplete core => Sys2Proof.Machine.execMatrixOpComplete core s
  | .drainPortComplete core id => Sys2Proof.Machine.execDrainPortComplete core id s
  | .streamFetch pg q tid => Sys2Proof.Machine.execStreamFetch pg q tid s
  | .projectionComplete id => Sys2Proof.Machine.execProjectionComplete id s
  | .sortComplete id => Sys2Proof.Machine.execSortComplete id s
  | .reprojectionComplete id => Sys2Proof.Machine.execReprojectionComplete id s
  | .worklistComplete id => Sys2Proof.Machine.execWorklistComplete id s
  | .traversalRefetch id => Sys2Proof.Machine.execTraversalRefetch id s
  | .whiskBuild job => Sys2Proof.Machine.execWhiskBuild job s
  | .whiskJudge job => Sys2Proof.Machine.execWhiskJudge job s
  | .connectionLost conn => Sys2Proof.Machine.execConnectionLost conn s
  | .refusedDeliveryMode conn hdr => Sys2Proof.Machine.execRefusedDeliveryMode conn hdr s
  | .powerGood => Sys2Proof.Machine.execPowerGood s
  | .bringupPhaseComplete => Sys2Proof.Machine.execBringupPhaseComplete s
  | .port0Retrain => Sys2Proof.Machine.execPort0Retrain s
  | .powerLoss => Sys2Proof.Machine.execPowerLoss s
  | .powerThrottleStep => Sys2Proof.Machine.execPowerThrottleStep s
  | .eccCorrection => Sys2Proof.Machine.execEccCorrection s
  | .uncorrectableError => Sys2Proof.Machine.execUncorrectableError s
  | .replayComplete => Sys2Proof.Machine.execReplayComplete s
  | .checkpointStart => Sys2Proof.Machine.execCheckpointStart s
  | .checkpointValid => Sys2Proof.Machine.execCheckpointValid s
  | .launchAccept => Sys2Proof.Machine.execLaunchAccept s
  | .trialWindowEnd => Sys2Proof.Machine.execTrialWindowEnd s
  | .signalSend => Sys2Proof.Machine.execSignalSend s
  | .launchMessage => Sys2Proof.Machine.execLaunchMessage s
  | .write => Sys2Proof.Machine.execWrite s
  | .read => Sys2Proof.Machine.execRead s
  | .flushData => Sys2Proof.Machine.execFlushData s
  | .flushDataAndTlb => Sys2Proof.Machine.execFlushDataAndTlb s
  | .windowRead => Sys2Proof.Machine.execWindowRead s
  | .windowWrite => Sys2Proof.Machine.execWindowWrite s
  | .windowFetchAdd => Sys2Proof.Machine.execWindowFetchAdd s
  | .preemptStopAndSave => Sys2Proof.Machine.execPreemptStopAndSave s
  | .preemptWithNotice => Sys2Proof.Machine.execPreemptWithNotice s
  | .restore => Sys2Proof.Machine.execRestore s
  | .kill => Sys2Proof.Machine.execKill s
  | .checkpointControlRead => Sys2Proof.Machine.execCheckpointControlRead s
  | .checkpointControlWrite => Sys2Proof.Machine.execCheckpointControlWrite s
  | .raceCountEnable => Sys2Proof.Machine.execRaceCountEnable s
  | .checkpointRestore => Sys2Proof.Machine.execCheckpointRestore s
  | .managementRead => Sys2Proof.Machine.execManagementRead s
  | .managementWrite => Sys2Proof.Machine.execManagementWrite s
  | .hotnessEnable => Sys2Proof.Machine.execHotnessEnable s
  | .freeFramesAdd => Sys2Proof.Machine.execFreeFramesAdd s
  | .samplingEnable => Sys2Proof.Machine.execSamplingEnable s
  | .trialEnable => Sys2Proof.Machine.execTrialEnable s
  | .trialDisable => Sys2Proof.Machine.execTrialDisable s
  | .managementReset => Sys2Proof.Machine.execManagementReset s
  | .imageWrite => Sys2Proof.Machine.execImageWrite s
  | .imageCommit => Sys2Proof.Machine.execImageCommit s
  | .debugClaim => Sys2Proof.Machine.execDebugClaim s
  | .debugRelease => Sys2Proof.Machine.execDebugRelease s
  | .armTrace => Sys2Proof.Machine.execArmTrace s
  | .stopPartition => Sys2Proof.Machine.execStopPartition s
  | .resume => Sys2Proof.Machine.execResume s
  | .readDump => Sys2Proof.Machine.execReadDump s
  | .setWatchpoint => Sys2Proof.Machine.execSetWatchpoint s
  | .copyToPeer => Sys2Proof.Machine.execCopyToPeer s
  | .copyFromPeer => Sys2Proof.Machine.execCopyFromPeer s
  | .sessionOpen => Sys2Proof.Machine.execSessionOpen s
  | .sessionClose => Sys2Proof.Machine.execSessionClose s
  | .createAddressSpace => Sys2Proof.Machine.execCreateAddressSpace s
  | .destroyAddressSpace => Sys2Proof.Machine.execDestroyAddressSpace s
  | .malformedMessage => Sys2Proof.Machine.execMalformedMessage s

end Sys2Proof.Machine
end

