-- ==== Sys2Proof/Machine/Step.lean ====
section
/-! DEFINITION. One step of the device (log 2): the next action of a replay, of the agenda, a message that waits, or the first event that
is due; and the state in which a given word issues next. -/

namespace Sys2Proof.Machine

/-- The state an outcome goes on with. -/
def outState (s : State) (o : Host.Outcome State Fault Refusal) : State :=
  match o with
  | .next t => t
  | .fault _ | .refused _ => s

/-- A message's bytes come to the device on a connection: its row runs with the message in the receive register (24 R389, R395). -/
def deliverMsg (s : State) (conn : Nat) (bs : List Byte) : Host.Outcome State Fault Refusal :=
  let x := decodeMessage conn bs
  exec x.1 { s with rx := x.2 }

/-- An earlier message of an ordered connection has not been performed (24 R395). -/
def mustQueue (s : State) (conn : Nat) : Bool :=
  connOrdered conn && (s.inbox.any (fun x => decide (x.1 = conn)) || underWay s fun c => decide (c = conn))

/-- One action. -/
def act (a : Action) (s : State) : Host.Outcome State Fault Refusal :=
  match a with
  | .event i => if isEvent i then exec i s else .next s
  | .issue c => if issueNow s c.part c.pos then issueGroup exec c.part c.pos s else .next s
  | .tick => .next (tick s)
  | .message conn bs => if mustQueue s conn then .next { s with inbox := s.inbox ++ [(conn, bs)] } else deliverMsg s conn bs
  | .environment e => .next (environment s e)

/-- Keep an action in the account of what has happened since the last checkpoint (20 R365, log 44). The beginning of a checkpoint marks the
account itself. -/
def logAction (a : Action) (s : State) : State :=
  if s.ckpts.isEmpty ∨ (a = .event .checkpointStart ∧ s.replay.isNone) then s else { s with logData := a :: s.logData }

/-- A message goes on waiting: it has still to be performed. -/
def waitsOn (a : Action) (s t : State) : Bool :=
  match a with
  | .message _ _ => decide (s.inbox.length < t.inbox.length)
  | .event _ | .issue _ | .tick | .environment _ => false

/-- An action with its entry in the account. -/
def perform (a : Action) (s : State) : Host.Outcome State Fault Refusal :=
  match act a s with
  | .next t => .next (if waitsOn a s t then t else logAction a t)
  | .fault f => .fault f
  | .refused r => .refused r

/-- An action of a replay (18 R339). A message of it comes before those that have arrived meanwhile and wait (24 R395). -/
def performAgain (a : Action) (s : State) : Host.Outcome State Fault Refusal :=
  match perform a { s with inbox := [] } with
  | .next t => .next { t with inbox := t.inbox ++ s.inbox }
  | .fault f => .fault f
  | .refused r => .refused r

/-- Try a waiting message again: those before it keep their places, and so does it if it goes on waiting. -/
def retryMsg (s : State) (i : Nat) : Option (State × Action) :=
  match s.inbox[i]? with
  | none => none
  | some (conn, bs) =>
    let before := s.inbox.take i
    if mustQueue { s with inbox := before } conn then none
    else
      let t := outState s (deliverMsg { s with inbox := before } conn bs)
      if t.inbox.length ≤ i then some ({ t with inbox := t.inbox ++ s.inbox.drop (i + 1) }, .message conn bs) else none

/-- The first waiting message that can be performed. -/
def nextRetry (s : State) : Option (State × Action) :=
  if s.replay.isSome then none else (List.range s.inbox.length).findSome? (retryMsg s)

/-- A candidate is due: it achieves something. -/
def isDue (s : State) (a : Action) : Bool :=
  match a with
  | .event i => achieved i s (outState s (exec i s))
  | .issue _ | .tick | .message _ _ | .environment _ => true

/-- The action of a step without a choice of its own: a due event, else the passing of a clk. -/
def nextAction (s : State) : Action := ((candidates s).find? (isDue s)).getD .tick

/-- The step when the agenda names nothing. -/
def stepFree (s : State) : Host.Outcome State Fault Refusal :=
  if !s.mgmt.powered then .fault .unpowered
  else
    match nextRetry s with
    | some (t, a) => .next (logAction a t)
    | none => perform (nextAction s) s

/-- The step at the head of the agenda. During a replay a message waits (18 R339), and no checkpoint begins. -/
def stepAgenda (a : Action) (s : State) : Host.Outcome State Fault Refusal :=
  match a, s.replay with
  | .message conn bs, some _ => .next { s with inbox := s.inbox ++ [(conn, bs)] }
  | .event .checkpointStart, some _ => .next s
  | _, _ => perform a s

/-- One step: the head of the agenda, else of a replay, else what is due. -/
def step (s : State) : Host.Outcome State Fault Refusal :=
  match s.agenda with
  | a :: rest => stepAgenda a { s with agenda := rest }
  | [] =>
    match s.replay with
    | none => stepFree s
    | some r => match r.left with
      | a :: left => performAgain a { s with replay := some { r with left := left } }
      | [] => stepFree s

/-- The state with a word of the opcode table, its bits numbered as the table numbers them, where the next step issues from: the group of
thread 0 of launch 1 stands at it, and the agenda names its issue. -/
def State.withFetchWord (s : State) (_nbits w : Nat) : State :=
  let x := wordOfBytes (bytesOfWord (BitVec.ofNat 96 w))
  { s with w := readyWorld s.w x, mgmt := readyMgmt s.mgmt, agenda := [.issue { part := 0, pos := 0 }], replay := none }

end Sys2Proof.Machine
end

