-- ==== Sys2Proof/Safety.lean ====
section
/-! DEFINITION. What counts as a safe run, and the words in which claims about the device are stated: memory in its canonical form, what
a word puts in flight, what it leaves alone, a word that acts lane by lane, a message that its session may send. -/

namespace Sys2Proof.Machine

/-! Safe runs. -/

/-- Memory and window of a world stand in the one canonical form. -/
def World.canonical (w : World) : Prop := w.mem.wf = true ∧ w.window.wf = true

/-- Memory and window stand in the canonical form, now and in every checkpoint that a rollback may bring back (18 R338, 20 R358). -/
def State.canonical (s : State) : Prop := s.w.canonical ∧ ∀ c ∈ s.ckpts, c.world.canonical

/-- A step is safe from a state: it goes on, and memory stays canonical. Without power and without an action nothing executes. -/
def safeStep (s : State) : Prop :=
  match step s with
  | .next t => t.canonical
  | .fault _ => s.mgmt.powered = false
  | .refused _ => False

/-! What the lanes of a word put in flight (02 R34, R36, R42; 06 R131). -/

/-- The result in flight that the `k`th guard-true thread of a word gives: due at its latency, or for a variable one at once and under
DSM 64 slots after its issue. -/
def laneEntry (s : State) (ix : Issue) (c : Ctl) (lat : Nat) (isVar : Bool) (k : Nat) (t : ThreadRef) (o : LaneOut) : Pend :=
  { id := s.w.nextId + k, th := t, site := siteOf ix, isVar := isVar, ready := true, regs := o.regs, vals := o.vals, preds := o.preds,
    raise := o.raise, cflags := flagsOf ix c, holds := false, bad := none,
    due := if isVar then (if (s.launch ix.lid).lr.dsm then timeOf s ix.cg + 64 else timeOf s ix.cg) else timeOf s ix.cg + lat }

/-- Every thread keeps its registers, predicates, sticky flags, region count, choice state, trap registers, pc, place and wait: all but
its completion counts, its count of retired words and its timer. -/
def threadsKept (s e : State) : Prop :=
  ∀ r, e.thread r = { s.thread r with ctx := { (s.thread r).ctx with flags := (e.thread r).ctx.flags, retired := (e.thread r).ctx.retired },
                                      timer := (e.thread r).timer }

/-- A thread of the issuing group that exists. -/
def inGroup (s : State) (ix : Issue) (r : ThreadRef) : Prop := r.pg = ix.pg ∧ r.tid ∈ ix.tids ∧ r.tid < (s.pg ix.pg).threads.length

/-- A word is counted once by each thread of its group (06 R135), and by no other. -/
def countedOnce (s e : State) (ix : Issue) : Prop :=
  ∀ r, (inGroup s ix r → (e.thread r).ctx.retired = (s.thread r).ctx.retired + 1)
    ∧ (¬ inGroup s ix r → (e.thread r).ctx.retired = (s.thread r).ctx.retired)

/-- The completion flags a word names count one more for each thread in `ts`, and none for any other thread (02 R36). -/
def flagsRaised (s e : State) (ix : Issue) (c : Ctl) (ts : List ThreadRef) : Prop :=
  ∀ r, (r ∈ ts → r.tid < (s.pg r.pg).threads.length →
      (e.thread r).ctx.flags = (flagsOf ix c).foldl (fun l i => l.modify i (· + 1)) (s.thread r).ctx.flags)
    ∧ (r ∉ ts → (e.thread r).ctx.flags = (s.thread r).ctx.flags)

/-- `i` is a word whose only effect is one result in flight for each of its guard-true threads, all sources read before any result: it
completes from every state in which a group issues it. The group goes on from `e` to its next word or header; between `s` and `e`
nothing changes but the results in flight, the counts of the group's threads, the partitions and a running trial's counters. -/
def givesResults (i : Instr) (c : Ctl) (lat : Nat) (isVar : Bool) (out : State → Issue → ThreadRef → LaneOut) : Prop :=
  ∀ s ix, s.issue = some ix → ∃ e, exec i s = .next (advance e ix)
    ∧ e.w.pends = s.w.pends ++ (activeOf s ix c).mapIdx (fun k t => laneEntry s ix c lat isVar k t (out s ix t))
    ∧ threadsKept s e
    ∧ (ix.tids.Nodup → countedOnce s e ix ∧ flagsRaised s e ix c (activeOf s ix c))
    ∧ e = { s with w := { s.w with pends := e.w.pends, pgs := e.w.pgs, parts := e.w.parts, nextId := e.w.nextId }, trial := e.trial }

/-- The result of an integer word (07 R148): the exact value `x`, wrapped; with `.sat` clamped, the sticky flag raised where clamping
changes it (03 R55, R56). -/
def intResult (ty : Ty) (sat : Bool) (d : Nat) (x : Int) : LaneOut :=
  outTy ty d (wrapBits ty (if sat then satInt ty x else x)) (if sat ∧ satInt ty x ≠ x then flSat else 0)

/-! Words that act on the state as a whole, or lane by lane. -/

/-- `i` is a word whose effect is `f`: it completes from every state in which a group issues it, its completion flags and its issue slot
follow (02 R34, R36), and its group goes on. -/
def actsAs (i : Instr) (c : Ctl) (f : Issue → State → State) : Prop :=
  ∀ s ix, s.issue = some ix → exec i s = .next (retire (acceptFlags s (f ix s) ix c) ix c)

/-- A word that files its threads: the group is dissolved instead of going on (06 R117). -/
def filesAs (i : Instr) (c : Ctl) (f : Issue → State → State) : Prop :=
  ∀ s ix, s.issue = some ix → exec i s = .next (spendSlot (acceptFlags s (f ix s) ix c) ix c)

/-- A run of lanes, one after the other, each a step from the state that the one before it left. -/
inductive Lanes (lane : State → ThreadRef → State → Prop) : State → List ThreadRef → State → Prop where
  | nil (s : State) : Lanes lane s [] s
  | cons {a b c : State} {t : ThreadRef} {ts : List ThreadRef} : lane a t b → Lanes lane b ts c → Lanes lane a (t :: ts) c

/-- `i` is a word that acts for its guard-true threads in ascending `tid` (02 R47): where every lane can make its step, `lane`, the word
completes with what the lanes have done. -/
def actsByLane (i : Instr) (c : Ctl) (lane : State → Issue → State → ThreadRef → State → Prop) : Prop :=
  ∀ s ix e, s.issue = some ix → Lanes (lane s ix) s (activeOf s ix c) e → exec i s = .next (retire (acceptFlags s e ix c) ix c)

/-- A run of lanes each of which acts or traps, one after the other from the state that the one before it left: the traps, in their order.
None has to wait. -/
inductive TrapLanes (lane : State → ThreadRef → State × Option Trap) : State → List ThreadRef → State → List (ThreadRef × Trap) → Prop where
  | nil (s : State) : TrapLanes lane s [] s []
  | acts {a b c : State} {t : ThreadRef} {ts : List ThreadRef} {l : List (ThreadRef × Trap)} :
      lane a t = (b, none) → TrapLanes lane b ts c l → TrapLanes lane a (t :: ts) c l
  | traps {a b c : State} {t : ThreadRef} {ts : List ThreadRef} {l : List (ThreadRef × Trap)} {x : Trap} :
      lane a t = (b, some x) → x.again = none → TrapLanes lane b ts c l → TrapLanes lane a (t :: ts) c ((t, x) :: l)

/-- `i` is a memory word that acts in the step that issues it: its guard-true lanes act in ascending lane position (08 R185), and the traps
are then taken in ascending `tid` (R181); it completes where no lane has to wait. -/
def actsInLaneOrder (i : Instr) (c : Ctl) (lane : State → Issue → State → ThreadRef → State × Option Trap) : Prop :=
  ∀ s ix e l, s.issue = some ix → TrapLanes (lane s ix) s (byLane (activeOf s ix c)) e l →
    exec i s = .next (retire (acceptFlags s (takeTraps e ix l) ix c) ix c)

/-- A lane that has made its step, or has taken its trap; one that has to wait takes neither. -/
def stepsOrTraps (r : State × Option Trap) (ix : Issue) (t : ThreadRef) (b : State) : Prop :=
  r = (b, none) ∨ ∃ a x, r = (a, some x) ∧ x.again = none ∧ b = trapAt a ix t.tid x

/-- Such a word of an engine: its group goes on, unless an operation waits for lock entries (09 R211), which holds it at the word. -/
def actsOnEngine (i : Instr) (c : Ctl) (lane : State → Issue → State → ThreadRef → State → Prop) : Prop :=
  ∀ s ix e, s.issue = some ix → Lanes (lane s ix) s (activeOf s ix c) e →
    let waits := waitsLocks e ix.pg ix.tids
    let u := spendSlot (acceptFlagsAs waits s e ix c) ix c
    exec i s = .next (if waits then modGroup u ix.part ix.pos fun g => { g with hold := .locks } else advance u ix)

/-- Such a word of the Ladle (12 R270-R277), whose lanes that are done do not act again: each lane asks for an operation, for none, or
traps; its group waits in place for `stall` clk or for the acceptance of an operation that holds it. -/
def asksLadle (i : Instr) (c : Ctl) (stall : Nat) (ask : State → Issue → State → ThreadRef → State × Except Trap (Option LadleReq)) : Prop :=
  ∀ s ix e, s.issue = some ix →
    Lanes (fun a t b => match ask s ix a t with
      | (x, .error tr) => tr.again = none ∧ b = trapAt x ix t.tid tr
      | (x, .ok none) => b = x
      | (x, .ok (some q)) => sendLadle x ix c t q = (b, none)) s
      ((activeOf s ix c).filter fun t => !(s.group ix.part ix.pos).did.contains t.tid) e →
    let u := spendSlot (acceptFlags s e ix c) ix c
    let holds := (u.core ix.core).ladleQ.any fun o => decide (o.th.pg = ix.pg) && ix.tids.contains o.th.tid && o.holds u ix.core
    exec i s = .next (if activeOf s ix c = [] ∨ (stall = 0 ∧ holds = false) then advance u ix
      else modGroup u ix.part ix.pos fun g =>
        { g with hold := .ladle, stall := Nat.max g.stall stall, ready := g.ready && decide (stall = 0) })

/-! Messages. -/

/-- The message in the receive register may be performed as far as its session goes (24 R391-R395): the device is powered, its port is up,
it is not in the safe talkative state, and the connection has a session, with the management role where `mgmt` asks for it. -/
def admitted (s : State) (mgmt : Bool) : Prop :=
  s.mgmt.powered = true ∧ s.mgmt.ports.getLsbD (connPort s.rx.conn) = true ∧ s.mgmt.safe = false ∧ (rxSession s).isSome = true
    ∧ (mgmt = true → rxManagement s = true)

/-- The response of 24 R389 to the message in the receive register, at the end of what the device has to send. -/
def answered (s : State) (status result : Nat) (payload : List Byte) : State :=
  if s.replay.isSome then s
  else { s with outbox := s.outbox ++ [{ conn := s.rx.conn, cls := s.rx.cls ||| 0x80, op := s.rx.op, tag := s.rx.tag,
                                         addr := BitVec.ofNat 64 (result % 2 ^ 56 * 256 + status), payload := payload }] }

end Sys2Proof.Machine
end

