-- ==== Sys2Proof/Certificates/Slice0/Obligations.lean ====
section
/-! DEFINITION. The statements about this model: what each instruction, event and message does as the rules of the specification say, what
it leaves alone, that it completes, and the invariants of a step. -/

open Sys2Proof Sys2Proof.Machine

/-! Words of one result per lane (07; 02 R34, R36). -/

/-- 07 R148: the integer words of fixed latency complete and give the wrapped or clamped exact value of their operands; IMULH gives bits
63 to 32 of the exact product, IMAD adds register A, LEA adds a shifted index to a 64-bit base. -/
def Obligations.IntegerWordsGiveTheirExactValue : Prop :=
  ∀ (w : Wd) (ty : Ty) (sat : Bool) (sh : BitVec 3),
    (let op := fun (lat : Nat) (sat : Bool) (f : State → ThreadRef → Int) (i : Instr) =>
        givesResults i w.ctl lat false fun s _ t => intResult ty sat (vNum w.a) (f s t)
     let b := fun s t => srcInt s t ty w.b
     let c := fun s t => srcInt s t ty w.c
     op 4 sat (fun s t => b s t + c s t) (.iadd w ty sat) ∧ op 4 sat (fun s t => b s t - c s t) (.isub w ty sat)
     ∧ op 6 sat (fun s t => b s t * c s t) (.imul w ty sat) ∧ op 6 false (fun s t => b s t * c s t / 2 ^ 32) (.imulh w ty)
     ∧ op 6 sat (fun s t => b s t * c s t + srcInt s t ty w.a) (.imad w ty sat)
     ∧ op 4 false (fun s t => if b s t ≤ c s t then b s t else c s t) (.imin w ty)
     ∧ op 4 false (fun s t => if b s t ≤ c s t then c s t else b s t) (.imax w ty)
     ∧ op 6 sat (fun s t => b s t + c s t) (.iadd64 w ty sat) ∧ op 10 sat (fun s t => b s t * c s t) (.imul64 w ty sat))
    ∧ givesResults (.iabs w sat) w.ctl 4 false (fun s _ t => intResult .i32 sat (vNum w.a) |srcInt s t .i32 w.b|)
    ∧ givesResults (.lea w ty sh) w.ctl 4 false (fun s _ t =>
        out2 (vNum w.a) (srcPair s t w.b + BitVec.ofInt 64 (srcInt s t ty w.c * 2 ^ sh.toNat)) 0)

/-- 03 R49, 02 R47: `satInt` is the nearest value of the range, and leaves a value of the range alone; `wrapBits` keeps the value modulo
2 to the width, extended to 64 bits by the type's sign. 03 R51-R53: in every float format a pattern that is no NaN rounds to itself with no
flag, and a NaN to the canonical NaN. -/
def Obligations.ClampingAndRounding : Prop :=
  (∀ (ty : Ty) (x : Int),
      (tyLo ty ≤ satInt ty x ∧ satInt ty x ≤ tyHi ty)
      ∧ (∀ y, tyLo ty ≤ y → y ≤ tyHi ty → |x - satInt ty x| ≤ |x - y|)
      ∧ ((wrapBits ty x).toNat : Int) % 2 ^ ty.bits = x % 2 ^ ty.bits
      ∧ (tyLo ty ≤ x → x ≤ tyHi ty → (if ty.isSigned then (wrapBits ty x).toInt else ((wrapBits ty x).toNat : Int)) = x))
  ∧ (∀ ty : Ty, ty.isFloat = true → ∀ x < 2 ^ ty.bits, (fmtOf ty).round ((fmtOf ty).value x)
      = if (fmtOf ty).value x = .nan then ((fmtOf ty).nan, 0) else (x, 0))

/-- 07 R149: IDIVN completes with quotient or remainder, rounded towards zero, and the two corners of the table. -/
def Obligations.DivideGivesQuotientOrRemainder : Prop :=
  ∀ (w : Wd) (ty : Ty) (sat rem : Bool),
    givesResults (.idivn w ty sat rem) w.ctl (if ty.is64 then 68 else 36) false fun s _ t =>
      let b := srcInt s t ty w.b
      let c := srcInt s t ty w.c
      let least : Int := -(2 ^ (ty.bits - 1))
      let q : Int := if c = 0 then -1 else if ty.isSigned ∧ b = least ∧ c = -1 then (if sat then -least - 1 else least) else b.tdiv c
      let r : Int := if c = 0 then b else b.tmod c
      outTy ty (vNum w.a) (wrapBits ty (if rem then r else q)) (if (ty.isSigned ∧ b = least ∧ c = -1) ∧ sat then flSat else 0)

/-- 07 R151: bit operations and shifts complete with the value of their table; a shift by more than 31 gives 0, or copies of the sign. -/
def Obligations.BitWordsGiveTheirValue : Prop :=
  ∀ (w : Wd) (arith : Bool) (ty : Ty),
    (let op := fun (i : Instr) (f : State → ThreadRef → Word → Word → Word) =>
        givesResults i w.ctl 4 false fun s _ t => out1 (vNum w.a) (f s t (srcWord s t w.b) (srcWord s t w.c)) 0
     op (.and w) (fun _ _ b c => b &&& c) ∧ op (.or w) (fun _ _ b c => b ||| c) ∧ op (.xor w) (fun _ _ b c => b ^^^ c)
     ∧ op (.andn w) (fun _ _ b c => b &&& ~~~c) ∧ op (.shl w) (fun _ _ b c => if 31 < c.toNat then 0 else b <<< c.toNat)
     ∧ op (.shr w arith) (fun _ _ b c => if arith then b.sshiftRight (Nat.min c.toNat 31) else if 31 < c.toNat then 0 else b >>> c.toNat)
     ∧ op (.rotr w) (fun _ _ b c => BitVec.rotateRight b (c.toNat % 32))
     ∧ op (.bfe w ty) (fun _ _ b c => bfeValue (decide (ty = .i32)) b c)
     ∧ op (.bfi w) (fun s t b c => bfiValue (srcWord s t w.a) b c)
     ∧ op (.popc w) (fun _ _ b _ => word ((List.range 32).map fun i => bnat (b.getLsbD i)).sum)
     ∧ op (.clz w) (fun _ _ b _ => word (leadZeros b)))
    ∧ (givesResults (.brev w) w.ctl 4 false fun s _ t =>
        out1 (vNum w.a) (BitVec.ofFnLE (n := 32) fun i => (srcWord s t w.b).getLsbD (31 - i.val)) 0)
    ∧ (givesResults (.bfn3 w) w.ctl 4 false fun s _ t =>
        out1 (vNum w.a) (BitVec.ofFnLE (n := 32) fun i =>
          let x := (srcPair s t w.b).getLsbD i.val
          let y := (srcPair s t w.b).getLsbD (32 + i.val)
          let z := (srcWord s t w.a).getLsbD i.val
          bitAt (immNat w.c) (4 * bnat z + 2 * bnat y + bnat x)) 0)
    ∧ (givesResults (.bsel w) w.ctl 4 false fun s _ t =>
        let bytes := (srcWord s t w.b).toNat + (srcWord s t w.a).toNat * 2 ^ 32
        out1 (vNum w.a) (word ((List.range 4).map fun k => bselByte bytes (srcWord s t w.c).toNat k * 256 ^ k).sum) 0)

/-- 07 R153-R157: comparisons write a predicate combined with its old value, selects and moves copy; XLANE reads the guard-true thread at the
lane its mode names and says whether there is one, VOTE looks at every guard-true thread, TEAMID names the group's size and lowest
team. -/
def Obligations.CompareMoveAndLaneWords : Prop :=
  (∀ (w : Wd) (wi : WideWd) (ty : Ty) (cmp : Cmp) (comb : Comb) (inv : Bool) (pn : BitVec 3),
      (givesResults (.icmp w ty cmp comb) w.ctl 4 false fun s _ t =>
        outP (pNum w.a) (combinePred comb (predOf s t (pNum w.a)) (cmpInt cmp (srcInt s t ty w.b) (srcInt s t ty w.c))) 0)
      ∧ (givesResults (.pset w cmp comb) w.ctl 4 false fun s _ t =>
        outP (pNum w.a) (combinePred comb (predOf s t (pNum w.a)) (cmpInt cmp (bnat (srcPred s t w.b)) (bnat (srcPred s t w.c)))) 0)
      ∧ (givesResults (.sel w ty inv pn) w.ctl 4 false fun s _ t =>
        let o := if predOf s t pn.toNat = inv then w.c else w.b
        if ty.is64 then out2 (vNum w.a) (srcPair s t o) 0 else out1 (vNum w.a) (srcWord s t o) 0)
      ∧ (givesResults (.mov w) w.ctl 4 false fun s _ t => out1 (vNum w.a) (srcWord s t w.b) 0)
      ∧ (givesResults (.movi wi) wi.ctl 4 false fun _ _ _ => out1 (vNum wi.a) wi.imm 0)
      ∧ (givesResults (.p2v w) w.ctl 4 false fun s _ t =>
        out1 (vNum w.a) (BitVec.ofFnLE (n := 32) fun i => decide (i.val < 7) && predOf s t i.val) 0)
      ∧ (givesResults (.v2p w) w.ctl 4 false fun s _ t =>
        { regs := [], vals := [], raise := 0,
          preds := ((List.range 7).filter fun i => bitAt (immNat w.c) i).map fun i => (i, (srcWord s t w.b).getLsbD i) }))
  ∧ (∀ (w : Wd) (ty : Ty) (pn : BitVec 3) (mode : LaneMode),
      (givesResults (.xlane w ty pn mode) w.ctl 6 false fun s ix t =>
        let l := laneOf t.tid
        let d := (srcWord s t w.c).toNat
        let lane : Option Nat := match mode with
          | .idx => if d < 32 then some d else none
          | .up => if d ≤ l then some (l - d) else none
          | .down => if l + d < 32 then some (l + d) else none
          | .xor => if l ^^^ d < 32 then some (l ^^^ d) else none
        let src? := lane.bind fun m => (activeOf s ix w.ctl).find? fun u => laneOf u.tid = m
        let ok := if pn = 7 then [] else [(pn.toNat, src?.isSome)]
        match src? with
        | some u => { regs := if ty.is64 then [vNum w.a, vNum w.a + 1] else [vNum w.a],
                      vals := if ty.is64 then wordsOf (srcPair s u w.b) else [srcWord s u w.b], preds := ok, raise := 0 }
        | none => { regs := [], vals := [], preds := ok, raise := 0 })
      ∧ (givesResults (.vote w .any) w.ctl 6 false fun s ix _ =>
        outP (pNum w.a) (decide (∃ u ∈ activeOf s ix w.ctl, srcPred s u w.b = true)) 0)
      ∧ (givesResults (.vote w .all) w.ctl 6 false fun s ix _ =>
        outP (pNum w.a) (decide (∀ u ∈ activeOf s ix w.ctl, srcPred s u w.b = true)) 0)
      ∧ (givesResults (.vote w .ballot) w.ctl 6 false fun s ix _ =>
        out1 (vNum w.a) (word ((activeOf s ix w.ctl).map fun u => if srcPred s u w.b then 2 ^ laneOf u.tid else 0).sum) 0)
      ∧ (givesResults (.teamid w) w.ctl 4 false fun _ ix _ =>
        let teams := ix.tids.map teamOf
        let low := teams.min?.getD 0
        out1 (vNum w.a) (word (bnat (teams.any (· != low)) * 2 ^ 31 + ix.tids.length * 256 + low)) 0))

/-- 07 R159-R162: the f32 and f64 words of fixed latency complete with one rounding of the exact value, minimum and maximum keep a
pattern, comparisons raise `nv` for an invalid one. -/
def Obligations.FloatWordsRoundOnce : Prop :=
  ∀ (w : Wd) (cmp : Cmp) (comb : Comb) (rm : RMode),
    (let op := fun (i : Instr) (f : FVal → FVal → FVal → FVal × Bool) =>
        givesResults i w.ctl 4 false fun s _ t =>
          let v := f (val32 s t w.a) (val32 s t w.b) (val32 s t w.c)
          out1 (vNum w.a) (word (fmt32.round v.1).1) ((fmt32.round v.1).2 ||| flagIf v.2 flNv)
     op (.fadd w) (fun _ b c => addV b c) ∧ op (.fsub w) (fun _ b c => addV b c.neg) ∧ op (.fmul w) (fun _ b c => mulV b c)
     ∧ op (.ffma w) (fun a b c => fmaV b c a))
    ∧ (let op := fun (i : Instr) (f : FVal → FVal → FVal → FVal × Bool) =>
        givesResults i w.ctl 8 false fun s _ t =>
          let v := f (val64 s t w.a) (val64 s t w.b) (val64 s t w.c)
          out2 (vNum w.a) (BitVec.ofNat 64 (fmt64.round v.1).1) ((fmt64.round v.1).2 ||| flagIf v.2 flNv)
       op (.dadd w) (fun _ b c => addV b c) ∧ op (.dmul w) (fun _ b c => mulV b c) ∧ op (.dfma w) (fun a b c => fmaV b c a))
    ∧ (givesResults (.fmin w) w.ctl 4 false fun s _ t => out1 (vNum w.a) (word (minMaxBits fmt32 false (srcF32 s t w.b) (srcF32 s t w.c))) 0)
    ∧ (givesResults (.fmax w) w.ctl 4 false fun s _ t => out1 (vNum w.a) (word (minMaxBits fmt32 true (srcF32 s t w.b) (srcF32 s t w.c))) 0)
    ∧ (givesResults (.dmin w) w.ctl 8 false fun s _ t =>
        out2 (vNum w.a) (BitVec.ofNat 64 (minMaxBits fmt64 false (srcF64 s t w.b) (srcF64 s t w.c))) 0)
    ∧ (givesResults (.dmax w) w.ctl 8 false fun s _ t =>
        out2 (vNum w.a) (BitVec.ofNat 64 (minMaxBits fmt64 true (srcF64 s t w.b) (srcF64 s t w.c))) 0)
    ∧ (givesResults (.fcmp w cmp comb) w.ctl 4 false fun s _ t =>
        let r := cmpFloat cmp (val32 s t w.b) (val32 s t w.c)
        outP (pNum w.a) (combinePred comb (predOf s t (pNum w.a)) r.1) (flagIf r.2 flNv))
    ∧ (givesResults (.dcmp w cmp comb) w.ctl 8 false fun s _ t =>
        let r := cmpFloat cmp (val64 s t w.b) (val64 s t w.c)
        outP (pNum w.a) (combinePred comb (predOf s t (pNum w.a)) r.1) (flagIf r.2 flNv))
    ∧ (givesResults (.frnd w rm) w.ctl 4 false fun s _ t => out1 (vNum w.a) (word (roundIntegral fmt32 rm (srcF32 s t w.b))) 0)
    ∧ (givesResults (.drnd w rm) w.ctl 8 false fun s _ t =>
        out2 (vNum w.a) (BitVec.ofNat 64 (roundIntegral fmt64 rm (srcF64 s t w.b))) 0)

/-- 07 R164-R166, R168-R172; 03 R62, R63, R67-R72: packed halves, HDOT2 and IDOT4 complete, both elements of a packed word rounded separately
and their flags united; the special functions complete with a result of variable latency; conversion, packing, codebook and scale words
complete. -/
def Obligations.PackedSpecialAndConversionWords : Prop :=
  (∀ (w : Wd) (ty : Ty) (sat : Bool),
      (let op := fun (i : Instr) (f : Nat → Nat → Nat → Nat × BitVec 6) =>
          givesResults i w.ctl 4 false fun s _ t =>
            let r := fun k => f (half (srcPacked s t w.a) k) (half (srcPacked s t w.b) k) (half (srcPacked s t w.c) k)
            out1 (vNum w.a) (word ((r 0).1 + (r 1).1 * 65536)) ((r 0).2 ||| (r 1).2)
       let k := fmtOf ty
       op (.hadd2 w ty) (fun _ b c => floatStep k (addV (k.value b) (k.value c)))
       ∧ op (.hmul2 w ty) (fun _ b c => floatStep k (mulV (k.value b) (k.value c)))
       ∧ op (.hfma2 w ty) (fun a b c => floatStep k (fmaV (k.value b) (k.value c) (k.value a)))
       ∧ op (.hmin2 w ty) (fun _ b c => (minMaxBits k false b c, 0)) ∧ op (.hmax2 w ty) (fun _ b c => (minMaxBits k true b c, 0)))
      ∧ (givesResults (.hdot2 w ty) w.ctl 6 false fun s _ t =>
        let k := fmtOf ty
        let p := fun i => mulV (k.value (half (srcPacked s t w.b) i)) (k.value (half (srcPacked s t w.c) i))
        let sum := sumV [(p 0).1, (p 1).1, fmt32.value (srcWord s t w.a).toNat]
        let r := fmt32.round sum.1
        out1 (vNum w.a) (word r.1) (r.2 ||| flagIf ((p 0).2 || (p 1).2 || sum.2) flNv))
      ∧ (givesResults (.idot4 w ty sat) w.ctl 6 false fun s _ t =>
        let acc : Ty := if ty.isSigned then .i32 else .n32
        let b := srcWord s t w.b
        let c := srcWord s t w.c
        let x : Int := srcInt s t acc w.a + ((List.range 4).map fun j => byteInt ty.isSigned b j * byteInt ty.isSigned c j).sum
        intResult acc sat (vNum w.a) x))
  ∧ (∀ (w : Wd) (ty : Ty),
      (let op := fun (i : Instr) (ty : Ty) (f : FFmt → Nat → Nat × BitVec 6) =>
          givesResults i w.ctl 0 true fun s _ t =>
            if ty.is64 then out2 (vNum w.a) (BitVec.ofNat 64 (f fmt64 (srcF64 s t w.b)).1) (f fmt64 (srcF64 s t w.b)).2
            else out1 (vNum w.a) (word (f fmt32 (srcF32 s t w.b)).1) (f fmt32 (srcF32 s t w.b)).2
       op (.rcp w ty) ty (fun k x => rcpBits k (k.value x)) ∧ op (.rsq w ty) ty (fun k x => rsqBits k (k.value x))
       ∧ op (.sqrt w ty) ty (fun k x => sqrtBits k (k.value x)) ∧ op (.exp2 w) .f32 (fun _ x => exp2Bits x)
       ∧ op (.log2 w) .f32 (fun _ x => log2Bits x) ∧ op (.sin w) .f32 (fun _ x => sinCosBits false x)
       ∧ op (.cos w) .f32 (fun _ x => sinCosBits true x) ∧ op (.tanh w) .f32 (fun _ x => tanhBits x)))
  ∧ (∀ (w : Wd) (ty sty : Ty) (sat hi : Bool),
      (givesResults (.cvt w ty sty sat) w.ctl 4 false fun s _ t =>
        let r := cvtLane s t ty sty sat w.b
        outTy ty (vNum w.a) r.1 r.2)
      ∧ (givesResults (.pack8 w ty sat hi) w.ctl 4 false fun s _ t =>
        let lo := packByte s t ty sat w.b
        let up := packByte s t ty sat w.c
        let old := (srcWord s t w.a).toNat
        let x := lo.1 + up.1 * 256
        out1 (vNum w.a) (word (if hi then old % 2 ^ 16 + x * 2 ^ 16 else old / 2 ^ 16 * 2 ^ 16 + x)) (lo.2 ||| up.2))
      ∧ (givesResults (.unpack8 w ty) w.ctl 4 false fun s _ t =>
        let b := (srcWord s t w.b).toNat / 256 ^ immNat w.c % 256
        out1 (vNum w.a) (if ty.isFloat then word (fmt32.round ((fmtOf ty).value b)).1 else (wrapBits ty (b : Int)).truncate 32) 0)
      ∧ (givesResults (.cbdec w) w.ctl 6 false fun s ix t =>
        let l := lq2Ints (bookOf s ix.cg) ((srcWord s t w.b).toNat % 65536)
        out2 (vNum w.a) (BitVec.ofNat 64 (natOfBytes (l.map fun n => BitVec.ofInt 8 n))) 0)
      ∧ (givesResults (.scale w) w.ctl 4 false fun s _ t =>
        let r := fmt32.round (mulV (val32 s t w.b) (se8Value (srcWord s t w.c).toNat)).1
        out1 (vNum w.a) (word r.1) r.2))

/-- 10 R236; 09 R217, R223; 14 R301; 05 R106; 13 R289; 18 R341-R343: the words that observe state complete, give what they read, and
change none of it; in a replay a clock reads as its log says (20 R365). 11 R258-R261, 12 R278: the fragment words and CADJ complete; a product of an absent or guard-false lane is omitted. -/
def Obligations.ObservingAndFragmentWords : Prop :=
  (∀ (w : Wd) (err d : Bool),
      (givesResults (.cvpos w) w.ctl 6 false fun s _ t => out2 (vNum w.a) ((s.thread t).ctx.cv.cvin ++ (s.thread t).ctx.cv.cvout) 0)
      ∧ (givesResults (.tgany w err) w.ctl 6 false fun s ix t =>
        out2 (vNum w.a) (BitVec.ofFnLE (n := 64) fun i => (srcPair s t w.b).getLsbD i.val &&
          (if err then decide ((tagOf s ix.cg i.val).err ≠ 0) else decide ((tagOf s ix.cg i.val).count = 0))) 0)
      ∧ (givesResults (.tgfirst w err) w.ctl 6 false fun s ix t =>
        out1 (vNum w.a) (word (((List.range 64).find? fun i => (srcPair s t w.b).getLsbD i &&
          (if err then decide ((tagOf s ix.cg i).err ≠ 0) else decide ((tagOf s ix.cg i).count = 0))).getD 64)) 0)
      ∧ (givesResults (.qstat w) w.ctl 6 false fun s ix t => out1 (vNum w.a) (qstatWord s t (resNum (s.launch ix.lid).lr w.b)) 0)
      ∧ (givesResults (.barq w) w.ctl 6 false fun s ix t => out1 (vNum w.a) (barqWord s t (barNum s ix w.b)) 0)
      ∧ (givesResults (.targ w) w.ctl 6 false fun s _ t => out1 (vNum w.a) ((s.thread t).task.getD (4 + immNat w.b) 0) 0)
      ∧ (givesResults (.asq w) w.ctl 32 false fun s _ t => out1 (vNum w.a) (s.thread t).ctx.traceStat 0)
      ∧ (givesResults (.srd w d) w.ctl 6 false fun s _ t =>
        if d then out2 (vNum w.a) (sregOf s t (srNum w.b)) 0 else out1 (vNum w.a) ((sregOf s t (srNum w.b)).truncate 32) 0)
      ∧ (givesResults (.clk w) w.ctl 6 false fun s _ t => out2 (vNum w.a) (BitVec.ofNat 64 (readTime s t (clkOf s t))) 0)
      ∧ (givesResults (.wtime w) w.ctl 6 false fun s _ t => out2 (vNum w.a) (BitVec.ofNat 64 (readTime s t (wtimeOf s))) 0)
      ∧ (givesResults (.sigrd w) w.ctl 24 false fun s ix _ => out1 (vNum w.a) ((s.launch ix.lid).sig.getD (immNat w.b) 0) 0)
      ∧ (givesResults (.ctxq w) w.ctl 6 false fun s ix t =>
        let l := s.launch ix.lid
        out1 (vNum w.a) (word (l.restores % 256 * 2 ^ 24 + bnat (s.thread t).handler * 2 ^ 23 + bnat l.lr.dsm * 2 ^ 22
          + bnat l.priv * 2 ^ 21 + ix.lid % 65536)) 0))
  ∧ (∀ (w : Wd) (aty : Ty) (tr : Bool),
      (givesResults (.vmma w aty) w.ctl 16 false fun s ix t =>
        let ts := activeOf s ix w.ctl
        let k := fmtOf aty
        { regs := (List.range 8).map fun m => vNum w.a + m, preds := [], raise := 0, vals := (List.range 8).map fun m =>
            let ps := (List.range 16).filterMap fun n =>
              (fragHalf s ts (vNum w.b) (laneOf t.tid % 16) n).bind fun a =>
                (fragHalf s ts (vNum w.c) (8 * (laneOf t.tid / 16) + m) n).map fun b => (mulV (k.value a) (k.value b)).1
            let d := fmt32.value (regOf s t (vNum w.a + m)).toNat
            word (fmt32.round (addV d (fmt32.value (fmt32.round (sumV ps).1).1)).1).1 })
      ∧ (givesResults (.vmmai w) w.ctl 16 false fun s ix t =>
        let ts := activeOf s ix w.ctl
        { regs := (List.range 8).map fun m => vNum w.a + m, preds := [], raise := 0, vals := (List.range 8).map fun m =>
            let ps := (List.range 32).filterMap fun n =>
              (fragByte s ts (vNum w.b) (laneOf t.tid % 16) n).bind fun a =>
                (fragByte s ts (vNum w.c) (8 * (laneOf t.tid / 16) + m) n).map fun b => a * b
            regOf s t (vNum w.a + m) + BitVec.ofInt 32 ps.sum })
      ∧ (givesResults (.vfrag w aty tr) w.ctl 6 false fun s ix t =>
        let ts := activeOf s ix w.ctl
        let h := fun n => ((fmtOf aty).round (fmt32.value (fragSource s ts t tr (vNum w.b) n))).1
        { regs := (List.range 4).map fun m => vNum w.a + m, preds := [], raise := 0,
          vals := (List.range 4).map fun m => word (h (2 * m) + h (2 * m + 1) * 65536) })
      ∧ (givesResults (.cadj w) w.ctl 32 false fun s _ t =>
        let a := vNum w.a
        { regs := [a, a + 1, a + 2, a + 4, a + 5, a + 6, a + 7], preds := [], raise := 0,
          vals := (adjoint (fun i => (regOf s t (vNum w.b + i)).toNat) fun i => (regOf s t (a + i)).toNat).map word }))

/-- 02 R43, 11 R258: an issued IDIVN keeps the divider of its partition busy until its result is written, an f64 word the f64 pipe for the
next clk, a fragment word the fragment unit for 16 clk. -/
def Obligations.BusyUnitsAreReserved : Prop :=
  ∀ (w : Wd) (ty : Ty) (x y : Bool) (cmp : Cmp) (comb : Comb) (rm : RMode) (s : State) (ix : Issue), s.issue = some ix →
    let leaves := fun (i : Instr) (f : Partition → Nat) (n : Nat) =>
      ∃ e, exec i s = .next (advance e ix) ∧ f (e.part ix.part) = timeOf s ix.cg + n
    leaves (.idivn w ty x y) Partition.divFree (if ty.is64 then 68 else 36)
    ∧ leaves (.dadd w) Partition.f64Free 2 ∧ leaves (.dmul w) Partition.f64Free 2 ∧ leaves (.dfma w) Partition.f64Free 2
    ∧ leaves (.dmin w) Partition.f64Free 2 ∧ leaves (.dmax w) Partition.f64Free 2 ∧ leaves (.dcmp w cmp comb) Partition.f64Free 2
    ∧ leaves (.drnd w rm) Partition.f64Free 2 ∧ leaves (.vmma w ty) Partition.fragFree 16 ∧ leaves (.vmmai w) Partition.fragFree 16

/-! Results written, filing, control (02 R34, R36, R46; 06 R117, R119, R127; 07 R141-R146). -/

/-- 02 R34, R36; 07 R139: a result that is due is written whole, its registers, predicates and sticky flags in its thread and nothing else
anywhere; its entry goes, or stands emptied for its completion flags until the next clk, when an entry for flags alone drops each of them
by one. -/
def Obligations.DueResultsAreWrittenOnce : Prop :=
  ∀ (s : State) (p : Pend), s.w.pends.find? (fun x => x.id = p.id) = some p → p.ready = true → p.bad = none →
    p.due ≤ timeOf s (cgOfPg p.th.pg) → p.th.tid < (s.pg p.th.pg).threads.length →
    ∃ e, exec (if p.isVar then .variableResultComplete p.id else .fixedResultWrite p.id) s = .next e
      ∧ e = { s with w := { s.w with pends := e.w.pends, pgs := e.w.pgs } }
      ∧ (∀ r, r ≠ p.th → e.thread r = s.thread r)
      ∧ (if p.flagOnly = true then
          e.thread p.th = { s.thread p.th with ctx := { (s.thread p.th).ctx with
            flags := p.cflags.foldl (fun l i => l.modify i (· - 1)) (s.thread p.th).ctx.flags } }
          ∧ e.w.pends = s.w.pends.filter fun x => x.id != p.id
        else
          e.thread p.th = { s.thread p.th with ctx := { (s.thread p.th).ctx with
            regs := (p.regs.zip p.vals).foldl (fun l x => l.set x.1 x.2) (s.thread p.th).ctx.regs,
            preds := p.preds.foldl (fun l x => l.set x.1 x.2) (s.thread p.th).ctx.preds,
            fflags := (s.thread p.th).ctx.fflags ||| p.raise } }
          ∧ e.w.pends = if p.cflags = [] then s.w.pends.filter fun x => x.id != p.id
              else s.w.pends.map fun x => if x.id = p.id then
                { p with isVar := false, regs := [], vals := [], preds := [], raise := 0, holds := false,
                         flagOnly := true, due := timeOf s (cgOfPg p.th.pg) + 1 } else x)

/-- 06 R117, R119: a filed thread has the next PC and the wait condition it is filed with; it joins the bin keyed by its partition group and
that PC; where no bin has that key, the lowest free one, which gets the key; and the overflow path only where no bin is free. The bins are
those of the state, but for a bin in which the thread itself stood, which is free again if no thread is left in it. Registers and every
other thread stay. -/
def Obligations.FilingFollowsTheNextPc : Prop :=
  ∀ (s : State) (t : ThreadRef) (pc : Nat) (w : Wait), t.tid < (s.pg t.pg).threads.length →
    let e := fileThread s t pc w
    let p := (s.pg t.pg).part
    let left := setPlace s t .parked
    let bins := (left.part p).bins
    let keyed := fun (x : Nat × Bin) => decide (x.2.pg = t.pg) && decide (x.2.pc = pc)
    e.thread t = { s.thread t with pc := pc, wait := w, place := (e.thread t).place, passed := false }
    ∧ (∀ r, r ≠ t → e.thread r = s.thread r)
    ∧ ((∀ k, (s.thread t).place ≠ .bin k) → bins = (s.part p).bins)
    ∧ ((∃ k, (s.thread t).place = .bin k) →
      bins = (s.part p).bins.filter fun x => (left.pg x.2.pg).threads.any fun y => decide (y.place = .bin x.1))
    ∧ (∀ n b, bins.find? keyed = some (n, b) → (e.thread t).place = .bin n ∧ (e.part p).bins = bins)
    ∧ (bins.find? keyed = none →
      (∀ n < Config.bins, tget? bins n = none → (∀ m < n, (tget? bins m).isSome = true) → (e.thread t).place = .bin n
        ∧ tget? (e.part p).bins n = some { pg := t.pg, pc := pc, age := 0, aged := false }
        ∧ ∀ m, m ≠ n → tget? (e.part p).bins m = tget? bins m)
      ∧ ((∀ n < Config.bins, (tget? bins n).isSome = true) → (e.thread t).place = .overflow ∧ (e.part p).bins = bins))
    ∧ e = { s with w := { s.w with pgs := e.w.pgs, parts := e.w.parts } }

/-- 02 R46; 06 R117; 07 R141-R144: NOP changes nothing but its issue; BRA.d, CALL, REFORM, YIELD and WAITF file every thread of the group by
its own next PC, a guard-false one at the next word, with the wait the word names; a branch target is the word's address plus
four times its displacement. That a target outside the 56 bits of an address is taken modulo 2^56 is the model's choice (log 105). -/
def Obligations.BranchesFileEachThread : Prop :=
  ∀ (w : Wd) (b : WideWd),
    let target := fun (ix : Issue) => (((ix.pc : Int) + 4 * b.imm.toInt) % 2 ^ 56).toNat
    let taken := fun (s : State) (ix : Issue) =>
      fileAll s ix (fun t => if guardOf s b.ctl t then target ix else ix.pc + 12) fun _ => .ready
    let on := fun (s : State) (ix : Issue) (f : ThreadRef → Wait) => fileAll s ix (fun _ => ix.pc + 12) f
    actsAs (.nop w) w.ctl (fun _ s => s)
    ∧ filesAs (.braD b) b.ctl (fun ix s => taken s ix)
    ∧ filesAs (.call b) b.ctl (fun ix s => (activeOf s ix b.ctl).foldl (fun a t => traceRecord a t 1 ix.pc (target ix % 2 ^ 32) 0) (taken s ix))
    ∧ filesAs (.reform w) w.ctl (fun ix s => on s ix fun _ => .ready)
    ∧ filesAs (.yield w) w.ctl (fun ix s => on s ix fun t =>
        if guardOf s w.ctl t ∧ immNat w.c ≠ 0 then .yield (immNat w.c) else .ready)
    ∧ filesAs (.waitf w) w.ctl (fun ix s => on s ix fun t =>
        if guardOf s w.ctl t then .flags (BitVec.ofNat 12 (immNat w.c)) else .ready)

/-- 06 R127, 07 R142: BRA.u moves its group on as one to the header that every member goes to, and where two members go to different
headers every member traps UNIFORMITY with the word's address; that its target is taken modulo 2^56 is the model's choice (log 105). 02 R37;
07 R143: BRX and RET file each guard-true thread at the address its register pair holds where that is a 56-bit multiple of 4; one beyond 56
bits traps TRANSLATION and a misaligned one MISALIGNED, both with the address; `tq.vahi` of the first is an inference (log 122). -/
def Obligations.UniformAndIndirectBranches : Prop :=
  (∀ (b : WideWd) (s : State) (ix : Issue), s.issue = some ix →
      let next := fun i => if guardOf s b.ctl { pg := ix.pg, tid := i } then (((ix.pc : Int) + 4 * b.imm.toInt) % 2 ^ 56).toNat else ix.pc + 12
      (∀ dest, ix.tids ≠ [] → (∀ i ∈ ix.tids, next i = dest) →
        exec (.braU b) s = .next (arriveHeader (spendSlot (acceptFlags s s ix b.ctl) ix b.ctl) ix.part ix.pos dest))
      ∧ ((∃ i ∈ ix.tids, ∃ j ∈ ix.tids, next i ≠ next j) →
        exec (.braU b) s = .next (ix.tids.foldl (fun a i => trapAt a ix i { cause := 0x03, val := word ix.pc, vahi := 0 }) (spendSlot s ix b.ctl))))
  ∧ (∀ (w : Wd),
      let target := fun (s : State) (t : ThreadRef) => (srcPair s t w.b).toNat
      let lane := fun (ret : Bool) (s : State) (ix : Issue) (a : State) (t : ThreadRef) =>
        if guardOf s w.ctl t = false then fileThread a t (ix.pc + 12) .ready
        else if 2 ^ 56 ≤ target s t then
          trapAt a ix t.tid { cause := 0x06, val := word (target s t), vahi := BitVec.ofNat 24 (target s t >>> 32) }
        else if target s t % 4 ≠ 0 then trapAt a ix t.tid { cause := 0x05, val := word (target s t), vahi := 0 }
        else if ret then traceRecord (fileThread a t (target s t) .ready) t 2 ix.pc (target s t % 2 ^ 32) 0
        else fileThread a t (target s t) .ready
      let all := fun (ret : Bool) (ix : Issue) (s : State) => ix.tids.foldl (fun a i => lane ret s ix a { pg := ix.pg, tid := i }) s
      filesAs (.brx w) w.ctl (all false) ∧ filesAs (.ret w) w.ctl (all true))

/-- 07 R145, 10 R230: EXIT ends each guard-true thread, one after the other, its trace record and its task signal sent, and then files the
others at the next word; joins that the ends finish are settled. It waits only where closing a choice record has to wait. A record whose
close finds no frame is the model's choice (log 21). -/
def Obligations.ExitEndsGuardTrueThreads : Prop :=
  ∀ (w : Wd) (s : State) (ix : Issue) (e : State), s.issue = some ix →
    Lanes (fun a t b => (∀ x, (cvClose a t).2 = some x → x.again = none)
      ∧ b = taskSignal (endThread (traceRecord a t 5 ix.pc 0 0) t none true) t (a.thread t).task) s (activeOf s ix w.ctl) e →
    exec (.exit w) s = .next (spendSlot (acceptFlags s
      (settleJoins ((ix.tids.filter fun i => !guardOf s w.ctl { pg := ix.pg, tid := i }).foldl
        (fun a i => fileThread a { pg := ix.pg, tid := i } (ix.pc + 12) .ready) e) ix.pg) ix w.ctl) ix w.ctl)

/-! Exceptions (02 R45-R47; 18 R319-R328). -/

/-- 07 R146, 02 R46: TRAP and BKPT make a trap call in each guard-true thread with the value of B and causes EXPLICIT and BREAKPOINT; ILLZ
makes every thread of the group take ILLEGAL at the clause's header with the word's address. -/
def Obligations.TrapWordsRaiseTheirCause : Prop :=
  ∀ (w : Wd) (rest : BitVec 86),
    let calls := fun (cause : BitVec 8) (ix : Issue) (s : State) => ((activeOf s ix w.ctl).map fun t => (t, srcWord s t w.b)).foldl
      (fun a r => trapCall a { pg := ix.pg, tid := r.1.tid } { cause := cause, val := r.2, vahi := 0 }
        { pc := ix.pc, hdr := ix.hdr, len := ix.header.count.toNat + 1 } false) s
    actsAs (.trap w) w.ctl (calls 0x0B) ∧ actsAs (.bkpt w) w.ctl (calls 0x0C)
    ∧ ∀ s ix, s.issue = some ix → exec (.illz rest) s = .next (ix.tids.foldl (fun a i =>
        trapCall a { pg := ix.pg, tid := i } { cause := 0x01, val := word ix.pc, vahi := 0 } { pc := ix.hdr, hdr := ix.hdr, len := 0 } false) s)

/-- 18 R319, R320, R323, R324; 22 R384: a trap call of a live thread outside its handler, in a launch with a handler, appends one entry with
the fields of R320 to its partition group's queue and parks the thread at the trapping word; its registers and every other thread stay. In
a handler, or in a launch without one, the thread goes to containment with its cause, unless a debugger catches that cause: then the
thread is parked and its partition stops. A thread that has ended takes none. -/
def Obligations.TrapCallsQueueOrContain : Prop :=
  (∀ (s : State) (t : ThreadRef) (x : Trap) (w : WordAt) (defer : Bool),
      t.tid < (s.pg t.pg).threads.length → (s.thread t).live = true → (s.thread t).handler = false → (s.lrOfPg t.pg).trapvec ≠ 0 →
      tget? s.w.claims (s.pg t.pg).lid = none →
      let e := trapCall s t x w defer
      let entry : TqEntry :=
        { cause := x.cause, vahi := x.vahi, val := x.val, next := decide (x.cause = 0x0A ∨ x.cause = 0x0B ∨ x.cause = 0x0C), defer := defer,
          pc := w.pc, rent := (s.thread t).rent, tid := t.tid, rgn := (s.thread t).ctx.rgn, hdr := w.hdr, len := w.len }
      (e.pg t.pg).trapq = (s.pg t.pg).trapq ++ [entry]
      ∧ e.thread t = { s.thread t with place := .parked, trap := some entry, pc := w.pc }
      ∧ (∀ r, r ≠ t → e.thread r = s.thread r)
      ∧ (∀ k, k ≠ t.pg → (e.pg k).trapq = (s.pg k).trapq)
      ∧ e = { s with w := { s.w with pgs := e.w.pgs, parts := e.w.parts } })
  ∧ (∀ (s : State) (t : ThreadRef) (x : Trap) (w : WordAt) (defer : Bool),
      ((s.thread t).live = false → trapCall s t x w defer = s)
      ∧ ((s.thread t).live = true → caught s (s.pg t.pg).lid x.cause = false →
          ((s.thread t).handler = true ∨ (s.lrOfPg t.pg).trapvec = 0) → trapCall s t x w defer = contain s t x.cause)
      ∧ ((s.thread t).live = true → caught s (s.pg t.pg).lid x.cause = true → t.tid < (s.pg t.pg).threads.length →
          ((trapCall s t x w defer).part (s.pg t.pg).part).stopped = true ∧ ((trapCall s t x w defer).thread t).place = .parked
          ∧ ((trapCall s t x w defer).pg t.pg).trapq = (s.pg t.pg).trapq))

/-- 18 R321, R322: TRAP_DELIVERY delivers the head of a queue once its thread has no result outstanding and its flags are zero and no other
entry is being handled: the thread enters handler mode with `tcause` and `tval`, filed ready at `lr.trapvec`; nothing else of it
changes, the entry stays until TRET. -/
def Obligations.DeliveryEntersTheHandler : Prop :=
  ∀ (s : State) (pg : Nat) (e : TqEntry) (rest : List TqEntry), (tget? s.w.pgs pg).isSome = true →
    launchRuns s (s.pg pg).lid = true → (s.pg pg).trapq = e :: rest → (s.pg pg).handling = false →
    e.tid < (s.pg pg).threads.length → (∀ p ∈ s.w.pends, p.th ≠ { pg := pg, tid := e.tid }) →
    (∀ n ∈ (s.thread { pg := pg, tid := e.tid }).ctx.flags, n = 0) → (s.thread { pg := pg, tid := e.tid }).redo = none →
    tget? s.w.claims (s.pg pg).lid = none →
    let t : ThreadRef := { pg := pg, tid := e.tid }
    ∃ u, exec (.trapDelivery pg) s = .next u
      ∧ u.thread t = { s.thread t with
          ctx := { (s.thread t).ctx with tcause := word e.cause.toNat, tval := e.val }, handler := true, trap := some e,
          pc := (s.lrOfPg pg).trapvec, wait := .ready, place := (u.thread t).place, passed := false }
      ∧ ((u.thread t).place = .overflow ∨ ∃ n, (u.thread t).place = .bin n)
      ∧ (u.pg pg).handling = true ∧ (u.pg pg).trapq = (s.pg pg).trapq ∧ ∀ r, r ≠ t → u.thread r = s.thread r

/-- 18 R325-R327: TRET takes each guard-true thread out of handler mode, its entry popped: `.res` goes on at the trapping word, or the word
after it for FP_CHECK, EXPLICIT and BREAKPOINT; `.rst` restarts the region; `.term` ends the thread by containment with its
`tcause`. A guard-true thread outside its handler takes PRIVILEGE with the word's address. -/
def Obligations.ReturnLeavesTheHandler : Prop :=
  ∀ (w : Wd),
    let tret := fun (leave : State → ThreadRef → TqEntry → State) (ix : Issue) (s : State) => (activeOf s ix w.ctl).foldl (fun a t =>
      match (a.thread t).handler, (a.thread t).trap with
      | true, some e => leave (endHandler (traceRecord a t 4 ix.pc e.cause.toNat 0) t) t e
      | _, _ => trapAt a ix t.tid { cause := 0x04, val := word ix.pc, vahi := 0 }) s
    actsAs (.tretRes w) w.ctl (tret resumeAt) ∧ actsAs (.tretRst w) w.ctl (tret regionRestart)
    ∧ actsAs (.tretTerm w) w.ctl (tret fun a t _ => settleJoins (contain a t ((a.thread t).ctx.tcause.truncate 8)) t.pg)

/-- 18 R325, R327: what `.res` and `.rst` do to a thread. Resuming ends handler mode and its entry goes; where the resume word is a header the
thread is filed there, else it is drawn alone at it, in the clause of the trap. A region restart puts the thread at its region entry
with the region's snapshots and count, keeps its registers, predicates and sticky flags, and files it ready, in a bin or on the overflow
path. -/
def Obligations.ResumeAndRestart : Prop :=
  (∀ (s : State) (t : ThreadRef) (e : TqEntry), t.tid < (s.pg t.pg).threads.length → (s.thread t).trap = some e →
      let u := resumeAt (endHandler s t) t e
      let r := if e.next then e.pc + 12 else e.pc
      (u.thread t).handler = false ∧ (u.thread t).trap = none ∧ (u.thread t).pc = r ∧ (u.thread t).wait = .ready
      ∧ (u.thread t).ctx = (s.thread t).ctx ∧ (u.pg t.pg).handling = false
      ∧ (u.pg t.pg).trapq = (s.pg t.pg).trapq.filter (fun x => x.tid != t.tid)
      ∧ (r = e.hdr ∨ r = e.hdr + 12 * (e.len + 1) ∨ e.len = 0 → (u.thread t).place = .overflow ∨ ∃ n, (u.thread t).place = .bin n)
      ∧ (r ≠ e.hdr → r ≠ e.hdr + 12 * (e.len + 1) → e.len ≠ 0 → (u.thread t).place = .alone ∧ (u.thread t).hdr = e.hdr))
  ∧ (∀ (s : State) (t : ThreadRef) (e : TqEntry), t.tid < (s.pg t.pg).threads.length →
      let u := regionRestart s t e
      (u.thread t).pc = e.rent ∧ (u.thread t).wait = .ready ∧ ((u.thread t).place = .overflow ∨ ∃ n, (u.thread t).place = .bin n)
      ∧ (u.thread t).pos = (s.thread t).posSnap
      ∧ (u.thread t).ctx = { (s.thread t).ctx with rgn := if e.rgn = 0 then 0 else e.rgn - 1, cv := (s.thread t).cvSnap }
      ∧ ∀ r, r ≠ t → u.thread r = s.thread r)

/-- 07 R163; 18 R341; 10 R236: FCHK traps FP_CHECK with the flags of its mask that are set and changes nothing else; FFLAGS gives the old
flags and sets them to (old and not C) or B; SWR writes `fflags`, `tcause`, `tval` or the timer, CVSCORE the pending score. -/
def Obligations.FlagAndSpecialRegisterWrites : Prop :=
  ∀ (w : Wd),
    (actsAs (.fchk w) w.ctl fun ix s => (activeOf s ix w.ctl).foldl (fun a t =>
      let x := (a.thread t).ctx.fflags &&& BitVec.ofNat 6 (immNat w.c)
      if x = 0 then a else trapAt a ix t.tid { cause := 0x0A, val := word x.toNat, vahi := 0 }) s)
    ∧ (actsAs (.fflags w) w.ctl fun ix s =>
      ((activeOf s ix w.ctl).map fun t => (t, (s.thread t).ctx.fflags, (srcWord s t w.b).truncate 6, (srcWord s t w.c).truncate 6)).foldl
        (fun a r => pushResult (modCtx a r.1 fun c => { c with fflags := (r.2.1 &&& ~~~r.2.2.2) ||| r.2.2.1 }) ix w.ctl 4 false true r.1
          { regs := [vNum w.a], vals := [word r.2.1.toNat], preds := [], raise := 0 }) s)
    ∧ (actsAs (.swr w) w.ctl fun ix s => (activeOf s ix w.ctl).foldl (fun a t => modThread a t fun x =>
        let v := srcWord s t w.b
        match srNum w.a with
        | 10 => { x with timer := if v = 0 then none else some v.toNat, timerDue := false }
        | 18 => { x with ctx := { x.ctx with fflags := v.truncate 6 } }
        | 19 => { x with ctx := { x.ctx with tcause := v } }
        | 20 => { x with ctx := { x.ctx with tval := v } }
        | _ => x) s)
    ∧ (actsAs (.cvscore w) w.ctl fun ix s => ((activeOf s ix w.ctl).map fun t =>
        (t, if fmt32.value (srcF32 s t w.b) = .nan then word fmt32.nan else word (srcF32 s t w.b))).foldl
          (fun a r => modCtx a r.1 fun c => { c with cv := { c.cv with score := r.2 } }) s)

/-! Memory (08; 09 R196-R209; 14 R304-R310). -/

/-- 00 R4: bytes of memory read back where they were written, every other byte is as it was, and the canonical form stays. -/
def Obligations.MemoryReadsBackWhatWasWritten : Prop :=
  ∀ (m : Memory) (a : Nat) (bs : List Byte), m.wf = true →
    (memWriteN m a bs).wf = true ∧ memReadN (memWriteN m a bs) a bs.length = bs
    ∧ (∀ k, k < a ∨ a + bs.length ≤ k → memRead (memWriteN m a bs) k = memRead m k)
    ∧ ∀ n v, memNat (memWriteN m a (bytesOfNat n v)) a n = v % 256 ^ n

/-- 08 R185, R181; 09 R196, R199: every lane of an access is checked once, in ascending lane position, and either goes on or takes one trap; a
misaligned one takes MISALIGNED with its address, an aligned one beyond 56 bits TRANSLATION. -/
def Obligations.EveryLaneIsCheckedOnce : Prop :=
  ∀ (s : State) (pg : Nat) (ts : List ThreadRef) (ea : ThreadRef → Nat) (n : Nat) (need : Need),
    let r := (checkLanes s pg ts ea n need).2
    ((byLane ts).map fun t => laneOf t.tid).Pairwise (· ≤ ·) ∧ (byLane ts).Perm ts
    ∧ (r.ok.map (·.1)).Sublist (byLane ts) ∧ (r.traps.map (·.1)).Sublist (byLane ts)
    ∧ (r.ok.map (·.1) ++ r.traps.map (·.1)).Perm ts
    ∧ (∀ x ∈ r.ok, x.2.1 = ea x.1 ∧ ea x.1 % n = 0 ∧ ea x.1 < 2 ^ 56)
    ∧ (∀ t ∈ ts, ea t % n ≠ 0 → (t, { cause := 0x05, val := word (ea t), vahi := 0 }) ∈ r.traps)
    ∧ (∀ t ∈ ts, ea t % n = 0 → 2 ^ 56 ≤ ea t →
        (t, { cause := 0x06, val := word (ea t), vahi := BitVec.ofNat 24 (ea t >>> 32) }) ∈ r.traps)

/-- 09 R196-R200; 14 R304-R307, R309: LD, ST, ATOM, CAS, RED and FRED complete: the lanes that pass their checks put their accesses in
flight with the operands of their forms, the others take their traps, and the group goes on. -/
def Obligations.AccessWordsSendTheirAccesses : Prop :=
  ∀ (w : Wd) (ty : Ty) (scope : Scope) (ord : MemOrd) (nt : Bool) (s : State) (ix : Issue), s.issue = some ix →
    let ea := fun t => (srcPair s t w.b + srcPair s t w.c).toNat
    let eaAt := fun t => (srcPair s t w.b + (atomField w.c).2.signExtend 64).toNat
    let val := fun t => srcPair s t w.a
    let n := vNum w.a
    let cas := fun k t => if ty.is64 then pairOf (regOf s t (n + 2 * k)) (regOf s t (n + 2 * k + 1)) else (regOf s t (n + k)).zeroExtend 64
    let gives := fun (_ : ThreadRef) => some (outTy ty n 0 0)
    let none' := fun (_ : ThreadRef) => (none : Option LaneOut)
    let zero := fun (_ : ThreadRef) => (0 : DWord)
    let sends := fun (i : Instr) (kind : AccKind) (nt : Bool) (need : Need) (ea : ThreadRef → Nat) (v v2 : ThreadRef → DWord)
        (out : ThreadRef → Option LaneOut) =>
      let r := checkLanes s ix.pg (activeOf s ix w.ctl) ea ty.bytes need
      exec i s = .next (retire (acceptFlags s (takeTraps (pushAccs r.1 ix w.ctl
        { kind := kind, bytes := ty.bytes, scope := scope, ord := ord, nt := nt } r.2.ok v v2 out) ix r.2.traps) ix w.ctl) ix w.ctl)
    sends (.ld w ty scope ord nt) (.load ty) nt .read ea zero zero gives
    ∧ sends (.st w ty scope ord nt) .store nt .write ea val zero none'
    ∧ sends (.atom w ty scope ord) (.atom (atomField w.c).1 ty) false .readWrite eaAt val zero gives
    ∧ sends (.red w ty scope ord) (.red (atomField w.c).1 ty) false .readWrite eaAt val zero none'
    ∧ sends (.cas w ty scope ord) (.cas ty) false .readWrite ea (cas 0) (cas 1) gives
    ∧ sends (.fred w ty scope ord) (.fred ty) false .readWrite ea val zero none'

/-- 08 R185; 09 R199; 14 R306: the lanes of a load or store that name one line make one access, and those of any other word that name one
address, in order of first appearance, their lanes in the order they were given in; a thread that has to wait first, outside DSM, for its
own earlier accesses or traversals stands alone, because threads wait independently. Sending them changes no byte of memory and no
register. -/
def Obligations.OneAccessPerAddress : Prop :=
  ∀ (s : State) (ix : Issue) (c : Ctl) (sh : AccShape) (ok : List (ThreadRef × Nat × Target)) (v v2 : ThreadRef → DWord)
    (out : ThreadRef → Option LaneOut),
    let e := pushAccs s ix c sh ok v v2 out
    let unit := match sh.kind with
      | .store | .load _ => 128
      | _ => 1
    let release := ordRel sh.ord = true ∧ sh.scope ≠ .th
    let first := fun (t : ThreadRef) => (s.lrOfPg t.pg).dsm = false
      ∧ ((∃ b ∈ s.w.accs, b.pg = t.pg ∧ b.key = none ∧ (release ∨ ordAcq b.ord = true) ∧ ∃ l ∈ b.lanes, l.tid = t.tid)
        ∨ (release ∧ ∃ x ∈ s.w.travs, x.th = t))
    ∃ (news : List Acc) (place : ThreadRef × Nat × Target → Nat × Nat), e.w.accs = s.w.accs ++ news
      ∧ (∀ x, (place x).1 = x.2.1 / unit ∧ (first x.1 → (place x).2 = x.1.tid + 1) ∧ (¬ first x.1 → (place x).2 = 0))
      ∧ List.Forall₂ (fun n a => a.va / unit = n.1 ∧ a.kind = sh.kind ∧ a.bytes = sh.bytes ∧ a.scope = sh.scope ∧ a.ord = sh.ord ∧ a.pg = ix.pg
          ∧ a.lid = ix.lid ∧ a.lanes.map (fun l => (l.tid, l.va, l.val, l.val2))
            = ((ok.filter fun x => decide (place x = n)).map fun x => (x.1.tid, x.2.1, v x.1, v2 x.1))) (dedup (ok.map place)) news
      ∧ e.w.mem = s.w.mem ∧ e.w.window = s.w.window
      ∧ ∀ r, (e.thread r).ctx.regs = (s.thread r).ctx.regs ∧ (e.thread r).ctx.preds = (s.thread r).ctx.preds

/-- 08 R188, R190; 09 R199, R200: performing a store of one line writes the bytes of each lane at its place, the highest lane that covers a
byte deciding it, and no other byte of memory but for the order log's ring (20 R364), where the page is uncached or its home is the die's
own; a cached line of another die's home enters the remote write queue instead, and memory keeps every byte until the write at the queue's
head is performed there. The access is no longer in flight, no register changes. That memory holds what the home serves, whatever the
caches hold, is the model's choice (log 9). -/
def Obligations.StoreWritesItsBytes : Prop :=
  (∀ (s : State) (a : Acc), accNow s a.id .home = some a → a.kind = .store → (performAcc s a).2 = true → s.rb.rcEn = false →
      s.w.mem.wf = true → a.lanes ≠ [] → (∀ l ∈ a.lanes, (a.pa + l.va - a.va) / 128 = a.pa / 128) →
      let ring := fun k => s.rb.olBase ≤ k ∧ k < s.rb.olBase + 2 ^ s.rb.olLsize
      let parts := a.lanes.map fun l => (a.pa + l.va - a.va, bytesOfNat a.bytes l.val.toNat)
      let die := dieOfCore a.core
      ∃ e, exec (.homeAccessPerform a.id) s = .next e
        ∧ e.w.accs = s.w.accs.filter (fun b => b.id != a.id)
        ∧ e.w.pends = s.w.pends ∧ (∀ r, (e.thread r).ctx = (s.thread r).ctx)
        ∧ (if a.nc = true ∨ homeDie a.pa = die ∨ (s.launch a.lid).lr.dsm = true then
            (∀ k, ¬ ring k → memRead e.w.mem k = memRead (parts.foldl (fun m p => memWriteN m p.1 p.2) s.w.mem) k)
            ∧ (∀ k, ¬ ring k → (∀ p ∈ parts, k < p.1 ∨ p.1 + a.bytes ≤ k) → memRead e.w.mem k = memRead s.w.mem k)
          else e.w.mem = s.w.mem ∧ ∃ q : QWrite, (e.die die).wq = (s.die die).wq ++ [q] ∧ q.line = a.pa / 128 ∧ q.parts = parts))
  ∧ (∀ (s : State) (die : Nat) (q : QWrite) (rest : List QWrite), accNow s q.id .home = none → queueHead s q.id = some die →
      (s.die die).wq = q :: rest → framePending s (q.line * 128) = false →
      (stampAll s (q.stamps.map fun t => (t, clockLine false (q.line * 128)))).2 = true → s.w.mem.wf = true →
      ∃ e, exec (.homeAccessPerform q.id) s = .next e ∧ (e.die die).wq = rest
        ∧ (∀ k, (k < s.rb.olBase ∨ s.rb.olBase + 2 ^ s.rb.olLsize ≤ k) →
            memRead e.w.mem k = memRead (q.parts.foldl (fun m p => memWriteN m p.1 p.2) s.w.mem) k)
        ∧ ∀ r, (e.thread r).ctx = (s.thread r).ctx)

/-- 08 R187; 09 R197, R199: performing a load of one line that no cache holds a copy for gives every lane's result the bytes of memory at
its place, extended by its type, and changes no byte of memory but for the order log's ring (20 R364). What a cache holds is the model's
choice where the rules leave it open (log 9, log 10). -/
def Obligations.LoadGivesTheBytesOfMemory : Prop :=
  ∀ (s : State) (a : Acc) (ty : Ty), accNow s a.id .home = some a → a.kind = .load ty → (performAcc s a).2 = true →
    s.w.mem.wf = true → (a.lanes.filterMap (·.pend)).Nodup →
    (∀ l ∈ a.lanes, (a.pa + l.va - a.va) / 128 = a.pa / 128 ∧ (a.pa + l.va - a.va) % 128 + a.bytes ≤ 128
      ∧ (a.pa + l.va - a.va + a.bytes ≤ s.rb.olBase ∨ s.rb.olBase + 2 ^ s.rb.olLsize ≤ a.pa + l.va - a.va)) →
    (a.nc = true ∨ (findLine (s.core a.core).l1 (a.pa / 128) = none ∧ findLine (s.die (dieOfCore a.core)).l2 (a.pa / 128) = none
      ∧ queuedLine s (dieOfCore a.core) (a.pa / 128) = false)) →
    ∃ e, exec (.homeAccessPerform a.id) s = .next e
      ∧ (∀ k, (k < s.rb.olBase ∨ s.rb.olBase + 2 ^ s.rb.olLsize ≤ k) → memRead e.w.mem k = memRead s.w.mem k)
      ∧ (∀ l ∈ a.lanes, ∀ p ∈ s.w.pends, l.pend = some p.id →
          { p with ready := true, vals := loadWords ty (memNat s.w.mem (a.pa + l.va - a.va) a.bytes) } ∈ e.w.pends)
      ∧ e.w.accs = s.w.accs.filter (fun b => b.id != a.id)
      ∧ (∀ r, (e.thread r).ctx = (s.thread r).ctx)

/-- 14 R305-R307, R309: ATOM, RED, CAS and FRED act at the home in lane order, each lane on the value the lane before it left; the lane's
result is the value before its own step, memory ends with the value after the last, and no other byte changes but for the order
log's ring (20 R364). -/
def Obligations.AtomicsActInLaneOrder : Prop :=
  ∀ (s : State) (a : Acc) (ty : Ty) (f : Nat → Lane → Nat), accNow s a.id .home = some a →
    ((∃ op, (a.kind = .atom op ty ∨ a.kind = .red op ty) ∧ f = fun (m : Nat) (l : Lane) => atomStep op ty m (l.val.toNat % 2 ^ ty.bits))
      ∨ (a.kind = .cas ty ∧ f = fun (m : Nat) (l : Lane) => if m = l.val.toNat % 2 ^ ty.bits then l.val2.toNat % 2 ^ ty.bits else m)
      ∨ (a.kind = .fred ty ∧ f = fun (m : Nat) (l : Lane) => fredStep ty m (l.val.toNat % 2 ^ ty.bits))) →
    (performAcc s a).2 = true → s.w.mem.wf = true →
    (a.pa + ty.bytes ≤ s.rb.olBase ∨ s.rb.olBase + 2 ^ s.rb.olLsize ≤ a.pa) → (a.lanes.filterMap (·.pend)).Nodup →
    let m := memNat s.w.mem a.pa ty.bytes
    ∃ e, exec (.homeAccessPerform a.id) s = .next e
      ∧ memNat e.w.mem a.pa ty.bytes = a.lanes.foldl f m % 256 ^ ty.bytes
      ∧ (∀ k, (k < a.pa ∨ a.pa + ty.bytes ≤ k) → (k < s.rb.olBase ∨ s.rb.olBase + 2 ^ s.rb.olLsize ≤ k) →
          memRead e.w.mem k = memRead s.w.mem k)
      ∧ (∀ k l, a.lanes[k]? = some l → ∀ p ∈ s.w.pends, l.pend = some p.id →
          { p with ready := true, vals := loadWords ty ((a.lanes.take k).foldl f m) } ∈ e.w.pends)
      ∧ e.w.accs = s.w.accs.filter (fun b => b.id != a.id)

/-- 14 R308, R309: REDOBJ.init and REDOBJ.fold complete: a guard-true thread whose address is no multiple of 64 takes MISALIGNED, one whose
count lies outside 1 to 65,536 takes ILLEGAL with it, each other one either takes a trap of its checks or puts one access in flight,
for whose result the group is held. -/
def Obligations.ReductionObjectWords : Prop :=
  ∀ (w : Wd) (ty : Ty) (scope : Scope) (ord : MemOrd) (s : State) (ix : Issue), s.issue = some ix →
    let ea := fun t => (srcPair s t w.b + srcPair s t w.c).toNat
    let count := fun t => (srcWord s t w.a).toNat
    let form := fun (i : Instr) (kind : ThreadRef → AccKind) (counted : Bool) =>
      ∃ (d : State) (ok : List (ThreadRef × Nat × Target)) (traps : List (ThreadRef × Trap)),
        exec i s = .next (let u := takeTraps (spendSlot d ix w.ctl) ix traps
          if ok.isEmpty then advance u ix else modGroup u ix.part ix.pos fun g => { g with hold := .result })
        ∧ (ok.map (·.1) ++ traps.map (·.1)).Perm (activeOf s ix w.ctl)
        ∧ (ok.map (·.1)).Sublist (byLane (activeOf s ix w.ctl)) ∧ (traps.map (·.1)).Sublist (byLane (activeOf s ix w.ctl))
        ∧ (∀ t ∈ activeOf s ix w.ctl, ea t % 64 ≠ 0 → (t, { cause := 0x05, val := word (ea t), vahi := 0 }) ∈ traps)
        ∧ (∀ t ∈ activeOf s ix w.ctl, ea t % 64 = 0 → counted = true → (count t = 0 ∨ 65536 < count t) →
            (t, { cause := 0x01, val := word (count t), vahi := 0 }) ∈ traps)
        ∧ ∃ news, d.w.accs = s.w.accs ++ news ∧ news.map (·.va) = ok.map (fun x => ea x.1) ∧ news.map (·.kind) = ok.map fun x => kind x.1
    form (.redobjInit w ty scope ord) (fun t => .roInit ty (count t)) true
    ∧ form (.redobjFold w ty scope ord) (fun _ => .roFold ty) false

/-- 09 R203-R205; 11 R253: LDA, STA, LDC and STC complete: the lanes whose offset passes its checks load or store the bytes of the A-buffer,
or the element of the tile, in ascending lane position, the others take their traps; a store into a tile ends its error phase. The
order of the checks of LDA and STA: an offset outside the A-buffer, or in another core group's persistent range, is BUFFER_ACCESS, then
a misaligned one MISALIGNED, then a locked one RANGE_LOCK, each with the offset modulo 2^32. The order of the checks of LDC and STC is the model's choice (log 26). -/
def Obligations.BufferWordsActOnTheirCore : Prop :=
  (∀ (w : Wd) (ty : Ty) (scope : Scope) (ord : MemOrd) (s : State) (ix : Issue), s.issue = some ix →
      let tile := resNum (s.launch ix.lid).lr w.b
      let acts := fun (i : Instr) (check : ThreadRef → Except Trap Nat) (lane : State → ThreadRef → Nat → State) =>
        let ts := byLane (activeOf s ix w.ctl)
        let done := ts.foldl (fun a t => match check t with
          | .ok k => lane a t k
          | .error _ => a) s
        let traps := ts.filterMap fun t => match check t with
          | .ok _ => none
          | .error x => some (t, x)
        exec i s = .next (retire (acceptFlags s (takeTraps done ix traps) ix w.ctl) ix w.ctl)
      acts (.lda w ty scope ord) (fun t => checkBuffer s ix (bufOffset s t w) ty.bytes false) (fun a t k =>
          pushResult a ix w.ctl 0 true true t (outTy ty (vNum w.a) (wrapBits ty (memNat (a.core ix.core).abuf k ty.bytes)) 0))
      ∧ acts (.sta w ty scope ord) (fun t => checkBuffer s ix (bufOffset s t w) ty.bytes true) (fun a t k =>
          modCore a ix.core fun c => { c with abuf := memWriteN c.abuf k (bytesOfNat ty.bytes (srcPair s t w.a).toNat) })
      ∧ acts (.ldc w ty) (fun t => checkTile s ix tile (srcWord s t w.c).toNat) (fun a t k =>
          pushResult a ix w.ctl 0 true true t { regs := [vNum w.a], vals := [tileGet (tileOf a ix.core tile) k], preds := [], raise := 0 })
      ∧ acts (.stc w ty) (fun t => checkTile s ix tile (srcWord s t w.c).toNat) (fun a t k =>
          modTile a ix.core tile fun x => { tilePut x k (srcWord s t w.a) with cause := 0, val := 0 }))
  ∧ (∀ (s : State) (ix : Issue) (o : Int) (n : Nat) (store : Bool),
      let trap := fun (c : BitVec 8) => (Except.error { cause := c, val := word (o % 2 ^ 32).toNat, vahi := 0 } : Except Trap Nat)
      let outside := o < 0 ∨ (Config.abufSize (s.core ix.core).carve : Int) ≤ o ∨ inOthersRange s ix.core ix.cg o.toNat n = true
      let locked := lockHit (s.core ix.core).locks 1 (s.cg ix.cg).slot o.toNat n store = true
      (outside → checkBuffer s ix o n store = trap 0x09)
      ∧ (¬ outside → o % n ≠ 0 → checkBuffer s ix o n store = trap 0x05)
      ∧ (¬ outside → o % n = 0 → locked → checkBuffer s ix o n store = trap 0x08)
      ∧ (¬ outside → o % n = 0 → ¬ locked → checkBuffer s ix o n store = .ok o.toNat))

/-- 09 R202, R206, R207: PREF brings the lines its lanes name, FENCE with acquire drops what its scope says for its guard-true threads; both
complete. -/
def Obligations.PrefetchAndFenceComplete : Prop :=
  ∀ (w : Wd) (l1 : Bool) (scope : Scope) (ord : MemOrd),
    (actsAs (.pref w l1) w.ctl fun ix s => (byLane (activeOf s ix w.ctl)).foldl
      (fun a t => prefetch a ix l1 (srcPair s t w.b + srcPair s t w.c).toNat) s)
    ∧ (actsAs (.fence w scope ord) w.ctl fun ix s =>
      if (ord = .acq ∨ ord = .ar) ∧ activeOf s ix w.ctl ≠ [] then
        (match scope with
          | .th | .pg | .cg => s
          | .dg => modCore s ix.core fun c => { c with l1 := [] }
          | .dev | .sys => modDie (modCore s ix.core fun c => { c with l1 := [] }) (dieOfCore ix.core) fun d =>
              { d with l2 := d.l2.filter fun x => !x.remote })
      else s)

/-- 08 R185; 09 R201, R208, R209: CFLUSH, CINV and LDK, their lanes in ascending lane position and then their traps, and HWSIG complete where
no lane has to wait (for a frame, for an earlier access of its thread, for a full log; CFLUSH for a write to its line that is still on its
way): a lane whose address is misaligned takes
MISALIGNED, one whose page does not translate or permit takes the cause of its page; HWSIG outside the window takes PERMISSION, and a
lane that passes does its effect. The order of the checks of HWSIG is the model's choice (log 26). -/
def Obligations.CacheControlAndSignalWords : Prop :=
  ∀ (w : Wd) (icache : Bool) (ty : Ty),
    let ea := fun (s : State) (t : ThreadRef) => (srcPair s t w.b + srcPair s t w.c).toNat
    let wrong := fun (s : State) (t : ThreadRef) (n : Nat) (r : State × Option Trap) (a : State) =>
      ea s t % n ≠ 0 → r = (a, some { cause := 0x05, val := word (ea s t), vahi := 0 })
    let flush := fun (s : State) (ix : Issue) (a : State) (t : ThreadRef) =>
      match controlTarget a ix (ea s t) with
      | (b, .error x) => (b, some x)
      | (b, .ok (some pa)) => (b, if lineBusy b ix.core (pa / 128) then some (againTrap .order) else none)
      | (b, .ok none) => (b, none)
    let inval := fun (s : State) (ix : Issue) (a : State) (t : ThreadRef) =>
      match controlTarget a ix (ea s t) with
      | (b, .error x) => (b, some x)
      | (b, .ok (some pa)) => (dropLineOf b ix.core icache (pa / 128), none)
      | (b, .ok none) => (b, none)
    let signal := fun (s : State) (ix : Issue) (a : State) (t : ThreadRef) => hwsigLane a ix t (ea s t) (srcWord s t w.a)
    let constant := fun (s : State) (ix : Issue) (a : State) (t : ThreadRef) => ldkLane w ty s ix a t
    actsInLaneOrder (.cflush w) w.ctl flush
    ∧ actsInLaneOrder (.cinv w icache) w.ctl inval
    ∧ actsByLane (.hwsig w ty) w.ctl (fun s ix a t b => stepsOrTraps (signal s ix a t) ix t b)
    ∧ actsInLaneOrder (.ldk w ty) w.ctl constant
    ∧ (∀ s ix a t, wrong s t 4 (flush s ix a t) a ∧ wrong s t 4 (inval s ix a t) a ∧ wrong s t 4 (signal s ix a t) a
        ∧ wrong s t ty.bytes (constant s ix a t) a)
    ∧ ∀ s ix a t, ea s t % 4 = 0 → (ea s t < Config.windowBase ∨ Config.windowBase + Config.windowSize ≤ ea s t) →
        signal s ix a t = (a, some { cause := 0x07, val := word (ea s t), vahi := BitVec.ofNat 24 (ea s t >>> 32) })

/-- 10 R227, R228, R231, R235; 03 R60, 07 R169: a draw word completes where no lane has to wait: a guard-true thread whose output record is
full takes CHOICE_FULL with the count and its cursor stays, each other one gets its value, DRAWF as the f32 (x >> 8) 2^-24, DRAWB as
bit 31, CVTS as the tie breaker of its rounding. A thread without records draws the value of the draw function of its key, `gtid`,
site and occurrence, and its output count goes up by one; nothing else of the device changes. -/
def Obligations.DrawWords : Prop :=
  (∀ (w : Wd) (ty : Ty) (sat : Bool),
      let lane := fun (site occ : State → ThreadRef → Nat) (out : State → ThreadRef → Word → LaneOut) (_ : State) (ix : Issue)
          (a : State) (t : ThreadRef) (b : State) =>
        (∃ c x, draw a t (site a t) (occ a t) = (c, .ok x) ∧ b = pushResult c ix w.ctl 0 true true t (out a t x))
        ∨ ∃ c x, draw a t (site a t) (occ a t) = (c, .error x) ∧ x.again = none ∧ b = trapAt c ix t.tid x
      let site := fun (_ : State) (_ : ThreadRef) => immNat w.b % 4096
      let occ := fun (s : State) (t : ThreadRef) => (srcWord s t w.c).toNat % 4096
      actsByLane (.draw w) w.ctl (lane site occ fun _ _ x => out1 (vNum w.a) x 0)
      ∧ actsByLane (.drawf w) w.ctl (lane site occ fun _ _ x => out1 (vNum w.a) (word (fmt32.round (.fin false (x.toNat / 256) (-24))).1) 0)
      ∧ actsByLane (.drawb w) w.ctl (lane site occ fun _ _ x => outP (pNum w.a) (x.getLsbD 31) 0)
      ∧ actsByLane (.cvts w ty sat) w.ctl (lane (fun s t => (cvtsKey s t w.c).1) (fun s t => (cvtsKey s t w.c).2) fun s t x =>
          let r := (fmtOf ty).roundTie sat (some (x.getLsbD 31)) (val32 s t w.b)
          out1 (vNum w.a) (word r.1) r.2)
      ∧ ∀ s t site occ, (s.lrOfPg t.pg).cvout ≠ 0 → (s.thread t).ctx.cv.cvout.toNat = cvCap (s.lrOfPg t.pg) →
          ∃ b, draw s t site occ = (b, .error { cause := 0x11, val := word (s.thread t).ctx.cv.cvout.toNat, vahi := 0 })
            ∧ b = modCtx s t fun c => { c with cv := { c.cv with full := true } })
  ∧ (∀ (s : State) (t : ThreadRef) (site occ : Nat), (s.lrOfPg t.pg).cvout = 0 → (s.lrOfPg t.pg).cvmode = 0 →
      t.tid < (s.pg t.pg).threads.length →
      ∃ b, draw s t site occ = (b, .ok (dfn (word (s.lrOfPg t.pg).cvkey.toNat) (word (gtidOf s t)) (word site) (word occ)))
        ∧ b.thread t = { s.thread t with ctx := { (s.thread t).ctx with cv := { (s.thread t).ctx.cv with
            cvout := (s.thread t).ctx.cv.cvout + 1 } } }
        ∧ (∀ r, r ≠ t → b.thread r = s.thread r) ∧ b = { s with w := { s.w with pgs := b.w.pgs } })


/-! Copies, tags and streams (09 R210-R223; 11 R248). -/

/-- 09 R210, R213-R217; 11 R248: BCOPY, BGATH, BSCAT and CBLD complete, one operation for each guard-true thread: a descriptor that is not
aligned is the thread's MISALIGNED trap, a misaligned codebook the tag's error; an operation that its core has room for is registered,
with its locks and one more in its tag's count; that CBLD's one lock reads its 1,024 bytes is an inference (log 30). TGWAIT ends with the cause of the lowest failed tag where it checks, and TGCLR
clears the errors of the tags its threads name, no count. -/
def Obligations.CopyAndTagWords : Prop :=
  ∀ (w : Wd) (chk : Bool),
    let tag := fun (s : State) (ix : Issue) => resNum (s.launch ix.lid).lr w.a
    let ea := fun (s : State) (t : ThreadRef) => (srcPair s t w.b + srcPair s t w.c).toNat
    let mask := fun (s : State) (t : ThreadRef) => (List.range 64).filter fun i => (srcPair s t w.b).getLsbD i
    let copies := fun (i : Instr) (k : EngKind) =>
      actsOnEngine i w.ctl fun s ix a t b => stepsOrTraps (copyLane a ix t k (tag s ix) (ea s t)) ix t b
    copies (.bcopy w) .bcopy ∧ copies (.bgath w) .bgath ∧ copies (.bscat w) .bscat
    ∧ (∀ s ix t k n va, va % 64 ≠ 0 → copyLane s ix t k n va = (s, some { cause := 0x05, val := word va, vahi := 0 }))
    ∧ (actsOnEngine (.cbld w) w.ctl fun s ix a t b =>
        if ea s t % 1024 ≠ 0 then
          b = modTag a ix.cg (tag s ix) fun x => if x.err = 0 then { x with err := 0x05, val := word (ea s t) } else x
        else
          let o := (newOp a ix t .cbld (tag s ix) [] (ea s t)).1
          b = offerEngOp (newOp a ix t .cbld (tag s ix) [] (ea s t)).2 { o with
            locks := [{ write := false, space := 0, slot := (s.cg ix.cg).slot, eng := 0, id := tag s ix, lo := ea s t / 128,
                        hi := (ea s t + 1023) / 128, owner := o.id }],
            waits := ((a.core ix.core).eng.ops.filter fun y => y.accepted && decide (y.gang.cg = ix.cg)).map fun y => y.id })
    ∧ (∀ (s : State) (o : EngOp), o.accepted = false → o.counted = false →
        (∀ p ∈ s.w.ops, p.id ≠ o.id ∧ (p.core = o.core → p.accepted = true)) →
        (s.core o.core).locks.length + o.locks.length ≤ 32 → (tagOf s o.cg o.tag).count < 255 → (tget? s.w.cgs o.cg).isSome = true →
        let e := offerEngOp s o
        e.w.ops = s.w.ops ++ [{ o with counted := true, accepted := true }] ∧ (e.core o.core).locks = (s.core o.core).locks ++ o.locks
        ∧ tagOf e o.cg o.tag = { tagOf s o.cg o.tag with count := (tagOf s o.cg o.tag).count + 1 })
    ∧ (actsByLane (.tgwait w chk) w.ctl fun s ix a t b =>
        match (mask s t).find? fun n => decide ((tagOf a ix.cg n).err ≠ 0) with
        | some n => b = if chk then trapAt a ix t.tid { cause := (tagOf a ix.cg n).err, val := (tagOf a ix.cg n).val, vahi := 0 } else a
        | none => b = a)
    ∧ ∀ s ix, s.issue = some ix → ∃ e, exec (.tgclr w) s = .next (retire (acceptFlags s e ix w.ctl) ix w.ctl)
        ∧ e = { s with w := { s.w with cgs := e.w.cgs } }
        ∧ ∀ n, tagOf e ix.cg n
          = { tagOf s ix.cg n with err := if ∃ t ∈ activeOf s ix w.ctl, n ∈ mask s t then 0 else (tagOf s ix.cg n).err }

/-- 09 R218, R219, R221-R223: ASLICE, QPOP and QEND complete: ASLICE's descriptor starts the stream anew at element 0 of every thread, a
misaligned one is MISALIGNED; QPOP past the last element is QUEUE_UNDERFLOW, else it gives the entry that stands first, extended by the
stream's type, or takes the trap of its fault, NO_FRAME as a containment at once (08 R183); QEND ends the stream of the whole partition group. -/
def Obligations.StreamWords : Prop :=
  ∀ (w : Wd),
    let ea := fun (s : State) (t : ThreadRef) => (srcPair s t w.b + srcPair s t w.c).toNat
    let qa := fun (s : State) (ix : Issue) => resNum (s.launch ix.lid).lr w.a
    let qb := fun (s : State) (ix : Issue) => resNum (s.launch ix.lid).lr w.b
    (actsByLane (.aslice w) w.ctl fun s ix a t b => stepsOrTraps (asliceLane a ix t (qa s ix) (ea s t)) ix t b)
    ∧ (∀ s ix t q va, va % 32 ≠ 0 →
        asliceLane s ix t q va = (endStream s ix.pg q, some { cause := 0x05, val := word va, vahi := 0 }))
    ∧ (∀ s ix t q va b, asliceLane s ix t q va = (b, none) → t.pg = ix.pg → q < 4 → (b.pg t.pg).streams.length = 4 →
        (streamOf b t.pg q).active = true ∧ (streamOf b t.pg q).entries = []
        ∧ ∀ x ∈ (b.pg t.pg).threads, q < x.pos.length → x.pos.getD q 0 = 0)
    ∧ (∀ s ix e, s.issue = some ix →
        Lanes (fun a t b => stepsOrTraps (qpopLane a ix t w (qb s ix)) ix t b) s (activeOf s ix w.ctl) e →
        exec (.qpop w) s = .next (retire (settleStream (acceptFlags s e ix w.ctl) ix.pg (qb s ix)) ix w.ctl))
    ∧ (∀ s ix t q, ((streamOf s t.pg q).active = false ∨ sdCount (streamOf s t.pg q).desc ≤ posOf s t q) →
        qpopLane s ix t w q = (s, some { cause := 0x0F, val := word q, vahi := 0 }))
    ∧ (∀ s ix t q (x : QEntry), (streamOf s t.pg q).active = true → posOf s t q < sdCount (streamOf s t.pg q).desc →
        nextEntry s t q = some x → present s t.pg x = true →
        let ty := sdType (streamOf s t.pg q).desc
        (x.cause = 0 → ¬ (ty.is64 = true ∧ vNum w.a % 2 = 1) →
          qpopLane s ix t w q
            = (pushResult (popEntry s t q) ix w.ctl 4 false true t (outTy ty (vNum w.a) (wrapBits ty x.val.toNat) 0), none))
        ∧ (x.cause ≠ 0 → x.cause ≠ 0x12 → ∃ b, qpopLane s ix t w q = (b, some (memTrap x.cause x.va.toNat)))
        ∧ (x.cause = 0x12 → ∃ b, qpopLane s ix t w q = (contain b t 0x12, none)))
    ∧ actsAs (.qend w) w.ctl fun ix s => if activeOf s ix w.ctl = [] then s else endStream s ix.pg (resNum (s.launch ix.lid).lr w.a)

/-! The matrix engine (11 R237-R257). -/

/-- 11 R238, R241, R242, R244, R246, R247: MACQ, MREL, GANG, RESV and RFREE complete: MACQ goes on with the engine, or waits for it in the
queue; GANG's malformed mask, its change by a gang that owns or awaits the engine and a mask that disagrees with a pending one are
BARRIER_MISUSE; RESV gives the number it reserved or the code of its failure, RFREE of a number its core group does not hold is
BUFFER_ACCESS. That the mask is the lowest guard-true thread's, and the code of a descriptor whose reserved bits are set, is the model's choice (log 29, log 31). -/
def Obligations.EngineOwnershipWords : Prop :=
  ∀ (w : Wd) (s : State) (ix : Issue), s.issue = some ix →
    let c := w.ctl
    let goesOn := fun (e : State) => retire (acceptFlags s e ix c) ix c
    let waits := fun (e : State) (h : Hold) =>
      modGroup (spendSlot (acceptFlagsAs true e e ix c) ix c) ix.part ix.pos fun g => { g with hold := h }
    let drops := if ownsEngine s ix.pg then releaseEngine s (s.pg ix.pg).core
      else modEng s (s.pg ix.pg).core fun e => { e with queue := e.queue.filter fun o => !o.has (cgOfPg ix.pg) (s.pg ix.pg).pgid }
    (activeOf s ix c = [] → exec (.macq w) s = .next (retire s ix c) ∧ exec (.gang w) s = .next (retire s ix c)
      ∧ exec (.mrel w) s = .next (goesOn s))
    ∧ (activeOf s ix c ≠ [] →
      let r := requestEngine s ix.pg
      exec (.macq w) s = .next (if ownsEngine r ix.pg = true ∧ (engOf r ix.pg).readyAt ≤ timeOf r ix.cg then
          retire (acceptFlags r r ix c) ix c else waits r .own)
      ∧ exec (.mrel w) s = .next (goesOn drops))
    ∧ (∀ t ts, activeOf s ix c = t :: ts →
      let m := srcWord s t w.b
      let bits := (List.range 6).filter fun i => m.getLsbD i
      let mine := sortBy id (gangMembers (s.cg ix.cg) (s.pg ix.pg).pgid)
      let malformed := m ≠ 0 ∧ (64 ≤ m.toNat ∨ bits.length < 2 ∨ (∃ b ∈ bits, (s.launch ix.lid).lr.npg ≤ b) ∨ (s.pg ix.pg).pgid ∉ bits)
      let busy := m ≠ 0 ∧ mine ≠ bits ∧ (ownsEngine s ix.pg = true ∨ waitsEngine s ix.pg = true)
      let clash := ¬ (m ≠ 0 ∧ mine = bits) ∧ ∃ a ∈ (s.cg ix.cg).gangAsk, a.2 ≠ m ∧ a.2 &&& m ≠ 0
      (malformed ∨ busy ∨ clash → exec (.gang w) s = .next (retire ((t :: ts).foldl
        (fun a u => trapAt a ix u.tid { cause := 0x10, val := m, vahi := 0 }) s) ix c))
      ∧ (¬ malformed → m ≠ 0 → mine = bits → exec (.gang w) s = .next (goesOn s))
      ∧ (¬ clash → m = 0 → mine.length < 2 → exec (.gang w) s = .next (goesOn drops))
      ∧ (¬ malformed → ¬ busy → ¬ clash → (m ≠ 0 ∧ mine ≠ bits ∨ m = 0 ∧ 2 ≤ mine.length) →
        let asked := modCg s ix.cg fun g =>
          { g with gangAsk := g.gangAsk.filter (fun a => a.1 != (s.pg ix.pg).pgid) ++ [((s.pg ix.pg).pgid, m)],
                   gangAt := tput g.gangAt (s.pg ix.pg).pgid (timeOf s ix.cg) }
        let r := settleGangs asked ix.cg
        exec (.gang w) s = .next (if ∃ a ∈ (r.cg ix.cg).gangAsk, a.1 = (s.pg ix.pg).pgid then waits r .gang
          else retire (acceptFlags r r ix c) ix c)))
    ∧ (∀ e, Lanes (fun a t b =>
        match readDescAcq a t (srcPair s t w.b + srcPair s t w.c).toNat 32 32 with
        | (x, .error tr) => tr.again = none ∧ b = trapAt x ix t.tid tr
        | (x, .ok d) =>
          let r := resvOf ix.cg d
          let k := resvCode (x.core ix.core) r (resvReserved d)
          b = pushResult (if k.1 = 0 then modCore x ix.core fun y => { y with resv := tput y.resv k.2 r } else x) ix c 32 false true t
            (out1 (vNum w.a) (word (if k.1 = 0 then k.2 else 2 ^ 31 + k.1 * 2 ^ 24)) 0)) s (activeOf s ix c) e →
        exec (.resv w) s = .next (goesOn e))
    ∧ (∀ (x : Core) (r : Resv) (bad : Bool) (n : Nat), resvCode x r bad = (0, n) → n < 16 ∧ tget? x.resv n = none ∧ bad = false
        ∧ r.off % 4096 = 0 ∧ r.len % 4096 = 0 ∧ 0 < r.len ∧ r.off + r.len ≤ Config.wbufSize
        ∧ ∀ y ∈ x.resv, y.2.len = 0 ∨ r.off + r.len ≤ y.2.off ∨ y.2.off + y.2.len ≤ r.off)
    ∧ ∀ e, Lanes (fun a t b =>
        let n := (srcWord s t w.b).toNat % 16
        if (tget? (a.core ix.core).resv n).any (fun r => r.cg = ix.cg) then b = modCore a ix.core fun y => { y with resv := tdel y.resv n }
        else b = trapAt a ix t.tid { cause := 0x09, val := word n, vahi := 0 }) s (activeOf s ix c) e →
        exec (.rfree w) s = .next (goesOn e)

/-- 11 R239, R249, R254-R256: MMA, MMAS, MZERO, MDRAIN and MFILL complete: the operands of the lowest guard-true thread arrive at the gang's
latch, and the group stands until the operation is accepted. MWAIT takes MATRIX_FAULT with tile, cause and value of the lowest failed tile it
names, else it gives the tiles' status bits; MDEP, whose counter 05 R104 gives, arms one decrement for each guard-true thread while its tile
holds fewer than four. When MDEP's decrement is armed is the model's choice (log 28). -/
def Obligations.MatrixWords : Prop :=
  ∀ (w : Wd) (aty : Ty) (s : State) (ix : Issue), s.issue = some ix →
    let c := w.ctl
    let lr := (s.launch ix.lid).lr
    let ea := fun t => (srcPair s t w.b + srcPair s t w.c).toNat
    let one : BitVec 16 := BitVec.ofNat 16 (2 ^ resNum lr w.a)
    let joins := fun (i : Instr) (op : ThreadRef → MatKind × BitVec 16) =>
      (activeOf s ix c = [] → exec i s = .next (retire s ix c))
      ∧ ∀ t ts, activeOf s ix c = t :: ts →
        let a := modPg s ix.pg fun g => { g with joints := g.joints + 1 }
        exec i s = .next (modGroup (spendSlot (acceptFlagsAs true a
          (arriveLatch a ix.pg ix.pos t.tid { pc := ix.pc, hdr := ix.hdr, len := ix.header.count.toNat + 1 } (op t).1 (op t).2) ix c) ix c)
          ix.part ix.pos fun g => { g with hold := .joint })
    joins (.mma w aty) (fun t => (.mma aty (srcWord s t w.b) (srcWord s t w.c), one))
    ∧ joins (.mmas w aty) (fun t =>
      (.mmas aty ((srcPair s t w.b).extractLsb' 0 32) ((srcPair s t w.b).extractLsb' 32 32) (srcWord s t w.c), one))
    ∧ joins (.mzero w) (fun t => (.zero, (srcWord s t w.b).truncate 16))
    ∧ joins (.mdrain w) (fun t => (.drain (ea t), one))
    ∧ joins (.mfill w) (fun t => (.fill (ea t), one))
    ∧ (∀ e, Lanes (fun a t b =>
        let qs := (List.range 16).filter fun q => (srcWord s t w.b).getLsbD q
        match qs.find? fun q => decide ((tileOf s ix.core q).cause ≠ 0) with
        | some q => b = trapAt a ix t.tid { cause := 0x0E, vahi := 0, val := word (q * 2 ^ 28
            + (tileOf s ix.core q).cause.toNat * 2 ^ 20 + (tileOf s ix.core q).val.toNat) }
        | none => ∃ v, b = pushResult a ix c 32 false true t (out1 (vNum w.a) v 0)
            ∧ ∀ q < 16, v.getLsbD q = (decide (q ∈ qs) && (tileOf s ix.core q).nv)
              ∧ v.getLsbD (16 + q) = (decide (q ∈ qs) && (tileOf s ix.core q).ovf)) s (activeOf s ix c) e →
        exec (.mwait w) s = .next (retire (acceptFlags s e ix c) ix c))
    ∧ (∀ e, Lanes (fun a t b =>
        let q := resNum lr w.a
        match counterOf s ix t w.b with
        | .error tr => b = trapAt a ix t.tid tr
        | .ok n => armedOn a ix.core q < 4 ∧ b = fireArmed (modEng a ix.core fun x => { x with armed := x.armed ++
            [{ tile := q, counter := n, cg := ix.cg,
               ops := ((engOf a ix.pg).ops.filter fun o => o.accepted && decide (o.tiles &&& one ≠ 0)).map fun o => o.id }] }) ix.core) s
        ((activeOf s ix c).filter fun t => !(s.group ix.part ix.pos).did.contains t.tid) e →
        exec (.mdep w) s = .next (retire (acceptFlags s e ix c) ix c))
    ∧ ∀ t n f g, w.b = .v n f g → counterOf s ix t w.b = (if lr.dccnt ≤ (regOf s t n.toNat).toNat then
        .error { cause := 0x07, val := word (regOf s t n.toNat).toNat, vahi := 0 } else .ok (regOf s t n.toNat).toNat)

/-! Barriers and tasks (14 R295-R303; 05 R104-R108; 20 R353). -/

/-- 14 R296-R298, R300, R302, R303: BARA, BARW, BARAW and TEAMJ complete: an arrival counts its thread in the current generation; one whose
last arrival is still in a generation that has not completed, under DSM as far as that has been delivered, is BARRIER_MISUSE, as a wait
without an arrival is; where some are and the others have still to perform their release wait, the misuse traps first and the word waits. A
waiting thread is filed at the next word until its generation's release, at once where that has come. BARRIER_RELEASE, due, readies the
waiting threads of its tier instance. -/
def Obligations.BarrierWords : Prop :=
  ∀ (w : Wd),
    let misuse := fun (ix : Issue) => ({ cause := 0x10, val := word ix.pc, vahi := 0 } : Trap)
    let counted := fun (s : State) (ix : Issue) (b : Nat) (t : ThreadRef) =>
      let r := arrOf (s.thread t) b
      r.pend && (match r.gen with
        | some n => if (s.launch ix.lid).lr.dsm then !barReleased s ix.pg b n else decide (n = (barOf s ix.pg b).gen)
        | none => false)
    let goes := fun (s : State) (ix : Issue) (b : Nat) => (∀ t ∈ activeOf s ix w.ctl, counted s ix b t = false)
      ∨ releaseWait s ix ((activeOf s ix w.ctl).filter fun t => !counted s ix b t) (barScope b) = false
    let waits := fun (i : Instr) (s : State) (ix : Issue) (b : Nat) => ¬ goes s ix b → exec i s
      = .next (holdWord (((activeOf s ix w.ctl).filter fun t => counted s ix b t).foldl (fun a t => trapAt a ix t.tid (misuse ix)) s) ix .order)
    let comes := fun (ix : Issue) (b : Nat) (a : State) (t : ThreadRef) =>
      if counted a ix b t then trapAt a ix t.tid (misuse ix) else arriveBar a t b
    let stays := fun (ix : Issue) (b : Nat) (a : State) (t : ThreadRef) =>
      let r := arrOf (a.thread t) b
      if r.pend = false then trapAt a ix t.tid (misuse ix)
      else if barReleased a ix.pg b (r.gen.getD 0) then
        fileThread (modThread (acquireActions a ix.core (barScope b)) t fun x =>
          ({ x with arr := x.arr.set b { r with pend := false } }).seeStores b a.w.nextId) t (ix.pc + 12) .ready
      else fileThread a t (ix.pc + 12) (.barrier b (r.gen.getD 0))
    let others := fun (s : State) (ix : Issue) (a : State) => (ix.tids.filter fun i => !guardOf s w.ctl ⟨ix.pg, i⟩).foldl
      (fun x i => fileThread x ⟨ix.pg, i⟩ (ix.pc + 12) .ready) a
    (∀ s ix, s.issue = some ix →
        let b := barNum s ix w.a
        (goes s ix b → exec (.bara w) s = .next (retire (acceptFlags s ((activeOf s ix w.ctl).foldl (comes ix b) s) ix w.ctl) ix w.ctl))
        ∧ waits (.bara w) s ix b ∧ waits (.baraw w) s ix b)
    ∧ (filesAs (.barw w) w.ctl fun ix s => others s ix ((activeOf s ix w.ctl).foldl (stays ix (barNum s ix w.a)) s))
    ∧ (∀ s ix, s.issue = some ix →
        let b := barNum s ix w.a
        goes s ix b →
        let r := (activeOf s ix w.ctl).foldl (fun (acc : State × List ThreadRef) t =>
          (comes ix b acc.1 t, if counted acc.1 ix b t then acc.2 else acc.2 ++ [t])) (s, [])
        exec (.baraw w) s = .next (spendSlot (acceptFlags s (others s ix (r.2.foldl (stays ix b) r.1)) ix w.ctl) ix w.ctl))
    ∧ (filesAs (.teamj w) w.ctl fun ix s => settleJoins (acquireActions (ix.tids.foldl (fun a i =>
        let t : ThreadRef := ⟨ix.pg, i⟩
        if guardOf s w.ctl t then modThread (fileThread a t (ix.pc + 12) .join) t fun x => { x with join := some ix.pc }
        else fileThread a t (ix.pc + 12) .ready) s) ix.core .pg) ix.pg)
    ∧ (∀ s t b, t.tid < (s.pg t.pg).threads.length → b < (s.thread t).arr.length →
        arrOf ((arriveBar s t b).thread t) b = { pend := true, gen := some (barOf s t.pg b).gen })
    ∧ ∀ (s : State) (pgs : List Nat) (b : Nat) (gen : BitVec 16) (k : Nat), pgs.Nodup → k ∈ pgs → (tget? s.w.pgs k).isSome = true →
        ((releaseWaiters s pgs b gen).pg k).threads = (s.pg k).threads.map fun t =>
          if t.wait = .barrier b gen then
            ({ t with wait := .ready, arr := t.arr.set b { pend := false, gen := some gen } }).seeStores b s.w.nextId else t

/-- 05 R98, R104-R108; 20 R353: TENQ, DCNEW, DCDEC, DCQ, LAUNCH and MUTL complete: the record or descriptor of each lane is read, misaligned
it is MISALIGNED with its address; a counter number at or above the launch's count is PERMISSION with it; what remains is given to
its unit, for a DSM launch as one access in flight, with a result where the word has one. DCNEW and DCDEC change the counter. -/
def Obligations.TaskWords : Prop :=
  ∀ (w : Wd) (q : BitVec 3),
    let c := w.ctl
    let ea := fun (s : State) (t : ThreadRef) => (srcPair s t w.b + srcPair s t w.c).toNat
    let reads := fun (ix : Issue) (t : ThreadRef) (x : State × Except Trap (List Byte)) (b : State) (f : State → List Byte → State → Prop) =>
      match x with
      | (a, .error tr) => tr.again = none ∧ b = trapAt a ix t.tid tr
      | (a, .ok bs) => f a bs b
    let counter := fun (i : Instr) (o : Opd) (lat : Nat) (dst : Option Nat) (op : Nat → Word → TaskOp) =>
      actsByLane i c fun s ix a t b =>
        let lr := (s.launch ix.lid).lr
        let n := match o with
          | .v r _ _ => (regOf s t r.toNat).toNat
          | _ => resNum lr o
        if (∃ r f g, o = .v r f g) ∧ lr.dccnt ≤ n then b = trapAt a ix t.tid { cause := 0x07, val := word n, vahi := 0 }
        else b = giveTask a ix c t (op n (srcWord s t w.b)) 0 lat dst
    (actsByLane (.tenq w q) c fun s ix a t b => reads ix t (readDesc a t (ea s t) 64 64) b fun x bs y =>
      y = giveTask x ix c t (.tenq q.toNat (wordsOfBytes bs)) (ea s t) 32 (some (vNum w.a)))
    ∧ counter (.dcnew w) w.a 0 none (fun n v => .dcnew n v.toNat)
    ∧ counter (.dcdec w) w.a 0 none (fun n v => .dcdec n v.toNat)
    ∧ counter (.dcq w) w.b 32 (some (vNum w.a)) (fun n _ => .dcq n)
    ∧ (actsByLane (.launch w) c fun s ix a t b => reads ix t (readDescAcq (acquireActions a ix.core .dev) t (ea s t) 128 1024) b
        fun x bs y => y = giveTask x ix c t (.launch bs) (ea s t) 32 (some (vNum w.a)))
    ∧ (actsByLane (.mutl w) c fun s ix a t b => reads ix t (readDescAcq (acquireActions a ix.core .dev) t (ea s t) 128 128) b
        fun x d y => if mdBad d then y = giveTask x ix c t (.mutl (siteOf ix) (wordNow x) d []) (ea s t) 32 (some (vNum w.a))
          else reads ix t (readNowAcq x t (fieldAt d 24 8) 1024) y
            fun z r y => y = giveTask z ix c t (.mutl (siteOf ix) (wordNow z) d r) (ea s t) 32 (some (vNum w.a)))
    ∧ (∀ s t va n k, va % n ≠ 0 → readDesc s t va n k = (s, .error { cause := 0x05, val := word va, vahi := 0 })
        ∧ readDescAcq s t va n k = (s, .error { cause := 0x05, val := word va, vahi := 0 }))
    ∧ ∀ (s : State) (lid dg n v : Nat), (tget? s.w.dies ((s.launch lid).dies.getD dg 0)).isSome = true →
        let x := dcGet s lid dg n
        dcGet (dcNew s lid dg n v) lid dg n = (if 65535 < v then { value := 65535, err := true } else { x with value := v })
        ∧ dcGet (dcDec s lid dg n v) lid dg n = (if v = 0 then x else if x.value < v then { value := 0, err := true }
          else { x with value := x.value - v })

/-! Splats, the Ladle, reuse, rays and textures (12 R266-R277; 13 R279-R293). -/

/-- 12 R265, R266, R268-R270, R272-R275, R277: the words of the splat units complete: SPROJ and SSORT register one operation for each lane
whose descriptor passes its checks, else the tag holds the cause; SFETCH gives the twelve words of the record its pair names. CDEP, CWMARK,
CREAD, CRLIST, CRST and CRST.rel ask the Ladle for an operation of each lane, done at once, under DSM put before it for its slot of
acceptance; one of a slot that is not the core group's is BUFFER_ACCESS with its number, as a pixel above 255 is. CREAD gives the pixel's
24 bytes, CRLIST all ones where there is no entry, CRST.rel frees the slot. That `CRST.rel` of a free slot does nothing is the model's choice (log
39); that one lock entry spans two ranges (log 17) and that CRST checks its slot before its descriptor (log 26) are inferences. -/
def Obligations.SplatWords : Prop :=
  ∀ (w : Wd) (kn : BitVec 5),
    let c := w.ctl
    let ea := fun (s : State) (t : ThreadRef) => (srcPair s t w.b + srcPair s t w.c).toNat
    let slotTrap := fun (v : Word) => ({ cause := 0x09, val := v, vahi := 0 } : Trap)
    let tagged := fun (i : Instr) (k : EngKind) (n : Nat) (bad : List Byte → Nat → Option (BitVec 8 × Nat))
        (locks : EngOp → Nat → List RLock) =>
      actsOnEngine i c fun s ix a t b =>
        let tag := resNum (s.launch ix.lid).lr w.a
        match readDescAcq a t (ea s t) n n with
        | (x, .error tr) => tr.again = none ∧ b = trapAt x ix t.tid tr
        | (x, .ok d) => match bad d (ea s t) with
          | some r => b = tagFail x ix.cg tag r.1 r.2
          | none =>
            let o := (newOp x ix t k tag d (ea s t)).1
            let y := (newOp x ix t k tag d (ea s t)).2
            b = offerEngOp y { o with locks := locks o (y.cg ix.cg).slot }
    tagged (.sproj w) .sproj 32 pjBad (fun o slot =>
      [spanLock false 0 slot 5 o.tag o.id (fieldAt o.desc 0 8 + 64 * pjFirst o.desc) (64 * pjN o.desc) (fieldAt o.desc 16 8) 128,
       spanLock true 0 slot 5 o.tag o.id (fieldAt o.desc 8 8) (64 * pjN o.desc) 0 0])
    ∧ tagged (.ssort w) .ssort 64 ssBad (fun o slot =>
      let table := fieldAt o.desc 16 8
      let lo := Nat.min table (o.descVa + 0x24)
      [spanLock false 0 slot 6 o.tag o.id (fieldAt o.desc 0 8) (64 * ssN o.desc) 0 0,
       spanLock true 0 slot 6 o.tag o.id lo (Nat.max (table + 8 * ssNtx o.desc * ssNty o.desc) (o.descVa + 0x28) - lo)
         (fieldAt o.desc 8 8) (8 * ssCap o.desc)])
    ∧ (actsByLane (.sfetch w kn) c fun s ix a t b => stepsOrTraps (sfetchLane a ix w kn s t) ix t b)
    ∧ (∀ s ix s0 t, ea s0 t % 8 ≠ 0 → sfetchLane s ix w kn s0 t = (s, some { cause := 0x05, val := word (ea s0 t), vahi := 0 }))
    ∧ asksLadle (.cdep w) c 0 (fun s ix a t => atSlot a ix (srcWord s t w.a) fun k =>
        let r := fun (i : Nat) => regOf s t (vNum w.b + i)
        let tm : Term := { pix := (r 0).toNat, key := r 1, idx := r 2, alpha := r 3, r := r 4, g := r 5, b := r 6 }
        if 255 < tm.pix then .error (slotTrap (r 0)) else .ok { slot := k, kind := .deposit tm, regs := [] })
    ∧ asksLadle (.cwmark w) c 0 (fun s ix a t => atSlot a ix (srcWord s t w.a) fun k =>
        .ok { slot := k, kind := .mark (srcWord s t w.b), regs := [] })
    ∧ asksLadle (.cread w) c 0 (fun s ix a t => atSlot a ix (srcWord s t w.b) fun k =>
        .ok { slot := k, kind := .pixel ((srcWord s t w.c).toNat % 256), regs := (List.range 6).map fun i => vNum w.a + i })
    ∧ asksLadle (.crlist w) c 0 (fun s ix a t => atSlot a ix (srcWord s t w.b) fun k =>
        .ok { slot := k, kind := .entry ((srcWord s t w.c).toNat % 256) ((srcWord s t w.c).toNat / 256 % 256),
              regs := (List.range 4).map fun i => vNum w.a + i })
    ∧ asksLadle (.crst w) c 49 (fun s ix a t => crstLane a ix t (srcWord s t w.a) (ea s t))
    ∧ asksLadle (.crstRel w) c 0 (fun s ix a t =>
        let v := srcWord s t w.a
        match slotAfter a ix.core v.toNat with
        | some x => (a, if x.1 = ix.cg then .ok (some { slot := v.toNat, kind := .release, regs := [] }) else .error (slotTrap v))
        | none => (a, if 8 ≤ v.toNat then .error (slotTrap v) else .ok none))
    ∧ (∀ s ix v q, (v.toNat < 8 → ∀ x, slotAfter s ix.core v.toNat = some x → x.1 ≠ ix.cg) → atSlot s ix v q = (s, .error (slotTrap v)))
    ∧ (∀ s ix v q x, v.toNat < 8 → slotAfter s ix.core v.toNat = some x → x.1 = ix.cg → atSlot s ix v q = (s, (q v.toNat).map some))
    ∧ (∀ s ix t v va, (8 ≤ v.toNat ∨ ∃ x, slotAfter s ix.core v.toNat = some x ∧ x.1 ≠ ix.cg) →
        crstLane s ix t v va = (s, .error (slotTrap v)))
    ∧ (∀ s ix t q, let o := ladleOp s ix t q (some s.w.nextId)
        (s.launch ix.lid).lr.dsm = true → sendLadle s ix c t q = (modCore (pushResult s ix c 0 true false t
          { regs := q.regs, vals := [], preds := [], raise := 0 }) ix.core fun x => { x with ladleQ := x.ladleQ ++ [o] }, none))
    ∧ (∀ s ix t q x vals, (s.launch ix.lid).lr.dsm = false → applyLadle s ix.core (ladleOp s ix t q none) = .done x vals →
        let y := modCore x ix.core fun z => { z with ladleAt := (x.clk + 1, ix.part) }
        sendLadle s ix c t q = (if q.regs = [] then y
          else pushResult y ix c 0 true true t { regs := q.regs, vals := vals, preds := [], raise := 0 }, none))
    ∧ ∀ (s : State) (core : Nat) (o : LadleOp) (x : LadleSlot), slotOf s core o.slot = some x →
        (∀ p, o.kind = .pixel p → applyLadle s core o = .done s (wordsOfBytes (memReadN (s.core core).abuf (x.state + 24 * p) 24)))
        ∧ (∀ p j, o.kind = .entry p j → (Nat.min (pxN s core x p) 255 ≤ j ∨ x.list = 0) →
            applyLadle s core o = .done s [0xFFFFFFFF, 0xFFFFFFFF, 0, 0])
        ∧ (o.kind = .release → ∃ e, applyLadle s core o = .done e [] ∧ slotOf e core o.slot = none)

/-- 13 R279, R280, R284-R293: RPROJ and RWLIST register one operation for each lane whose descriptor passes its checks; TRACE runs its
traversal from the root, which ends, waits for an odd node or traps; ASUPD puts one access of 64 bytes in flight for each aligned lane;
TEX, TLD, IMST and IMLD read the descriptor, a lane outside the image loads zero or stores nothing. They complete where no lane has to
wait. The checks of reserved values of the descriptors are the model's choice where the rules do not name them (log 40). -/
def Obligations.ReuseRayAndTextureWords : Prop :=
  ∀ (w : Wd) (anyHit : Bool) (ty : Ty) (scope : Scope) (ord : MemOrd),
    let c := w.ctl
    let ea := fun (s : State) (t : ThreadRef) => (srcPair s t w.b + srcPair s t w.c).toNat
    let tagged := fun (i : Instr) (k : EngKind) (bad : List Byte → Nat → Option (BitVec 8 × Nat))
        (locks : EngOp → Nat → List RLock) =>
      actsOnEngine i c fun s ix a t b =>
        let tag := resNum (s.launch ix.lid).lr w.a
        match readDescAcq a t (ea s t) 64 64 with
        | (x, .error tr) => tr.again = none ∧ b = trapAt x ix t.tid tr
        | (x, .ok d) => match bad d (ea s t) with
          | some r => b = tagFail x ix.cg tag r.1 r.2
          | none =>
            let o := (newOp x ix t k tag d (ea s t)).1
            let y := (newOp x ix t k tag d (ea s t)).2
            b = offerEngOp y { o with locks := locks o (y.cg ix.cg).slot }
    let four := fun (ix : Issue) (b : State) (t : ThreadRef) (r : State × Except Trap (List Nat)) =>
      match r with
      | (x, .error tr) => tr.again = none ∧ b = trapAt x ix t.tid tr
      | (x, .ok v) => b = pushResult x ix c 0 true true t
          { regs := (List.range 4).map fun i => vNum w.a + i, vals := v.map word, preds := [], raise := 0 }
    let tex := fun (i : Instr) (f : State → ThreadRef → List Byte → DWord → State × Except Trap (List Nat)) =>
      actsByLane i c fun s ix a t b => match readTx a t (srcPair s t w.c).toNat with
        | (x, .error tr) => tr.again = none ∧ b = trapAt x ix t.tid tr
        | (x, .ok d) => four ix b t (f x t d (srcPair s t w.b))
    let image := fun (i : Instr) (sh : AccShape) (need : Need) (v : State → ThreadRef → DWord) (out : ThreadRef → Option LaneOut)
        (outside : State → Issue → ThreadRef → State) =>
      ∀ s ix a l tr, s.issue = some ix → imElems (byLane (activeOf s ix c)) s w ty = (a, .ok (l, tr)) →
        let ea := fun t => ((l.find? fun x => x.1 = t).bind (·.2)).getD 0
        let r := checkLanes a ix.pg ((l.filter fun x => x.2.isSome).map (·.1)) ea ty.bytes need
        (l.map (·.1) ++ tr.map (·.1)).Perm (activeOf s ix c)
        ∧ exec i s = .next (retire (acceptFlags s (takeTraps ((l.filter fun x => x.2.isNone).foldl (fun x y => outside x ix y.1)
            (pushAccs r.1 ix c sh r.2.ok (v s) (fun _ => 0) out)) ix (tr ++ r.2.traps)) ix c) ix c)
    let lock := fun (o : EngOp) (slot : Nat) (wr : Bool) (a n : Nat) => spanLock wr 0 slot 7 o.tag o.id a n 0 0
    tagged (.rproj w) .rproj (rdBad true) (fun o slot =>
      let n := rdArea o.desc
      [lock o slot false (rdPrev o.desc) (8 * n), lock o slot false (rdMot o.desc) (8 * n)]
        ++ (if rdRef o.desc = 0 then [] else [lock o slot false (rdRef o.desc) (4 * n)]) ++ [lock o slot true (rdCur o.desc) (8 * n)])
    ∧ tagged (.rwlist w) .rwlist (rdBad false) (fun o slot =>
      [lock o slot false (rdCur o.desc) (8 * rdArea o.desc)]
        ++ (if rdCap o.desc = 0 then [] else [lock o slot true (rdList o.desc) (4 * rdCap o.desc)]) ++ [lock o slot true (rdCnt o.desc) 4])
    ∧ (actsByLane (.trace w anyHit) c fun s ix a t b => stepsOrTraps (traceLane a ix w anyHit s t) ix t b)
    ∧ (∀ s ix s0 t, (srcPair s0 t w.c).toNat % 64 ≠ 0 → traceLane s ix w anyHit s0 t
        = (s, some { cause := 0x05, val := word (srcPair s0 t w.c).toNat, vahi := 0 }))
    ∧ (∀ s ix, s.issue = some ix → ∃ (d : State) (ok : List (ThreadRef × Nat × Target)) (traps : List (ThreadRef × Trap)),
        exec (.asupd w) s = .next (retire (acceptFlags s (takeTraps d ix traps) ix c) ix c)
        ∧ (ok.map (·.1) ++ traps.map (·.1)).Perm (activeOf s ix c)
        ∧ (∀ t ∈ activeOf s ix c, ea s t % 64 ≠ 0 → (t, { cause := 0x05, val := word (ea s t), vahi := 0 }) ∈ traps)
        ∧ ∃ news, d.w.accs = s.w.accs ++ news
          ∧ news.map (fun a => (a.va, a.bytes, a.kind)) = ok.map fun x => (ea s x.1, 64, AccKind.node
              ((List.range 15).map fun i => regOf s x.1 (vNum w.a + 1 + i))))
    ∧ tex (.tex w) (fun s t d p => texSample s t d (p.extractLsb' 0 32).toNat (p.extractLsb' 32 32).toNat)
    ∧ tex (.tld w) (fun s t d p => readTexel s t d (txResolve (txWrap d) (txWd d) (p.extractLsb' 0 32).toInt)
        (txResolve (txWrap d) (txHt d) (p.extractLsb' 32 32).toInt))
    ∧ image (.imst w ty scope ord) { kind := .store, bytes := ty.bytes, scope := scope, ord := ord, nt := false } .write
        (fun s t => srcPair s t w.a) (fun _ => none) (fun s _ _ => s)
    ∧ image (.imld w ty scope ord) { kind := .load ty, bytes := ty.bytes, scope := scope, ord := ord, nt := false } .read
        (fun _ _ => 0) (fun _ => some (outTy ty (vNum w.a) 0 0))
        (fun s ix t => pushResult s ix c 0 true true t (outTy ty (vNum w.a) 0 0))

/-! System and observation words (18 R326, R330, R336, R344; 22 R376-R381). -/

/-- 18 R326, R330, R336, R344; 11 R257; 22 R378, R380, R381: TQRD, MFRZ and MFRZ.thaw outside handler mode, MFRZ also outside the gangs R336
names, and PRIVW in a launch without the privilege are PRIVILEGE with the word's address; PRIVW's misaligned address is MISALIGNED, one
outside the rows ILLEGAL, before and after that. KILLG of a guard-true thread kills its scope with EXPLICIT; PROGRESS counts in a running
window, MARK leaves a trace record, STOPP is retired and then stops its partition where a debugger has claimed the launch, the threads shown
as they stand then. All complete. -/
def Obligations.SystemWords : Prop :=
  ∀ (w : Wd) (scope : Scope) (d : Bool),
    let c := w.ctl
    let denied := fun (ix : Issue) => ({ cause := 0x04, val := word ix.pc, vahi := 0 } : Trap)
    let freezes := fun (i : Instr) (f : State → Issue → State) =>
      actsByLane i c fun _ ix a t b =>
        b = (if (a.thread t).handler = true ∧ (ownsEngine a ix.pg = true ∨ lastOwner a ix.pg = true) then f a ix
          else trapAt a ix t.tid (denied ix))
    (actsByLane (.tqrd w) c fun s ix a t b =>
        b = (if (s.thread t).handler then
              pushResult a ix c 0 true true t (out1 (vNum w.a) (tqrdWord (s.pg t.pg) (immNat w.b % 256)) 0)
            else trapAt a ix t.tid (denied ix)))
    ∧ (∀ s ix, s.issue = some ix → exec (.killg w scope) s = .next (if activeOf s ix c = [] then retire s ix c
        else killScope (spendSlot (acceptFlags s s ix c) ix c) ix.pg scope 0x0B))
    ∧ (actsByLane (.privw w d) c fun s ix a t b =>
        let n := if d then 8 else 4
        let x := (srcWord s t w.a).toNat
        b = (if x % n ≠ 0 then trapAt a ix t.tid { cause := 0x05, val := word x, vahi := 0 }
          else if (s.launch ix.lid).priv = false then trapAt a ix t.tid (denied ix)
          else if 0x200 < x + n ∨ 0x30 < x % 0x40 + n then trapAt a ix t.tid { cause := 0x01, val := word x, vahi := 0 }
          else mcbWrite a (x / 0x40) (x % 0x40) (bytesOfNat n (srcPair s t w.b).toNat)))
    ∧ freezes (.mfrz w) (fun a ix => modEng a ix.core fun e => { e with frozenM := some ix.cg })
    ∧ freezes (.mfrzThaw w) (fun a ix => thawed (modEng a ix.core fun e => { e with frozenM := none }) ix.core)
    ∧ (actsAs (.progress w) c fun ix s =>
        let counts := if s.trial.en = true ∧ s.trial.launch = ix.lid then
            (activeOf s ix c).foldl (fun l _ => l.modify (immNat w.b % 8) satInc) s.trial.counters
          else s.trial.counters
        { s with trial := { s.trial with counters := counts } })
    ∧ (actsAs (.mark w) c fun ix s => (activeOf s ix c).foldl (fun a t =>
        traceRecord a t 0 ix.pc (srcWord s t w.c).toNat (immNat w.b % 65536)) s)
    ∧ ∀ s ix, s.issue = some ix →
        let a := retire (acceptFlags s s ix c) ix c
        let u := modPart a ix.part fun p => { p with stopped := true,
                                                     stopBy := if p.stopBy.contains ix.lid then p.stopBy else p.stopBy ++ [ix.lid],
                                                     snap := if p.stopped then p.snap else snapOf a ix.part }
        (activeOf s ix c = [] ∨ tget? s.w.claims ix.lid = none → exec (.stopp w) s = .next a)
        ∧ ∀ t ts cl, activeOf s ix c = t :: ts → tget? s.w.claims ix.lid ≠ none → tget? a.w.claims ix.lid = some cl →
          exec (.stopp w) s = .next (if u.replay.isSome then u else { u with outbox := u.outbox ++
            [{ conn := cl.conn, cls := 0x0A, op := 7, tag := 0, addr := BitVec.ofNat 64 ix.lid,
               payload := ([0, ix.core, ix.part % 6, gtidOf s t % 2 ^ 32, 0, 0, ix.pc % 2 ^ 32, ix.pc / 2 ^ 32]).flatMap (bytesOfNat 4) }] })

/-! Power, checkpoints, launches and the scheduler (04; 05; 06; 18 R338-R339; 20). -/

/-- 04 R74, R78, R80, R81, R83-R85; 18 R338: power and bring-up. Power good starts and power loss ends with everything volatile gone, module
flash, the counter and the valid checkpoints kept; a phase that passes leads to the next, one that fails to the safe talkative state
with its cause; the throttle withholds slots from when the power exceeds the cap until it has fallen below it, and while the junction is
above its limit; a correction is counted. The order in which the phases meet their conditions is read from R74; what the environment
answers is input (log 5), and phase 2 of an element that has destroyed its wrapping key is the model's choice (log 95). -/
def Obligations.PowerAndBringup : Prop :=
  ∀ (s : State),
    let m := s.mgmt
    let bare := fun (t : State) => t.w = World.init ∧ t.clk = 0 ∧ t.sessions = [] ∧ t.inbox = [] ∧ t.images = [] ∧ t.mgmt.phase = 0
      ∧ t.mgmt.ready = false ∧ t.mgmt.safe = false ∧ t.mgmt.slots = m.slots ∧ t.mgmt.counter = m.counter ∧ t.mgmt.wrapLost = m.wrapLost
      ∧ t.ckpts = s.ckpts.filter (fun c => c.valid) ∧ t.outbox = s.outbox ∧ t.env = s.env
    let short := ∃ d < 8, ((List.range 80).filter fun c => !s.env.coreFail.contains (d, c)).length < 72
    let fails := fun (cause : BitVec 5) (bad : Prop) => bad →
      ∃ t, exec .bringupPhaseComplete s = .next t ∧ t.mgmt.safe = true ∧ t.mgmt.ready = false ∧ t.mgmt.cause = cause ∧ t.mgmt.phase = m.phase
        ∧ t.mgmt.ports = (if cause = 7 then 0 else 1) ∧ t.mgmt.powered = true
    let passes := ∃ t, exec .bringupPhaseComplete s = .next t ∧ t.mgmt.phase = m.phase + 1 ∧ t.mgmt.safe = false ∧ t.mgmt.powered = true
        ∧ t.mgmt.ready = (m.ready || decide (m.phase = 5)) ∧ t.w = s.w
    (m.powered = false → exec .powerLoss s = .next s ∧ ∃ t, exec .powerGood s = .next t ∧ t.mgmt.powered = true ∧ bare t)
    ∧ (m.powered = true → exec .powerGood s = .next s ∧ ∃ t, exec .powerLoss s = .next t ∧ t.mgmt.powered = false ∧ bare t)
    ∧ (m.powered = false ∨ m.safe = true ∨ 6 ≤ m.phase → exec .bringupPhaseComplete s = .next s)
    ∧ (m.powered = true → m.safe = false →
      (m.phase = 0 → fails 1 (s.env.supplyOk = false) ∧ (s.env.supplyOk = true → passes))
      ∧ (m.phase = 1 → fails 2 (bootSlot m = none) ∧ (bootSlot m ≠ none → passes))
      ∧ (m.phase = 2 → fails 3 (s.env.seOk = false ∨ m.wrapLost = true)
          ∧ fails 4 (s.env.seOk = true ∧ m.wrapLost = false ∧ (s.env.tamper = true ∨ s.env.tamperLatch = true))
          ∧ (s.env.seOk = true → m.wrapLost = false → s.env.tamper = false → s.env.tamperLatch = false → passes))
      ∧ (m.phase = 3 → fails 5 (s.env.memFail ≠ 0) ∧ (s.env.memFail = 0 → passes))
      ∧ (m.phase = 4 → fails 6 short ∧ (¬ short → passes))
      ∧ (m.phase = 5 → fails 7 (s.env.ports.getLsbD 0 = false) ∧ (s.env.ports.getLsbD 0 = true → passes)))
    ∧ exec .port0Retrain s = .next (if m.powered = true ∧ m.safe = true ∧ m.cause = 7 ∧ s.env.ports.getLsbD 0 = true then
        { s with mgmt := { m with ports := 1 } } else s)
    ∧ exec .powerThrottleStep s = .next (if m.powered = true ∧ m.ready = true then
        let above := decide (m.capMw < s.env.powerMw) || (m.overCap && decide (m.capMw ≤ s.env.powerMw))
        { s with mgmt := { m with overCap := above, throttling := above || decide (95 < s.env.junction) } } else s)
    ∧ exec .eccCorrection s = .next (if m.powered = true then { s with counts := { s.counts with ecc := s.counts.ecc + 1 } } else s)

/-- 04 R82; 18 R338, R339; 20 R358, R359, R361, R363, R364: an alarm that is due is recorded and has the effects of its level; it leaves memory
as it is, but for the order log's ring where it abandons a checkpoint, whose frames count as written since the last one again and whose
interval goes on; a checkpoint that is due stops the launches and, once all have stopped, takes the whole of the work and its memory with
the records of the interval's log, with the frames written since the last one pending; it becomes valid when no frame is pending. An
uncorrectable error brings back the last valid one, its memory and window too where no status word of a launch accepted since is written,
and leaves what happened since to be replayed with the order log's records, which ends when nothing is left of it; without a valid
checkpoint no work is left. What level 1 leaves of memory, and which checkpoints are kept, is the model's choice (log 76), and so is what is
replayed, in the order in which it was done, the beginning of a checkpoint among it (log 44). -/
def Obligations.AlarmsAndCheckpoints : Prop :=
  ∀ (s : State) (srcs : List AlarmSource) (frame : Nat),
    let fired := srcs.filter (alarmDue s)
    let level := alarmLevel s fired
    (s.mgmt.powered = false ∨ fired = [] → exec (.securityAlarm srcs) s = .next s)
    ∧ (s.mgmt.powered = true → fired ≠ [] → ∃ t, exec (.securityAlarm srcs) s = .next t
      ∧ t.mgmt.alarm = true ∧ t.mgmt.alarms = s.mgmt.alarms ++ fired ∧ t.w.window = s.w.window
      ∧ (s.w.mem.wf = true → ∀ k, (k < s.rb.olBase ∨ s.rb.olBase + 2 ^ s.rb.olLsize ≤ k) → memRead t.w.mem k = memRead s.w.mem k)
      ∧ ((∀ c ∈ s.ckpts, c.valid = true) → t.w.mem = s.w.mem ∧ (level = 0 → t.w = s.w))
      ∧ (level = 0 → t.mgmt.safe = s.mgmt.safe ∧ t.sessions = s.sessions ∧ t.w.launches = s.w.launches ∧ t.w.cgs = s.w.cgs ∧ t.w.pgs = s.w.pgs
        ∧ ∀ c, (s.ckpts.find? fun c => !c.valid) = some c → (∀ r ∈ c.frames ++ s.dirty, r ∈ t.dirty) ∧ (c.lost = true → t.logLost = true))
      ∧ (1 ≤ level → t.mgmt.safe = true ∧ t.mgmt.ready = false ∧ t.w.launches = [] ∧ t.w.cgs = [] ∧ t.w.pgs = [])
      ∧ (2 ≤ level → t.mgmt.keysLoaded = false ∧ t.sessions = []) ∧ (3 ≤ level → t.mgmt.wrapLost = true)
      ∧ t.ckpts = if 3 ≤ level then [] else s.ckpts.filter fun c => c.valid)
    ∧ (s.replay = none →
      (s.ckptStop = false → checkpointDue s = true → ∃ t, exec .checkpointStart s = .next t ∧ t.ckptStop = true
        ∧ t.ckptAt = s.clk + s.rb.t * Config.clkPerMs ∧ t.ckpts = s.ckpts ∧ t.w.mem = s.w.mem ∧ t.w.launches = s.w.launches)
      ∧ (s.ckptStop = false → checkpointDue s = false → exec .checkpointStart s = .next s)
      ∧ (s.ckptStop = true → allStopped s = false → exec .checkpointStart s = .next s)
      ∧ (s.ckptStop = true → allStopped s = true → ∃ t c, exec .checkpointStart s = .next t ∧ t.ckpts.getLast? = some c ∧ c.valid = false
        ∧ c.world = t.w ∧ c.images = s.images ∧ t.w.mem = s.w.mem ∧ t.w.window = s.w.window ∧ t.w.lineClocks = [] ∧ c.clk = s.clk
        ∧ (∀ o ∈ s.ckpts, o.num < c.num) ∧ c.frames = s.dirty ∧ c.pending = s.dirty ∧ t.dirty = [] ∧ c.recs = s.log ∧ t.log = []
        ∧ c.lost = s.logLost ∧ t.logLost = false ∧ t.ckptStop = false ∧ t.interval = s.interval + 1 ∧ t.rb.olWr = 0
        ∧ t.logData = (if s.ckpts.isEmpty then s.logData else .event .checkpointStart :: s.logData) ∧ c.mark = t.logData.length))
    ∧ (s.replay.isSome = true → ∃ t, exec .checkpointStart s = .next t ∧ t.w.lineClocks = [] ∧ t.ckpts = s.ckpts ∧ t.w.mem = s.w.mem
      ∧ t.w.launches = s.w.launches ∧ ∀ r, (t.thread r).ctx = (s.thread r).ctx)
    ∧ exec (.pendingFrameCopied frame) s = .next { s with ckpts := s.ckpts.map fun c =>
        if c.valid then c else { c with pending := cutFrame c.pending frame } }
    ∧ (∀ (l : List (Nat × Nat)) (f : Nat), (∃ r ∈ cutFrame l frame, r.1 ≤ f ∧ f < r.2) ↔ (f ≠ frame ∧ ∃ r ∈ l, r.1 ≤ f ∧ f < r.2))
    ∧ (∀ c, (s.ckpts.find? fun c => !c.valid) = some c → c.pending ≠ [] → exec .checkpointValid s = .next s)
    ∧ (∀ c, (s.ckpts.find? fun c => !c.valid) = some c → c.pending = [] → ∃ t, exec .checkpointValid s = .next t
      ∧ { c with valid := true, mark := 0, lost := false } ∈ t.ckpts ∧ t.w = s.w ∧ t.rb.num = BitVec.ofNat 64 c.num)
    ∧ (∀ c, s.mgmt.ready = true → lastValid s = some c → s.logLost = false → (∀ x ∈ s.ckpts, x.valid = true ∨ x.lost = false) →
      let known := fun (l : Launch) => ∃ h ∈ c.world.launches, h.2.serial = l.serial
      ∃ t, exec .uncorrectableError s = .next t ∧ t.clk = c.clk ∧ t.images = c.images ∧ t.w.cgs = c.world.cgs ∧ t.w.launches = c.world.launches
        ∧ ((∀ l ∈ s.w.launches, known l.2 ∨ l.2.lr.status = 0) → t.w.mem = c.world.mem ∧ t.w.window = c.world.window)
        ∧ t.replay = some { left := (s.logData.reverse ++ (s.replay.map fun r => r.left).getD []).filter replayable,
                            recs := (s.ckpts.filter fun x => !x.valid).flatMap (fun x => x.recs) ++ s.log
                              ++ (s.replay.map fun r => r.recs).getD [] })
    ∧ (s.mgmt.ready = true → lastValid s = none → ∃ t, exec .uncorrectableError s = .next t ∧ t.ckpts = [] ∧ t.w.launches = []
      ∧ t.w.cgs = [] ∧ t.w.pgs = [] ∧ t.logData = [] ∧ t.replay = none ∧ t.dirty = [(0, Config.dramTop / 0x10000)])
    ∧ (s.mgmt.ready = false → exec .uncorrectableError s = .next s)
    ∧ exec .replayComplete s = .next (if s.replay.any fun r => r.left.isEmpty then { s with replay := none } else s)

/-- 05 R88, R91, R94, R97, R99; 06 R114, R128; 18 R329; 20 R349: the events of a launch's life: the launch engine takes the oldest record, a
record that some code refuses makes no launch; a placement adds one core group; a task starts in an empty slot; a core group whose work
is done ends and frees what it holds; a killed one starts again, its threads fresh, filed ready at `lr.entry`, its codebook the default and
its barriers at generation 0; a launch that is over goes, its status word written whole where the record names one and its page can be
written. -/
def Obligations.LaunchEvents : Prop :=
  ∀ (s : State) (lid dgid cg : Nat),
    (s.w.submits = [] → exec .launchAccept s = .next s)
    ∧ (∀ x rest, s.w.submits = x :: rest →
      let u := { s with w := { s.w with submits := rest } }
      let code := launchCode u x.record
      let r := createLaunch u x
      (∀ a t, x.answer = .thread a t → exec .launchAccept s
        = .next (if code = 0 then readyPend r.1 (some t) [word (r.2 * 65536)] else readyPend u (some t) [word code]))
      ∧ ∀ conn tag, x.answer = .message conn tag → exec .launchAccept s
        = .next (if code = 0 then respondTo r.1 conn tag 0x01 0 0 (r.2 * 65536) else respondTo u conn tag 0x01 0 0 code))
    ∧ (∀ x, launchCode s x.record = 0 → (createLaunch s x).2 < 65536 ∧ tget? s.w.launches (createLaunch s x).2 = none
      ∧ (createLaunch s x).1.nextSerial = s.nextSerial + 1)
    ∧ (nextPlacement s lid dgid = none → exec (.coreGroupPlacement lid dgid) s = .next s)
    ∧ (∀ cgid core places, nextPlacement s lid dgid = some (cgid, some (core, places)) → imageOf s lid = none →
      exec (.coreGroupPlacement lid dgid) s = .next (modLaunch (placeFresh s lid dgid cgid core places) lid fun l =>
        { l with placed := l.placed.set dgid (cgid + 1) }))
    ∧ (startsTasks s lid = false ∨ nextTask s lid dgid = none → exec (.taskStart lid dgid) s = .next s)
    ∧ (∀ e q r t u a bs, startsTasks s lid = true → nextTask s lid dgid = some (e, q, r, t) → settleRecord s lid dgid q r = (u, true) →
      unitRead u ((s.launch lid).dies.getD dgid 0) (s.launch lid).space (ringAddr (s.launch lid).lr dgid q r.slot) 64 = (a, .ok bs) →
      let taken := modQueue a lid dgid q fun x => x.filter fun y => y.slot != r.slot
      exec (.taskStart lid dgid) s = .next (if taskCode (s.launch lid).lr (wordsOfBytes bs) = 0 then
          startTask taken (loggedSlot a lid dgid (wordsOfBytes bs) t) (wordsOfBytes bs) e
        else modLaunch taken lid fun l => { l with disc := Nat.min (l.disc + 1) 8191 }))
    ∧ (mayEndCg s cg = false → exec (.coreGroupEnd cg) s = .next s)
    ∧ (mayEndCg s cg = true → ∃ t, exec (.coreGroupEnd cg) s = .next t ∧ (t.cg cg).ended = true
      ∧ (∀ r ∈ (t.core (s.cg cg).core).resv, r.2.cg ≠ cg) ∧ (∀ x ∈ (t.core (s.cg cg).core).ladle, x.2.cg ≠ cg))
    ∧ ((s.cg cg).killed = false ∨ (s.cg cg).ended = true → exec (.coreGroupRelaunch cg) s = .next s)
    ∧ ((tget? s.w.cgs cg).isSome = true → (s.cg cg).killed = true → (s.cg cg).ended = false → launchRuns s (s.cg cg).lid = true →
      let lr := (s.launch (s.cg cg).lid).lr
      ∃ t, exec (.coreGroupRelaunch cg) s = .next t ∧ (t.cg cg).killed = false ∧ (t.cg cg).codebook = []
        ∧ (t.cg cg).bars = List.replicate 8 Bar.init
        ∧ (t.launch (s.cg cg).lid).retries
          = (if (tget? s.w.launches (s.cg cg).lid).isSome then (s.launch (s.cg cg).lid).retries + 1 else (s.launch (s.cg cg).lid).retries)
        ∧ ∀ k g, tget? s.w.pgs k = some g → cgOfPg k = cg → (t.pg k).threads.length = lr.nthr ∧ (t.pg k).ended = false ∧ (t.pg k).trapq = []
          ∧ (t.pg k).bars = List.replicate 8 Bar.init
          ∧ ∀ i < lr.nthr, let x := t.thread { pg := k, tid := i }
            x.pc = lr.entry ∧ x.rent = lr.entry ∧ x.wait = .ready ∧ x.handler = false ∧ x.trap = none
            ∧ x.ctx = (Thread.start (lr.regs8 * 8) lr.entry).ctx
            ∧ (lr.taskServer = false → x.place = .overflow ∨ ∃ n, x.place = .bin n))
    ∧ (launchOver s lid = false → exec (.launchEnd lid) s = .next s)
    ∧ (launchOver s lid = true →
      let l := s.launch lid
      let r := if l.lr.status = 0 then (s, none)
        else unitWriteWhole s (l.dies.getD 0 0) l.space l.lr.status (bytesOfNat 8 (statusWord l))
      ((∃ va, r.2 = some (0, va)) → exec (.launchEnd lid) s = .next s)
      ∧ ((∀ va, r.2 ≠ some (0, va)) → ∃ t, exec (.launchEnd lid) s = .next t ∧ tget? t.w.launches lid = none
        ∧ (∀ e ∈ t.w.cgs, e.2.lid ≠ lid) ∧ (∀ e ∈ t.w.pgs, e.2.lid ≠ lid) ∧ (l.parent = none → t.w.mem = r.1.w.mem)))

/-- 02 R34, R37-R39; 06 R116-R125; 07 R144; 08 R181; 14 R303: the scheduler's events. A draw takes at most one thread of a bin at each lane
position, and a joined team or a thread alone before any bin; an overflowed thread moves into a free bin; a bin is aged at the limit;
an aged bin takes a position from a group that has held it long enough; a stall count and a yield run out; a fetched clause is entered. A
fetch that fails makes the groups that wait for it trap with its cause and the clause's address, and leaves the cause for the draw of the
threads that are filed there, which then take that trap; one that waits for a frame goes on waiting. A stopped partition's groups are held
(22 R381). -/
def Obligations.SchedulerEvents : Prop :=
  ∀ (s : State) (part pos bin pg tid va : Nat),
    (drawNow s part = false → exec (.binDraw part) s = .next s)
    ∧ (drawNow s part = true → exec (.binDraw part) s = .next (match specialCand s part, chooseBin s part with
        | some c, _ => drawSpecial s part c
        | none, some c => drawBin s part c
        | none, none => s))
    ∧ (∀ c, chooseBin s part = some c → c ∈ binCands s part ++ overflowCand s part)
    ∧ (∀ c : Cand, (∀ i ∈ drawnOf s c, i ∈ c.ready) ∧ ((drawnOf s c).map laneOf).Nodup
      ∧ ∀ l < 32, (∃ i ∈ c.ready, laneOf i = l) → ∃ i ∈ drawnOf s c, laneOf i = l)
    ∧ ((s.part part).ovDue = false ∨ overflowWaits s part = false → exec (.overflowMove part) s = .next s)
    ∧ (∀ t n, (s.part part).ovDue = true → overflowWaits s part = true → firstOverflowed s part = some t → binFor (s.part part) t.pg (s.thread t).pc = .bin n →
      ∃ u, exec (.overflowMove part) s = .next u ∧ (u.part part).ovDue = false ∧ (overflowReady u part = [] → (u.part part).ovAge = 0)
        ∧ (u.pg t.pg).threads = (s.pg t.pg).threads.map fun x =>
          if x.place = .overflow ∧ x.pc = (s.thread t).pc then { x with place := .bin n } else x)
    ∧ exec (.binAged part bin) s = .next (modPart s part fun p => { p with bins := tmod p.bins bin fun b =>
        { b with aged := b.aged || decide (ageLimit (s.lrOfPg b.pg) ≤ b.age) } })
    ∧ (∀ g, tget? (s.part part).groups pos = some g → exec (.agedGroupFiling part pos) s = .next
        (if (s.part part).stopped = false ∧ g.words = [] ∧ g.hold = .free ∧ g.pc = g.hdr ∧ mustFileAged s part pos = true then
          g.tids.foldl (fun s i => fileThread s { pg := g.pg, tid := i } g.hdr .ready) s else s))
    ∧ (tget? (s.part part).groups pos = none → exec (.agedGroupFiling part pos) s = .next s)
    ∧ exec (.stallExpiry part pos) s = .next (modGroup s part pos fun g => if g.stall = 0 then { g with ready := true } else g)
    ∧ (let t : ThreadRef := { pg := pg, tid := tid }
       exec (.yieldExpiry pg tid) s
        = .next (if (s.thread t).wait = .yield 0 then modThread s t fun x => { x with wait := .ready } else s))
    ∧ (∀ c cause, drawNow s part = true → specialCand s part = none → chooseBin s part = some c → fetchFailed s part c.pg c.pc = some cause →
      ∃ d, exec (.binDraw part) s = .next ((drawnOf s c).foldl (fun a i => trapCall a { pg := c.pg, tid := i } (memTrap cause c.pc)
          { pc := c.pc, hdr := c.pc, len := 0 } false) d)
        ∧ fetchFailed d part c.pg c.pc = none ∧ ∀ r, (d.thread r).ctx = (s.thread r).ctx)
    ∧ ((s.part part).stopped = true ∨ (pg, va) ∉ neededFetches s part ∨ fetchDue s part pg va = false →
      exec (.clauseFetchComplete part pg va) s = .next s)
    ∧ ∀ a r, (s.part part).stopped = false → (pg, va) ∈ neededFetches s part → fetchDue s part pg va = true →
      fetchClause s part (s.launch (s.pg pg).lid).space (s.pg pg).lid va = (a, r) →
      let done := modPart a part fun p => { p with fetches := p.fetches.filter fun f => !(decide (f.1 = pg) && decide (f.2.1 = va)) }
      let waiting := (done.part part).groups.filter fun e => e.2.words.isEmpty && decide (e.2.pg = pg) && decide (e.2.hdr = va)
      (r = none → exec (.clauseFetchComplete part pg va) s = .next (enterWaiting done part pg va))
      ∧ (r = some 0 → exec (.clauseFetchComplete part pg va) s = .next a)
      ∧ (∀ cause, r = some cause → cause ≠ 0 →
        let x := memTrap cause va
        let u := waiting.foldl (fun b e => waitingTraps b e x) done
        ∃ v, exec (.clauseFetchComplete part pg va) s = .next v ∧ (v = u ∨ v = modPart u part fun p =>
            { p with failed := p.failed ++ [{ pg := pg, va := va, cause := cause }] })
          ∧ ((∃ c ∈ binCands u part ++ overflowCand u part, c.pg = pg ∧ c.pc = va) → { pg := pg, va := va, cause := cause } ∈ (v.part part).failed)
          ∧ ∀ b e, e.2.pc = e.2.hdr → waitingTraps b e x = e.2.tids.foldl (fun a i => trapCall a { pg := e.2.pg, tid := i } x
              { pc := e.2.hdr, hdr := e.2.hdr, len := 0 } false) b)

/-! Deterministic scheduling, timers, pre-emption, memory and engines (06 R131-R134; 08; 09; 11; 12; 13; 14 R298, R310; 18; 20; 22). -/

/-- 06 R131, R133, R134; 14 R298, R310; 18 R335; 22 R383: a slot of a DSM core group that is not frozen passes once, every partition with
it; a phase boundary is passed, once the phase's last slot is done, where the neighbours have begun the phase before; an event, a barrier's
release or a task's start, is delivered at its slot, outside DSM a release when it is due; a closed phase commits in ascending key, up to an access that waits for a frame or behind an acquire of the
window; a timer at zero makes its thread owe TIMER; a deferred watchpoint is owed to
the thread that issued the write, once. Where they are not due, nothing changes. The default order of what a slot owes is the model's choice (log 2). -/
def Obligations.SlotBarrierAndTimerEvents : Prop :=
  ∀ (s : State) (cg lid id bar pg tid : Nat),
    let g := s.cg cg
    let t : ThreadRef := { pg := pg, tid := tid }
    (dsmCg s cg = false ∨ g.dsm.advanced = true ∨ dsmFrozen s cg = true ∨ slotReady s cg = false → exec (.dsmSlotAdvance cg) s = .next s)
    ∧ (dsmCg s cg = true → g.dsm.advanced = false → dsmFrozen s cg = false → slotReady s cg = true →
      ∃ u, exec (.dsmSlotAdvance cg) s = .next u ∧ (u.cg cg).dsm.slot = g.dsm.slot + 1 ∧ (u.cg cg).dsm.advanced = true
        ∧ u.clk = s.clk ∧ ((s.core g.core).ladleQ = [] → u.w.mem = s.w.mem))
    ∧ (phaseHeld s cg = false ∨ slotReady s cg = false ∨ unaccepted s cg = true → exec (.dsmPhaseBoundary cg) s = .next s)
    ∧ (dsmCg s cg = true → phaseHeld s cg = true → slotReady s cg = true → unaccepted s cg = false →
      (∀ e ∈ s.w.cgs, neighbours g e.2 = true → e.2.ended = false →
        g.dsm.slot / Config.phaseSlots ≤ e.2.dsm.slot / Config.phaseSlots + 1) →
      exec (.dsmPhaseBoundary cg) s = .next (modCg s cg fun x =>
        { x with dsm := { x.dsm with phaseDone := true, limit := g.dsm.slot / Config.phaseSlots + 1 } }))
    ∧ ((∀ d ∈ g.dsm.due, d.1 = id → g.dsm.slot < d.2) → exec (.dsmEventDelivery cg id) s = .next s)
    ∧ (∀ d, (g.dsm.due.find? fun d => decide (d.1 = id) && decide (d.2 ≤ g.dsm.slot)) = some d →
      let a := modCg s cg fun x => { x with dsm := { x.dsm with due := x.dsm.due.filter fun y => y != d } }
      let t : ThreadRef := { pg := (id - 2 ^ 60) / 1024, tid := (id - 2 ^ 60) % 1024 }
      (id < 2 ^ 60 → exec (.dsmEventDelivery cg id) s
        = .next (releaseWaiters a (pgKeysOf a cg) ((id - 2 ^ 40) / 65536) (BitVec.ofNat 16 (id % 65536))))
      ∧ (2 ^ 60 ≤ id → (s.launch g.lid).out ≠ 3 → exec (.dsmEventDelivery cg id) s = .next (beginTask a t (a.thread t).task)))
    ∧ (nextCommit s lid = none → exec (.dsmPhaseCommit lid) s = .next s)
    ∧ (∀ a u, nextCommit s lid = some a → a.stage ≠ .frame → acquireFirst s a = false → startsBefore s lid (a.key.getD (0, 0)).1 = false →
      performAcc s a = (u, true) →
      exec (.dsmPhaseCommit lid) s = .next (commitPhase (s.w.accs.length - 1) u lid))
    ∧ ((s.pg (bar / 24)).lid ≠ lid ∨ releaseDue s (bar / 24) (bar % 24) = none → exec (.barrierRelease lid bar) s = .next s)
    ∧ (∀ gen, (s.pg (bar / 24)).lid = lid → releaseDue s (bar / 24) (bar % 24) = some gen →
      let a := modBar s (bar / 24) (bar % 24) fun x => { x with rels := x.rels.filter fun r => r.1 != gen }
      exec (.barrierRelease lid bar) s = .next (releaseWaiters a (tierPgs a (bar / 24) (bar % 24)) (bar % 24) gen))
    ∧ exec (.timerExpiry pg tid) s = .next (if (s.thread t).timer = some 0 ∧ (s.thread t).live = true then
        modThread s t fun x => { x with timer := none, timerDue := true } else s)
    ∧ ((∀ d ∈ s.w.deferred, d.id ≠ id) → exec (.watchpointDeferred id) s = .next s)
    ∧ ∀ d, (s.w.deferred.find? fun d => d.id = id) = some d → (s.thread d.th).live = true → (s.thread d.th).born ≤ d.word →
      (s.thread d.th).pendTrap = none →
      d.th.tid < (s.pg d.th.pg).threads.length →
      ∃ u, exec (.watchpointDeferred id) s = .next u ∧ u.w.deferred = s.w.deferred.filter (fun x => x.id != id)
        ∧ ∃ e, (u.thread d.th).pendTrap = some e ∧ e.cause = 0x15 ∧ e.defer = true ∧ e.pc = d.site.pc
          ∧ e.val = word d.va ∧ e.vahi = BitVec.ofNat 24 (d.va >>> 32)

/-- 18 R331-R334, R337; 24 R390, R391: pre-emption. A stop message of a resident launch with a good context area begins the stop, one with
notice sets its end, a grace of so many µs, and the lowest live thread of each partition group of a launch with a handler comes to owe
PREEMPT with the grace as its value; a misaligned or too small area answers 0x03 with the size, a bad page 0x04 or 0x05 with its address, an unknown
launch 0x07. The grace ends in the stop, a settled stop in the saved image and the response; a restore brings the image back, a kill
ends the launch with `st.out` 3. Where an area counts as too small is the model's choice (log 58), the code of a restore that finds no room (status 0x00 with the
launch code as result) an inference (log 61), and the size answered the model's choice (log 64). -/
def Obligations.PreemptionEventsAndMessages : Prop :=
  ∀ (s : State) (lid : Nat),
    let idle := ∀ d c, (s.launch lid).run ≠ .notice d c
    let bad := fun (i : Instr) (n : Nat) =>
      (s.rx.payload.length ≠ n → exec i s = .next (answered s 3 0 []))
      ∧ (s.rx.payload.length = n → namedLaunch s = none → exec i s = .next (answered s 7 0 []))
      ∧ (∀ l, s.rx.payload.length = n → namedLaunch s = some l → stoppable s l = false → exec i s = .next (answered s 7 0 []))
      ∧ (∀ l, s.rx.payload.length = n → namedLaunch s = some l → stoppable s l = true →
        (payNat s 0 8 % 4096 ≠ 0 ∨ 2 ^ 56 < payNat s 0 8 + contextSize s l) → exec i s = .next (answered s 3 (contextSize s l) []))
      ∧ (∀ l a c va, s.rx.payload.length = n → namedLaunch s = some l → stoppable s l = true → payNat s 0 8 % 4096 = 0 →
        payNat s 0 8 + contextSize s l ≤ 2 ^ 56 → checkArea s l (payNat s 0 8) (contextSize s l) = (a, some (c, va)) → c ≠ 0 →
        exec i s = .next (respond a (if c = 0x07 then 5 else 4) (va % 2 ^ 56 / 256) []))
    let good := fun (n : Nat) (l : Nat) (a : State) => s.rx.payload.length = n ∧ namedLaunch s = some l ∧ stoppable s l = true
      ∧ payNat s 0 8 % 4096 = 0 ∧ payNat s 0 8 + contextSize s l ≤ 2 ^ 56 ∧ checkArea s l (payNat s 0 8) (contextSize s l) = (a, none)
    let asked := fun (a : State) (l : Nat) => modLaunch a l fun x => { x with ask := x.ask ++ [(a.rx.conn, a.rx.tag)] }
    (idle → exec (.preemptGraceExpiry lid) s = .next s)
    ∧ (∀ d c, (s.launch lid).run = .notice d c → exec (.preemptGraceExpiry lid) s = .next (if d ≤ s.clk ∨ allQuiet s lid = true then
        beginStop s lid c else s))
    ∧ ((∀ c, (s.launch lid).run ≠ .stopping c) ∨ stopSettled s lid = false → exec (.preemptStopComplete lid) s = .next s)
    ∧ (∀ c, (s.launch lid).run = .stopping c → stopSettled s lid = true →
      exec (.preemptStopComplete lid) s = .next (answerAsk (saveLaunch s lid c) lid 0 (contextSize s lid)))
    ∧ (admitted s true → bad .preemptStopAndSave 8 ∧ bad .preemptWithNotice 16
      ∧ (∀ l a, good 8 l a → exec .preemptStopAndSave s = .next (beginStop (asked a l) l (payNat s 0 8)))
      ∧ (∀ l a, good 16 l a → (tget? a.w.launches l).isSome = true →
        let grace := payNat a 8 8
        let noticed := modLaunch (asked a l) l fun x => { x with run := .notice (a.clk + grace * Config.clkPerUs) (payNat s 0 8) }
        ((a.launch l).lr.trapvec = 0 → exec .preemptWithNotice s = .next noticed)
        ∧ ((a.launch l).lr.trapvec ≠ 0 → ∃ u, exec .preemptWithNotice s = .next u ∧ u.w.launches = noticed.w.launches
          ∧ ∀ pk g i, tget? a.w.pgs pk = some g → g.lid = l → (tidsWhere g Thread.live).head? = some i →
            ∃ e, (u.thread { pg := pk, tid := i }).pendTrap = some e ∧ e.cause = 0x13 ∧ e.val = word grace ∧ e.tid = i)))
    ∧ (admitted s true → namedLaunch s = none → exec .kill s = .next (answered s 7 0 []))
    ∧ (∀ l, admitted s true → namedLaunch s = some l → ∃ u, exec .kill s = .next u
      ∧ u = respond (answerAsk (killLaunch s l) l 7 0) 0 0 [] ∧ ((killLaunch s l).launch l).out = 3)
    ∧ (admitted s true → (∀ i ∈ s.images, ¬ (i.va = s.rx.addr.toNat ∧ (s.launch i.lid).run = .saved)) →
      exec .restore s = .next (answered s 7 0 []))
    ∧ ∀ i a, admitted s true → (s.images.find? fun i => decide (i.va = s.rx.addr.toNat) && decide ((s.launch i.lid).run = .saved)
        && ((rxSpace s).isNone || decide (rxSpace s = some i.space))) = some i →
      (restoreLaunch s i = .ok a → exec .restore s = .next (respond a 0 0 []))
      ∧ ∀ c, restoreLaunch s i = .error c → exec .restore s = .next (answered s 0 c [])

/-- 08 R178, R179, R182, R191, R194, R195; 09 R209; 22 R373-R377: a walk fills the TLBs, a filled leaf lets its accesses go on, an access
that waits at the window is performed there; a sample takes its place in its ring, or is counted lost where that is full; a trial
window leaves its report and the next begins, of so many µs; the oldest signal goes to its submitter's session, else to the lowest of its
space, or is dropped and counted. Where they are not due, nothing
changes. What a stall sample names where no group stands is the model's choice (log 62), the tag 0 and the payload of a signal, its value
zero-extended to eight bytes, are an inference (log 33). -/
def Obligations.MemoryAndSampleEvents : Prop :=
  ∀ (s : State) (core space va id part : Nat) (need : Need),
    let walks := spaceOnCore s core space = true ∧ va < 2 ^ 56 ∧ (va < Config.windowBase ∨ Config.windowBase + Config.windowSize ≤ va)
      ∧ tlbMiss s core space va = true
    (exec (.translationWalkComplete core space va need) s = .next (if walks then (walkFill s core space va need).1 else s))
    ∧ exec (.demandZeroFill core space va) s = .next (if awaitsFrame s core space va = true then
        settleFrames (demandFill s core space va).1 space va else s)
    ∧ (accNow s id .window = none → exec (.windowAccess id) s = .next s)
    ∧ (∀ a, accNow s id .window = some a → exec (.windowAccess id) s = .next (performAcc s a).1)
    ∧ (∀ a off bs, s.w.window.wf = true → a = modWindow s (fun m => memWriteN m off bs) →
      memReadN a.w.window off bs.length = bs ∧ a.w.mem = s.w.mem ∧ ∀ k, (k < off ∨ off + bs.length ≤ k) →
        memRead a.w.window k = memRead s.w.window k)
    ∧ ((s.core core).hsDue = [] → exec (.hotnessSample core) s = .next s)
    ∧ (∀ x rest, (s.core core).hsDue = x :: rest →
      let m := (s.die (dieOfCore core)).mcb
      let a := modCore s core fun c => { c with hsDue := rest }
      let full := (m.hsWr - m.hsRd).toNat = 2 ^ m.hsLsize / 16
      (full → exec (.hotnessSample core) s = .next (modDie a (dieOfCore core) fun d => { d with mcb := { d.mcb with hsLost := satInc d.mcb.hsLost } }))
      ∧ (¬ full → exec (.hotnessSample core) s = .next (modDie
          (homeWrite a none (m.hsBase + 16 * (m.hsWr.toNat % (2 ^ m.hsLsize / 16))) (bytesOfNat 16 (hotRecord a core x))) (dieOfCore core)
          fun d => { d with mcb := { d.mcb with hsWr := d.mcb.hsWr + 1 } })))
    ∧ (sampleNow s part = false → exec (.stallSample part) s = .next s)
    ∧ (sampleNow s part = true →
      let m := (s.die (dieOfCore (coreOfPart part))).sm
      let x := sampleSubject s part
      let v := x.pc * 2 ^ 72 + x.why * 2 ^ 68 + coreOfPart part * 2 ^ 58 + part % 6 * 2 ^ 55 + x.n * 2 ^ 49 + x.lid * 2 ^ 33 + s.clk / 64 % 2 ^ 24
      let a := { s with w := { s.w with dies := s.w.dies.map fun d =>
        (d.1, { d.2 with sm := { d.2.sm with sampled := tput d.2.sm.sampled (sampleKey s part) (sampleCount s part) } }) } }
      exec (.stallSample part) s = .next (if (m.wr - m.rd).toNat = 2 ^ m.lsize / 16 then
          modDie a (dieOfCore (coreOfPart part)) fun d => { d with sm := { d.sm with lost := satInc d.sm.lost } }
        else modDie (homeWrite a none (m.base + 16 * (m.wr.toNat % (2 ^ m.lsize / 16))) (bytesOfNat 16 v)) (dieOfCore (coreOfPart part))
          fun d => { d with sm := { d.sm with wr := d.sm.wr + 1 } }))
    ∧ (s.trial.en = false ∨ s.trial.left ≠ 0 → exec .trialWindowEnd s = .next s)
    ∧ (s.trial.en = true → s.trial.left = 0 → ∃ u, exec .trialWindowEnd s = .next u ∧ u = { s with trial := u.trial }
      ∧ u.trial.nwin = s.trial.nwin + 1 ∧ u.trial.en = !s.trial.stopReq
      ∧ (if s.trial.inTrial then u.trial.trial = s.trial.counters ∧ u.trial.base = s.trial.base
         else u.trial.base = s.trial.counters ∧ u.trial.trial = s.trial.trial)
      ∧ (s.trial.stopReq = false → u.trial.inTrial = !s.trial.inTrial ∧ u.trial.left = s.trial.win * Config.clkPerUs
        ∧ u.trial.counters = List.replicate 12 0))
    ∧ (s.signals = [] → exec .signalSend s = .next s)
    ∧ ∀ m rest, s.signals = m :: rest →
      let sent := fun (conn : Nat) => exec .signalSend s = .next { s with signals := rest, outbox := s.outbox ++
        [{ conn := conn, cls := 0x06, op := 0, tag := 0, addr := BitVec.ofNat 64 (m.lid * 2 ^ 48 + m.off), payload := bytesOfNat 8 m.val.toNat }] }
      let own := s.sessions.find? fun e => decide (e.2.serial = m.sess)
      let bound := s.sessions.filter fun e => decide (e.2.space = some m.space)
      (∀ e, own = some e → sent e.1)
      ∧ (∀ e ∈ bound, own = none → (bound.map fun x => x.2.number).Nodup → (∀ x ∈ bound, e.2.number ≤ x.2.number) → sent e.1)
      ∧ (own = none → bound = [] → exec .signalSend s
        = .next { s with signals := rest, counts := { s.counts with droppedSignals := s.counts.droppedSignals + 1 } })

/-- 11 R242, R246, R248, R251-R254, R257: the matrix engine's events. A reservation's range reads as zero after its clear; a free engine is
granted to the head of its queue, whose tiles are clear unless its launch was the last owner; a compute operation starts and is
complete 160 clk later, under DSM 64 slots after its acceptance; a complete one, or one of the drain port, has its effect and is gone, with
its locks, and a drain or fill waits while its page does; a codebook takes
force after the operations before it, and only then does its tag count down (an inference, log 30). That the whole effect of an
operation happens at its completion is the model's choice (log 19). Where they are not due, nothing changes. -/
def Obligations.MatrixEngineEvents : Prop :=
  ∀ (s : State) (core num id : Nat),
    let e := (s.core core).eng
    (∀ r, (tget? s.w.cores core).isSome = true → tget? (s.core core).resv num = some r → r.clearing = true →
      ∃ u, exec (.reservationClearComplete core num) s = .next u ∧ tget? (u.core core).resv num = some { r with clearing := false }
        ∧ (∀ k, r.off ≤ k → k < r.off + r.len → memRead (u.core core).wbuf k = 0)
        ∧ (∀ k, (k < r.off ∨ r.off + r.len ≤ k) → memRead (u.core core).wbuf k = memRead (s.core core).wbuf k))
    ∧ ((∀ r, tget? (s.core core).resv num = some r → r.clearing = false) → exec (.reservationClearComplete core num) s = .next s)
    ∧ (e.owner.isSome = true ∨ engFrozen e = true ∨ e.queue = [] → exec (.engineGrant core) s = .next s)
    ∧ (∀ g rest, e.owner = none → engFrozen e = false → e.queue = g :: rest → (s.cg g.cg).engBack = none →
      (tget? s.w.cores core).isSome = true →
      ∃ u, exec (.engineGrant core) s = .next u ∧ (u.core core).eng.owner = some g ∧ (u.core core).eng.queue = rest
        ∧ let keep := ∃ o, e.last = some o ∧ o.serial = g.serial ∧ ∃ l ∈ s.w.launches, l.2.serial = o.serial
          (keep → (u.core core).eng.tiles = e.tiles ∧ (u.core core).eng.readyAt
            = timeOf s g.cg + if (s.launch (s.cg g.cg).lid).lr.dsm then 64 else 0)
          ∧ (¬ keep → (u.core core).eng.tiles = [] ∧ (u.core core).eng.readyAt = timeOf s g.cg + 64))
    ∧ (startable s core = none → exec (.matrixOpStart core) s = .next s)
    ∧ (∀ o, startable s core = some o → exec (.matrixOpStart core) s
        = .next (modEng s core fun e => { e with nextStart := timeOf s o.gang.cg + 128, ops := e.ops.map fun x =>
            if x.id = o.id then { x with due := some (if (s.launch (s.cg o.gang.cg).lid).lr.dsm then o.since + 64
              else timeOf s o.gang.cg + 160) } else x }))
    ∧ ((e.ops.find? fun o => o.due.isSome) = none → exec (.matrixOpComplete core) s = .next s)
    ∧ (∀ o, (e.ops.find? fun o => o.due.isSome) = some o → exec (.matrixOpComplete core) s
        = .next (if o.due.getD 0 ≤ timeOf s o.gang.cg then finishOp (computeEffect s o) core o.id else s))
    ∧ ((e.ops.find? fun o => o.id = id) = none → exec (.drainPortComplete core id) s = .next s)
    ∧ (∀ o, (e.ops.find? fun o => o.id = id) = some o →
      (portReady s core o = false ∨ portEffect s o = none → exec (.drainPortComplete core id) s = .next s)
      ∧ ∀ a, portReady s core o = true → portEffect s o = some a → exec (.drainPortComplete core id) s = .next (finishOp a core id))
    ∧ (∀ o : MatOp, o.kind = .zero → (tget? s.w.cores o.core).isSome = true → ∃ a, portEffect s o = some a ∧ ∀ q < 16, tileOf a o.core q
        = if o.tiles.getLsbD q then { elems := [], cause := 0, val := 0, ovf := false, nv := false } else tileOf s o.core q)
    ∧ (s.op? id = none → exec (.codebookSwap id) s = .next s)
    ∧ ∀ o, s.op? id = some o → exec (.codebookSwap id) s
        = .next (if o.kind = .cbld ∧ o.done = true ∧ (∀ x ∈ (s.core o.core).eng.ops, x.id ∉ o.waits) then
            endOp (modCg s o.cg fun g => { g with codebook := (List.range 256).map fun k => (k, word (fieldAt o.desc (4 * k) 4)) }) o
          else s)

/-- 09 R215, R216, R218, R222; 12 R266-R268; 13 R282-R284, R286, R287; 20 R354, R355: an operation of a unit that may run is done whole: it
ends, its tag counts one less, or the tag holds the cause of its failure; a stream's next element is fetched in its turn; a traversal
that waits reads its node again; a Whisk job builds its table and submits its child, and judges it once its outcome is known. What waits
for a page (cause 0) runs again whole. Where they may not run, nothing changes. A copy moves its rows in ascending order, a projection
each splat, a sort writes the number of pairs and, where they fit, the pairs and the tile table, a reprojection its winners, a worklist
the empty pixels where they fit and their number. What they do on the way is one operation of the model, done at its completion (log 19). -/
def Obligations.UnitOperationEvents : Prop :=
  ∀ (s : State) (id pg q tid : Nat),
    let waits := fun (i : Instr) (k : EngKind → Bool) =>
      (s.op? id = none → exec i s = .next s)
      ∧ ∀ o, s.op? id = some o → (k o.kind = false ∨ opMayRun s o = false) → exec i s = .next s
    let ends := fun (i : Instr) (k : EngKind → Bool) (run : State → EngOp → State × Option (BitVec 8 × Nat)) =>
      ∀ o, s.op? id = some o → k o.kind = true → opMayRun s o = true → (o.kind.isCopy = true → clearingHit s o = false) →
        exec i s = .next (match run s o with
          | (a, none) => endOp a o
          | (a, some (c, v)) => if c = 0 then s else failOp a o c v)
    waits (.copyComplete id) (fun k => k.isCopy || k = .cbld) ∧ ends (.copyComplete id) EngKind.isCopy copyRun
    ∧ waits (.projectionComplete id) (fun k => k = .sproj) ∧ ends (.projectionComplete id) (fun k => k = .sproj) projectRun
    ∧ waits (.sortComplete id) (fun k => k = .ssort) ∧ ends (.sortComplete id) (fun k => k = .ssort) sortRun
    ∧ waits (.reprojectionComplete id) (fun k => k = .rproj) ∧ ends (.reprojectionComplete id) (fun k => k = .rproj) warpRun
    ∧ waits (.worklistComplete id) (fun k => k = .rwlist) ∧ ends (.worklistComplete id) (fun k => k = .rwlist) worklistRun
    ∧ (∀ o, s.op? id = some o → o.kind = .cbld → opMayRun s o = true → clearingHit s o = false →
      (∀ a bs, opRead s o 6 o.descVa 1024 = (a, .ok bs) →
        exec (.copyComplete id) s = .next (modOp a id fun x => { x with desc := bs, done := true }))
      ∧ ∀ a c v, opRead s o 6 o.descVa 1024 = (a, .error (c, v)) →
        exec (.copyComplete id) s = .next (if c = 0 then s else failOp a o c v))
    ∧ (∀ (o : EngOp) (i : Nat) (a : State) (bs : List Byte),
      let n := bdLen o.desc
      let src := (((bdSrc o.desc : Int) + (if o.kind = EngKind.bgath then bdIndex o.desc i else i) * i32Of (bdS o.desc)) % 2 ^ 64).toNat
      let dst := (((bdDst o.desc : Int) + (if o.kind = EngKind.bscat then bdIndex o.desc i else i) * i32Of (bdD o.desc)) % 2 ^ 64).toNat
      (if bdSsp o.desc = 0 then opRead s o 4 src n = (a, .ok bs) else a = s ∧ bs = memReadN (s.core o.core).abuf src n) →
      (bdDsp o.desc = 0 → copyRow s o i = opWrite a o dst bs)
      ∧ (bdDsp o.desc = 1 → copyRow s o i = (modCore a o.core (fun c => { c with abuf := memWriteN c.abuf dst bs }), none))
      ∧ (bdDsp o.desc = 2 → copyRow s o i = (modCore a o.core (fun c => { c with wbuf := memWriteN c.wbuf dst bs }), none)))
    ∧ (∀ (a b : State) (o : EngOp) (e : BitVec 8 × Nat), bdRows o.desc = o.row + 2 → copyRow s o o.row = (a, none) →
      (copyRow a o (o.row + 1) = (b, none) → copyRun s o = (b, none))
      ∧ (copyRow a o (o.row + 1) = (b, some e) → copyRun s o = (b, some e)))
    ∧ (∀ (o : EngOp) (a b c : State) (cam g : List Byte), pjN o.desc = o.row + 1 →
      opRead s o 6 (fieldAt o.desc 16 8) 128 = (a, .ok cam) → camBad cam = false →
      opRead a o 6 (fieldAt o.desc 0 8 + 64 * (pjFirst o.desc + o.row)) 64 = (b, .ok g) →
      opWrite b o (fieldAt o.desc 8 8 + 64 * o.row) (projectOne g cam (pjFirst o.desc + o.row)) = (c, none) → projectRun s o = (c, none))
    ∧ (∀ (o : EngOp) (a b : State) (l : List (Nat × Nat × Nat × Nat × Nat × Nat)), sieveRead (ssN o.desc) s o 0 [] = (a, .ok l) →
      let d := o.desc
      let total := (l.map fun e => (e.2.2.2.2.1 + 1 - e.2.2.1) * (e.2.2.2.2.2 + 1 - e.2.2.2.1)).sum
      let tiles := (List.range (ssNtx d * ssNty d)).map fun n => tilePairs l (n % ssNtx d) (n / ssNtx d)
      opWrite a o (o.descVa + 0x24) (bytesOfNat 4 total) = (b, none) →
      (ssCap d < total → sortRun s o = (b, some (0x09, total)))
      ∧ (∀ c e, total ≤ ssCap d → opWrite b o (fieldAt d 8 8) (tiles.flatMap fun t => t.flatMap fun p => bytesOfNat 8 (p.1 * 2 ^ 32 + p.2)) = (c, none) →
        opWrite c o (fieldAt d 16 8) ((List.range tiles.length).flatMap fun n =>
          bytesOfNat 8 ((tiles.getD n []).length * 2 ^ 32 + ((tiles.take n).map List.length).sum)) = (e, none) → sortRun s o = (e, none)))
    ∧ (∀ (o : EngOp) (a : State) (best : Tab Nat), rdHt o.desc = 1 → rdRef o.desc = 0 → warpRows 1 s o 0 [] = (a, .ok best) → ∀ b,
      opWrite a o (rdCur o.desc) ((List.range (rdWd o.desc)).flatMap fun x => bytesOfNat 8 (tget best x vbAllOnes)) = (b, none) →
      warpRun s o = (b, none))
    ∧ (∀ (o : EngOp) (a : State) (l : List Nat), emptyRows (rdHt o.desc) s o 0 [] = (a, .ok l) → ∀ b c,
      (rdCap o.desc < l.length → opWrite a o (rdCnt o.desc) (bytesOfNat 4 l.length) = (c, none) → worklistRun s o = (c, some (0x09, l.length)))
      ∧ (0 < l.length → l.length ≤ rdCap o.desc → opWrite a o (rdList o.desc) (l.flatMap (bytesOfNat 4)) = (b, none) →
        opWrite b o (rdCnt o.desc) (bytesOfNat 4 l.length) = (c, none) → worklistRun s o = (c, none)))
    ∧ (∀ (a : State) (o : EngOp) (c : BitVec 8) (v : Nat), (tget? a.w.cgs o.cg).isSome = true →
      tagOf (tagFail a o.cg o.tag c v) o.cg o.tag = if (tagOf a o.cg o.tag).err = 0 then
        { tagOf a o.cg o.tag with err := c, val := word v } else tagOf a o.cg o.tag)
    ∧ (let t : ThreadRef := { pg := pg, tid := tid }
       exec (.streamFetch pg q tid) s = .next (match fetchable s t q with
        | some e => if fetchTurn s t q then fetchElement s t q e else s
        | none => s))
    ∧ ((∀ v ∈ s.w.travs, v.id = id → v.idle = true ∨ s.clk < v.due) → exec (.traversalRefetch id) s = .next s)
    ∧ (∀ v a tv, (s.w.travs.find? fun v => v.id = id) = some v → v.idle = false → v.due ≤ s.clk →
      traceRun (2 ^ 20 + 1) s { v with waits := if v.due = 0 then 0 else v.waits + 1, due := s.clk + 256, stuck := false } (decide (v.due = 0)) = (a, .done tv) →
      exec (.traversalRefetch id) s
        = .next (traceDone { a with w := { a.w with travs := a.w.travs.filter fun x => x.id != id } } tv))
    ∧ (mayBuild s id = false → exec (.whiskBuild id) s = .next s)
    ∧ (∀ j a, tget? s.w.jobs id = some j → mayBuild s id = true → buildAll (recordThreads (jobLr j)) s j 0 = (a, .ok) →
      ∃ x : Submit, x.record = childRecord j ∧ x.answer = .job id ∧ x.parent = some j.th
        ∧ exec (.whiskBuild id) s = .next { a with w := { a.w with submits := a.w.submits ++ [x] } })
    ∧ ((∀ j, tget? s.w.jobs id = some j → j.done = none) → exec (.whiskJudge id) s = .next s)
    ∧ (∀ j out b, tget? s.w.jobs id = some j → j.done = some out → out ≠ 0 → finishJob s id 2 0 0 0 = (b, true) →
      exec (.whiskJudge id) s = .next b)
    ∧ ∀ j a acc rej b, tget? s.w.jobs id = some j → j.done = some 0 → judgeAll (mdN j) s j (mdFirst j) 0 0 = (a, .ok, acc, rej) →
      finishJob a id 0 0 acc rej = (b, true) → exec (.whiskJudge id) s = .next b

/-! Messages (24; 04 R76, R78; 05 R91; 20 R361, R362; 22 R379-R386). -/

/-- 24 R389-R392, R395; 05 R91; 08 R180, R190, R191: WRITE and READ move the bytes of their lines up to the first that fails, whose address the
result holds; FLUSH answers when nothing before it is left, one in physical addresses that passes the top of DRAM with TRANSLATION; a window message gets the old value, and writes or adds; a record goes to
the launch engine; peer access moves bytes to and from memory. A malformed one answers 0x03. The layout of the peer payload and the four bytes of a window message are the model's choice (log 49, log 65), the status of a flush beyond DRAM
(log 107) and what a flush waits for (log 87) are inferences; a LAUNCH of a session without a space (log 55) is not stated here. -/
def Obligations.HostAccessMessages : Prop :=
  ∀ (s : State), admitted s false →
    let a := s.rx.addr.toNat
    let n := payNat s 0 8
    let lines := fun (l : List (Nat × Nat × Target)) => l.map fun p => (targetLine p.2.2, p.2.1)
    let code := fun (c : BitVec 8) => if c = 0x07 then 5 else 4
    let window := fun (i : Instr) (len : Nat) (v : Nat → Nat) =>
      (connOrdered s.rx.conn = false ∨ s.rx.payload.length ≠ len ∨ a % 4 ≠ 0 ∨ Config.windowSize ≤ a → exec i s = .next (answered s 3 0 []))
      ∧ (connOrdered s.rx.conn = true → s.rx.payload.length = len → a % 4 = 0 → a < Config.windowSize → ∀ b,
        stampHost s [(clockLine true a, len)] = (b, true) →
        let old := memNat b.w.window a 4
        exec i s = .next (respond (if len = 0 then b else modWindow b fun m => memWriteN m a (bytesOfNat 4 (v old))) 0 old []))
    (s.rx.addr.toNat % 8 ≠ 0 ∨ s.rx.payload = [] → exec .write s = .next (answered s 3 0 []))
    ∧ (∀ b l, a % 8 = 0 → s.rx.payload ≠ [] → hostPieces s a s.rx.payload.length .write = (b, l, none) →
      ∀ d, stampHost b (lines l) = (d, true) → exec .write s = .next (respond (hostWritePieces d a l s.rx.payload) 0 0 []))
    ∧ (∀ b l c va, a % 8 = 0 → s.rx.payload ≠ [] → hostPieces s a s.rx.payload.length .write = (b, l, some (c, va)) → c ≠ 0 →
      ∀ d, stampHost b (lines l) = (d, true) →
      exec .write s = .next (respond (hostWritePieces d a l s.rx.payload) (code c) (va % 2 ^ 56 / 256) []))
    ∧ (a % 8 ≠ 0 ∨ s.rx.payload.length ≠ 8 ∨ n = 0 ∨ n % 8 ≠ 0 ∨ 65536 < n → exec .read s = .next (answered s 3 0 []))
    ∧ (a % 8 = 0 → s.rx.payload.length = 8 → 0 < n → n % 8 = 0 → n ≤ 65536 →
      (∀ b l, hostPieces s a n .read = (b, l, none) →
        exec .read s = .next (respond b 0 0 (l.flatMap fun p => readTarget b p.2.2 p.2.1)))
      ∧ ∀ b l c va, hostPieces s a n .read = (b, l, some (c, va)) → c ≠ 0 →
        exec .read s = .next (respond b (code c) (va % 2 ^ 56 / 256) (l.flatMap fun p => readTarget b p.2.2 p.2.1)))
    ∧ (s.rx.payload.length = 8 → sessionWaits s = false → ∀ i ∈ [Instr.flushData, .flushDataAndTlb],
      (i = .flushData ∨ rxSpace s = none) →
      ((rxSpace s).isSome = true ∨ (a < Config.dramTop ∧ a + n ≤ Config.dramTop) → exec i s = .next (answered s 0 0 []))
      ∧ (rxSpace s = none → Config.dramTop ≤ a ∨ Config.dramTop < a + n →
        exec i s = .next (answered s 4 (Nat.max a Config.dramTop % 2 ^ 56 / 256) [])))
    ∧ (s.rx.payload.length = 8 → sessionWaits s = true →
      exec .flushData s = .next { s with inbox := s.inbox ++ [(s.rx.conn, encodeMessage s.rx)] })
    ∧ (∀ sp, s.rx.payload.length = 8 → rxSpace s = some sp → sessionWaits s = false →
      let b := dropTranslations (reclaimTraces s sp a n) sp a n
      sessionWaits b = false → rangeBusy b sp a n = false → exec .flushDataAndTlb s = .next (respond b 0 0 []))
    ∧ window .windowRead 0 (fun old => old)
    ∧ window .windowWrite 8 (fun _ => payNat s 0 4)
    ∧ window .windowFetchAdd 8 (fun old => (old + payNat s 0 4) % 2 ^ 32)
    ∧ (s.rx.payload.length ≠ 1024 → exec .launchMessage s = .next (answered s 3 0 []))
    ∧ (∀ sp, s.rx.payload.length = 1024 → rxSpace s = some sp → ∃ x : Submit, x.record = s.rx.payload ∧ x.space = sp ∧ x.parent = none
      ∧ x.priv = rxManagement s ∧ x.answer = .message s.rx.conn s.rx.tag
      ∧ exec .launchMessage s = .next { s with w := { s.w with submits := s.w.submits ++ [x] } })
    ∧ (∀ b l, s.rx.payload.length = 24 → hostPieces s a (payNat s 16 8) .read = (b, l, none) → b.replay = none →
      let bs := l.flatMap fun p => readTarget b p.2.2 p.2.1
      bs ≠ [] →
      exec .copyToPeer s = .next (respond { b with peerOut := b.peerOut ++ [(payNat b 0 8, payNat b 8 8, bs)] } 0 0 []))
    ∧ ∀ b l, s.rx.payload.length = 24 → hostPieces { s with fresh := s.fresh + 1 } a (payNat s 16 8) .write = (b, l, none) →
      ∀ d, stampHost b (lines l) = (d, true) →
      exec .copyFromPeer s = .next (respond (hostWritePieces d a l ((List.range (payNat s 16 8)).map fun i => Config.peerByte s.fresh i)) 0 0 [])

/-- 24 R390, R391, R395; 04 R76, R78, R79; 08 R184; 20 R361, R362; 22 R373, R377: management reads and writes of the words of the control
blocks answer with the old value and take the payload under the block's rules; an address that names no word is 0x03; without the
management role every one of them answers 0x06. A reset answers and begins bring-up again, an image is written to the slot that was not
booted and committed if its checks pass, a checkpoint is restored before the first launch. That the old value stands in result and payload, a gap in an image reads 0xFF, and the codes 1 and 2 of a failed commit are the model's choice (log 71, log 72), what a reset discards
(log 77), an image write of no bytes answered 0x03 (log 97), which counters a management write may set (log 42), the order of the
statuses (log 69) and the slot that an update writes where none was booted (log 96) are inferences. -/
def Obligations.ManagementMessages : Prop :=
  ∀ (s : State),
    let a := s.rx.addr.toNat
    let old := fun (v : Nat) => answered s 0 v (bytesOfNat 8 v)
    let n := 1 - s.mgmt.slot
    let slot := s.mgmt.slots.getD n FlashSlot.empty
    (admitted s false → rxManagement s = false → isStatusRead s = false → ∀ i ∈ [Instr.managementRead, .managementWrite, .hotnessEnable,
      .freeFramesAdd, .samplingEnable, .trialEnable, .trialDisable, .checkpointControlRead, .checkpointControlWrite, .raceCountEnable,
      .checkpointRestore, .managementReset, .imageWrite, .imageCommit, .preemptStopAndSave, .preemptWithNotice, .restore, .kill,
      .createAddressSpace], exec i s = .next (answered s 6 0 []))
    ∧ (admitted s true → (mgmtWord a = none → exec .managementRead s = .next (answered s 3 0 []))
      ∧ ∀ w, mgmtWord a = some w → exec .managementRead s = .next (old (mgmtGet s w)))
    ∧ (admitted s true → ∀ i ∈ [Instr.managementWrite, .hotnessEnable, .freeFramesAdd, .samplingEnable, .trialEnable, .trialDisable],
      (mgmtWord a = none ∨ s.rx.payload.length ≠ 8 → exec i s = .next (answered s 3 0 []))
      ∧ ∀ w, mgmtWord a = some w → s.rx.payload.length = 8 → exec i s = .next (mgmtPut (old (mgmtGet s w)) w s.rx.payload))
    ∧ (admitted s true → (a % 8 ≠ 0 ∨ 64 ≤ a → exec .checkpointControlRead s = .next (answered s 3 0 []))
      ∧ (a % 8 = 0 → a < 64 → exec .checkpointControlRead s = .next (old (fieldAt (replayBytes s.rb) a 8))))
    ∧ (admitted s true → a % 8 = 0 → a < 64 → s.rx.payload.length = 8 → ∀ i ∈ [Instr.checkpointControlWrite, .raceCountEnable],
      exec i s = .next (replayWrite (old (fieldAt (replayBytes s.rb) a 8)) a s.rx.payload))
    ∧ (∀ m : Mcb, m.hsEn = true → ∀ b, (mcbParse m b).hsK = m.hsK ∧ (mcbParse m b).hsLsize = m.hsLsize ∧ (mcbParse m b).hsBase = m.hsBase
      ∧ (mcbParse m b).hsWr = m.hsWr)
    ∧ (admitted s true → ∃ t, exec .managementReset s = .next t ∧ t.mgmt.phase = 0 ∧ t.mgmt.ready = false ∧ t.w = World.init
      ∧ t.sessions = [] ∧ t.mgmt.alarms = s.mgmt.alarms ∧ t.mgmt.slots = s.mgmt.slots ∧ t.outbox = (answered s 0 0 []).outbox)
    ∧ (admitted s true → s.rx.payload = [] ∨ 67108864 < a + s.rx.payload.length → exec .imageWrite s = .next (answered s 3 0 []))
    ∧ (admitted s true → s.rx.payload ≠ [] → a + s.rx.payload.length ≤ 67108864 → ∃ t, exec .imageWrite s = .next t
      ∧ t.outbox = (answered s 0 0 []).outbox ∧ t.mgmt.erased = true
      ∧ ∃ x, t.mgmt.slots = s.mgmt.slots.set n x ∧ x.signed = false ∧ (x.bytes.drop a).take s.rx.payload.length = s.rx.payload)
    ∧ (admitted s true → ∃ t, exec .imageCommit s = .next t ∧ t.mgmt.erased = false ∧
      let v := Config.imageVersion slot.bytes
      if slot.bytes = [] ∨ Config.imageSigned slot.bytes = false then
        t.outbox = (answered s 3 1 []).outbox ∧ t.mgmt.slots = s.mgmt.slots.set n FlashSlot.empty
      else if v < s.mgmt.counter ∨ v ≤ (s.mgmt.slots.getD s.mgmt.slot FlashSlot.empty).version then
        t.outbox = (answered s 3 2 []).outbox ∧ t.mgmt.slots = s.mgmt.slots.set n FlashSlot.empty
      else t.outbox = (answered s 0 0 []).outbox ∧ t.mgmt.slots = s.mgmt.slots.set n { bytes := slot.bytes, signed := true, version := v })
    ∧ (admitted s true → s.mgmt.ready = false ∨ s.nextSerial ≠ 0 ∨ namedCkpt s = none →
      exec .checkpointRestore s = .next (answered s 3 0 []))
    ∧ ∀ c, admitted s true → s.mgmt.ready = true → s.nextSerial = 0 → namedCkpt s = some c →
      exec .checkpointRestore s = .next (respond (restoreCkpt s c) 0 0 [])

/-- 22 R379-R386; 24 R388, R389, R391, R393, R394: a debugger's messages act for the session that has claimed the launch, and answer 0x07
without the claim; sessions open on an ordered connection that has none, with the credential's checks, and close; address spaces are
made with the lowest free number and go when no launch or session is left; a lost connection ends its session; a refused delivery mode
and a malformed message get their status. The layout of an open, the statuses of the role checks and the sessions that may claim are the model's choice (log 66, log 67, log 68, log 69); the filling of
a dump read to eight bytes (log 88), the count of failed authentications set to 0 at an open (log 79) and which status reads need no
session (log 113) stand behind other clauses. -/
def Obligations.DebugAndSessionMessages : Prop :=
  ∀ (s : State) (conn : Nat) (hdr : DWord),
    let lid := s.rx.addr.toNat
    let pay := s.rx.payload
    (admitted s false → lid < 65536 → rxClaim s = none →
      exec .debugRelease s = .next (answered s 7 0 []) ∧ (pay.length = 8 → exec .stopPartition s = .next (answered s 7 0 []))
      ∧ (pay.length = 24 → exec .setWatchpoint s = .next (answered s 7 0 [])))
    ∧ (admitted s false → lid < 65536 → pay.length = 8 → payNat s 0 8 < 8 →
      (tget? s.w.launches lid = none → exec .debugClaim s = .next (answered s 7 0 []))
      ∧ ∀ l, tget? s.w.launches lid = some l → sessionSees s l = true →
        ((tget? s.w.claims lid).isSome = true → exec .debugClaim s = .next (answered s 3 0 []))
        ∧ (tget? s.w.claims lid = none → ∃ t, exec .debugClaim s = .next t ∧ t.outbox = (answered s 0 0 []).outbox
          ∧ ∃ c, tget? t.w.claims lid = some c ∧ c.conn = s.rx.conn ∧ c.mask = BitVec.ofNat 3 (payNat s 0 8) ∧ c.trace = none ∧ c.watches = []))
    ∧ (∀ c, admitted s false → lid < 65536 → rxClaim s = some c →
      (exec .debugRelease s = .next (respond (endClaim s lid) 0 0 []))
      ∧ (pay.length = 8 → namedPart s lid = none → exec .stopPartition s = .next (answered s 3 0 []))
      ∧ (∀ p, pay.length = 8 → namedPart s lid = some p → ∃ t, exec .stopPartition s = .next t ∧ t.w = (stopPart s lid p).w)
      ∧ (∀ p, pay.length = 8 → payNat s 0 8 / 2 ^ 24 % 4 ≠ 3 → namedPart s lid = some p →
        exec .resume s = .next (respond (resumePart s p (payNat s 0 8 / 2 ^ 24 % 4)) 0 0 []))
      ∧ (∀ p, pay.length = 16 → payNat s 12 4 ≤ 65536 → namedPart s lid = some p →
        let bs := ((dumpPart s p).drop (payNat s 8 4)).take (payNat s 12 4)
        exec .readDump s = .next (answered s 0 0 (bs ++ List.replicate ((8 - bs.length % 8) % 8) 0)))
      ∧ (pay.length = 24 → ∃ t, exec .setWatchpoint s = .next t ∧ t.outbox = (answered s 0 0 []).outbox
        ∧ ∃ d, tget? t.w.claims lid = some d ∧ (bitAt (payNat s 0 8) 16 = false → tget? d.watches (payNat s 0 8 % 8) = none)
          ∧ (bitAt (payNat s 0 8) 16 = true → tget? d.watches (payNat s 0 8 % 8)
            = some { lo := payNat s 8 7, hi := payNat s 16 7, mask := BitVec.ofNat 4 (payNat s 0 8 / 256) })))
    ∧ (∀ c b, admitted s true → lid < 65536 → rxClaim s = some c → pay.length = 16 → payNat s 0 7 % 4096 = 0 →
      12 ≤ payNat s 8 8 % 32 → payNat s 8 8 % 32 ≤ 30 → payNat s 0 7 + 2 ^ (payNat s 8 8 % 32) ≤ 2 ^ 56 →
      (∀ e x, pinBuffer s (s.launch lid).space (payNat s 0 7) (2 ^ (payNat s 8 8 % 32)) = (b, some (e, x)) →
        exec .armTrace s = .next (respond b (if e = 0x07 then 5 else 4) (x % 2 ^ 56 / 256) []))
      ∧ (pinBuffer s (s.launch lid).space (payNat s 0 7) (2 ^ (payNat s 8 8 % 32)) = (b, none) →
        let buf : TraceBuf :=
          { va := payNat s 0 7, lsize := payNat s 8 8 % 32, mask := BitVec.ofNat 6 (payNat s 8 8 / 256), overwrite := bitAt (payNat s 8 8) 16,
            written := 0 }
        exec .armTrace s = .next (respond (modClaim b lid fun y => { y with trace := some buf, reclaimed := 0, lost := 0 }) 0
          c.lost.toNat [])))
    ∧ (s.mgmt.powered = true → s.mgmt.ports.getLsbD (connPort s.rx.conn) = true → s.mgmt.safe = false → s.rx.cls = 12 → s.rx.op = 0 →
      connOrdered s.rx.conn = true → 8 ≤ pay.length → rxSession s = none →
      (Config.credentialOk pay = false → ∃ t, exec .sessionOpen s = .next t ∧ t.sessions = s.sessions
        ∧ t.mgmt.authFails = s.mgmt.authFails + 1 ∧ t.outbox = (answered s 6 0 []).outbox)
      ∧ (∀ k, Config.credentialOk pay = true → openSpace s ≠ 0xFF → spaceGrants s (openSpace s) = true → freeSession s = some k →
        ∃ t, exec .sessionOpen s = .next t ∧ t.mgmt.authFails = 0 ∧ ∃ x, tget? t.sessions s.rx.conn = some x ∧ x.number = k
          ∧ x.space = some (openSpace s) ∧ x.management = (openAsksMgmt s && Config.credentialManagement pay)))
    ∧ (admitted s false → exec .sessionClose s = .next (endSession (answered s 0 0 []) (connHome s.rx.conn)))
    ∧ ((∀ c ∈ s.w.claims, connHome c.2.conn ≠ conn) → endSession s conn = { s with sessions := tdel s.sessions conn }
      ∧ tget? (endSession s conn).sessions conn = none)
    ∧ (∀ k, admitted s true → lid % 0x8000 = 0 → lid < Config.dramTop → pay.length ≤ 128 →
      firstFree 64 (fun n => (tget? s.spaces n).isNone) = some k → ∃ t, exec .createAddressSpace s = .next t
        ∧ t.outbox = (answered s 0 k []).outbox ∧ k < 64 ∧ tget? s.spaces k = none ∧ ∃ x, tget? t.spaces k = some x ∧ x.root = lid)
    ∧ (admitted s false → ((tget? s.spaces (lid % 64)).isNone = true ∨ (∃ l ∈ s.w.launches, l.2.space = lid % 64)
        ∨ ∃ x ∈ s.sessions, x.2.space = some (lid % 64)) → exec .destroyAddressSpace s = .next (answered s 3 0 []))
    ∧ (admitted s false → (tget? s.spaces (lid % 64)).isSome = true → (∀ l ∈ s.w.launches, l.2.space ≠ lid % 64) →
      (∀ x ∈ s.sessions, x.2.space ≠ some (lid % 64)) → ∃ t, exec .destroyAddressSpace s = .next t
        ∧ t.outbox = (answered s 0 0 []).outbox ∧ tget? t.spaces (lid % 64) = none)
    ∧ (let a := { s with inbox := s.inbox.filter fun x => x.1 != conn }
      exec (.connectionLost conn) s = .next (if (tget? s.sessions conn).isSome then endSession a conn else a))
    ∧ (s.mgmt.powered = true → s.mgmt.ports.getLsbD (connPort conn) = true →
      ∃ t m, exec (.refusedDeliveryMode conn hdr) s = .next t ∧ t.outbox = s.outbox ++ [m] ∧ m.tag = hdr.extractLsb' 32 32
        ∧ m.addr = 2 ∧ m.cls = hdr.extractLsb' 0 8 ||| 0x80 ∧ m.op = hdr.extractLsb' 8 7 ∧ m.conn = connHome conn ∧ t.counts.refusedModes = s.counts.refusedModes + 1 ∧ t.w = s.w)
    ∧ (admitted s false → exec .malformedMessage s = .next (answered s 3 0 []))
    ∧ (s.mgmt.powered = false → ∀ i ∈ [Instr.malformedMessage, .write, .read, .sessionOpen, .kill], exec i s = .next s)
    ∧ (s.mgmt.powered = true → s.mgmt.ports.getLsbD (connPort s.rx.conn) = true → s.mgmt.safe = true → s.mgmt.statusOnly = false →
      s.rx.cls ≠ 9 → s.rx.cls ≠ 12 → exec .malformedMessage s = .next (answered s 1 0 []))

/-! Encoding, the step, and the invariants (00 R4; 01; 02 R25-R46; 04 R74; 06 R124). -/

/-- 02 R25-R33, R40, R41: every well-formed word is encoded, and its encoding decodes to it; ILLZ, opcode 0x000, is itself whatever its
other bits. -/
def Obligations.EncodedWordsDecode : Prop :=
  (∀ (cx : DecodeCtx) (i : Instr), i.wf cx = true → ∃ x, encodeWord i = some x ∧ decodeWord x = .ok i)
  ∧ ∀ r : BitVec 86, ∃ x, encodeWord (.illz r) = some x ∧ decodeWord x = .ok (.illz r) ∧ x.toNat = r.toNat

/-- 02 R45: a word that decodes has one spelling: encoding what it decodes to gives its 96 bits back, so no reserved bit is set in it and no
two words stand for one instruction. -/
def Obligations.DecodedWordsEncode : Prop :=
  ∀ (x : IWord) (i : Instr), decodeWord x = .ok i → encodeWord i = some x

/-- 02 R25-R31, R40, R41, R44: words written out from the tables, bit [95] first: class, operation, guard, hints, modifier, operands. The
LD is the example of R41; an unassigned opcode, a header in a body, a reserved operand class value and a reserved modifier bit are
refused. -/
def Obligations.WordsOfTheTablesDecode : Prop :=
  let v := fun (n : BitVec 8) => Opd.v n false false
  let ctl := fun (y : Bool) (fa fb : Bool) (st : BitVec 3) =>
    ({ neg := false, pred := 7, yield := y, fa := fa, fb := fb, stall := st } : Ctl)
  let always := ctl false false false 0
  let reg := fun (n : BitVec 8) => (0b000#3 ++ 0#11 ++ n : BitVec 22)
  let none' := (0b111#3 ++ 0#19 : BitVec 22)
  let imm := fun (n : BitVec 19) => (0b100#3 ++ n : BitVec 22)
  let pt := (0b0#1 ++ 0b111#3 ++ 0b0#1 ++ 0b00#2 ++ 0b000#3 : BitVec 10)
  let word := fun (cls oper : BitVec 5) (g m : BitVec 10) (a b c : BitVec 22) => decodeWord (cls ++ oper ++ g ++ m ++ a ++ b ++ c)
  decodeWord 0x501C808000004000_00A00000#96 = .ok (.ld { ctl := ctl false true false 0, a := v 4, b := v 2, c := .imm 0 } .i32 .dev .rlx false)
  ∧ word 0x01 0 pt (0#4 ++ 0#5 ++ 1#1) (reg 1) (reg 2) (imm 0x7FFFF#19)
    = .ok (.iadd { ctl := always, a := v 1, b := v 2, c := .imm 0x7FFFF#19 } .i32 true)
  ∧ word 0x00 7 pt 0 none' none' none' = .ok (.exit { ctl := always, a := .none, b := .none, c := .none })
  ∧ word 0x12 0 pt 0 (0b110#3 ++ 0#3 ++ 3#4 ++ 5#12) none' none' = .ok (.bara { ctl := always, a := .res .pb 5, b := .none, c := .none })
  ∧ word 0x18 0 pt (0#8 ++ 1#2) none' none' none' = .ok (.tretRst { ctl := always, a := .none, b := .none, c := .none })
  ∧ word 0x17 0 pt 0 (reg 3) (0b011#3 ++ 0#11 ++ 6#8) none' = .ok (.srd { ctl := always, a := v 3, b := .sr 6, c := .none } false)
  ∧ word 0x03 0 (0b1#1 ++ 2#3 ++ 0b1#1 ++ 0b00#2 ++ 3#3) (1#4 ++ 2#3 ++ 0#1 ++ 1#2) (0b001#3 ++ 0#16 ++ 4#3) (reg 7) (reg 8)
    = .ok (.icmp { ctl := { neg := true, pred := 2, yield := true, fa := false, fb := false, stall := 3 }, a := .p 4 false, b := v 7, c := v 8 } .n32 .lt .and)
  ∧ word 0x1A 0 pt 0 none' none' none' = .error .unassignedOpcode
  ∧ word 0x1F 31 pt 0 none' none' none' = .error .headerInBody
  ∧ (∀ i, word 0x00 7 pt 1 none' none' none' ≠ .ok i) ∧ ∀ i, word 0x01 0 pt 0 (0b000#3 ++ 1#11 ++ 1#8) (reg 2) (reg 3) ≠ .ok i

/-- 06 R124; 02 R37: a step whose agenda names the issue of a group runs the word that the group stands at: where the group may issue and
its next word's 96 bits decode to `i`, the step is the meaning of `i` at that state, with the reads of clocks that it made logged after it (20
R364), the entry in the account of actions after it (log 44), and the issue over. The agenda is the model's (log 2). -/
def Obligations.StepRunsTheDecodedWord : Prop :=
  ∀ (s : State) (c : Cur) (rest : List Action) (x : IWord) (xs : List IWord) (i : Instr) (ix : Issue),
    s.agenda = .issue c :: rest →
    let a := { s with agenda := rest }
    issueNow a c.part c.pos = true → issueAt a c.part c.pos = some ix → (a.group c.part c.pos).hold = .free →
    (a.group c.part c.pos).redo = false → (a.group c.part c.pos).words = x :: xs → decodeWord x = .ok i →
    ∃ u, exec i { a with cur := some { part := c.part, pos := c.pos, word := a.w.nextId } } = .next u
      ∧ step s = .next (logAction (.issue c) { logReads a ix i u with cur := none })

/-- 00 R4; 08: every step keeps the canonical form of the memories that hold DRAM and the window, now and in every checkpoint, from every
state that has it, reachable or not. -/
def Obligations.StepKeepsCanonicalMemory : Prop :=
  ∀ (s t : State), s.canonical → step s = .next t → t.canonical

/-- 18 R319: no row of the opcode table ends the machine: every instruction, event and message answers a next state from every state, a
trap being one too; a step of a powered device goes on. Without power and without an action nothing executes (04 R83). -/
def Obligations.EveryRowAnswersANextState : Prop :=
  (∀ (i : Instr) (s : State), ∃ t, exec i s = .next t)
  ∧ (∀ s : State, s.mgmt.powered = true → ∃ t, step s = .next t)
  ∧ ∀ s : State, s.mgmt.powered = false → s.agenda = [] → s.replay = none → step s = .fault .unpowered

/-- 04 R74; 08 R184; 20 R362; 22 R373, R377: what reset leaves: bring-up in phase 0 with no launch accepted, no session and no space, memory
and window with nothing listed, in canonical form; the control blocks at their reset columns: `cp.t` 50, the rings' default sizes, no
counting, sampling or trial on. That memory reads zero is the model's choice (log 6). -/
def Obligations.ResetIsPhaseZero : Prop :=
  let s := State.reset
  s.canonical ∧ (∀ k, memRead s.w.mem k = 0 ∧ memRead s.w.window k = 0)
  ∧ s.mgmt.phase = 0 ∧ s.mgmt.ready = false ∧ s.mgmt.cause = 0 ∧ s.mgmt.safe = false
  ∧ s.w.launches = [] ∧ s.w.cgs = [] ∧ s.w.pgs = [] ∧ s.w.submits = [] ∧ s.sessions = [] ∧ s.spaces = [] ∧ s.inbox = [] ∧ s.outbox = []
  ∧ s.rb.t = 50 ∧ s.rb.late = 0 ∧ s.rb.num = 0 ∧ s.rb.olWr = 0 ∧ s.rb.rcEn = false ∧ s.trial.en = false ∧ s.trial.nwin = 0
  ∧ s.rb.olLsize = 20 ∧ s.rb.rcLsize = 12
  ∧ ∀ d, (let m := (s.die d).mcb
      m.hsEn = false ∧ m.hsK = 10 ∧ m.hsLsize = 12 ∧ m.hsBase = 0 ∧ m.hsWr = 0 ∧ m.hsRd = 0 ∧ m.hsLost = 0 ∧ m.flBase = 0 ∧ m.flLsize = 12
      ∧ m.flWr = 0 ∧ m.flRd = 0 ∧ m.flNofr = 0)
    ∧ let m := (s.die d).sm
      m.en = false ∧ m.k = 12 ∧ m.lsize = 12 ∧ m.base = 0 ∧ m.wr = 0 ∧ m.rd = 0 ∧ m.lost = 0
end

