-- ==== Sys2Proof/Laws/Decode.lean ====
section
/-! SUPPORT. What the fields of a packed word are, and that operand fields, guards and modifier codes read back as they were written. -/

namespace Sys2Proof

theorem bits_eq {n : Nat} {x y : BitVec n} (h : ∀ i, i < n → x.getLsbD i = y.getLsbD i) : x = y := BitVec.eq_of_getLsbD_eq h

/-! Fields of a word (02 R25). -/

theorem packWord_oper (op ctl mod : BitVec 10) (a b c : BitVec 22) : (packWord op ctl mod a b c).extractLsb' 86 5 = op.extractLsb' 0 5 := by
  ext i hi; simp [packWord, BitVec.getLsbD_append]; grind

theorem packWord_class (op ctl mod : BitVec 10) (a b c : BitVec 22) : (packWord op ctl mod a b c).extractLsb' 91 5 = op.extractLsb' 5 5 := by
  ext i hi; simp [packWord, BitVec.getLsbD_append]; grind

theorem packWord_ctl (op ctl mod : BitVec 10) (a b c : BitVec 22) : (packWord op ctl mod a b c).extractLsb' 76 10 = ctl := by
  ext i hi; simp [packWord, BitVec.getLsbD_append]; grind

theorem packWord_mod (op ctl mod : BitVec 10) (a b c : BitVec 22) : (packWord op ctl mod a b c).extractLsb' 66 10 = mod := by
  ext i hi; simp [packWord, BitVec.getLsbD_append]; grind

theorem packWord_a (op ctl mod : BitVec 10) (a b c : BitVec 22) : (packWord op ctl mod a b c).extractLsb' 44 22 = a := by
  ext i hi; simp [packWord, BitVec.getLsbD_append]; grind

theorem packWord_b (op ctl mod : BitVec 10) (a b c : BitVec 22) : (packWord op ctl mod a b c).extractLsb' 22 22 = b := by
  ext i hi; simp [packWord, BitVec.getLsbD_append]; grind

theorem packWord_c (op ctl mod : BitVec 10) (a b c : BitVec 22) : (packWord op ctl mod a b c).extractLsb' 0 22 = c := by
  ext i hi; simp [packWord, BitVec.getLsbD_append]; grind

/-- A wide word is a packed word whose fields B and C hold its immediate below zero bits (02 R31). -/
theorem wideOf_eq (op mod : BitVec 10) (w : WideWd) :
    wideOf op mod w = packWord op w.ctl.encode mod w.a.encode (((0 : BitVec 12) ++ w.imm).extractLsb' 22 22)
      (((0 : BitVec 12) ++ w.imm).extractLsb' 0 22) := by
  ext i hi
  simp [packWord, wideOf, BitVec.getLsbD_append, BitVec.getElem_append]
  grind

/-! Guards and operands read back. -/

theorem Ctl.decode_encode (c : Ctl) : Ctl.decode c.encode = c := by
  obtain ⟨neg, pred, yld, fa, fb, st⟩ := c
  revert neg pred yld fa fb st
  decide

/-- The number of a resource lies in its kind's range (02 R29). -/
def Opd.inRange (o : Opd) : Bool :=
  match o with
  | .res kd n => decide (n.toNat < kd.limit)
  | _ => true

theorem ResKind.ofCode_code (k : ResKind) : ResKind.ofCode k.code = some k := by cases k <;> rfl

theorem Opd.decode_encode (o : Opd) (h : o.inRange = true) : Opd.decode o.encode = some o := by
  cases o with
  | v n neg abs =>
    have h1 : ((Opd.v n neg abs).encode.extractLsb' 19 3) = 0 := by
      exact bits_eq fun i hi => by
        simp only [Opd.encode, BitVec.getLsbD_extractLsb', BitVec.getLsbD_append]
        interval_cases i <;> simp
    have h2 : ((Opd.v n neg abs).encode.extractLsb' 8 9) = 0 := by
      exact bits_eq fun i hi => by
        simp only [Opd.encode, BitVec.getLsbD_extractLsb', BitVec.getLsbD_append]
        interval_cases i <;> simp
    have h3 : ((Opd.v n neg abs).encode.extractLsb' 0 8) = n := by
      exact bits_eq fun i hi => by
        simp only [Opd.encode, BitVec.getLsbD_extractLsb', BitVec.getLsbD_append]
        interval_cases i <;> simp
    have h4 : (Opd.v n neg abs).encode.getLsbD 18 = neg := by
      simp only [Opd.encode, BitVec.getLsbD_append]
      cases neg <;> simp [bitOf]
    have h5 : (Opd.v n neg abs).encode.getLsbD 17 = abs := by
      simp only [Opd.encode, BitVec.getLsbD_append]
      cases abs <;> simp [bitOf]
    simp only [Opd.decode, h1, h2, h3, h4, h5, if_true]
    rfl
  | p n inv =>
    have h1 : ((Opd.p n inv).encode.extractLsb' 19 3) = 1 := by
      exact bits_eq fun i hi => by
        simp only [Opd.encode, BitVec.getLsbD_extractLsb', BitVec.getLsbD_append]
        interval_cases i <;> simp
    have h2 : ((Opd.p n inv).encode.extractLsb' 3 15) = 0 := by
      exact bits_eq fun i hi => by
        simp only [Opd.encode, BitVec.getLsbD_extractLsb', BitVec.getLsbD_append]
        interval_cases i <;> simp
    have h3 : ((Opd.p n inv).encode.extractLsb' 0 3) = n := by
      exact bits_eq fun i hi => by
        simp only [Opd.encode, BitVec.getLsbD_extractLsb', BitVec.getLsbD_append]
        interval_cases i <;> simp
    have h4 : (Opd.p n inv).encode.getLsbD 18 = inv := by
      simp only [Opd.encode, BitVec.getLsbD_append]
      cases inv <;> simp [bitOf]
    simp only [Opd.decode, h1, h2, h3, h4, if_true]
    rfl
  | k n neg abs =>
    have h1 : ((Opd.k n neg abs).encode.extractLsb' 19 3) = 2 := by
      exact bits_eq fun i hi => by
        simp only [Opd.encode, BitVec.getLsbD_extractLsb', BitVec.getLsbD_append]
        interval_cases i <;> simp
    have h2 : ((Opd.k n neg abs).encode.extractLsb' 6 11) = 0 := by
      exact bits_eq fun i hi => by
        simp only [Opd.encode, BitVec.getLsbD_extractLsb', BitVec.getLsbD_append]
        interval_cases i <;> simp
    have h3 : ((Opd.k n neg abs).encode.extractLsb' 0 6) = n := by
      exact bits_eq fun i hi => by
        simp only [Opd.encode, BitVec.getLsbD_extractLsb', BitVec.getLsbD_append]
        interval_cases i <;> simp
    have h4 : (Opd.k n neg abs).encode.getLsbD 18 = neg := by
      simp only [Opd.encode, BitVec.getLsbD_append]
      cases neg <;> simp [bitOf]
    have h5 : (Opd.k n neg abs).encode.getLsbD 17 = abs := by
      simp only [Opd.encode, BitVec.getLsbD_append]
      cases abs <;> simp [bitOf]
    simp only [Opd.decode, h1, h2, h3, h4, h5, if_true]
    rfl
  | sr n =>
    have h1 : ((Opd.sr n).encode.extractLsb' 19 3) = 3 := by
      exact bits_eq fun i hi => by
        simp only [Opd.encode, BitVec.getLsbD_extractLsb', BitVec.getLsbD_append]
        interval_cases i <;> simp
    have h2 : ((Opd.sr n).encode.extractLsb' 8 11) = 0 := by
      exact bits_eq fun i hi => by
        simp only [Opd.encode, BitVec.getLsbD_extractLsb', BitVec.getLsbD_append]
        interval_cases i <;> simp
    have h3 : ((Opd.sr n).encode.extractLsb' 0 8) = n := by
      exact bits_eq fun i hi => by
        simp only [Opd.encode, BitVec.getLsbD_extractLsb', BitVec.getLsbD_append]
        interval_cases i <;> simp
    simp only [Opd.decode, h1, h2, h3, if_true]
    rfl
  | imm x =>
    have h1 : ((Opd.imm x).encode.extractLsb' 19 3) = 4 := by
      exact bits_eq fun i hi => by
        simp only [Opd.encode, BitVec.getLsbD_extractLsb', BitVec.getLsbD_append]
        interval_cases i <;> simp
    have h3 : ((Opd.imm x).encode.extractLsb' 0 19) = x := by
      exact bits_eq fun i hi => by
        simp only [Opd.encode, BitVec.getLsbD_extractLsb', BitVec.getLsbD_append]
        interval_cases i <;> simp
    simp only [Opd.decode, h1, h3, if_true]
    rfl
  | role n =>
    have h1 : ((Opd.role n).encode.extractLsb' 19 3) = 5 := by
      exact bits_eq fun i hi => by
        simp only [Opd.encode, BitVec.getLsbD_extractLsb', BitVec.getLsbD_append]
        interval_cases i <;> simp
    have h2 : ((Opd.role n).encode.extractLsb' 8 11) = 0 := by
      exact bits_eq fun i hi => by
        simp only [Opd.encode, BitVec.getLsbD_extractLsb', BitVec.getLsbD_append]
        interval_cases i <;> simp
    have h3 : ((Opd.role n).encode.extractLsb' 0 8) = n := by
      exact bits_eq fun i hi => by
        simp only [Opd.encode, BitVec.getLsbD_extractLsb', BitVec.getLsbD_append]
        interval_cases i <;> simp
    simp only [Opd.decode, h1, h2, h3, if_true]
    rfl
  | res kd n =>
    have h1 : ((Opd.res kd n).encode.extractLsb' 19 3) = 6 := by
      exact bits_eq fun i hi => by
        simp only [Opd.encode, BitVec.getLsbD_extractLsb', BitVec.getLsbD_append]
        interval_cases i <;> simp
    have h2 : ((Opd.res kd n).encode.extractLsb' 16 3) = 0 := by
      exact bits_eq fun i hi => by
        simp only [Opd.encode, BitVec.getLsbD_extractLsb', BitVec.getLsbD_append]
        interval_cases i <;> simp
    have h3 : ((Opd.res kd n).encode.extractLsb' 0 12) = n := by
      exact bits_eq fun i hi => by
        simp only [Opd.encode, BitVec.getLsbD_extractLsb', BitVec.getLsbD_append]
        interval_cases i <;> simp
    have h4 : ((Opd.res kd n).encode.extractLsb' 12 4) = kd.code := by
      exact bits_eq fun i hi => by
        simp only [Opd.encode, BitVec.getLsbD_extractLsb', BitVec.getLsbD_append]
        interval_cases i <;> simp
    have h5 : n.toNat < kd.limit := by simpa [Opd.inRange] using h
    simp only [Opd.decode, h1, h2, h3, h4, ResKind.ofCode_code, if_true]
    exact if_pos h5
  | none => rfl

/-- An accepted operand is in range. -/
theorem OpKind.inRange_of_accepts (cx : DecodeCtx) (kd : OpKind) (o : Opd) (h : kd.accepts cx o = true) : o.inRange = true := by
  cases o with
  | res k n =>
    simp only [Opd.inRange, decide_eq_true_eq]
    cases kd <;> simp only [OpKind.accepts, Bool.false_eq_true, Bool.and_eq_true, decide_eq_true_eq] at h
    · have h2 := h.2
      simp only [DecodeCtx.resOk, BitVec.ofNat_toNat, BitVec.setWidth_eq, ResKind.ofCode_code, Bool.and_eq_true,
        decide_eq_true_eq] at h2
      exact h2.1.2
    · obtain ⟨rfl, h2⟩ := h
      simp only [DecodeCtx.resOk, Bool.and_eq_true, decide_eq_true_eq] at h2
      have : ResKind.ofCode (BitVec.ofNat 4 7) = some .dc := rfl
      simp only [this, Bool.and_eq_true, decide_eq_true_eq] at h2
      exact h2.1.2
  | _ => rfl

/-- Operands of a normal word read back. -/
theorem Wd.decode_encode (w : Wd) (ha : w.a.inRange = true) (hb : w.b.inRange = true) (hc : w.c.inRange = true) :
    Wd.decode w.ctl.encode w.a.encode w.b.encode w.c.encode = some w := by
  simp [Wd.decode, Opd.decode_encode, ha, hb, hc, Ctl.decode_encode]

/-- Operands of a wide word read back. -/
theorem WideWd.decode_encode (w : WideWd) (ha : w.a.inRange = true) :
    WideWd.decode w.ctl.encode w.a.encode (((0 : BitVec 12) ++ w.imm).extractLsb' 22 22) (((0 : BitVec 12) ++ w.imm).extractLsb' 0 22)
      = some w := by
  have h : (((0 : BitVec 12) ++ w.imm).extractLsb' 22 22 ++ ((0 : BitVec 12) ++ w.imm).extractLsb' 0 22) = (0 : BitVec 12) ++ w.imm := by
    refine bits_eq fun i hi => ?_
    simp only [BitVec.getLsbD_append, BitVec.getLsbD_extractLsb']
    interval_cases i <;> simp
  have h1 : (((0 : BitVec 12) ++ w.imm).extractLsb' 32 12) = 0 := by
    refine bits_eq fun i hi => ?_
    simp only [BitVec.getLsbD_append, BitVec.getLsbD_extractLsb']
    interval_cases i <;> simp
  have h2 : (((0 : BitVec 12) ++ w.imm).extractLsb' 0 32) = w.imm := by
    refine bits_eq fun i hi => ?_
    simp only [BitVec.getLsbD_append, BitVec.getLsbD_extractLsb']
    interval_cases i <;> simp
  simp only [WideWd.decode, Opd.decode_encode _ ha, Ctl.decode_encode, h, h1, h2, if_true]

end Sys2Proof
end

