-- ==== Sys2Proof/Laws/Memory.lean ====
section
/-! SUPPORT. The laws of memory: every operation keeps the canonical form, a read after a write, and what a write leaves alone. -/

namespace Sys2Proof.Machine

/-- The canonical form, entry by entry: no default bytes, addresses rising. -/
theorem wf_cons (a : Nat) (b : Byte) (r : Memory) :
    Memory.wf ((a, b) :: r) = true ↔ b ≠ memDefault ∧ (∀ e ∈ r, a < e.1) ∧ Memory.wf r = true := by
  induction r generalizing a b with
  | nil => simp [Memory.wf]
  | cons e r ih =>
    obtain ⟨c, d⟩ := e
    rw [Memory.wf, Bool.and_eq_true, Bool.and_eq_true, ih c d]
    simp only [bne_iff_ne, decide_eq_true_eq, List.mem_cons, forall_eq_or_imp, and_assoc]
    constructor
    · rintro ⟨h, hac, hd, hr, hw⟩
      exact ⟨h, hac, fun e he => lt_trans hac (hr e he), hd, hr, hw⟩
    · rintro ⟨h, hac, -, hd, hr, hw⟩
      exact ⟨h, hac, hd, hr, hw⟩

/-- Below the lowest listed address a byte reads as the default. -/
theorem memRead_below (m : Memory) (a : Nat) (h : ∀ e ∈ m, a < e.1) : memRead m a = memDefault := by
  cases m with
  | nil => rfl
  | cons e r =>
    obtain ⟨c, b⟩ := e
    have hc : a < c := h (c, b) (by simp)
    simp [memRead, hc, show c ≠ a by omega]

/-- An address in memory after a write is the one written or was there before. -/
theorem mem_memWrite (m : Memory) (a : Nat) (x : Byte) (e : Nat × Byte) (h : e ∈ memWrite m a x) : e.1 = a ∨ e ∈ m := by
  induction m with
  | nil =>
    simp only [memWrite] at h
    split at h <;> simp_all
  | cons f r ih =>
    obtain ⟨c, b⟩ := f
    simp only [memWrite] at h
    split_ifs at h
    · exact .inr h
    · rcases List.mem_cons.1 h with rfl | h
      · exact .inl rfl
      · exact .inr h
    · exact .inr (List.mem_cons_of_mem _ h)
    · rcases List.mem_cons.1 h with rfl | h
      · exact .inl rfl
      · exact .inr (List.mem_cons_of_mem _ h)
    · rcases List.mem_cons.1 h with rfl | h
      · exact .inr (by simp)
      · exact (ih h).imp id (List.mem_cons_of_mem _)

/-- A write of one byte keeps the canonical form. -/
theorem memWrite_wf (m : Memory) (a : Nat) (x : Byte) (h : m.wf = true) : (memWrite m a x).wf = true := by
  induction m with
  | nil =>
    simp only [memWrite]
    split <;> simp_all [Memory.wf]
  | cons f r ih =>
    obtain ⟨c, b⟩ := f
    obtain ⟨hb, hr, hw⟩ := (wf_cons c b r).1 h
    simp only [memWrite]
    split_ifs with h1 h2 h3 h4
    · exact h
    · refine (wf_cons a x _).2 ⟨h2, ?_, h⟩
      intro e he
      rcases List.mem_cons.1 he with rfl | he
      · exact h1
      · exact lt_trans h1 (hr e he)
    · exact hw
    · subst h3
      exact (wf_cons a x r).2 ⟨h4, hr, hw⟩
    · refine (wf_cons c b _).2 ⟨hb, ?_, ih hw⟩
      intro e he
      rcases mem_memWrite r a x e he with rfl | he
      · omega
      · exact hr e he

/-- A write of bytes keeps the canonical form. -/
theorem memWriteN_wf (m : Memory) (a : Nat) (bs : List Byte) (h : m.wf = true) : (memWriteN m a bs).wf = true := by
  induction bs generalizing m a with
  | nil => exact h
  | cons b r ih => exact ih _ _ (memWrite_wf m a b h)

/-- Leaving entries out keeps the canonical form. -/
theorem filter_wf (m : Memory) (p : Nat × Byte → Bool) (h : m.wf = true) : Memory.wf (m.filter p) = true := by
  induction m with
  | nil => rfl
  | cons f r ih =>
    obtain ⟨c, b⟩ := f
    obtain ⟨hb, hr, hw⟩ := (wf_cons c b r).1 h
    simp only [List.filter_cons]
    split
    · exact (wf_cons c b _).2 ⟨hb, fun e he => hr e (List.mem_filter.1 he).1, ih hw⟩
    · exact ih hw

/-- Clearing a range keeps the canonical form. -/
theorem memClear_wf (m : Memory) (lo n : Nat) (h : m.wf = true) : (memClear m lo n).wf = true := filter_wf m _ h

/-- A read after a write to the same place gives what was written. -/
theorem memRead_memWrite_same (m : Memory) (a : Nat) (x : Byte) (h : m.wf = true) : memRead (memWrite m a x) a = x := by
  induction m with
  | nil =>
    simp only [memWrite]
    split <;> simp_all [memRead]
  | cons f r ih =>
    obtain ⟨c, b⟩ := f
    obtain ⟨-, hr, hw⟩ := (wf_cons c b r).1 h
    simp only [memWrite]
    split_ifs with h1 h2 h3 h4
    · simp [memRead, h2, h1, show c ≠ a by omega]
    · simp [memRead]
    · subst h3
      rw [h4]
      exact memRead_below r a hr
    · simp [memRead]
    · simp [memRead, show c ≠ a by omega, h1, ih hw]

/-- A write leaves every other place alone. -/
theorem memRead_memWrite_other (m : Memory) (a k : Nat) (x : Byte) (h : m.wf = true) (hk : k ≠ a) :
    memRead (memWrite m a x) k = memRead m k := by
  induction m with
  | nil =>
    simp only [memWrite]
    split
    · rfl
    · simp [memRead, Ne.symm hk]
  | cons f r ih =>
    obtain ⟨c, b⟩ := f
    obtain ⟨-, hr, hw⟩ := (wf_cons c b r).1 h
    simp only [memWrite]
    split_ifs with h1 h2 h3 h4
    · rfl
    · by_cases hak : k < a
      · simp [memRead, Ne.symm hk, hak, show c ≠ k by omega, show k < c by omega]
      · simp [memRead, Ne.symm hk, hak]
    · subst h3
      by_cases hak : k < a
      · rw [memRead_below r k fun e he => lt_trans hak (hr e he)]
        simp [memRead, Ne.symm hk, hak]
      · simp [memRead, Ne.symm hk, hak]
    · subst h3
      simp [memRead, Ne.symm hk]
    · simp only [memRead, ih hw]

/-- A write of bytes leaves every byte outside them alone. -/
theorem memRead_memWriteN_other (m : Memory) (a k : Nat) (bs : List Byte) (h : m.wf = true) (hk : k < a ∨ a + bs.length ≤ k) :
    memRead (memWriteN m a bs) k = memRead m k := by
  induction bs generalizing m a with
  | nil => rfl
  | cons b r ih =>
    rw [memWriteN, ih _ _ (memWrite_wf m a b h), memRead_memWrite_other m a k b h]
    all_goals simp only [List.length_cons] at hk
    all_goals omega

/-- Bytes read back where they were written. -/
theorem memReadN_memWriteN (m : Memory) (a : Nat) (bs : List Byte) (h : m.wf = true) :
    memReadN (memWriteN m a bs) a bs.length = bs := by
  induction bs generalizing m a with
  | nil => rfl
  | cons b r ih =>
    have hw := memWrite_wf m a b h
    rw [List.length_cons, memReadN, memWriteN, ih _ _ hw, memRead_memWriteN_other _ _ _ _ hw (.inl (by omega)),
      memRead_memWrite_same m a b h]

end Sys2Proof.Machine
end

