-- ==== Sys2Proof/Laws/State.lean ====
section
/-! SUPPORT. What each update of one table of the world does to every field of the state: one lemma per field, true by rfl. -/

namespace Sys2Proof.Machine

/-! modPg -/

@[simp] theorem modPg_clk (s : State) (k : Nat) (f : PartGroup → PartGroup) : (modPg s k f).clk = s.clk := rfl
@[simp] theorem modPg_phase6 (s : State) (k : Nat) (f : PartGroup → PartGroup) : (modPg s k f).phase6 = s.phase6 := rfl
@[simp] theorem modPg_mgmt (s : State) (k : Nat) (f : PartGroup → PartGroup) : (modPg s k f).mgmt = s.mgmt := rfl
@[simp] theorem modPg_counts (s : State) (k : Nat) (f : PartGroup → PartGroup) : (modPg s k f).counts = s.counts := rfl
@[simp] theorem modPg_env (s : State) (k : Nat) (f : PartGroup → PartGroup) : (modPg s k f).env = s.env := rfl
@[simp] theorem modPg_sessions (s : State) (k : Nat) (f : PartGroup → PartGroup) : (modPg s k f).sessions = s.sessions := rfl
@[simp] theorem modPg_spaces (s : State) (k : Nat) (f : PartGroup → PartGroup) : (modPg s k f).spaces = s.spaces := rfl
@[simp] theorem modPg_inbox (s : State) (k : Nat) (f : PartGroup → PartGroup) : (modPg s k f).inbox = s.inbox := rfl
@[simp] theorem modPg_outbox (s : State) (k : Nat) (f : PartGroup → PartGroup) : (modPg s k f).outbox = s.outbox := rfl
@[simp] theorem modPg_signals (s : State) (k : Nat) (f : PartGroup → PartGroup) : (modPg s k f).signals = s.signals := rfl
@[simp] theorem modPg_rb (s : State) (k : Nat) (f : PartGroup → PartGroup) : (modPg s k f).rb = s.rb := rfl
@[simp] theorem modPg_ckpts (s : State) (k : Nat) (f : PartGroup → PartGroup) : (modPg s k f).ckpts = s.ckpts := rfl
@[simp] theorem modPg_ckptAt (s : State) (k : Nat) (f : PartGroup → PartGroup) : (modPg s k f).ckptAt = s.ckptAt := rfl
@[simp] theorem modPg_ckptForced (s : State) (k : Nat) (f : PartGroup → PartGroup) : (modPg s k f).ckptForced = s.ckptForced := rfl
@[simp] theorem modPg_interval (s : State) (k : Nat) (f : PartGroup → PartGroup) : (modPg s k f).interval = s.interval := rfl
@[simp] theorem modPg_log (s : State) (k : Nat) (f : PartGroup → PartGroup) : (modPg s k f).log = s.log := rfl
@[simp] theorem modPg_logLost (s : State) (k : Nat) (f : PartGroup → PartGroup) : (modPg s k f).logLost = s.logLost := rfl
@[simp] theorem modPg_logOff (s : State) (k : Nat) (f : PartGroup → PartGroup) : (modPg s k f).logOff = s.logOff := rfl
@[simp] theorem modPg_logData (s : State) (k : Nat) (f : PartGroup → PartGroup) : (modPg s k f).logData = s.logData := rfl
@[simp] theorem modPg_replay (s : State) (k : Nat) (f : PartGroup → PartGroup) : (modPg s k f).replay = s.replay := rfl
@[simp] theorem modPg_images (s : State) (k : Nat) (f : PartGroup → PartGroup) : (modPg s k f).images = s.images := rfl
@[simp] theorem modPg_nextSerial (s : State) (k : Nat) (f : PartGroup → PartGroup) : (modPg s k f).nextSerial = s.nextSerial := rfl
@[simp] theorem modPg_nextSession (s : State) (k : Nat) (f : PartGroup → PartGroup) : (modPg s k f).nextSession = s.nextSession := rfl
@[simp] theorem modPg_ckptStop (s : State) (k : Nat) (f : PartGroup → PartGroup) : (modPg s k f).ckptStop = s.ckptStop := rfl
@[simp] theorem modPg_dirty (s : State) (k : Nat) (f : PartGroup → PartGroup) : (modPg s k f).dirty = s.dirty := rfl
@[simp] theorem modPg_trial (s : State) (k : Nat) (f : PartGroup → PartGroup) : (modPg s k f).trial = s.trial := rfl
@[simp] theorem modPg_peerOut (s : State) (k : Nat) (f : PartGroup → PartGroup) : (modPg s k f).peerOut = s.peerOut := rfl
@[simp] theorem modPg_agenda (s : State) (k : Nat) (f : PartGroup → PartGroup) : (modPg s k f).agenda = s.agenda := rfl
@[simp] theorem modPg_cur (s : State) (k : Nat) (f : PartGroup → PartGroup) : (modPg s k f).cur = s.cur := rfl
@[simp] theorem modPg_rx (s : State) (k : Nat) (f : PartGroup → PartGroup) : (modPg s k f).rx = s.rx := rfl
@[simp] theorem modPg_fresh (s : State) (k : Nat) (f : PartGroup → PartGroup) : (modPg s k f).fresh = s.fresh := rfl
@[simp] theorem modPg_w_mem (s : State) (k : Nat) (f : PartGroup → PartGroup) : (modPg s k f).w.mem = s.w.mem := rfl
@[simp] theorem modPg_w_window (s : State) (k : Nat) (f : PartGroup → PartGroup) : (modPg s k f).w.window = s.w.window := rfl
@[simp] theorem modPg_w_launches (s : State) (k : Nat) (f : PartGroup → PartGroup) : (modPg s k f).w.launches = s.w.launches := rfl
@[simp] theorem modPg_w_cgs (s : State) (k : Nat) (f : PartGroup → PartGroup) : (modPg s k f).w.cgs = s.w.cgs := rfl
@[simp] theorem modPg_w_pgs (s : State) (k : Nat) (f : PartGroup → PartGroup) : (modPg s k f).w.pgs = tupd s.w.pgs k PartGroup.none f := rfl
@[simp] theorem modPg_w_parts (s : State) (k : Nat) (f : PartGroup → PartGroup) : (modPg s k f).w.parts = s.w.parts := rfl
@[simp] theorem modPg_w_cores (s : State) (k : Nat) (f : PartGroup → PartGroup) : (modPg s k f).w.cores = s.w.cores := rfl
@[simp] theorem modPg_w_dies (s : State) (k : Nat) (f : PartGroup → PartGroup) : (modPg s k f).w.dies = s.w.dies := rfl
@[simp] theorem modPg_w_pends (s : State) (k : Nat) (f : PartGroup → PartGroup) : (modPg s k f).w.pends = s.w.pends := rfl
@[simp] theorem modPg_w_accs (s : State) (k : Nat) (f : PartGroup → PartGroup) : (modPg s k f).w.accs = s.w.accs := rfl
@[simp] theorem modPg_w_ops (s : State) (k : Nat) (f : PartGroup → PartGroup) : (modPg s k f).w.ops = s.w.ops := rfl
@[simp] theorem modPg_w_travs (s : State) (k : Nat) (f : PartGroup → PartGroup) : (modPg s k f).w.travs = s.w.travs := rfl
@[simp] theorem modPg_w_jobs (s : State) (k : Nat) (f : PartGroup → PartGroup) : (modPg s k f).w.jobs = s.w.jobs := rfl
@[simp] theorem modPg_w_submits (s : State) (k : Nat) (f : PartGroup → PartGroup) : (modPg s k f).w.submits = s.w.submits := rfl
@[simp] theorem modPg_w_deferred (s : State) (k : Nat) (f : PartGroup → PartGroup) : (modPg s k f).w.deferred = s.w.deferred := rfl
@[simp] theorem modPg_w_claims (s : State) (k : Nat) (f : PartGroup → PartGroup) : (modPg s k f).w.claims = s.w.claims := rfl
@[simp] theorem modPg_w_lineClocks (s : State) (k : Nat) (f : PartGroup → PartGroup) : (modPg s k f).w.lineClocks = s.w.lineClocks := rfl
@[simp] theorem modPg_w_nextId (s : State) (k : Nat) (f : PartGroup → PartGroup) : (modPg s k f).w.nextId = s.w.nextId := rfl

/-! modCg -/

@[simp] theorem modCg_clk (s : State) (k : Nat) (f : CoreGroup → CoreGroup) : (modCg s k f).clk = s.clk := rfl
@[simp] theorem modCg_phase6 (s : State) (k : Nat) (f : CoreGroup → CoreGroup) : (modCg s k f).phase6 = s.phase6 := rfl
@[simp] theorem modCg_mgmt (s : State) (k : Nat) (f : CoreGroup → CoreGroup) : (modCg s k f).mgmt = s.mgmt := rfl
@[simp] theorem modCg_counts (s : State) (k : Nat) (f : CoreGroup → CoreGroup) : (modCg s k f).counts = s.counts := rfl
@[simp] theorem modCg_env (s : State) (k : Nat) (f : CoreGroup → CoreGroup) : (modCg s k f).env = s.env := rfl
@[simp] theorem modCg_sessions (s : State) (k : Nat) (f : CoreGroup → CoreGroup) : (modCg s k f).sessions = s.sessions := rfl
@[simp] theorem modCg_spaces (s : State) (k : Nat) (f : CoreGroup → CoreGroup) : (modCg s k f).spaces = s.spaces := rfl
@[simp] theorem modCg_inbox (s : State) (k : Nat) (f : CoreGroup → CoreGroup) : (modCg s k f).inbox = s.inbox := rfl
@[simp] theorem modCg_outbox (s : State) (k : Nat) (f : CoreGroup → CoreGroup) : (modCg s k f).outbox = s.outbox := rfl
@[simp] theorem modCg_signals (s : State) (k : Nat) (f : CoreGroup → CoreGroup) : (modCg s k f).signals = s.signals := rfl
@[simp] theorem modCg_rb (s : State) (k : Nat) (f : CoreGroup → CoreGroup) : (modCg s k f).rb = s.rb := rfl
@[simp] theorem modCg_ckpts (s : State) (k : Nat) (f : CoreGroup → CoreGroup) : (modCg s k f).ckpts = s.ckpts := rfl
@[simp] theorem modCg_ckptAt (s : State) (k : Nat) (f : CoreGroup → CoreGroup) : (modCg s k f).ckptAt = s.ckptAt := rfl
@[simp] theorem modCg_ckptForced (s : State) (k : Nat) (f : CoreGroup → CoreGroup) : (modCg s k f).ckptForced = s.ckptForced := rfl
@[simp] theorem modCg_interval (s : State) (k : Nat) (f : CoreGroup → CoreGroup) : (modCg s k f).interval = s.interval := rfl
@[simp] theorem modCg_log (s : State) (k : Nat) (f : CoreGroup → CoreGroup) : (modCg s k f).log = s.log := rfl
@[simp] theorem modCg_logLost (s : State) (k : Nat) (f : CoreGroup → CoreGroup) : (modCg s k f).logLost = s.logLost := rfl
@[simp] theorem modCg_logOff (s : State) (k : Nat) (f : CoreGroup → CoreGroup) : (modCg s k f).logOff = s.logOff := rfl
@[simp] theorem modCg_logData (s : State) (k : Nat) (f : CoreGroup → CoreGroup) : (modCg s k f).logData = s.logData := rfl
@[simp] theorem modCg_replay (s : State) (k : Nat) (f : CoreGroup → CoreGroup) : (modCg s k f).replay = s.replay := rfl
@[simp] theorem modCg_images (s : State) (k : Nat) (f : CoreGroup → CoreGroup) : (modCg s k f).images = s.images := rfl
@[simp] theorem modCg_nextSerial (s : State) (k : Nat) (f : CoreGroup → CoreGroup) : (modCg s k f).nextSerial = s.nextSerial := rfl
@[simp] theorem modCg_nextSession (s : State) (k : Nat) (f : CoreGroup → CoreGroup) : (modCg s k f).nextSession = s.nextSession := rfl
@[simp] theorem modCg_ckptStop (s : State) (k : Nat) (f : CoreGroup → CoreGroup) : (modCg s k f).ckptStop = s.ckptStop := rfl
@[simp] theorem modCg_dirty (s : State) (k : Nat) (f : CoreGroup → CoreGroup) : (modCg s k f).dirty = s.dirty := rfl
@[simp] theorem modCg_trial (s : State) (k : Nat) (f : CoreGroup → CoreGroup) : (modCg s k f).trial = s.trial := rfl
@[simp] theorem modCg_peerOut (s : State) (k : Nat) (f : CoreGroup → CoreGroup) : (modCg s k f).peerOut = s.peerOut := rfl
@[simp] theorem modCg_agenda (s : State) (k : Nat) (f : CoreGroup → CoreGroup) : (modCg s k f).agenda = s.agenda := rfl
@[simp] theorem modCg_cur (s : State) (k : Nat) (f : CoreGroup → CoreGroup) : (modCg s k f).cur = s.cur := rfl
@[simp] theorem modCg_rx (s : State) (k : Nat) (f : CoreGroup → CoreGroup) : (modCg s k f).rx = s.rx := rfl
@[simp] theorem modCg_fresh (s : State) (k : Nat) (f : CoreGroup → CoreGroup) : (modCg s k f).fresh = s.fresh := rfl
@[simp] theorem modCg_w_mem (s : State) (k : Nat) (f : CoreGroup → CoreGroup) : (modCg s k f).w.mem = s.w.mem := rfl
@[simp] theorem modCg_w_window (s : State) (k : Nat) (f : CoreGroup → CoreGroup) : (modCg s k f).w.window = s.w.window := rfl
@[simp] theorem modCg_w_launches (s : State) (k : Nat) (f : CoreGroup → CoreGroup) : (modCg s k f).w.launches = s.w.launches := rfl
@[simp] theorem modCg_w_cgs (s : State) (k : Nat) (f : CoreGroup → CoreGroup) : (modCg s k f).w.cgs = tupd s.w.cgs k CoreGroup.none f := rfl
@[simp] theorem modCg_w_pgs (s : State) (k : Nat) (f : CoreGroup → CoreGroup) : (modCg s k f).w.pgs = s.w.pgs := rfl
@[simp] theorem modCg_w_parts (s : State) (k : Nat) (f : CoreGroup → CoreGroup) : (modCg s k f).w.parts = s.w.parts := rfl
@[simp] theorem modCg_w_cores (s : State) (k : Nat) (f : CoreGroup → CoreGroup) : (modCg s k f).w.cores = s.w.cores := rfl
@[simp] theorem modCg_w_dies (s : State) (k : Nat) (f : CoreGroup → CoreGroup) : (modCg s k f).w.dies = s.w.dies := rfl
@[simp] theorem modCg_w_pends (s : State) (k : Nat) (f : CoreGroup → CoreGroup) : (modCg s k f).w.pends = s.w.pends := rfl
@[simp] theorem modCg_w_accs (s : State) (k : Nat) (f : CoreGroup → CoreGroup) : (modCg s k f).w.accs = s.w.accs := rfl
@[simp] theorem modCg_w_ops (s : State) (k : Nat) (f : CoreGroup → CoreGroup) : (modCg s k f).w.ops = s.w.ops := rfl
@[simp] theorem modCg_w_travs (s : State) (k : Nat) (f : CoreGroup → CoreGroup) : (modCg s k f).w.travs = s.w.travs := rfl
@[simp] theorem modCg_w_jobs (s : State) (k : Nat) (f : CoreGroup → CoreGroup) : (modCg s k f).w.jobs = s.w.jobs := rfl
@[simp] theorem modCg_w_submits (s : State) (k : Nat) (f : CoreGroup → CoreGroup) : (modCg s k f).w.submits = s.w.submits := rfl
@[simp] theorem modCg_w_deferred (s : State) (k : Nat) (f : CoreGroup → CoreGroup) : (modCg s k f).w.deferred = s.w.deferred := rfl
@[simp] theorem modCg_w_claims (s : State) (k : Nat) (f : CoreGroup → CoreGroup) : (modCg s k f).w.claims = s.w.claims := rfl
@[simp] theorem modCg_w_lineClocks (s : State) (k : Nat) (f : CoreGroup → CoreGroup) : (modCg s k f).w.lineClocks = s.w.lineClocks := rfl
@[simp] theorem modCg_w_nextId (s : State) (k : Nat) (f : CoreGroup → CoreGroup) : (modCg s k f).w.nextId = s.w.nextId := rfl

/-! modPart -/

@[simp] theorem modPart_clk (s : State) (k : Nat) (f : Partition → Partition) : (modPart s k f).clk = s.clk := rfl
@[simp] theorem modPart_phase6 (s : State) (k : Nat) (f : Partition → Partition) : (modPart s k f).phase6 = s.phase6 := rfl
@[simp] theorem modPart_mgmt (s : State) (k : Nat) (f : Partition → Partition) : (modPart s k f).mgmt = s.mgmt := rfl
@[simp] theorem modPart_counts (s : State) (k : Nat) (f : Partition → Partition) : (modPart s k f).counts = s.counts := rfl
@[simp] theorem modPart_env (s : State) (k : Nat) (f : Partition → Partition) : (modPart s k f).env = s.env := rfl
@[simp] theorem modPart_sessions (s : State) (k : Nat) (f : Partition → Partition) : (modPart s k f).sessions = s.sessions := rfl
@[simp] theorem modPart_spaces (s : State) (k : Nat) (f : Partition → Partition) : (modPart s k f).spaces = s.spaces := rfl
@[simp] theorem modPart_inbox (s : State) (k : Nat) (f : Partition → Partition) : (modPart s k f).inbox = s.inbox := rfl
@[simp] theorem modPart_outbox (s : State) (k : Nat) (f : Partition → Partition) : (modPart s k f).outbox = s.outbox := rfl
@[simp] theorem modPart_signals (s : State) (k : Nat) (f : Partition → Partition) : (modPart s k f).signals = s.signals := rfl
@[simp] theorem modPart_rb (s : State) (k : Nat) (f : Partition → Partition) : (modPart s k f).rb = s.rb := rfl
@[simp] theorem modPart_ckpts (s : State) (k : Nat) (f : Partition → Partition) : (modPart s k f).ckpts = s.ckpts := rfl
@[simp] theorem modPart_ckptAt (s : State) (k : Nat) (f : Partition → Partition) : (modPart s k f).ckptAt = s.ckptAt := rfl
@[simp] theorem modPart_ckptForced (s : State) (k : Nat) (f : Partition → Partition) : (modPart s k f).ckptForced = s.ckptForced := rfl
@[simp] theorem modPart_interval (s : State) (k : Nat) (f : Partition → Partition) : (modPart s k f).interval = s.interval := rfl
@[simp] theorem modPart_log (s : State) (k : Nat) (f : Partition → Partition) : (modPart s k f).log = s.log := rfl
@[simp] theorem modPart_logLost (s : State) (k : Nat) (f : Partition → Partition) : (modPart s k f).logLost = s.logLost := rfl
@[simp] theorem modPart_logOff (s : State) (k : Nat) (f : Partition → Partition) : (modPart s k f).logOff = s.logOff := rfl
@[simp] theorem modPart_logData (s : State) (k : Nat) (f : Partition → Partition) : (modPart s k f).logData = s.logData := rfl
@[simp] theorem modPart_replay (s : State) (k : Nat) (f : Partition → Partition) : (modPart s k f).replay = s.replay := rfl
@[simp] theorem modPart_images (s : State) (k : Nat) (f : Partition → Partition) : (modPart s k f).images = s.images := rfl
@[simp] theorem modPart_nextSerial (s : State) (k : Nat) (f : Partition → Partition) : (modPart s k f).nextSerial = s.nextSerial := rfl
@[simp] theorem modPart_nextSession (s : State) (k : Nat) (f : Partition → Partition) : (modPart s k f).nextSession = s.nextSession := rfl
@[simp] theorem modPart_ckptStop (s : State) (k : Nat) (f : Partition → Partition) : (modPart s k f).ckptStop = s.ckptStop := rfl
@[simp] theorem modPart_dirty (s : State) (k : Nat) (f : Partition → Partition) : (modPart s k f).dirty = s.dirty := rfl
@[simp] theorem modPart_trial (s : State) (k : Nat) (f : Partition → Partition) : (modPart s k f).trial = s.trial := rfl
@[simp] theorem modPart_peerOut (s : State) (k : Nat) (f : Partition → Partition) : (modPart s k f).peerOut = s.peerOut := rfl
@[simp] theorem modPart_agenda (s : State) (k : Nat) (f : Partition → Partition) : (modPart s k f).agenda = s.agenda := rfl
@[simp] theorem modPart_cur (s : State) (k : Nat) (f : Partition → Partition) : (modPart s k f).cur = s.cur := rfl
@[simp] theorem modPart_rx (s : State) (k : Nat) (f : Partition → Partition) : (modPart s k f).rx = s.rx := rfl
@[simp] theorem modPart_fresh (s : State) (k : Nat) (f : Partition → Partition) : (modPart s k f).fresh = s.fresh := rfl
@[simp] theorem modPart_w_mem (s : State) (k : Nat) (f : Partition → Partition) : (modPart s k f).w.mem = s.w.mem := rfl
@[simp] theorem modPart_w_window (s : State) (k : Nat) (f : Partition → Partition) : (modPart s k f).w.window = s.w.window := rfl
@[simp] theorem modPart_w_launches (s : State) (k : Nat) (f : Partition → Partition) : (modPart s k f).w.launches = s.w.launches := rfl
@[simp] theorem modPart_w_cgs (s : State) (k : Nat) (f : Partition → Partition) : (modPart s k f).w.cgs = s.w.cgs := rfl
@[simp] theorem modPart_w_pgs (s : State) (k : Nat) (f : Partition → Partition) : (modPart s k f).w.pgs = s.w.pgs := rfl
@[simp] theorem modPart_w_parts (s : State) (k : Nat) (f : Partition → Partition) : (modPart s k f).w.parts = tupd s.w.parts k Partition.init f := rfl
@[simp] theorem modPart_w_cores (s : State) (k : Nat) (f : Partition → Partition) : (modPart s k f).w.cores = s.w.cores := rfl
@[simp] theorem modPart_w_dies (s : State) (k : Nat) (f : Partition → Partition) : (modPart s k f).w.dies = s.w.dies := rfl
@[simp] theorem modPart_w_pends (s : State) (k : Nat) (f : Partition → Partition) : (modPart s k f).w.pends = s.w.pends := rfl
@[simp] theorem modPart_w_accs (s : State) (k : Nat) (f : Partition → Partition) : (modPart s k f).w.accs = s.w.accs := rfl
@[simp] theorem modPart_w_ops (s : State) (k : Nat) (f : Partition → Partition) : (modPart s k f).w.ops = s.w.ops := rfl
@[simp] theorem modPart_w_travs (s : State) (k : Nat) (f : Partition → Partition) : (modPart s k f).w.travs = s.w.travs := rfl
@[simp] theorem modPart_w_jobs (s : State) (k : Nat) (f : Partition → Partition) : (modPart s k f).w.jobs = s.w.jobs := rfl
@[simp] theorem modPart_w_submits (s : State) (k : Nat) (f : Partition → Partition) : (modPart s k f).w.submits = s.w.submits := rfl
@[simp] theorem modPart_w_deferred (s : State) (k : Nat) (f : Partition → Partition) : (modPart s k f).w.deferred = s.w.deferred := rfl
@[simp] theorem modPart_w_claims (s : State) (k : Nat) (f : Partition → Partition) : (modPart s k f).w.claims = s.w.claims := rfl
@[simp] theorem modPart_w_lineClocks (s : State) (k : Nat) (f : Partition → Partition) : (modPart s k f).w.lineClocks = s.w.lineClocks := rfl
@[simp] theorem modPart_w_nextId (s : State) (k : Nat) (f : Partition → Partition) : (modPart s k f).w.nextId = s.w.nextId := rfl

/-! modCore -/

@[simp] theorem modCore_clk (s : State) (k : Nat) (f : Core → Core) : (modCore s k f).clk = s.clk := rfl
@[simp] theorem modCore_phase6 (s : State) (k : Nat) (f : Core → Core) : (modCore s k f).phase6 = s.phase6 := rfl
@[simp] theorem modCore_mgmt (s : State) (k : Nat) (f : Core → Core) : (modCore s k f).mgmt = s.mgmt := rfl
@[simp] theorem modCore_counts (s : State) (k : Nat) (f : Core → Core) : (modCore s k f).counts = s.counts := rfl
@[simp] theorem modCore_env (s : State) (k : Nat) (f : Core → Core) : (modCore s k f).env = s.env := rfl
@[simp] theorem modCore_sessions (s : State) (k : Nat) (f : Core → Core) : (modCore s k f).sessions = s.sessions := rfl
@[simp] theorem modCore_spaces (s : State) (k : Nat) (f : Core → Core) : (modCore s k f).spaces = s.spaces := rfl
@[simp] theorem modCore_inbox (s : State) (k : Nat) (f : Core → Core) : (modCore s k f).inbox = s.inbox := rfl
@[simp] theorem modCore_outbox (s : State) (k : Nat) (f : Core → Core) : (modCore s k f).outbox = s.outbox := rfl
@[simp] theorem modCore_signals (s : State) (k : Nat) (f : Core → Core) : (modCore s k f).signals = s.signals := rfl
@[simp] theorem modCore_rb (s : State) (k : Nat) (f : Core → Core) : (modCore s k f).rb = s.rb := rfl
@[simp] theorem modCore_ckpts (s : State) (k : Nat) (f : Core → Core) : (modCore s k f).ckpts = s.ckpts := rfl
@[simp] theorem modCore_ckptAt (s : State) (k : Nat) (f : Core → Core) : (modCore s k f).ckptAt = s.ckptAt := rfl
@[simp] theorem modCore_ckptForced (s : State) (k : Nat) (f : Core → Core) : (modCore s k f).ckptForced = s.ckptForced := rfl
@[simp] theorem modCore_interval (s : State) (k : Nat) (f : Core → Core) : (modCore s k f).interval = s.interval := rfl
@[simp] theorem modCore_log (s : State) (k : Nat) (f : Core → Core) : (modCore s k f).log = s.log := rfl
@[simp] theorem modCore_logLost (s : State) (k : Nat) (f : Core → Core) : (modCore s k f).logLost = s.logLost := rfl
@[simp] theorem modCore_logOff (s : State) (k : Nat) (f : Core → Core) : (modCore s k f).logOff = s.logOff := rfl
@[simp] theorem modCore_logData (s : State) (k : Nat) (f : Core → Core) : (modCore s k f).logData = s.logData := rfl
@[simp] theorem modCore_replay (s : State) (k : Nat) (f : Core → Core) : (modCore s k f).replay = s.replay := rfl
@[simp] theorem modCore_images (s : State) (k : Nat) (f : Core → Core) : (modCore s k f).images = s.images := rfl
@[simp] theorem modCore_nextSerial (s : State) (k : Nat) (f : Core → Core) : (modCore s k f).nextSerial = s.nextSerial := rfl
@[simp] theorem modCore_nextSession (s : State) (k : Nat) (f : Core → Core) : (modCore s k f).nextSession = s.nextSession := rfl
@[simp] theorem modCore_ckptStop (s : State) (k : Nat) (f : Core → Core) : (modCore s k f).ckptStop = s.ckptStop := rfl
@[simp] theorem modCore_dirty (s : State) (k : Nat) (f : Core → Core) : (modCore s k f).dirty = s.dirty := rfl
@[simp] theorem modCore_trial (s : State) (k : Nat) (f : Core → Core) : (modCore s k f).trial = s.trial := rfl
@[simp] theorem modCore_peerOut (s : State) (k : Nat) (f : Core → Core) : (modCore s k f).peerOut = s.peerOut := rfl
@[simp] theorem modCore_agenda (s : State) (k : Nat) (f : Core → Core) : (modCore s k f).agenda = s.agenda := rfl
@[simp] theorem modCore_cur (s : State) (k : Nat) (f : Core → Core) : (modCore s k f).cur = s.cur := rfl
@[simp] theorem modCore_rx (s : State) (k : Nat) (f : Core → Core) : (modCore s k f).rx = s.rx := rfl
@[simp] theorem modCore_fresh (s : State) (k : Nat) (f : Core → Core) : (modCore s k f).fresh = s.fresh := rfl
@[simp] theorem modCore_w_mem (s : State) (k : Nat) (f : Core → Core) : (modCore s k f).w.mem = s.w.mem := rfl
@[simp] theorem modCore_w_window (s : State) (k : Nat) (f : Core → Core) : (modCore s k f).w.window = s.w.window := rfl
@[simp] theorem modCore_w_launches (s : State) (k : Nat) (f : Core → Core) : (modCore s k f).w.launches = s.w.launches := rfl
@[simp] theorem modCore_w_cgs (s : State) (k : Nat) (f : Core → Core) : (modCore s k f).w.cgs = s.w.cgs := rfl
@[simp] theorem modCore_w_pgs (s : State) (k : Nat) (f : Core → Core) : (modCore s k f).w.pgs = s.w.pgs := rfl
@[simp] theorem modCore_w_parts (s : State) (k : Nat) (f : Core → Core) : (modCore s k f).w.parts = s.w.parts := rfl
@[simp] theorem modCore_w_cores (s : State) (k : Nat) (f : Core → Core) : (modCore s k f).w.cores = tupd s.w.cores k Core.init f := rfl
@[simp] theorem modCore_w_dies (s : State) (k : Nat) (f : Core → Core) : (modCore s k f).w.dies = s.w.dies := rfl
@[simp] theorem modCore_w_pends (s : State) (k : Nat) (f : Core → Core) : (modCore s k f).w.pends = s.w.pends := rfl
@[simp] theorem modCore_w_accs (s : State) (k : Nat) (f : Core → Core) : (modCore s k f).w.accs = s.w.accs := rfl
@[simp] theorem modCore_w_ops (s : State) (k : Nat) (f : Core → Core) : (modCore s k f).w.ops = s.w.ops := rfl
@[simp] theorem modCore_w_travs (s : State) (k : Nat) (f : Core → Core) : (modCore s k f).w.travs = s.w.travs := rfl
@[simp] theorem modCore_w_jobs (s : State) (k : Nat) (f : Core → Core) : (modCore s k f).w.jobs = s.w.jobs := rfl
@[simp] theorem modCore_w_submits (s : State) (k : Nat) (f : Core → Core) : (modCore s k f).w.submits = s.w.submits := rfl
@[simp] theorem modCore_w_deferred (s : State) (k : Nat) (f : Core → Core) : (modCore s k f).w.deferred = s.w.deferred := rfl
@[simp] theorem modCore_w_claims (s : State) (k : Nat) (f : Core → Core) : (modCore s k f).w.claims = s.w.claims := rfl
@[simp] theorem modCore_w_lineClocks (s : State) (k : Nat) (f : Core → Core) : (modCore s k f).w.lineClocks = s.w.lineClocks := rfl
@[simp] theorem modCore_w_nextId (s : State) (k : Nat) (f : Core → Core) : (modCore s k f).w.nextId = s.w.nextId := rfl

/-! modDie -/

@[simp] theorem modDie_clk (s : State) (k : Nat) (f : Die → Die) : (modDie s k f).clk = s.clk := rfl
@[simp] theorem modDie_phase6 (s : State) (k : Nat) (f : Die → Die) : (modDie s k f).phase6 = s.phase6 := rfl
@[simp] theorem modDie_mgmt (s : State) (k : Nat) (f : Die → Die) : (modDie s k f).mgmt = s.mgmt := rfl
@[simp] theorem modDie_counts (s : State) (k : Nat) (f : Die → Die) : (modDie s k f).counts = s.counts := rfl
@[simp] theorem modDie_env (s : State) (k : Nat) (f : Die → Die) : (modDie s k f).env = s.env := rfl
@[simp] theorem modDie_sessions (s : State) (k : Nat) (f : Die → Die) : (modDie s k f).sessions = s.sessions := rfl
@[simp] theorem modDie_spaces (s : State) (k : Nat) (f : Die → Die) : (modDie s k f).spaces = s.spaces := rfl
@[simp] theorem modDie_inbox (s : State) (k : Nat) (f : Die → Die) : (modDie s k f).inbox = s.inbox := rfl
@[simp] theorem modDie_outbox (s : State) (k : Nat) (f : Die → Die) : (modDie s k f).outbox = s.outbox := rfl
@[simp] theorem modDie_signals (s : State) (k : Nat) (f : Die → Die) : (modDie s k f).signals = s.signals := rfl
@[simp] theorem modDie_rb (s : State) (k : Nat) (f : Die → Die) : (modDie s k f).rb = s.rb := rfl
@[simp] theorem modDie_ckpts (s : State) (k : Nat) (f : Die → Die) : (modDie s k f).ckpts = s.ckpts := rfl
@[simp] theorem modDie_ckptAt (s : State) (k : Nat) (f : Die → Die) : (modDie s k f).ckptAt = s.ckptAt := rfl
@[simp] theorem modDie_ckptForced (s : State) (k : Nat) (f : Die → Die) : (modDie s k f).ckptForced = s.ckptForced := rfl
@[simp] theorem modDie_interval (s : State) (k : Nat) (f : Die → Die) : (modDie s k f).interval = s.interval := rfl
@[simp] theorem modDie_log (s : State) (k : Nat) (f : Die → Die) : (modDie s k f).log = s.log := rfl
@[simp] theorem modDie_logLost (s : State) (k : Nat) (f : Die → Die) : (modDie s k f).logLost = s.logLost := rfl
@[simp] theorem modDie_logOff (s : State) (k : Nat) (f : Die → Die) : (modDie s k f).logOff = s.logOff := rfl
@[simp] theorem modDie_logData (s : State) (k : Nat) (f : Die → Die) : (modDie s k f).logData = s.logData := rfl
@[simp] theorem modDie_replay (s : State) (k : Nat) (f : Die → Die) : (modDie s k f).replay = s.replay := rfl
@[simp] theorem modDie_images (s : State) (k : Nat) (f : Die → Die) : (modDie s k f).images = s.images := rfl
@[simp] theorem modDie_nextSerial (s : State) (k : Nat) (f : Die → Die) : (modDie s k f).nextSerial = s.nextSerial := rfl
@[simp] theorem modDie_nextSession (s : State) (k : Nat) (f : Die → Die) : (modDie s k f).nextSession = s.nextSession := rfl
@[simp] theorem modDie_ckptStop (s : State) (k : Nat) (f : Die → Die) : (modDie s k f).ckptStop = s.ckptStop := rfl
@[simp] theorem modDie_dirty (s : State) (k : Nat) (f : Die → Die) : (modDie s k f).dirty = s.dirty := rfl
@[simp] theorem modDie_trial (s : State) (k : Nat) (f : Die → Die) : (modDie s k f).trial = s.trial := rfl
@[simp] theorem modDie_peerOut (s : State) (k : Nat) (f : Die → Die) : (modDie s k f).peerOut = s.peerOut := rfl
@[simp] theorem modDie_agenda (s : State) (k : Nat) (f : Die → Die) : (modDie s k f).agenda = s.agenda := rfl
@[simp] theorem modDie_cur (s : State) (k : Nat) (f : Die → Die) : (modDie s k f).cur = s.cur := rfl
@[simp] theorem modDie_rx (s : State) (k : Nat) (f : Die → Die) : (modDie s k f).rx = s.rx := rfl
@[simp] theorem modDie_fresh (s : State) (k : Nat) (f : Die → Die) : (modDie s k f).fresh = s.fresh := rfl
@[simp] theorem modDie_w_mem (s : State) (k : Nat) (f : Die → Die) : (modDie s k f).w.mem = s.w.mem := rfl
@[simp] theorem modDie_w_window (s : State) (k : Nat) (f : Die → Die) : (modDie s k f).w.window = s.w.window := rfl
@[simp] theorem modDie_w_launches (s : State) (k : Nat) (f : Die → Die) : (modDie s k f).w.launches = s.w.launches := rfl
@[simp] theorem modDie_w_cgs (s : State) (k : Nat) (f : Die → Die) : (modDie s k f).w.cgs = s.w.cgs := rfl
@[simp] theorem modDie_w_pgs (s : State) (k : Nat) (f : Die → Die) : (modDie s k f).w.pgs = s.w.pgs := rfl
@[simp] theorem modDie_w_parts (s : State) (k : Nat) (f : Die → Die) : (modDie s k f).w.parts = s.w.parts := rfl
@[simp] theorem modDie_w_cores (s : State) (k : Nat) (f : Die → Die) : (modDie s k f).w.cores = s.w.cores := rfl
@[simp] theorem modDie_w_dies (s : State) (k : Nat) (f : Die → Die) : (modDie s k f).w.dies = tupd s.w.dies k Die.init f := rfl
@[simp] theorem modDie_w_pends (s : State) (k : Nat) (f : Die → Die) : (modDie s k f).w.pends = s.w.pends := rfl
@[simp] theorem modDie_w_accs (s : State) (k : Nat) (f : Die → Die) : (modDie s k f).w.accs = s.w.accs := rfl
@[simp] theorem modDie_w_ops (s : State) (k : Nat) (f : Die → Die) : (modDie s k f).w.ops = s.w.ops := rfl
@[simp] theorem modDie_w_travs (s : State) (k : Nat) (f : Die → Die) : (modDie s k f).w.travs = s.w.travs := rfl
@[simp] theorem modDie_w_jobs (s : State) (k : Nat) (f : Die → Die) : (modDie s k f).w.jobs = s.w.jobs := rfl
@[simp] theorem modDie_w_submits (s : State) (k : Nat) (f : Die → Die) : (modDie s k f).w.submits = s.w.submits := rfl
@[simp] theorem modDie_w_deferred (s : State) (k : Nat) (f : Die → Die) : (modDie s k f).w.deferred = s.w.deferred := rfl
@[simp] theorem modDie_w_claims (s : State) (k : Nat) (f : Die → Die) : (modDie s k f).w.claims = s.w.claims := rfl
@[simp] theorem modDie_w_lineClocks (s : State) (k : Nat) (f : Die → Die) : (modDie s k f).w.lineClocks = s.w.lineClocks := rfl
@[simp] theorem modDie_w_nextId (s : State) (k : Nat) (f : Die → Die) : (modDie s k f).w.nextId = s.w.nextId := rfl

/-! modLaunch -/

@[simp] theorem modLaunch_clk (s : State) (k : Nat) (f : Launch → Launch) : (modLaunch s k f).clk = s.clk := rfl
@[simp] theorem modLaunch_phase6 (s : State) (k : Nat) (f : Launch → Launch) : (modLaunch s k f).phase6 = s.phase6 := rfl
@[simp] theorem modLaunch_mgmt (s : State) (k : Nat) (f : Launch → Launch) : (modLaunch s k f).mgmt = s.mgmt := rfl
@[simp] theorem modLaunch_counts (s : State) (k : Nat) (f : Launch → Launch) : (modLaunch s k f).counts = s.counts := rfl
@[simp] theorem modLaunch_env (s : State) (k : Nat) (f : Launch → Launch) : (modLaunch s k f).env = s.env := rfl
@[simp] theorem modLaunch_sessions (s : State) (k : Nat) (f : Launch → Launch) : (modLaunch s k f).sessions = s.sessions := rfl
@[simp] theorem modLaunch_spaces (s : State) (k : Nat) (f : Launch → Launch) : (modLaunch s k f).spaces = s.spaces := rfl
@[simp] theorem modLaunch_inbox (s : State) (k : Nat) (f : Launch → Launch) : (modLaunch s k f).inbox = s.inbox := rfl
@[simp] theorem modLaunch_outbox (s : State) (k : Nat) (f : Launch → Launch) : (modLaunch s k f).outbox = s.outbox := rfl
@[simp] theorem modLaunch_signals (s : State) (k : Nat) (f : Launch → Launch) : (modLaunch s k f).signals = s.signals := rfl
@[simp] theorem modLaunch_rb (s : State) (k : Nat) (f : Launch → Launch) : (modLaunch s k f).rb = s.rb := rfl
@[simp] theorem modLaunch_ckpts (s : State) (k : Nat) (f : Launch → Launch) : (modLaunch s k f).ckpts = s.ckpts := rfl
@[simp] theorem modLaunch_ckptAt (s : State) (k : Nat) (f : Launch → Launch) : (modLaunch s k f).ckptAt = s.ckptAt := rfl
@[simp] theorem modLaunch_ckptForced (s : State) (k : Nat) (f : Launch → Launch) : (modLaunch s k f).ckptForced = s.ckptForced := rfl
@[simp] theorem modLaunch_interval (s : State) (k : Nat) (f : Launch → Launch) : (modLaunch s k f).interval = s.interval := rfl
@[simp] theorem modLaunch_log (s : State) (k : Nat) (f : Launch → Launch) : (modLaunch s k f).log = s.log := rfl
@[simp] theorem modLaunch_logLost (s : State) (k : Nat) (f : Launch → Launch) : (modLaunch s k f).logLost = s.logLost := rfl
@[simp] theorem modLaunch_logOff (s : State) (k : Nat) (f : Launch → Launch) : (modLaunch s k f).logOff = s.logOff := rfl
@[simp] theorem modLaunch_logData (s : State) (k : Nat) (f : Launch → Launch) : (modLaunch s k f).logData = s.logData := rfl
@[simp] theorem modLaunch_replay (s : State) (k : Nat) (f : Launch → Launch) : (modLaunch s k f).replay = s.replay := rfl
@[simp] theorem modLaunch_images (s : State) (k : Nat) (f : Launch → Launch) : (modLaunch s k f).images = s.images := rfl
@[simp] theorem modLaunch_nextSerial (s : State) (k : Nat) (f : Launch → Launch) : (modLaunch s k f).nextSerial = s.nextSerial := rfl
@[simp] theorem modLaunch_nextSession (s : State) (k : Nat) (f : Launch → Launch) : (modLaunch s k f).nextSession = s.nextSession := rfl
@[simp] theorem modLaunch_ckptStop (s : State) (k : Nat) (f : Launch → Launch) : (modLaunch s k f).ckptStop = s.ckptStop := rfl
@[simp] theorem modLaunch_dirty (s : State) (k : Nat) (f : Launch → Launch) : (modLaunch s k f).dirty = s.dirty := rfl
@[simp] theorem modLaunch_trial (s : State) (k : Nat) (f : Launch → Launch) : (modLaunch s k f).trial = s.trial := rfl
@[simp] theorem modLaunch_peerOut (s : State) (k : Nat) (f : Launch → Launch) : (modLaunch s k f).peerOut = s.peerOut := rfl
@[simp] theorem modLaunch_agenda (s : State) (k : Nat) (f : Launch → Launch) : (modLaunch s k f).agenda = s.agenda := rfl
@[simp] theorem modLaunch_cur (s : State) (k : Nat) (f : Launch → Launch) : (modLaunch s k f).cur = s.cur := rfl
@[simp] theorem modLaunch_rx (s : State) (k : Nat) (f : Launch → Launch) : (modLaunch s k f).rx = s.rx := rfl
@[simp] theorem modLaunch_fresh (s : State) (k : Nat) (f : Launch → Launch) : (modLaunch s k f).fresh = s.fresh := rfl
@[simp] theorem modLaunch_w_mem (s : State) (k : Nat) (f : Launch → Launch) : (modLaunch s k f).w.mem = s.w.mem := rfl
@[simp] theorem modLaunch_w_window (s : State) (k : Nat) (f : Launch → Launch) : (modLaunch s k f).w.window = s.w.window := rfl
@[simp] theorem modLaunch_w_launches (s : State) (k : Nat) (f : Launch → Launch) : (modLaunch s k f).w.launches = tmod s.w.launches k f := rfl
@[simp] theorem modLaunch_w_cgs (s : State) (k : Nat) (f : Launch → Launch) : (modLaunch s k f).w.cgs = s.w.cgs := rfl
@[simp] theorem modLaunch_w_pgs (s : State) (k : Nat) (f : Launch → Launch) : (modLaunch s k f).w.pgs = s.w.pgs := rfl
@[simp] theorem modLaunch_w_parts (s : State) (k : Nat) (f : Launch → Launch) : (modLaunch s k f).w.parts = s.w.parts := rfl
@[simp] theorem modLaunch_w_cores (s : State) (k : Nat) (f : Launch → Launch) : (modLaunch s k f).w.cores = s.w.cores := rfl
@[simp] theorem modLaunch_w_dies (s : State) (k : Nat) (f : Launch → Launch) : (modLaunch s k f).w.dies = s.w.dies := rfl
@[simp] theorem modLaunch_w_pends (s : State) (k : Nat) (f : Launch → Launch) : (modLaunch s k f).w.pends = s.w.pends := rfl
@[simp] theorem modLaunch_w_accs (s : State) (k : Nat) (f : Launch → Launch) : (modLaunch s k f).w.accs = s.w.accs := rfl
@[simp] theorem modLaunch_w_ops (s : State) (k : Nat) (f : Launch → Launch) : (modLaunch s k f).w.ops = s.w.ops := rfl
@[simp] theorem modLaunch_w_travs (s : State) (k : Nat) (f : Launch → Launch) : (modLaunch s k f).w.travs = s.w.travs := rfl
@[simp] theorem modLaunch_w_jobs (s : State) (k : Nat) (f : Launch → Launch) : (modLaunch s k f).w.jobs = s.w.jobs := rfl
@[simp] theorem modLaunch_w_submits (s : State) (k : Nat) (f : Launch → Launch) : (modLaunch s k f).w.submits = s.w.submits := rfl
@[simp] theorem modLaunch_w_deferred (s : State) (k : Nat) (f : Launch → Launch) : (modLaunch s k f).w.deferred = s.w.deferred := rfl
@[simp] theorem modLaunch_w_claims (s : State) (k : Nat) (f : Launch → Launch) : (modLaunch s k f).w.claims = s.w.claims := rfl
@[simp] theorem modLaunch_w_lineClocks (s : State) (k : Nat) (f : Launch → Launch) : (modLaunch s k f).w.lineClocks = s.w.lineClocks := rfl
@[simp] theorem modLaunch_w_nextId (s : State) (k : Nat) (f : Launch → Launch) : (modLaunch s k f).w.nextId = s.w.nextId := rfl

/-! modMem -/

@[simp] theorem modMem_clk (s : State) (f : Memory → Memory) : (modMem s f).clk = s.clk := rfl
@[simp] theorem modMem_phase6 (s : State) (f : Memory → Memory) : (modMem s f).phase6 = s.phase6 := rfl
@[simp] theorem modMem_mgmt (s : State) (f : Memory → Memory) : (modMem s f).mgmt = s.mgmt := rfl
@[simp] theorem modMem_counts (s : State) (f : Memory → Memory) : (modMem s f).counts = s.counts := rfl
@[simp] theorem modMem_env (s : State) (f : Memory → Memory) : (modMem s f).env = s.env := rfl
@[simp] theorem modMem_sessions (s : State) (f : Memory → Memory) : (modMem s f).sessions = s.sessions := rfl
@[simp] theorem modMem_spaces (s : State) (f : Memory → Memory) : (modMem s f).spaces = s.spaces := rfl
@[simp] theorem modMem_inbox (s : State) (f : Memory → Memory) : (modMem s f).inbox = s.inbox := rfl
@[simp] theorem modMem_outbox (s : State) (f : Memory → Memory) : (modMem s f).outbox = s.outbox := rfl
@[simp] theorem modMem_signals (s : State) (f : Memory → Memory) : (modMem s f).signals = s.signals := rfl
@[simp] theorem modMem_rb (s : State) (f : Memory → Memory) : (modMem s f).rb = s.rb := rfl
@[simp] theorem modMem_ckpts (s : State) (f : Memory → Memory) : (modMem s f).ckpts = s.ckpts := rfl
@[simp] theorem modMem_ckptAt (s : State) (f : Memory → Memory) : (modMem s f).ckptAt = s.ckptAt := rfl
@[simp] theorem modMem_ckptForced (s : State) (f : Memory → Memory) : (modMem s f).ckptForced = s.ckptForced := rfl
@[simp] theorem modMem_interval (s : State) (f : Memory → Memory) : (modMem s f).interval = s.interval := rfl
@[simp] theorem modMem_log (s : State) (f : Memory → Memory) : (modMem s f).log = s.log := rfl
@[simp] theorem modMem_logLost (s : State) (f : Memory → Memory) : (modMem s f).logLost = s.logLost := rfl
@[simp] theorem modMem_logOff (s : State) (f : Memory → Memory) : (modMem s f).logOff = s.logOff := rfl
@[simp] theorem modMem_logData (s : State) (f : Memory → Memory) : (modMem s f).logData = s.logData := rfl
@[simp] theorem modMem_replay (s : State) (f : Memory → Memory) : (modMem s f).replay = s.replay := rfl
@[simp] theorem modMem_images (s : State) (f : Memory → Memory) : (modMem s f).images = s.images := rfl
@[simp] theorem modMem_nextSerial (s : State) (f : Memory → Memory) : (modMem s f).nextSerial = s.nextSerial := rfl
@[simp] theorem modMem_nextSession (s : State) (f : Memory → Memory) : (modMem s f).nextSession = s.nextSession := rfl
@[simp] theorem modMem_ckptStop (s : State) (f : Memory → Memory) : (modMem s f).ckptStop = s.ckptStop := rfl
@[simp] theorem modMem_dirty (s : State) (f : Memory → Memory) : (modMem s f).dirty = s.dirty := rfl
@[simp] theorem modMem_trial (s : State) (f : Memory → Memory) : (modMem s f).trial = s.trial := rfl
@[simp] theorem modMem_peerOut (s : State) (f : Memory → Memory) : (modMem s f).peerOut = s.peerOut := rfl
@[simp] theorem modMem_agenda (s : State) (f : Memory → Memory) : (modMem s f).agenda = s.agenda := rfl
@[simp] theorem modMem_cur (s : State) (f : Memory → Memory) : (modMem s f).cur = s.cur := rfl
@[simp] theorem modMem_rx (s : State) (f : Memory → Memory) : (modMem s f).rx = s.rx := rfl
@[simp] theorem modMem_fresh (s : State) (f : Memory → Memory) : (modMem s f).fresh = s.fresh := rfl
@[simp] theorem modMem_w_mem (s : State) (f : Memory → Memory) : (modMem s f).w.mem = f s.w.mem := rfl
@[simp] theorem modMem_w_window (s : State) (f : Memory → Memory) : (modMem s f).w.window = s.w.window := rfl
@[simp] theorem modMem_w_launches (s : State) (f : Memory → Memory) : (modMem s f).w.launches = s.w.launches := rfl
@[simp] theorem modMem_w_cgs (s : State) (f : Memory → Memory) : (modMem s f).w.cgs = s.w.cgs := rfl
@[simp] theorem modMem_w_pgs (s : State) (f : Memory → Memory) : (modMem s f).w.pgs = s.w.pgs := rfl
@[simp] theorem modMem_w_parts (s : State) (f : Memory → Memory) : (modMem s f).w.parts = s.w.parts := rfl
@[simp] theorem modMem_w_cores (s : State) (f : Memory → Memory) : (modMem s f).w.cores = s.w.cores := rfl
@[simp] theorem modMem_w_dies (s : State) (f : Memory → Memory) : (modMem s f).w.dies = s.w.dies := rfl
@[simp] theorem modMem_w_pends (s : State) (f : Memory → Memory) : (modMem s f).w.pends = s.w.pends := rfl
@[simp] theorem modMem_w_accs (s : State) (f : Memory → Memory) : (modMem s f).w.accs = s.w.accs := rfl
@[simp] theorem modMem_w_ops (s : State) (f : Memory → Memory) : (modMem s f).w.ops = s.w.ops := rfl
@[simp] theorem modMem_w_travs (s : State) (f : Memory → Memory) : (modMem s f).w.travs = s.w.travs := rfl
@[simp] theorem modMem_w_jobs (s : State) (f : Memory → Memory) : (modMem s f).w.jobs = s.w.jobs := rfl
@[simp] theorem modMem_w_submits (s : State) (f : Memory → Memory) : (modMem s f).w.submits = s.w.submits := rfl
@[simp] theorem modMem_w_deferred (s : State) (f : Memory → Memory) : (modMem s f).w.deferred = s.w.deferred := rfl
@[simp] theorem modMem_w_claims (s : State) (f : Memory → Memory) : (modMem s f).w.claims = s.w.claims := rfl
@[simp] theorem modMem_w_lineClocks (s : State) (f : Memory → Memory) : (modMem s f).w.lineClocks = s.w.lineClocks := rfl
@[simp] theorem modMem_w_nextId (s : State) (f : Memory → Memory) : (modMem s f).w.nextId = s.w.nextId := rfl

/-! modFrames -/

@[simp] theorem modFrames_clk (s : State) (pa n : Nat) (f : Memory → Memory) : (modFrames s pa n f).clk = s.clk := rfl
@[simp] theorem modFrames_phase6 (s : State) (pa n : Nat) (f : Memory → Memory) : (modFrames s pa n f).phase6 = s.phase6 := rfl
@[simp] theorem modFrames_mgmt (s : State) (pa n : Nat) (f : Memory → Memory) : (modFrames s pa n f).mgmt = s.mgmt := rfl
@[simp] theorem modFrames_counts (s : State) (pa n : Nat) (f : Memory → Memory) : (modFrames s pa n f).counts = s.counts := rfl
@[simp] theorem modFrames_env (s : State) (pa n : Nat) (f : Memory → Memory) : (modFrames s pa n f).env = s.env := rfl
@[simp] theorem modFrames_sessions (s : State) (pa n : Nat) (f : Memory → Memory) : (modFrames s pa n f).sessions = s.sessions := rfl
@[simp] theorem modFrames_spaces (s : State) (pa n : Nat) (f : Memory → Memory) : (modFrames s pa n f).spaces = s.spaces := rfl
@[simp] theorem modFrames_inbox (s : State) (pa n : Nat) (f : Memory → Memory) : (modFrames s pa n f).inbox = s.inbox := rfl
@[simp] theorem modFrames_outbox (s : State) (pa n : Nat) (f : Memory → Memory) : (modFrames s pa n f).outbox = s.outbox := rfl
@[simp] theorem modFrames_signals (s : State) (pa n : Nat) (f : Memory → Memory) : (modFrames s pa n f).signals = s.signals := rfl
@[simp] theorem modFrames_rb (s : State) (pa n : Nat) (f : Memory → Memory) : (modFrames s pa n f).rb = s.rb := rfl
@[simp] theorem modFrames_ckpts (s : State) (pa n : Nat) (f : Memory → Memory) : (modFrames s pa n f).ckpts = copyFirst s.ckpts pa n := rfl
@[simp] theorem modFrames_ckptAt (s : State) (pa n : Nat) (f : Memory → Memory) : (modFrames s pa n f).ckptAt = s.ckptAt := rfl
@[simp] theorem modFrames_ckptForced (s : State) (pa n : Nat) (f : Memory → Memory) : (modFrames s pa n f).ckptForced = s.ckptForced := rfl
@[simp] theorem modFrames_interval (s : State) (pa n : Nat) (f : Memory → Memory) : (modFrames s pa n f).interval = s.interval := rfl
@[simp] theorem modFrames_log (s : State) (pa n : Nat) (f : Memory → Memory) : (modFrames s pa n f).log = s.log := rfl
@[simp] theorem modFrames_logLost (s : State) (pa n : Nat) (f : Memory → Memory) : (modFrames s pa n f).logLost = s.logLost := rfl
@[simp] theorem modFrames_logOff (s : State) (pa n : Nat) (f : Memory → Memory) : (modFrames s pa n f).logOff = s.logOff := rfl
@[simp] theorem modFrames_logData (s : State) (pa n : Nat) (f : Memory → Memory) : (modFrames s pa n f).logData = s.logData := rfl
@[simp] theorem modFrames_replay (s : State) (pa n : Nat) (f : Memory → Memory) : (modFrames s pa n f).replay = s.replay := rfl
@[simp] theorem modFrames_images (s : State) (pa n : Nat) (f : Memory → Memory) : (modFrames s pa n f).images = s.images := rfl
@[simp] theorem modFrames_nextSerial (s : State) (pa n : Nat) (f : Memory → Memory) : (modFrames s pa n f).nextSerial = s.nextSerial := rfl
@[simp] theorem modFrames_nextSession (s : State) (pa n : Nat) (f : Memory → Memory) : (modFrames s pa n f).nextSession = s.nextSession := rfl
@[simp] theorem modFrames_ckptStop (s : State) (pa n : Nat) (f : Memory → Memory) : (modFrames s pa n f).ckptStop = s.ckptStop := rfl
@[simp] theorem modFrames_dirty (s : State) (pa n : Nat) (f : Memory → Memory) : (modFrames s pa n f).dirty = dirtyFrames s.dirty pa n := rfl
@[simp] theorem modFrames_trial (s : State) (pa n : Nat) (f : Memory → Memory) : (modFrames s pa n f).trial = s.trial := rfl
@[simp] theorem modFrames_peerOut (s : State) (pa n : Nat) (f : Memory → Memory) : (modFrames s pa n f).peerOut = s.peerOut := rfl
@[simp] theorem modFrames_agenda (s : State) (pa n : Nat) (f : Memory → Memory) : (modFrames s pa n f).agenda = s.agenda := rfl
@[simp] theorem modFrames_cur (s : State) (pa n : Nat) (f : Memory → Memory) : (modFrames s pa n f).cur = s.cur := rfl
@[simp] theorem modFrames_rx (s : State) (pa n : Nat) (f : Memory → Memory) : (modFrames s pa n f).rx = s.rx := rfl
@[simp] theorem modFrames_fresh (s : State) (pa n : Nat) (f : Memory → Memory) : (modFrames s pa n f).fresh = s.fresh := rfl
@[simp] theorem modFrames_w_mem (s : State) (pa n : Nat) (f : Memory → Memory) : (modFrames s pa n f).w.mem = f s.w.mem := rfl
@[simp] theorem modFrames_w_window (s : State) (pa n : Nat) (f : Memory → Memory) : (modFrames s pa n f).w.window = s.w.window := rfl
@[simp] theorem modFrames_w_launches (s : State) (pa n : Nat) (f : Memory → Memory) : (modFrames s pa n f).w.launches = s.w.launches := rfl
@[simp] theorem modFrames_w_cgs (s : State) (pa n : Nat) (f : Memory → Memory) : (modFrames s pa n f).w.cgs = s.w.cgs := rfl
@[simp] theorem modFrames_w_pgs (s : State) (pa n : Nat) (f : Memory → Memory) : (modFrames s pa n f).w.pgs = s.w.pgs := rfl
@[simp] theorem modFrames_w_parts (s : State) (pa n : Nat) (f : Memory → Memory) : (modFrames s pa n f).w.parts = s.w.parts := rfl
@[simp] theorem modFrames_w_cores (s : State) (pa n : Nat) (f : Memory → Memory) : (modFrames s pa n f).w.cores = s.w.cores := rfl
@[simp] theorem modFrames_w_dies (s : State) (pa n : Nat) (f : Memory → Memory) : (modFrames s pa n f).w.dies = s.w.dies := rfl
@[simp] theorem modFrames_w_pends (s : State) (pa n : Nat) (f : Memory → Memory) : (modFrames s pa n f).w.pends = s.w.pends := rfl
@[simp] theorem modFrames_w_accs (s : State) (pa n : Nat) (f : Memory → Memory) : (modFrames s pa n f).w.accs = s.w.accs := rfl
@[simp] theorem modFrames_w_ops (s : State) (pa n : Nat) (f : Memory → Memory) : (modFrames s pa n f).w.ops = s.w.ops := rfl
@[simp] theorem modFrames_w_travs (s : State) (pa n : Nat) (f : Memory → Memory) : (modFrames s pa n f).w.travs = s.w.travs := rfl
@[simp] theorem modFrames_w_jobs (s : State) (pa n : Nat) (f : Memory → Memory) : (modFrames s pa n f).w.jobs = s.w.jobs := rfl
@[simp] theorem modFrames_w_submits (s : State) (pa n : Nat) (f : Memory → Memory) : (modFrames s pa n f).w.submits = s.w.submits := rfl
@[simp] theorem modFrames_w_deferred (s : State) (pa n : Nat) (f : Memory → Memory) : (modFrames s pa n f).w.deferred = s.w.deferred := rfl
@[simp] theorem modFrames_w_claims (s : State) (pa n : Nat) (f : Memory → Memory) : (modFrames s pa n f).w.claims = s.w.claims := rfl
@[simp] theorem modFrames_w_lineClocks (s : State) (pa n : Nat) (f : Memory → Memory) : (modFrames s pa n f).w.lineClocks = s.w.lineClocks := rfl
@[simp] theorem modFrames_w_nextId (s : State) (pa n : Nat) (f : Memory → Memory) : (modFrames s pa n f).w.nextId = s.w.nextId := rfl

/-! modWindow -/

@[simp] theorem modWindow_clk (s : State) (f : Memory → Memory) : (modWindow s f).clk = s.clk := rfl
@[simp] theorem modWindow_phase6 (s : State) (f : Memory → Memory) : (modWindow s f).phase6 = s.phase6 := rfl
@[simp] theorem modWindow_mgmt (s : State) (f : Memory → Memory) : (modWindow s f).mgmt = s.mgmt := rfl
@[simp] theorem modWindow_counts (s : State) (f : Memory → Memory) : (modWindow s f).counts = s.counts := rfl
@[simp] theorem modWindow_env (s : State) (f : Memory → Memory) : (modWindow s f).env = s.env := rfl
@[simp] theorem modWindow_sessions (s : State) (f : Memory → Memory) : (modWindow s f).sessions = s.sessions := rfl
@[simp] theorem modWindow_spaces (s : State) (f : Memory → Memory) : (modWindow s f).spaces = s.spaces := rfl
@[simp] theorem modWindow_inbox (s : State) (f : Memory → Memory) : (modWindow s f).inbox = s.inbox := rfl
@[simp] theorem modWindow_outbox (s : State) (f : Memory → Memory) : (modWindow s f).outbox = s.outbox := rfl
@[simp] theorem modWindow_signals (s : State) (f : Memory → Memory) : (modWindow s f).signals = s.signals := rfl
@[simp] theorem modWindow_rb (s : State) (f : Memory → Memory) : (modWindow s f).rb = s.rb := rfl
@[simp] theorem modWindow_ckpts (s : State) (f : Memory → Memory) : (modWindow s f).ckpts = s.ckpts := rfl
@[simp] theorem modWindow_ckptAt (s : State) (f : Memory → Memory) : (modWindow s f).ckptAt = s.ckptAt := rfl
@[simp] theorem modWindow_ckptForced (s : State) (f : Memory → Memory) : (modWindow s f).ckptForced = s.ckptForced := rfl
@[simp] theorem modWindow_interval (s : State) (f : Memory → Memory) : (modWindow s f).interval = s.interval := rfl
@[simp] theorem modWindow_log (s : State) (f : Memory → Memory) : (modWindow s f).log = s.log := rfl
@[simp] theorem modWindow_logLost (s : State) (f : Memory → Memory) : (modWindow s f).logLost = s.logLost := rfl
@[simp] theorem modWindow_logOff (s : State) (f : Memory → Memory) : (modWindow s f).logOff = s.logOff := rfl
@[simp] theorem modWindow_logData (s : State) (f : Memory → Memory) : (modWindow s f).logData = s.logData := rfl
@[simp] theorem modWindow_replay (s : State) (f : Memory → Memory) : (modWindow s f).replay = s.replay := rfl
@[simp] theorem modWindow_images (s : State) (f : Memory → Memory) : (modWindow s f).images = s.images := rfl
@[simp] theorem modWindow_nextSerial (s : State) (f : Memory → Memory) : (modWindow s f).nextSerial = s.nextSerial := rfl
@[simp] theorem modWindow_nextSession (s : State) (f : Memory → Memory) : (modWindow s f).nextSession = s.nextSession := rfl
@[simp] theorem modWindow_ckptStop (s : State) (f : Memory → Memory) : (modWindow s f).ckptStop = s.ckptStop := rfl
@[simp] theorem modWindow_dirty (s : State) (f : Memory → Memory) : (modWindow s f).dirty = s.dirty := rfl
@[simp] theorem modWindow_trial (s : State) (f : Memory → Memory) : (modWindow s f).trial = s.trial := rfl
@[simp] theorem modWindow_peerOut (s : State) (f : Memory → Memory) : (modWindow s f).peerOut = s.peerOut := rfl
@[simp] theorem modWindow_agenda (s : State) (f : Memory → Memory) : (modWindow s f).agenda = s.agenda := rfl
@[simp] theorem modWindow_cur (s : State) (f : Memory → Memory) : (modWindow s f).cur = s.cur := rfl
@[simp] theorem modWindow_rx (s : State) (f : Memory → Memory) : (modWindow s f).rx = s.rx := rfl
@[simp] theorem modWindow_fresh (s : State) (f : Memory → Memory) : (modWindow s f).fresh = s.fresh := rfl
@[simp] theorem modWindow_w_mem (s : State) (f : Memory → Memory) : (modWindow s f).w.mem = s.w.mem := rfl
@[simp] theorem modWindow_w_window (s : State) (f : Memory → Memory) : (modWindow s f).w.window = f s.w.window := rfl
@[simp] theorem modWindow_w_launches (s : State) (f : Memory → Memory) : (modWindow s f).w.launches = s.w.launches := rfl
@[simp] theorem modWindow_w_cgs (s : State) (f : Memory → Memory) : (modWindow s f).w.cgs = s.w.cgs := rfl
@[simp] theorem modWindow_w_pgs (s : State) (f : Memory → Memory) : (modWindow s f).w.pgs = s.w.pgs := rfl
@[simp] theorem modWindow_w_parts (s : State) (f : Memory → Memory) : (modWindow s f).w.parts = s.w.parts := rfl
@[simp] theorem modWindow_w_cores (s : State) (f : Memory → Memory) : (modWindow s f).w.cores = s.w.cores := rfl
@[simp] theorem modWindow_w_dies (s : State) (f : Memory → Memory) : (modWindow s f).w.dies = s.w.dies := rfl
@[simp] theorem modWindow_w_pends (s : State) (f : Memory → Memory) : (modWindow s f).w.pends = s.w.pends := rfl
@[simp] theorem modWindow_w_accs (s : State) (f : Memory → Memory) : (modWindow s f).w.accs = s.w.accs := rfl
@[simp] theorem modWindow_w_ops (s : State) (f : Memory → Memory) : (modWindow s f).w.ops = s.w.ops := rfl
@[simp] theorem modWindow_w_travs (s : State) (f : Memory → Memory) : (modWindow s f).w.travs = s.w.travs := rfl
@[simp] theorem modWindow_w_jobs (s : State) (f : Memory → Memory) : (modWindow s f).w.jobs = s.w.jobs := rfl
@[simp] theorem modWindow_w_submits (s : State) (f : Memory → Memory) : (modWindow s f).w.submits = s.w.submits := rfl
@[simp] theorem modWindow_w_deferred (s : State) (f : Memory → Memory) : (modWindow s f).w.deferred = s.w.deferred := rfl
@[simp] theorem modWindow_w_claims (s : State) (f : Memory → Memory) : (modWindow s f).w.claims = s.w.claims := rfl
@[simp] theorem modWindow_w_lineClocks (s : State) (f : Memory → Memory) : (modWindow s f).w.lineClocks = s.w.lineClocks := rfl
@[simp] theorem modWindow_w_nextId (s : State) (f : Memory → Memory) : (modWindow s f).w.nextId = s.w.nextId := rfl

/-! The derived updates come down to these. -/

@[simp] theorem modThread_eq (s : State) (t : ThreadRef) (f : Thread → Thread) :
    modThread s t f = modPg s t.pg fun g => { g with threads := g.threads.modify t.tid f } := rfl
@[simp] theorem modCtx_eq (s : State) (t : ThreadRef) (f : ThreadCtx → ThreadCtx) :
    modCtx s t f = modPg s t.pg fun g => { g with threads := g.threads.modify t.tid fun x => { x with ctx := f x.ctx } } := rfl
@[simp] theorem modGroup_eq (s : State) (p pos : Nat) (f : Group → Group) :
    modGroup s p pos f = modPart s p fun x => { x with groups := tmod x.groups pos f } := rfl
@[simp] theorem modEng_eq (s : State) (c : Nat) (f : Engine → Engine) :
    modEng s c f = modCore s c fun x => { x with eng := f x.eng } := rfl

end Sys2Proof.Machine
end

