-- ==== Sys2Proof/Laws/Tables.lean ====
section
/-! SUPPORT. What reading a table of the world gives after one of its entries has changed, and how the sizes and threads of a partition
group read after a change of one thread. -/

namespace Sys2Proof.Machine

/-- A table read after an entry is set. -/
theorem tget?_tput {α : Type} (t : Tab α) (k j : Nat) (v : α) : tget? (tput t k v) j = if j = k then some v else tget? t j := by
  induction t with
  | nil => simp [tput, tget?, eq_comm]
  | cons e r ih =>
    obtain ⟨i, u⟩ := e
    simp only [tput]
    split_ifs with h1 h2 h3 h4 h5
    all_goals simp only [tget?, ih]
    all_goals grind

@[simp] theorem tget_tput_same {α : Type} (t : Tab α) (k : Nat) (v d : α) : tget (tput t k v) k d = v := by simp [tget, tget?_tput]

theorem tget_tput_other {α : Type} (t : Tab α) (k j : Nat) (v d : α) (h : j ≠ k) : tget (tput t k v) j d = tget t j d := by
  simp [tget, tget?_tput, h]

/-- A table read after an entry is changed where it is listed. -/
theorem tget?_tmod {α : Type} (t : Tab α) (k j : Nat) (f : α → α) :
    tget? (tmod t k f) j = if j = k then (tget? t j).map f else tget? t j := by
  induction t with
  | nil => simp [tmod, tget?]
  | cons e r ih =>
    obtain ⟨i, u⟩ := e
    simp only [tmod, List.map_cons] at ih ⊢
    by_cases h : i = k <;> simp only [h, if_true, if_false, tget?, ih] <;> grind

/-- A partition group read after a change of one. -/
theorem pg_modPg (s : State) (k j : Nat) (f : PartGroup → PartGroup) : (modPg s k f).pg j = if j = k then f (s.pg k) else s.pg j := by
  by_cases h : j = k
  · subst h; simp [State.pg, modPg, tupd]
  · simp [State.pg, modPg, tupd, tget_tput_other, h]

/-- A partition read after a change of one. -/
theorem part_modPart (s : State) (k j : Nat) (f : Partition → Partition) :
    (modPart s k f).part j = if j = k then f (s.part k) else s.part j := by
  by_cases h : j = k
  · subst h; simp [State.part, modPart, tupd]
  · simp [State.part, modPart, tupd, tget_tput_other, h]

/-- A core group read after a change of one. -/
theorem cg_modCg (s : State) (k j : Nat) (f : CoreGroup → CoreGroup) : (modCg s k f).cg j = if j = k then f (s.cg k) else s.cg j := by
  by_cases h : j = k
  · subst h; simp [State.cg, modCg, tupd]
  · simp [State.cg, modCg, tupd, tget_tput_other, h]

/-- A core read after a change of one. -/
theorem core_modCore (s : State) (k j : Nat) (f : Core → Core) :
    (modCore s k f).core j = if j = k then f (s.core k) else s.core j := by
  by_cases h : j = k
  · subst h; simp [State.core, modCore, tupd]
  · simp [State.core, modCore, tupd, tget_tput_other, h]

/-- A die read after a change of one. -/
theorem die_modDie (s : State) (k j : Nat) (f : Die → Die) : (modDie s k f).die j = if j = k then f (s.die k) else s.die j := by
  by_cases h : j = k
  · subst h; simp [State.die, modDie, tupd]
  · simp [State.die, modDie, tupd, tget_tput_other, h]

/-- A thread of a partition group read after a change of one. -/
theorem getD_modThread (g : PartGroup) (i j : Nat) (f : Thread → Thread) :
    (g.modThread i f).threads.getD j Thread.none
      = if j = i ∧ i < g.threads.length then f (g.threads.getD i Thread.none) else g.threads.getD j Thread.none := by
  simp only [PartGroup.modThread, List.getD_eq_getElem?_getD, List.getElem?_modify]
  by_cases hj : j = i
  · subst hj
    by_cases hl : j < g.threads.length
    · simp [hl]
    · simp [hl]
  · simp [hj, Ne.symm hj]

/-- A thread read after a change of one. -/
theorem thread_modThread (s : State) (t r : ThreadRef) (f : Thread → Thread) :
    (modThread s t f).thread r = if r = t ∧ t.tid < (s.pg t.pg).threads.length then f (s.thread t) else s.thread r := by
  obtain ⟨tp, ti⟩ := t
  obtain ⟨rp, ri⟩ := r
  simp only [State.thread, modThread, pg_modPg, ThreadRef.mk.injEq]
  by_cases hp : rp = tp
  · subst hp; simp only [if_true, true_and, getD_modThread]
  · simp [hp]

/-- The number of threads of a partition group read after a change of one. -/
theorem length_modThread (s : State) (t : ThreadRef) (k : Nat) (f : Thread → Thread) :
    ((modThread s t f).pg k).threads.length = (s.pg k).threads.length := by
  simp only [modThread, pg_modPg]
  split
  · subst_vars; simp [PartGroup.modThread]
  · rfl

end Sys2Proof.Machine
end

