-- ==== Sys2Proof/Laws/Words.lean ====
section
/-! SUPPORT. What the shared operations of the words do: results in flight (02 R34, R36), the counts of a word (06 R135), and from them
that a word made of one result per lane gives its results and keeps everything else. -/

namespace Sys2Proof.Machine

/-- The entry of a result in flight with its number given. -/
def pendAt (s : State) (ix : Issue) (c : Ctl) (lat : Nat) (isVar : Bool) (n : Nat) (t : ThreadRef) (o : LaneOut) : Pend :=
  laneEntry { s with w := { s.w with nextId := n } } ix c lat isVar 0 t o

theorem laneEntry_eq (s : State) (ix : Issue) (c : Ctl) (lat : Nat) (isVar : Bool) (k : Nat) (t : ThreadRef) (o : LaneOut) :
    laneEntry s ix c lat isVar k t o = pendAt s ix c lat isVar (s.w.nextId + k) t o := by
  simp only [pendAt, laneEntry, Nat.add_zero]
  rfl

/-- What one result in flight changes. -/
theorem pushResult_eq (s : State) (ix : Issue) (c : Ctl) (lat : Nat) (isVar : Bool) (t : ThreadRef) (o : LaneOut) :
    pushResult s ix c lat isVar true t o
      = raiseFlags { s with w := { s.w with nextId := s.w.nextId + 1, pends := s.w.pends ++ [pendAt s ix c lat isVar s.w.nextId t o] } } t
          (flagsOf ix c) := by
  simp [pushResult, pendAt, laneEntry, timeOf, State.launch, State.cg, Config.dsmLatency]

/-- Completion flags raised read back. -/
theorem thread_raiseFlags (s : State) (t r : ThreadRef) (fl : List Nat) :
    (raiseFlags s t fl).thread r
      = if r = t ∧ t.tid < (s.pg t.pg).threads.length then
          { s.thread t with ctx := { (s.thread t).ctx with flags := fl.foldl (fun l i => l.modify i (· + 1)) (s.thread t).ctx.flags } }
        else s.thread r := by
  simp only [raiseFlags, modCtx, thread_modThread]

/-- The states between which only results in flight, their numbers and threads differ. -/
def onlyResults (s e : State) : Prop :=
  e = { s with w := { s.w with pends := e.w.pends, pgs := e.w.pgs, nextId := e.w.nextId } }

theorem onlyResults.timeOf {s e : State} (h : onlyResults s e) (cg : Nat) : timeOf e cg = timeOf s cg := by
  rw [h]; rfl

theorem onlyResults.launch {s e : State} (h : onlyResults s e) (l : Nat) : e.launch l = s.launch l := by
  rw [h]; rfl

/-- Results in flight for a list of threads. -/
def pushAll (s : State) (ix : Issue) (c : Ctl) (lat : Nat) (isVar : Bool) (l : List (ThreadRef × LaneOut)) : State :=
  l.foldl (fun s r => pushResult s ix c lat isVar true r.1 r.2) s

theorem pushAll_only (ix : Issue) (c : Ctl) (lat : Nat) (isVar : Bool) (l : List (ThreadRef × LaneOut)) (s : State) :
    onlyResults s (pushAll s ix c lat isVar l) := by
  induction l generalizing s with
  | nil => rfl
  | cons r l ih =>
    have h := ih (pushResult s ix c lat isVar true r.1 r.2)
    simp only [pushAll, List.foldl_cons] at h ⊢
    unfold onlyResults at h ⊢
    rw [h]
    rfl

theorem pushAll_nextId (ix : Issue) (c : Ctl) (lat : Nat) (isVar : Bool) (l : List (ThreadRef × LaneOut)) (s : State) :
    (pushAll s ix c lat isVar l).w.nextId = s.w.nextId + l.length := by
  induction l generalizing s with
  | nil => rfl
  | cons r l ih =>
    have h := ih (pushResult s ix c lat isVar true r.1 r.2)
    simp only [pushAll, List.foldl_cons] at h ⊢
    rw [h]
    simp only [List.length_cons]
    show s.w.nextId + 1 + _ = _
    omega

theorem pushAll_pends (ix : Issue) (c : Ctl) (lat : Nat) (isVar : Bool) (l : List (ThreadRef × LaneOut)) (s : State) :
    (pushAll s ix c lat isVar l).w.pends
      = s.w.pends ++ l.mapIdx (fun k r => pendAt s ix c lat isVar (s.w.nextId + k) r.1 r.2) := by
  induction l generalizing s with
  | nil => simp [pushAll]
  | cons r l ih =>
    have h := ih (pushResult s ix c lat isVar true r.1 r.2)
    simp only [pushAll, List.foldl_cons] at h ⊢
    rw [h, List.mapIdx_cons]
    have hp : ∀ n u o, pendAt (pushResult s ix c lat isVar true r.1 r.2) ix c lat isVar n u o = pendAt s ix c lat isVar n u o := by
      intro n u o; rfl
    have hn : (pushResult s ix c lat isVar true r.1 r.2).w.nextId = s.w.nextId + 1 := rfl
    have hs : (pushResult s ix c lat isVar true r.1 r.2).w.pends = s.w.pends ++ [pendAt s ix c lat isVar s.w.nextId r.1 r.2] := by
      rw [pushResult_eq]; rfl
    simp only [hp, hn, hs, List.append_assoc, List.singleton_append, Nat.add_zero]
    congr 2
    apply List.mapIdx_eq_mapIdx_iff.2
    intro i hi
    rw [show s.w.nextId + 1 + i = s.w.nextId + (i + 1) by omega]

theorem pushAll_length (ix : Issue) (c : Ctl) (lat : Nat) (isVar : Bool) (l : List (ThreadRef × LaneOut)) (s : State) (k : Nat) :
    ((pushAll s ix c lat isVar l).pg k).threads.length = (s.pg k).threads.length := by
  induction l generalizing s with
  | nil => rfl
  | cons r l ih =>
    have h := ih (pushResult s ix c lat isVar true r.1 r.2)
    simp only [pushAll, List.foldl_cons] at h ⊢
    rw [h, pushResult_eq, raiseFlags, modCtx, length_modThread]
    rfl

/-- The threads after their results are in flight: each that gets one counts its flags once more. -/
theorem pushAll_thread (ix : Issue) (c : Ctl) (lat : Nat) (isVar : Bool) (l : List (ThreadRef × LaneOut)) (s : State) (r : ThreadRef)
    (hn : (l.map Prod.fst).Nodup) :
    (pushAll s ix c lat isVar l).thread r
      = if r ∈ l.map Prod.fst ∧ r.tid < (s.pg r.pg).threads.length then
          { s.thread r with ctx := { (s.thread r).ctx with flags := (flagsOf ix c).foldl (fun l i => l.modify i (· + 1)) (s.thread r).ctx.flags } }
        else s.thread r := by
  induction l generalizing s with
  | nil => simp [pushAll]
  | cons x l ih =>
    simp only [List.map_cons, List.nodup_cons] at hn
    have h := ih (pushResult s ix c lat isVar true x.1 x.2) hn.2
    simp only [pushAll, List.foldl_cons] at h ⊢
    rw [h]
    have hl : ((pushResult s ix c lat isVar true x.1 x.2).pg r.pg).threads.length = (s.pg r.pg).threads.length := by
      rw [pushResult_eq, raiseFlags, modCtx, length_modThread]; rfl
    have ht : (pushResult s ix c lat isVar true x.1 x.2).thread r
        = if r = x.1 ∧ x.1.tid < (s.pg x.1.pg).threads.length then
          { s.thread x.1 with ctx := { (s.thread x.1).ctx with flags := (flagsOf ix c).foldl (fun l i => l.modify i (· + 1)) (s.thread x.1).ctx.flags } }
          else s.thread r := by
      rw [pushResult_eq, thread_raiseFlags]; rfl
    rw [hl, ht]
    simp only [List.map_cons, List.mem_cons]
    by_cases hx : r = x.1
    · subst hx
      simp only [hn.1, false_and, if_false, true_or, true_and]
    · simp only [hx, false_and, if_false, false_or]

/-! Threads kept. -/

theorem threadsKept_refl (s : State) : threadsKept s s := fun _ => rfl

theorem threadsKept.trans {a b c : State} (h : threadsKept a b) (k : threadsKept b c) : threadsKept a c := by
  intro r; rw [k r, h r]

theorem threadsKept_push (s : State) (ix : Issue) (c : Ctl) (lat : Nat) (isVar : Bool) (t : ThreadRef) (o : LaneOut) :
    threadsKept s (pushResult s ix c lat isVar true t o) := by
  intro r
  rw [pushResult_eq, thread_raiseFlags]
  split
  · next h => rw [h.1]; rfl
  · rfl

theorem threadsKept_pushAll (ix : Issue) (c : Ctl) (lat : Nat) (isVar : Bool) (l : List (ThreadRef × LaneOut)) (s : State) :
    threadsKept s (pushAll s ix c lat isVar l) := by
  induction l generalizing s with
  | nil => exact threadsKept_refl s
  | cons r l ih => exact (threadsKept_push s ix c lat isVar r.1 r.2).trans (ih _)

/-! The slot of a word. -/

/-- Threads counted by a word. -/
theorem getD_countAll (dsm : Bool) (l : List Nat) (g : PartGroup) (hn : l.Nodup) (j : Nat) :
    (l.foldl (fun g i => g.modThread i (countWord dsm)) g).threads.getD j Thread.none
      = if j ∈ l ∧ j < g.threads.length then countWord dsm (g.threads.getD j Thread.none) else g.threads.getD j Thread.none := by
  induction l generalizing g with
  | nil => simp
  | cons i l ih =>
    simp only [List.nodup_cons] at hn
    rw [List.foldl_cons, ih _ hn.2]
    have hl : (g.modThread i (countWord dsm)).threads.length = g.threads.length := by simp [PartGroup.modThread]
    rw [hl, getD_modThread]
    by_cases hj : j = i
    · subst hj; simp [hn.1]
    · simp [hj]

/-- A relation that a change of one thread keeps holds after the count of a word. -/
theorem getD_countAll_kept (dsm : Bool) (l : List Nat) (g : PartGroup) (j : Nat) :
    ∃ n m, (l.foldl (fun g i => g.modThread i (countWord dsm)) g).threads.getD j Thread.none
      = { g.threads.getD j Thread.none with
            ctx := { (g.threads.getD j Thread.none).ctx with retired := n }, timer := m } := by
  induction l generalizing g with
  | nil => exact ⟨_, _, rfl⟩
  | cons i l ih =>
    obtain ⟨n, m, h⟩ := ih (g.modThread i (countWord dsm))
    rw [List.foldl_cons, h, getD_modThread]
    split
    · next hj => rw [hj.1]; exact ⟨n, m, rfl⟩
    · exact ⟨n, m, rfl⟩

/-- The issue of a word changes its group's threads, the partitions and a running trial, and nothing else. -/
theorem spendSlot_only (s : State) (ix : Issue) (c : Ctl) :
    spendSlot s ix c = { s with w := { s.w with pgs := (spendSlot s ix c).w.pgs, parts := (spendSlot s ix c).w.parts },
                                trial := (spendSlot s ix c).trial } := by
  simp only [spendSlot, trialCount]
  split <;> rfl

/-- The partition groups after the issue of a word. -/
theorem spendSlot_pg (s : State) (ix : Issue) (c : Ctl) (k : Nat) :
    (spendSlot s ix c).pg k
      = if k = ix.pg then ix.tids.foldl (fun g i => g.modThread i (countWord (s.launch ix.lid).lr.dsm)) (s.pg ix.pg) else s.pg k := by
  have h : (spendSlot s ix c).pg k
      = (modPg s ix.pg fun g => ix.tids.foldl (fun g i => g.modThread i (countWord (s.launch ix.lid).lr.dsm)) g).pg k := by
    simp only [spendSlot, trialCount]
    split <;> rfl
  rw [h, pg_modPg]

theorem spendSlot_thread (s : State) (ix : Issue) (c : Ctl) (hn : ix.tids.Nodup) (r : ThreadRef) :
    (inGroup s ix r → (spendSlot s ix c).thread r = countWord (s.launch ix.lid).lr.dsm (s.thread r))
    ∧ (¬ inGroup s ix r → (spendSlot s ix c).thread r = s.thread r) := by
  simp only [State.thread, spendSlot_pg, inGroup]
  by_cases hp : r.pg = ix.pg
  · simp only [hp, if_true, true_and, getD_countAll _ _ _ hn]
    exact ⟨fun h => if_pos h, fun h => if_neg h⟩
  · simp [hp]

theorem threadsKept_spendSlot (s : State) (ix : Issue) (c : Ctl) : threadsKept s (spendSlot s ix c) := by
  intro r
  simp only [State.thread, spendSlot_pg]
  by_cases hp : r.pg = ix.pg
  · simp only [hp, if_true]
    obtain ⟨n, m, h⟩ := getD_countAll_kept (s.launch ix.lid).lr.dsm ix.tids (s.pg ix.pg) r.tid
    rw [h]
  · simp [hp]

/-! Words of one result per lane. -/

theorem mapIdx_map {α β γ : Type} (l : List α) (g : α → β) (f : Nat → β → γ) : (l.map g).mapIdx f = l.mapIdx fun k a => f k (g a) := by
  induction l generalizing f with
  | nil => rfl
  | cons a l ih => simp [List.mapIdx_cons, ih]

/-- The guard-true threads of a word are in its group, each once. -/
theorem activeOf_nodup (s : State) (ix : Issue) (c : Ctl) (h : ix.tids.Nodup) : (activeOf s ix c).Nodup := by
  refine List.Nodup.filter _ (List.Nodup.map ?_ h)
  intro a b hab
  simpa using hab

/-- What a word of results and its issue leave: stated once for every such word, with a change of partitions before it. -/
theorem results_spend (s p : State) (ix : Issue) (c : Ctl) (lat : Nat) (isVar : Bool) (f : State → Issue → ThreadRef → LaneOut)
    (hp : ∃ ps, p = { s with w := { s.w with parts := ps } }) (hf : ∀ t, f p ix t = f s ix t) :
    let e := spendSlot (laneResults p ix c lat isVar f) ix c
    e.w.pends = s.w.pends ++ (activeOf s ix c).mapIdx (fun k t => laneEntry s ix c lat isVar k t (f s ix t))
    ∧ threadsKept s e
    ∧ (ix.tids.Nodup → countedOnce s e ix ∧ flagsRaised s e ix c (activeOf s ix c))
    ∧ e = { s with w := { s.w with pends := e.w.pends, pgs := e.w.pgs, parts := e.w.parts, nextId := e.w.nextId }, trial := e.trial } := by
  obtain ⟨ps, rfl⟩ := hp
  set p : State := { s with w := { s.w with parts := ps } } with hpd
  have ha : activeOf p ix c = activeOf s ix c := rfl
  have hl : laneResults p ix c lat isVar f = pushAll p ix c lat isVar ((activeOf s ix c).map fun t => (t, f s ix t)) := by
    simp only [laneResults, pushAll, ha, hf]
  have hfst : ((activeOf s ix c).map fun t => (t, f s ix t)).map Prod.fst = activeOf s ix c := by
    simp [List.map_map, Function.comp_def]
  intro e
  have he : e = spendSlot (pushAll p ix c lat isVar ((activeOf s ix c).map fun t => (t, f s ix t))) ix c := by rw [← hl]
  set q := pushAll p ix c lat isVar ((activeOf s ix c).map fun t => (t, f s ix t)) with hq
  have hqo : onlyResults p q := pushAll_only ix c lat isVar _ p
  have htp : ∀ r, p.thread r = s.thread r := fun _ => rfl
  have hep : e.w.pends = q.w.pends := by rw [he, spendSlot_only]
  have hlen : ∀ k, (q.pg k).threads.length = (s.pg k).threads.length := fun k => pushAll_length ix c lat isVar _ p k
  refine ⟨?_, ?_, ?_, ?_⟩
  · rw [hep, hq, pushAll_pends]
    have h1 : p.w.pends = s.w.pends := rfl
    have h2 : p.w.nextId = s.w.nextId := rfl
    rw [h1, h2, mapIdx_map]
    congr 1
  · rw [he]
    have h0 : threadsKept s p := threadsKept_refl s
    exact (h0.trans (threadsKept_pushAll ix c lat isVar _ p)).trans (threadsKept_spendSlot q ix c)
  · intro hn
    have hnd := activeOf_nodup s ix c hn
    have hq1 : ∀ r, q.thread r = if r ∈ activeOf s ix c ∧ r.tid < (s.pg r.pg).threads.length then
          { s.thread r with ctx := { (s.thread r).ctx with flags := (flagsOf ix c).foldl (fun l i => l.modify i (· + 1)) (s.thread r).ctx.flags } }
        else s.thread r := by
      intro r
      have := pushAll_thread ix c lat isVar ((activeOf s ix c).map fun t => (t, f s ix t)) p r (by rw [hfst]; exact hnd)
      rw [hfst] at this
      exact this
    have hin : ∀ r, inGroup q ix r ↔ inGroup s ix r := by intro r; simp only [inGroup, hlen]
    have h1 := fun r => (spendSlot_thread q ix c hn r).1
    have h2 := fun r => (spendSlot_thread q ix c hn r).2
    simp only [hin, ← he] at h1 h2
    refine ⟨fun r => ⟨fun hr => ?_, fun hr => ?_⟩, fun r => ⟨fun hr hb => ?_, fun hr => ?_⟩⟩
    · rw [h1 r hr, hq1]
      split <;> rfl
    · rw [h2 r hr, hq1]
      split <;> rfl
    · by_cases hg : inGroup s ix r
      · rw [h1 r hg, hq1, if_pos ⟨hr, hb⟩]; rfl
      · rw [h2 r hg, hq1, if_pos ⟨hr, hb⟩]
    · by_cases hg : inGroup s ix r
      · rw [h1 r hg, hq1, if_neg (fun h => hr h.1)]; rfl
      · rw [h2 r hg, hq1, if_neg (fun h => hr h.1)]
  · rw [he, spendSlot_only q ix c]
    rw [hqo]

/-- A word made of one result per lane gives its results (02 R34, R36; 07 R138). -/
theorem givesResults_of_laneWord (i : Instr) (c : Ctl) (lat : Nat) (isVar : Bool) (f : State → Issue → ThreadRef → LaneOut)
    (h : ∀ s, exec i s = laneWord s c lat isVar f) : givesResults i c lat isVar f := by
  intro s ix hix
  refine ⟨spendSlot (laneResults s ix c lat isVar f) ix c, ?_, ?_⟩
  · rw [h, laneWord, hix]; rfl
  · exact results_spend s s ix c lat isVar f ⟨s.w.parts, rfl⟩ fun _ => rfl

/-- Where every guard-true thread has got a result from the word, no completion flag is left to raise (02 R36). -/
theorem acceptFlags_of_results (s0 s : State) (ix : Issue) (c : Ctl)
    (h : ∀ t ∈ activeOf s0 ix c, ∃ p ∈ s.w.pends, p.th = t ∧ p.win = false ∧ s0.w.nextId ≤ p.id) : acceptFlags s0 s ix c = s := by
  have key : ∀ l : List ThreadRef, (∀ t ∈ l, ∃ p ∈ s.w.pends, p.th = t ∧ p.win = false ∧ s0.w.nextId ≤ p.id) →
      l.foldl (fun s t =>
        if (s.thread t).live && decide ((s.thread t).place ≠ .parked)
            && !(s.w.pends.any fun p => decide (p.th = t) && !p.win && decide (s0.w.nextId ≤ p.id)) then
          pushAccepted false s ix (flagsOf ix c) t
        else s) s = s := by
    intro l
    induction l with
    | nil => intro _; rfl
    | cons t l ih =>
      intro hl
      obtain ⟨p, hp, rfl, hw, hn⟩ := hl t (by simp)
      have ha : (s.w.pends.any fun q => decide (q.th = p.th) && !q.win && decide (s0.w.nextId ≤ q.id)) = true :=
        List.any_eq_true.2 ⟨p, hp, by simp [hn, hw]⟩
      rw [List.foldl_cons]
      simp only [ha, Bool.not_true, Bool.and_false, Bool.false_eq_true, if_false]
      exact ih fun u hu => hl u (by simp [hu])
  simp only [acceptFlags, acceptFlagsAs]
  split
  · rfl
  · exact key _ h

/-- A word that makes a unit busy and gives one result per lane gives its results (02 R43). -/
theorem givesResults_of_busy (i : Instr) (c : Ctl) (lat : Nat) (f : State → Issue → ThreadRef → LaneOut)
    (g : State → Issue → Partition → Partition)
    (h : ∀ s, exec i s = stateWord s c fun ix s => laneResults (modPart s ix.part (g s ix)) ix c lat false f)
    (hf : ∀ s ps ix t, f { s with w := { s.w with parts := ps } } ix t = f s ix t) : givesResults i c lat false f := by
  intro s ix hix
  have hr := results_spend s (modPart s ix.part (g s ix)) ix c lat false f ⟨_, rfl⟩ fun t => hf s _ ix t
  refine ⟨_, ?_, hr⟩
  rw [h, stateWord, hix]
  simp only [retire]
  rw [acceptFlags_of_results]
  intro t ht
  have hp := hr.1
  rw [spendSlot_only] at hp
  simp only at hp
  rw [hp]
  obtain ⟨k, hk, hkt⟩ := List.mem_iff_getElem.1 ht
  refine ⟨laneEntry s ix c lat false k t (f s ix t), ?_, rfl, rfl, Nat.le_add_right _ _⟩
  refine List.mem_append_right _ (List.mem_iff_getElem.2 ⟨k, by simpa using hk, ?_⟩)
  simp [hkt]

/-- A word with an effect on the state as a whole. -/
theorem actsAs_of_stateWord (i : Instr) (c : Ctl) (f : Issue → State → State) (h : ∀ s, exec i s = stateWord s c f) : actsAs i c f := by
  intro s ix hix
  rw [h, stateWord, hix]

/-- A word that files its threads. -/
theorem filesAs_of_filingWord (i : Instr) (c : Ctl) (f : Issue → State → State) (h : ∀ s, exec i s = filingWord s c f) :
    filesAs i c f := by
  intro s ix hix
  rw [h, filingWord, hix]
  rfl

/-- Lanes that make their step, one after the other. -/
theorem actLanes_of_lanes (ix : Issue) (f : State → ThreadRef → State × Option Trap) (lane : State → ThreadRef → State → Prop)
    (hl : ∀ a t b, lane a t b → f a t = (b, none) ∨ ∃ a' x, f a t = (a', some x) ∧ x.again = none ∧ b = trapAt a' ix t.tid x)
    (s e : State) (ts : List ThreadRef) (h : Lanes lane s ts e) : actLanes s ix ts f = .ok e := by
  unfold actLanes
  induction h with
  | nil s => rfl
  | cons h1 h2 ih =>
    rename_i a b c t ts
    rw [List.foldl_cons]
    rcases hl a t b h1 with h | ⟨a', x, h, hc, rfl⟩
    · simpa [h] using ih
    · simp only [h, hc]
      exact ih

/-- A word made of lanes that make their step. -/
theorem actsByLane_of_actWord (i : Instr) (c : Ctl) (f : Issue → State → ThreadRef → State × Option Trap)
    (lane : State → Issue → State → ThreadRef → State → Prop) (h : ∀ s, exec i s = actWord s c f)
    (hl : ∀ s ix a t b, s.issue = some ix → lane s ix a t b →
      f ix a t = (b, none) ∨ ∃ a' x, f ix a t = (a', some x) ∧ x.again = none ∧ b = trapAt a' ix t.tid x) : actsByLane i c lane := by
  intro s ix e hix hL
  rw [h, actWord, hix]
  simp only [actLanes_of_lanes ix (f ix) (lane s ix) (fun a t b => hl s ix a t b hix) s e _ hL]

end Sys2Proof.Machine
end

