-- ==== Sys2Proof/Machine/Forming.lean ====
section
/-! DEFINITION. How `mymas` forms the clauses of a kernel (01 R16-R23): where clauses begin, which flags they wait on and
set, the stall counts, the NOPs, and the checks of a kernel whose clauses are written out. No step of the device calls it.
Lines are words without hints, not text (log 90). -/

namespace Sys2Proof.Machine

/-- A line of a compact kernel: the labels before it, `.region` before it, the label that its displacement names, its
word with no hint but the yield bit (01 R14), and whether the destination of a QPOP is written as a pair `vN.d` (01 R8, 09 R220), which the
word does not say. -/
structure SourceLine where
  labels : List Nat
  region : Bool
  target : Option Nat
  word : IWord
  pair : Bool := false
deriving DecidableEq, Repr

/-- A formed clause: its labels, its header, its words, each with the label its displacement still has to reach, and the places of those
whose destination is written as a pair. -/
structure Formed where
  labels : List Nat
  hdr : Header
  body : List (Option Nat × IWord)
  pairs : List Nat := []
deriving DecidableEq, Repr

/-- What forming needs of a word: the registers and predicates that it reads or writes, those that it writes, whether its
result is variable, its latency if not (02 R42), and whether it transfers control or waits at a barrier (01 R17). -/
structure WordFacts where
  regs : List Nat
  preds : List Nat
  outRegs : List Nat
  outPreds : List Nat
  isVar : Bool
  lat : Nat
  last : Bool
deriving DecidableEq, Repr

/-- The latency of a fixed-latency word (02 R42); classes 0x10 and 0x13 to 0x15 are 32 where the table names no other. -/
def fixedLatency (cls : Nat) (i : Instr) : Nat :=
  match i with
  | .imul .. | .imulh .. | .imad .. | .iadd64 .. | .hdot2 .. | .idot4 .. | .xlane .. | .vote .. | .cbdec .. | .srd .. | .clk ..
  | .wtime .. | .ctxq .. | .barq .. | .cvpos .. | .qstat .. | .tgany .. | .tgfirst .. | .targ .. | .vfrag .. => 6
  | .dadd .. | .dmul .. | .dfma .. | .dmin .. | .dmax .. | .dcmp .. | .drnd .. => 8
  | .imul64 .. => 10
  | .vmma .. | .vmmai .. => 16
  | .sigrd .. => 24
  | .idivn _ ty _ _ => if ty.is64 then 68 else 36
  | _ => if cls = 0x10 ∨ cls = 0x13 ∨ cls = 0x14 ∨ cls = 0x15 then 32 else 4

/-- Whether an operand of this kind is written. -/
def kindWrites (k : OpKind) : Bool :=
  match k with
  | .vdst .. | .vrw .. | .pdst | .prw => true
  | .none | .src .. | .packed | .srcImm .. | .vsrc .. | .psrc | .imm .. | .base | .off | .atomOff _ | .tileOff | .res _ | .ctr
  | .slot | .kpair | .sreg | .sregW | .occ | .vimm .. => false

/-- The written operands of a word, the others left out. -/
def writtenOf (k : OpKind) (o : Opd) : Opd := if kindWrites k then o else .none

/-- The registers that a word writes, given those of its written operands: CAS only its first register or pair (14 R307), CADJ not the
register of h (12 R278), and QPOP a pair where its destination is written as one (09 R220). -/
def writtenRegs (i : Instr) (pair : Bool) (l : List Nat) : List Nat :=
  match i with
  | .cas .. => l.take (l.length / 2)
  | .cadj _ => l.eraseIdx 3
  | .qpop w => if pair then l ++ [vNum w.a + 1] else l
  | _ => l

/-- The facts of a word, from the operand kinds of its instruction (02 R27, R34) and the form of its destination. -/
def wordFacts (x : IWord) (pair : Bool := false) : WordFacts :=
  match decodeWord x with
  | .error _ => { regs := [], preds := [], outRegs := [], outPreds := [], isVar := false, lat := 0, last := false }
  | .ok i =>
    let k := i.kinds
    let o := i.operands
    let a := writtenOf k.1 o.1
    let b := writtenOf k.2.1 o.2.1
    let c := writtenOf k.2.2 o.2.2
    let guard := match i.ctl? with
      | some g => if g.pred = 7 then [] else [g.pred.toNat]
      | none => []
    let outPreds := opdPreds a ++ opdPreds b ++ opdPreds c ++ (match i with
      | .xlane _ _ pn _ => if pn = 7 then [] else [pn.toNat]
      | .v2p w => (List.range 7).filter fun n => bitAt (immNat w.c) n
      | _ => [])
    let outRegs := writtenRegs i pair (opdRegs k.1 a ++ opdRegs k.2.1 b ++ opdRegs k.2.2 c)
    { regs := dedup (opdRegs k.1 o.1 ++ opdRegs k.2.1 o.2.1 ++ opdRegs k.2.2 o.2.2 ++ outRegs)
      preds := guard ++ predsUsed i
      outRegs := outRegs
      outPreds := outPreds
      isVar := i.variable
      lat := fixedLatency (x.extractLsb' 91 5).toNat i
      last := i.lastOnly }

/-- Whether a word reads or writes what another writes. -/
def WordFacts.meets (u p : WordFacts) : Bool :=
  p.outRegs.any (fun r => u.regs.contains r) || p.outPreds.any fun q => u.preds.contains q

/-- The facts of a line's word. -/
def SourceLine.facts (l : SourceLine) : WordFacts := wordFacts l.word l.pair

/-- A result consumed by a line (01 R18): every pending one at a label, a region or a transfer of control. -/
def SourceLine.consumes (l : SourceLine) (p : WordFacts) : Bool :=
  let f := l.facts
  !l.labels.isEmpty || l.region || f.last || f.meets p

/-- A word of the clause being formed, with its stall count. -/
structure Placed where
  target : Option Nat
  word : IWord
  stall : Nat
  facts : WordFacts
  pair : Bool := false
deriving DecidableEq, Repr

/-- Forming in progress: the clauses formed, last first; the results pending, each with its flag; the busy flags, in the
order in which they were set; and the open clause: labels, region, wait mask, and its words, last first. -/
structure Forming where
  done : List Formed
  pend : List (Nat × WordFacts)
  busy : List Nat
  labels : List Nat
  region : Bool
  wait : List Nat
  body : List Placed
deriving DecidableEq, Repr

/-- NOP (02 R46). -/
def nopWord : IWord := (0x001 : BitVec 10) ++ 0b0111000000#10 ++ (0 : BitVec 10) ++ 0x380000#22 ++ 0x380000#22 ++ 0x380000#22

/-- The clk that a consumer lacks behind the words of its clause, given last first (01 R21); `gap` is the spacing after the
first of them. -/
def shortfall (u : WordFacts) (gap : Nat) (body : List Placed) : Nat :=
  match body with
  | [] => 0
  | p :: ps =>
    let far := gap + 1 + p.stall
    max (if !p.facts.isVar && u.meets p.facts then p.facts.lat - far else 0) (shortfall u far ps)

/-- The stall counts raised for a consumer, latest word first, each up to 7 (01 R21). -/
def raiseStalls (u : WordFacts) (gap : Nat) (body : List Placed) : List Placed :=
  match body with
  | [] => []
  | p :: ps =>
    let add := min (7 - p.stall) (shortfall u gap (p :: ps))
    let q := { p with stall := p.stall + add }
    q :: raiseStalls u (gap + 1 + q.stall) ps

/-- NOPs put before a consumer until nothing is lacking or the clause is full (01 R21). -/
def insertNops (u : WordFacts) (fuel : Nat) (body : List Placed) : List Placed :=
  match fuel with
  | 0 => body
  | n + 1 =>
    let r := shortfall u 0 body
    if r = 0 || decide (32 ≤ body.length) then body
    else insertNops u n ({ target := none, word := nopWord, stall := min 7 (r - 1), facts := wordFacts nopWord } :: body)

/-- The variable-latency words of the open clause. -/
def openVars (body : List Placed) : List WordFacts := (body.reverse.filter fun p => p.facts.isVar).map (·.facts)

/-- Which of them set flag A: those that the first line to consume any of them consumes (01 R19). -/
def flagAOf (vars : List WordFacts) (rest : List SourceLine) : WordFacts → Bool :=
  match rest.find? fun l => vars.any l.consumes with
  | some l => l.consumes
  | none => fun _ => false

/-- A flag for the clause being formed (01 R19): the lowest free one, else the one set earliest, which joins its wait. -/
def takeFlag (f : Forming) : Nat × Forming :=
  match (List.range 12).find? fun n => !f.busy.contains n with
  | some n => (n, { f with busy := f.busy ++ [n] })
  | none =>
    let n := f.busy.headD 0
    (n, { f with wait := f.wait ++ [n], pend := f.pend.filter (fun x => x.1 != n), busy := f.busy.tail ++ [n] })

/-- A word with its hints: the flag field and the stall count, the yield bit as it was (02 R25). -/
def withHints (x : IWord) (flag stall : Nat) : IWord :=
  x.extractLsb' 81 15 ++ BitVec.ofNat 2 flag ++ BitVec.ofNat 3 stall ++ x.extractLsb' 0 76

/-- The open clause closed before the lines that follow it (01 R19-R22); its last word has stall count 0. -/
def closeClause (f : Forming) (rest : List SourceLine) : Forming :=
  match f.body with
  | [] => f
  | z :: zs =>
    let vars := openVars f.body
    let isA := flagAOf vars rest
    let takeIf (want : Bool) (f : Forming) : Nat × Forming := if want then takeFlag f else (15, f)
    let fa := takeIf (vars.any isA) f
    let fb := takeIf (vars.any fun v => !isA v) fa.2
    let g := fb.2
    let words := ({ z with stall := 0 } :: zs).reverse
    let hint (p : Placed) : Nat := if p.facts.isVar then (if isA p.facts then 1 else 2) else 0
    let hdr : Header :=
      { wait := g.wait.foldl (fun m n => m ||| BitVec.twoPow 12 n) 0, fa := BitVec.ofNat 4 fa.1, fb := BitVec.ofNat 4 fb.1,
        count := BitVec.ofNat 5 (words.length - 1), region := f.region }
    { g with
      done := { labels := f.labels, hdr := hdr, body := words.map fun p => (p.target, withHints p.word (hint p) p.stall),
                pairs := (words.zipIdx.filter fun p => p.1.pair).map (·.2) } :: f.done
      pend := g.pend ++ vars.map (fun v => (if isA v then fa.1 else fb.1, v))
      labels := [], region := false, wait := [], body := [] }

/-- A clause opened at a line (01 R20): it waits on the flags whose results the line consumes, and frees them. -/
def openClause (f : Forming) (l : SourceLine) : Forming :=
  let wait := (List.range 12).filter fun n => f.pend.any fun x => decide (x.1 = n) && l.consumes x.2
  { f with labels := l.labels, region := l.region, wait := wait, pend := f.pend.filter (fun x => !wait.contains x.1),
           busy := f.busy.filter fun n => !wait.contains n }

/-- Whether a clause begins at a line, whatever stalls it needs (01 R17). -/
def beginsClause (f : Forming) (l : SourceLine) : Bool :=
  match f.body with
  | [] => true
  | p :: _ => !l.labels.isEmpty || l.region || p.facts.last || decide (32 ≤ f.body.length)
      || f.pend.any (fun x => l.consumes x.2) || (openVars f.body).any l.consumes

/-- A line put behind the words of the open clause. -/
def pushLine (f : Forming) (l : SourceLine) : Forming :=
  { f with body := { target := l.target, word := l.word, stall := 0, facts := l.facts, pair := l.pair } :: f.body }

/-- One line formed (01 R17-R21). -/
def formLine (f : Forming) (l : SourceLine) (rest : List SourceLine) : Forming :=
  let fresh (g : Forming) := pushLine (openClause (closeClause g (l :: rest)) l) l
  if beginsClause f l then fresh f
  else
    let u := l.facts
    let g := { f with body := insertNops u 32 (raiseStalls u 0 f.body) }
    if 32 ≤ g.body.length then fresh g else pushLine g l

/-- Lines formed in order. -/
def formLines (f : Forming) (ls : List SourceLine) : Forming :=
  match ls with
  | [] => closeClause f []
  | l :: rest => formLines (formLine f l rest) rest

/-- The clauses of a compact kernel or procedure (01 R17-R22). -/
def formKernel (ls : List SourceLine) : List Formed :=
  (formLines { done := [], pend := [], busy := [], labels := [], region := false, wait := [], body := [] } ls).done.reverse

/-- How many words stand before the clause with a label. -/
def labelPlace (cs : List Formed) (n : Nat) : Option Nat :=
  match cs with
  | [] => none
  | c :: rest => if c.labels.contains n then some 0 else (labelPlace rest n).map (· + (1 + c.body.length))

/-- A branch or call with its displacement from its own address to the label, in units of 4 bytes (02 R31). -/
def withTarget (cs : List Formed) (place : Nat) (w : Option Nat × IWord) : IWord :=
  match w.1.bind (labelPlace cs) with
  | some q => w.2.extractLsb' 32 64 ++ BitVec.ofInt 32 (3 * ((q : Int) - (place : Int)))
  | none => w.2

/-- The words of the clauses from a place on: each header, then its body. -/
def clauseWords (all : List Formed) (place : Nat) (cs : List Formed) : List IWord :=
  match cs with
  | [] => []
  | c :: rest =>
    c.hdr.encode :: (c.body.zipIdx.map fun x => withTarget all (place + 1 + x.2) x.1)
      ++ clauseWords all (place + 1 + c.body.length) rest

/-- The words that `mymas` emits for a compact kernel. -/
def kernelWords (ls : List SourceLine) : List IWord := clauseWords (formKernel ls) 0 (formKernel ls)

/-- The checks of a clause that is written out (01 R22): its count, two flags that differ, hints that name flags the header
has, and a flag for every variable-latency word. -/
def verboseClauseOk (c : Formed) : Bool :=
  decide (c.body.length = c.hdr.count.toNat + 1) && !(decide (c.hdr.fa = c.hdr.fb) && decide (c.hdr.fa ≠ 15))
    && c.body.all fun w =>
      let a := w.2.getLsbD 79
      let b := w.2.getLsbD 80
      (!a || decide (c.hdr.fa ≠ 15)) && (!b || decide (c.hdr.fb ≠ 15)) && (a || b || !(wordFacts w.2).isVar)

/-- The compact lines of a clause that is written out: headers and hints dropped, the yield bit and `.region` kept (01 R23). -/
def compactLines (c : Formed) : List SourceLine :=
  c.body.zipIdx.map fun x =>
    { labels := if x.2 = 0 then c.labels else [], region := x.2 = 0 && c.hdr.region, target := x.1.1, word := withHints x.1.2 0 0,
      pair := c.pairs.contains x.2 }

/-- The compact spelling of a verbose kernel, where forming it again gives every bit back (01 R23). -/
def compactSpelling (cs : List Formed) : Option (List SourceLine) :=
  let ls := cs.flatMap compactLines
  if formKernel ls = cs then some ls else none

end Sys2Proof.Machine
end

