-- ==== Sys2Proof/Tests/Slice0.lean ====
section
/-! SUPPORT. Tests: words written out from the encoding tables, ill-formed words that the check refuses, single steps, and a witness for the
hypotheses of every statement. -/

namespace Sys2Proof.Tests

open Sys2Proof Sys2Proof.Machine

/-! Words from the tables (02 R25-R31, R40): operand fields by class, modifiers by layout, the guard `pt`, no hints. -/

def eV (n : Nat) : BitVec 22 := BitVec.ofNat 22 n
def eP (n : Nat) : BitVec 22 := BitVec.ofNat 22 (0x080000 + n)
def eK (n : Nat) : BitVec 22 := BitVec.ofNat 22 (0x100000 + n)
def eS (n : Nat) : BitVec 22 := BitVec.ofNat 22 (0x180000 + n)
def eI (n : Nat) : BitVec 22 := BitVec.ofNat 22 (0x200000 + n)
def eRole (n : Nat) : BitVec 22 := BitVec.ofNat 22 (0x280000 + n)
def eRes (kind n : Nat) : BitVec 22 := BitVec.ofNat 22 (0x300000 + kind * 0x1000 + n)
def eNone : BitVec 22 := 0x380000

def mT (ty op : Nat) : BitVec 10 := BitVec.ofNat 10 (ty * 64 + op)
def mK (ty cmp op : Nat) : BitVec 10 := BitVec.ofNat 10 (ty * 64 + cmp * 8 + op)
def mS (ty scope ord op : Nat) : BitVec 10 := BitVec.ofNat 10 (ty * 64 + scope * 8 + ord * 2 + op)
def mO (op : Nat) : BitVec 10 := BitVec.ofNat 10 op

/-- The guard `pt`, no hints. -/
def pt : Ctl := { neg := false, pred := 7, yield := false, fa := false, fb := false, stall := 0 }
/-- The same in a clause whose flag A the word sets. -/
def ptA : Ctl := { pt with fa := true }

def wd (a b c : Opd) : Wd := { ctl := pt, a := a, b := b, c := c }

/-- What three 32-bit words decode to, word 2 first. -/
def dec3 (w2 w1 w0 : BitVec 32) : Option Instr := (decodeWord (w2 ++ w1 ++ w0)).toOption

/-- What an opcode decodes to with a modifier and three operand fields. -/
def dec (op m : BitVec 10) (a b c : BitVec 22) : Option Instr := (decodeWord (op ++ 0b0111000000#10 ++ m ++ a ++ b ++ c)).toOption

/-- 07 R140-R146: opcode, modifier and operands as the encoding table gives them. -/
theorem test_decode_control :
    dec 0x001 (mO 0) (eNone) (eNone) (eNone) = some (.nop (wd .none .none .none))
    ∧ dec 0x003 (mO 0) (eNone) (eV 2) (eNone) = some (.brx (wd .none (.v 2 false false) .none))
    ∧ dec 0x005 (mO 0) (eNone) (eV 30) (eNone) = some (.ret (wd .none (.v 30 false false) .none))
    ∧ dec 0x006 (mO 0) (eNone) (eNone) (eNone) = some (.reform (wd .none .none .none))
    ∧ dec 0x007 (mO 0) (eNone) (eNone) (eNone) = some (.exit (wd .none .none .none))
    ∧ dec 0x008 (mO 0) (eNone) (eNone) (eI 7) = some (.yield (wd .none .none (.imm 7)))
    ∧ dec 0x009 (mO 0) (eNone) (eNone) (eI 4095) = some (.waitf (wd .none .none (.imm 4095)))
    ∧ dec 0x00A (mO 0) (eNone) (eV 3) (eNone) = some (.trap (wd .none (.v 3 false false) .none))
    ∧ dec 0x00B (mO 0) (eNone) (eI 9) (eNone) = some (.bkpt (wd .none (.imm 9) .none)) := by
  decide

/-- 07 R147: opcode, modifier and operands as the encoding table gives them. -/
theorem test_decode_integer :
    dec 0x020 (mT 1 0) (eV 1) (eV 2) (eV 3) = some (.iadd (wd (.v 1 false false) (.v 2 false false) (.v 3 false false)) .n32 false)
    ∧ dec 0x021 (mT 0 1) (eV 1) (eV 2) (eI 5) = some (.isub (wd (.v 1 false false) (.v 2 false false) (.imm 5)) .i32 true)
    ∧ dec 0x022 (mT 0 0) (eV 1) (eV 2) (eV 3) = some (.imul (wd (.v 1 false false) (.v 2 false false) (.v 3 false false)) .i32 false)
    ∧ dec 0x023 (mT 1 0) (eV 1) (eV 2) (eV 3) = some (.imulh (wd (.v 1 false false) (.v 2 false false) (.v 3 false false)) .n32)
    ∧ dec 0x024 (mT 0 1) (eV 1) (eV 2) (eV 3) = some (.imad (wd (.v 1 false false) (.v 2 false false) (.v 3 false false)) .i32 true)
    ∧ dec 0x025 (mT 0 0) (eV 1) (eV 2) (eV 3) = some (.imin (wd (.v 1 false false) (.v 2 false false) (.v 3 false false)) .i32)
    ∧ dec 0x026 (mT 1 0) (eV 1) (eV 2) (eK 4) = some (.imax (wd (.v 1 false false) (.v 2 false false) (.k 4 false false)) .n32)
    ∧ dec 0x027 (mT 0 1) (eV 1) (eV 2) (eNone) = some (.iabs (wd (.v 1 false false) (.v 2 false false) .none) true)
    ∧ dec 0x028 (mT 2 0) (eV 2) (eV 4) (eI 2) = some (.iadd64 (wd (.v 2 false false) (.v 4 false false) (.imm 2)) .i64 false)
    ∧ dec 0x029 (mT 3 1) (eV 2) (eV 4) (eV 6) = some (.imul64 (wd (.v 2 false false) (.v 4 false false) (.v 6 false false)) .n64 true)
    ∧ dec 0x02A (mT 1 5) (eV 2) (eV 4) (eV 7) = some (.lea (wd (.v 2 false false) (.v 4 false false) (.v 7 false false)) .n32 5)
    ∧ dec 0x02B (mT 0 2) (eV 1) (eV 2) (eV 3) = some (.idivn (wd (.v 1 false false) (.v 2 false false) (.v 3 false false)) .i32 false true) := by
  decide

/-- 07 R150: opcode, modifier and operands as the encoding table gives them. -/
theorem test_decode_bit :
    dec 0x040 (mT 0 0) (eV 1) (eV 2) (eV 3) = some (.and (wd (.v 1 false false) (.v 2 false false) (.v 3 false false)))
    ∧ dec 0x041 (mT 0 0) (eV 1) (eV 2) (eV 3) = some (.or (wd (.v 1 false false) (.v 2 false false) (.v 3 false false)))
    ∧ dec 0x042 (mT 0 0) (eV 1) (eV 2) (eV 3) = some (.xor (wd (.v 1 false false) (.v 2 false false) (.v 3 false false)))
    ∧ dec 0x043 (mT 0 0) (eV 1) (eV 2) (eV 3) = some (.andn (wd (.v 1 false false) (.v 2 false false) (.v 3 false false)))
    ∧ dec 0x045 (mT 0 0) (eV 1) (eV 2) (eV 3) = some (.shl (wd (.v 1 false false) (.v 2 false false) (.v 3 false false)))
    ∧ dec 0x047 (mT 0 0) (eV 1) (eV 2) (eV 3) = some (.rotr (wd (.v 1 false false) (.v 2 false false) (.v 3 false false)))
    ∧ dec 0x049 (mT 0 0) (eV 1) (eV 2) (eV 3) = some (.bfi (wd (.v 1 false false) (.v 2 false false) (.v 3 false false)))
    ∧ dec 0x04D (mT 0 0) (eV 1) (eV 2) (eV 3) = some (.bsel (wd (.v 1 false false) (.v 2 false false) (.v 3 false false)))
    ∧ dec 0x044 (mT 0 0) (eV 1) (eV 2) (eI 202) = some (.bfn3 (wd (.v 1 false false) (.v 2 false false) (.imm 202)))
    ∧ dec 0x046 (mT 0 1) (eV 1) (eV 2) (eV 3) = some (.shr (wd (.v 1 false false) (.v 2 false false) (.v 3 false false)) true)
    ∧ dec 0x04A (mT 0 0) (eV 1) (eV 2) (eNone) = some (.popc (wd (.v 1 false false) (.v 2 false false) .none))
    ∧ dec 0x04B (mT 0 0) (eV 1) (eV 2) (eNone) = some (.clz (wd (.v 1 false false) (.v 2 false false) .none))
    ∧ dec 0x04C (mT 0 0) (eV 1) (eV 2) (eNone) = some (.brev (wd (.v 1 false false) (.v 2 false false) .none))
    ∧ dec 0x048 (mT 0 0) (eV 1) (eV 2) (eV 3) = some (.bfe (wd (.v 1 false false) (.v 2 false false) (.v 3 false false)) .i32) := by
  decide

/-- 07 R152, R155-R157: opcode, modifier and operands as the encoding table gives them. -/
theorem test_decode_compare :
    dec 0x060 (mK 1 2 1) (eP 4) (eV 7) (eV 8) = some (.icmp (wd (.p 4 false) (.v 7 false false) (.v 8 false false)) .n32 .lt .and)
    ∧ dec 0x061 (mT 2 11) (eV 2) (eV 4) (eV 6) = some (.sel (wd (.v 2 false false) (.v 4 false false) (.v 6 false false)) .i64 true 3)
    ∧ dec 0x062 (mT 0 0) (eV 1) (eV 2) (eNone) = some (.mov (wd (.v 1 false false) (.v 2 false false) .none))
    ∧ dec 0x064 (mK 0 4 2) (eP 1) (eP 2) (eP 3) = some (.pset (wd (.p 1 false) (.p 2 false) (.p 3 false)) .gt .or)
    ∧ dec 0x065 (mT 0 0) (eV 1) (eNone) (eNone) = some (.p2v (wd (.v 1 false false) .none .none))
    ∧ dec 0x066 (mT 0 0) (eNone) (eV 2) (eI 127) = some (.v2p (wd .none (.v 2 false false) (.imm 127)))
    ∧ dec 0x067 (mT 0 6) (eV 3) (eV 2) (eI 1) = some (.xlane (wd (.v 3 false false) (.v 2 false false) (.imm 1)) .i32 1 .down)
    ∧ dec 0x068 (mT 0 2) (eV 1) (eP 7) (eNone) = some (.vote (wd (.v 1 false false) (.p 7 false) .none) .ballot)
    ∧ dec 0x069 (mT 0 0) (eV 5) (eNone) (eNone) = some (.teamid (wd (.v 5 false false) .none .none)) := by
  decide

/-- 07 R158: opcode, modifier and operands as the encoding table gives them. -/
theorem test_decode_float :
    dec 0x080 (mT 8 0) (eV 1) (eV 2) (eV 3) = some (.fadd (wd (.v 1 false false) (.v 2 false false) (.v 3 false false)))
    ∧ dec 0x081 (mT 8 0) (eV 1) (eV 2) (eV 3) = some (.fsub (wd (.v 1 false false) (.v 2 false false) (.v 3 false false)))
    ∧ dec 0x082 (mT 8 0) (eV 1) (eV 2) (eV 3) = some (.fmul (wd (.v 1 false false) (.v 2 false false) (.v 3 false false)))
    ∧ dec 0x083 (mT 8 0) (eV 1) (eV 2) (eV 3) = some (.ffma (wd (.v 1 false false) (.v 2 false false) (.v 3 false false)))
    ∧ dec 0x084 (mT 8 0) (eV 1) (eV 2) (eV 3) = some (.fmin (wd (.v 1 false false) (.v 2 false false) (.v 3 false false)))
    ∧ dec 0x085 (mT 8 0) (eV 1) (eV 2) (eV 3) = some (.fmax (wd (.v 1 false false) (.v 2 false false) (.v 3 false false)))
    ∧ dec 0x086 (mK 8 7 0) (eP 1) (eV 2) (eV 3) = some (.fcmp (wd (.p 1 false) (.v 2 false false) (.v 3 false false)) .unord .none)
    ∧ dec 0x087 (mT 8 2) (eV 1) (eV 2) (eNone) = some (.frnd (wd (.v 1 false false) (.v 2 false false) .none) .rd)
    ∧ dec 0x088 (mT 0 0) (eNone) (eNone) (eI 63) = some (.fchk (wd .none .none (.imm 63)))
    ∧ dec 0x089 (mT 0 0) (eV 9) (eI 0) (eI 63) = some (.fflags (wd (.v 9 false false) (.imm 0) (.imm 63)))
    ∧ dec 0x0A0 (mT 9 0) (eV 2) (eV 4) (eV 6) = some (.dadd (wd (.v 2 false false) (.v 4 false false) (.v 6 false false)))
    ∧ dec 0x0A1 (mT 9 0) (eV 2) (eV 4) (eV 6) = some (.dmul (wd (.v 2 false false) (.v 4 false false) (.v 6 false false)))
    ∧ dec 0x0A2 (mT 9 0) (eV 2) (eV 4) (eV 6) = some (.dfma (wd (.v 2 false false) (.v 4 false false) (.v 6 false false)))
    ∧ dec 0x0A3 (mT 9 0) (eV 2) (eV 4) (eV 6) = some (.dmin (wd (.v 2 false false) (.v 4 false false) (.v 6 false false)))
    ∧ dec 0x0A4 (mT 9 0) (eV 2) (eV 4) (eV 6) = some (.dmax (wd (.v 2 false false) (.v 4 false false) (.v 6 false false)))
    ∧ dec 0x0A5 (mK 9 6 2) (eP 1) (eV 2) (eV 4) = some (.dcmp (wd (.p 1 false) (.v 2 false false) (.v 4 false false)) .ord .or)
    ∧ dec 0x0A6 (mT 9 3) (eV 2) (eV 4) (eNone) = some (.drnd (wd (.v 2 false false) (.v 4 false false) .none) .ru) := by
  decide

/-- 07 R164, R166: opcode, modifier and operands as the encoding table gives them. -/
theorem test_decode_packed_special :
    dec 0x0C0 (mT 11 0) (eV 1) (eV 2) (eV 3) = some (.hadd2 (wd (.v 1 false false) (.v 2 false false) (.v 3 false false)) .bf16)
    ∧ dec 0x0C1 (mT 10 0) (eV 1) (eV 2) (eV 3) = some (.hmul2 (wd (.v 1 false false) (.v 2 false false) (.v 3 false false)) .f16)
    ∧ dec 0x0C2 (mT 11 0) (eV 1) (eV 2) (eV 3) = some (.hfma2 (wd (.v 1 false false) (.v 2 false false) (.v 3 false false)) .bf16)
    ∧ dec 0x0C3 (mT 10 0) (eV 1) (eV 2) (eV 3) = some (.hmin2 (wd (.v 1 false false) (.v 2 false false) (.v 3 false false)) .f16)
    ∧ dec 0x0C4 (mT 11 0) (eV 1) (eV 2) (eV 3) = some (.hmax2 (wd (.v 1 false false) (.v 2 false false) (.v 3 false false)) .bf16)
    ∧ dec 0x0C5 (mT 10 0) (eV 1) (eV 2) (eV 3) = some (.hdot2 (wd (.v 1 false false) (.v 2 false false) (.v 3 false false)) .f16)
    ∧ dec 0x0C6 (mT 7 1) (eV 1) (eV 2) (eV 3) = some (.idot4 (wd (.v 1 false false) (.v 2 false false) (.v 3 false false)) .n8 true)
    ∧ dec 0x0E0 (mT 8 0) (eV 1) (eV 2) (eNone) = some (.rcp (wd (.v 1 false false) (.v 2 false false) .none) .f32)
    ∧ dec 0x0E1 (mT 9 0) (eV 2) (eV 4) (eNone) = some (.rsq (wd (.v 2 false false) (.v 4 false false) .none) .f64)
    ∧ dec 0x0E2 (mT 8 0) (eV 1) (eV 2) (eNone) = some (.sqrt (wd (.v 1 false false) (.v 2 false false) .none) .f32)
    ∧ dec 0x0E3 (mT 8 0) (eV 1) (eV 2) (eNone) = some (.exp2 (wd (.v 1 false false) (.v 2 false false) .none))
    ∧ dec 0x0E4 (mT 8 0) (eV 1) (eV 2) (eNone) = some (.log2 (wd (.v 1 false false) (.v 2 false false) .none))
    ∧ dec 0x0E5 (mT 8 0) (eV 1) (eV 2) (eNone) = some (.sin (wd (.v 1 false false) (.v 2 false false) .none))
    ∧ dec 0x0E6 (mT 8 0) (eV 1) (eV 2) (eNone) = some (.cos (wd (.v 1 false false) (.v 2 false false) .none))
    ∧ dec 0x0E7 (mT 8 0) (eV 1) (eV 2) (eNone) = some (.tanh (wd (.v 1 false false) (.v 2 false false) .none)) := by
  decide

/-- 07 R167; 10 R234: opcode, modifier and operands as the encoding table gives them. -/
theorem test_decode_conversion_choice :
    dec 0x100 (mT 0 33) (eV 1) (eV 2) (eNone) = some (.cvt (wd (.v 1 false false) (.v 2 false false) .none) .i32 .f32 true)
    ∧ dec 0x101 (mT 12 0) (eV 1) (eV 2) (eV 3) = some (.cvts (wd (.v 1 false false) (.v 2 false false) (.v 3 false false)) .f8e4 false)
    ∧ dec 0x102 (mT 6 1) (eV 1) (eV 2) (eV 3) = some (.pack8 (wd (.v 1 false false) (.v 2 false false) (.v 3 false false)) .i8 false true)
    ∧ dec 0x103 (mT 7 0) (eV 1) (eV 2) (eI 3) = some (.unpack8 (wd (.v 1 false false) (.v 2 false false) (.imm 3)) .n8)
    ∧ dec 0x104 (mT 6 0) (eV 2) (eV 4) (eNone) = some (.cbdec (wd (.v 2 false false) (.v 4 false false) .none))
    ∧ dec 0x105 (mT 8 0) (eV 1) (eV 2) (eV 3) = some (.scale (wd (.v 1 false false) (.v 2 false false) (.v 3 false false)))
    ∧ dec 0x120 (mO 0) (eV 4) (eI 17) (eV 6) = some (.draw (wd (.v 4 false false) (.imm 17) (.v 6 false false)))
    ∧ dec 0x121 (mO 0) (eV 4) (eI 4095) (eK 2) = some (.drawf (wd (.v 4 false false) (.imm 4095) (.k 2 false false)))
    ∧ dec 0x122 (mO 0) (eP 1) (eI 0) (eI 4095) = some (.drawb (wd (.p 1 false) (.imm 0) (.imm 4095)))
    ∧ dec 0x123 (mO 0) (eV 2) (eNone) (eNone) = some (.cvpos (wd (.v 2 false false) .none .none))
    ∧ dec 0x124 (mO 0) (eNone) (eV 3) (eNone) = some (.cvscore (wd .none (.v 3 false false) .none)) := by
  decide

/-- 09 R196, R203, R206; 14 R304: opcode, modifier and operands as the encoding table gives them. -/
theorem test_decode_memory :
    dec 0x140 (mS 5 4 1 1) (eV 4) (eV 2) (eI 8) = some (.ld (wd (.v 4 false false) (.v 2 false false) (.imm 8)) .n16 .dev .acq true)
    ∧ dec 0x141 (mS 5 4 0 0) (eV 6) (eV 4) (eI 0) = some (.st (wd (.v 6 false false) (.v 4 false false) (.imm 0)) .n16 .dev .rlx false)
    ∧ dec 0x142 (mS 0 4 0 1) (eNone) (eV 2) (eI 0) = some (.pref (wd .none (.v 2 false false) (.imm 0)) true)
    ∧ dec 0x143 (mS 8 4 0 0) (eV 1) (eK 2) (eI 4) = some (.ldk (wd (.v 1 false false) (.k 2 false false) (.imm 4)) .f32)
    ∧ dec 0x160 (mS 8 2 1 0) (eV 9) (eV 7) (eI 256) = some (.lda (wd (.v 9 false false) (.v 7 false false) (.imm 256)) .f32 .cg .acq)
    ∧ dec 0x161 (mS 0 0 2 0) (eV 9) (eV 7) (eI 0) = some (.sta (wd (.v 9 false false) (.v 7 false false) (.imm 0)) .i32 .th .rel)
    ∧ dec 0x162 (mS 0 0 0 0) (eV 1) (eRes 0 3) (eI 65535) = some (.ldc (wd (.v 1 false false) (.res .q 3) (.imm 65535)) .i32)
    ∧ dec 0x163 (mS 8 0 0 0) (eV 1) (eRes 0 0) (eV 2) = some (.stc (wd (.v 1 false false) (.res .q 0) (.v 2 false false)) .f32)
    ∧ dec 0x180 (mS 0 4 3 0) (eV 4) (eV 2) (eI 8) = some (.atom (wd (.v 4 false false) (.v 2 false false) (.imm 8)) .i32 .dev .ar)
    ∧ dec 0x181 (mS 1 1 0 0) (eV 4) (eV 2) (eI 0) = some (.cas (wd (.v 4 false false) (.v 2 false false) (.imm 0)) .n32 .pg .rlx)
    ∧ dec 0x182 (mS 2 5 2 0) (eV 4) (eV 2) (eI 0) = some (.red (wd (.v 4 false false) (.v 2 false false) (.imm 0)) .i64 .sys .rel)
    ∧ dec 0x183 (mS 9 3 0 0) (eV 4) (eV 2) (eI 0) = some (.fred (wd (.v 4 false false) (.v 2 false false) (.imm 0)) .f64 .dg .rlx)
    ∧ dec 0x184 (mS 8 4 0 0) (eV 1) (eV 2) (eI 0) = some (.redobjInit (wd (.v 1 false false) (.v 2 false false) (.imm 0)) .f32 .dev .rlx)
    ∧ dec 0x184 (mS 8 4 0 1) (eNone) (eV 2) (eI 0) = some (.redobjFold (wd .none (.v 2 false false) (.imm 0)) .f32 .dev .rlx)
    ∧ dec 0x1A0 (mS 0 5 3 0) (eNone) (eNone) (eNone) = some (.fence (wd .none .none .none) .sys .ar)
    ∧ dec 0x1A1 (mS 0 4 0 0) (eNone) (eV 2) (eI 0) = some (.cflush (wd .none (.v 2 false false) (.imm 0)))
    ∧ dec 0x1A2 (mS 0 4 0 1) (eNone) (eV 2) (eI 0) = some (.cinv (wd .none (.v 2 false false) (.imm 0)) true)
    ∧ dec 0x1A3 (mS 1 5 2 0) (eV 1) (eV 2) (eI 0) = some (.hwsig (wd (.v 1 false false) (.v 2 false false) (.imm 0)) .n32) := by
  decide

/-- 09 R213, R219: opcode, modifier and operands as the encoding table gives them. -/
theorem test_decode_copy_stream :
    dec 0x1C0 (mO 0) (eRes 2 63) (eV 2) (eI 0) = some (.bcopy (wd (.res .tag 63) (.v 2 false false) (.imm 0)))
    ∧ dec 0x1C1 (mO 0) (eRes 2 0) (eV 2) (eI 0) = some (.bgath (wd (.res .tag 0) (.v 2 false false) (.imm 0)))
    ∧ dec 0x1C2 (mO 0) (eRes 2 1) (eV 2) (eI 0) = some (.bscat (wd (.res .tag 1) (.v 2 false false) (.imm 0)))
    ∧ dec 0x1C3 (mO 1) (eNone) (eV 2) (eNone) = some (.tgwait (wd .none (.v 2 false false) .none) true)
    ∧ dec 0x1C4 (mO 1) (eV 4) (eV 2) (eNone) = some (.tgany (wd (.v 4 false false) (.v 2 false false) .none) true)
    ∧ dec 0x1C5 (mO 0) (eV 4) (eV 2) (eNone) = some (.tgfirst (wd (.v 4 false false) (.v 2 false false) .none) false)
    ∧ dec 0x1C6 (mO 0) (eNone) (eV 2) (eNone) = some (.tgclr (wd .none (.v 2 false false) .none))
    ∧ dec 0x1E0 (mO 0) (eRes 1 3) (eV 2) (eI 0) = some (.aslice (wd (.res .aq 3) (.v 2 false false) (.imm 0)))
    ∧ dec 0x1E1 (mO 0) (eV 1) (eRes 1 0) (eNone) = some (.qpop (wd (.v 1 false false) (.res .aq 0) .none))
    ∧ dec 0x1E2 (mO 0) (eV 1) (eRes 1 1) (eNone) = some (.qstat (wd (.v 1 false false) (.res .aq 1) .none))
    ∧ dec 0x1E3 (mO 0) (eRes 1 2) (eNone) (eNone) = some (.qend (wd (.res .aq 2) .none .none)) := by
  decide

/-- 11 R237, R258: opcode, modifier and operands as the encoding table gives them. -/
theorem test_decode_matrix :
    dec 0x200 (mO 0) (eNone) (eNone) (eNone) = some (.macq (wd .none .none .none))
    ∧ dec 0x201 (mO 0) (eNone) (eNone) (eNone) = some (.mrel (wd .none .none .none))
    ∧ dec 0x202 (mO 0) (eNone) (eI 3) (eNone) = some (.gang (wd .none (.imm 3) .none))
    ∧ dec 0x203 (mO 0) (eV 1) (eV 2) (eI 0) = some (.resv (wd (.v 1 false false) (.v 2 false false) (.imm 0)))
    ∧ dec 0x204 (mO 0) (eNone) (eV 1) (eNone) = some (.rfree (wd .none (.v 1 false false) .none))
    ∧ dec 0x205 (mO 0) (eRes 2 4) (eV 2) (eI 0) = some (.cbld (wd (.res .tag 4) (.v 2 false false) (.imm 0)))
    ∧ dec 0x206 (mO 11) (eRes 0 3) (eV 8) (eV 9) = some (.mma (wd (.res .q 3) (.v 8 false false) (.v 9 false false)) .bf16)
    ∧ dec 0x207 (mO 13) (eRes 0 3) (eV 8) (eV 10) = some (.mmas (wd (.res .q 3) (.v 8 false false) (.v 10 false false)) .f8e5)
    ∧ dec 0x208 (mO 0) (eNone) (eI 65535) (eNone) = some (.mzero (wd .none (.imm 65535) .none))
    ∧ dec 0x209 (mO 0) (eRes 0 15) (eV 2) (eI 0) = some (.mdrain (wd (.res .q 15) (.v 2 false false) (.imm 0)))
    ∧ dec 0x20A (mO 0) (eRes 0 1) (eV 2) (eI 0) = some (.mfill (wd (.res .q 1) (.v 2 false false) (.imm 0)))
    ∧ dec 0x20B (mO 0) (eV 1) (eV 2) (eNone) = some (.mwait (wd (.v 1 false false) (.v 2 false false) .none))
    ∧ dec 0x20C (mO 0) (eRes 0 1) (eRes 7 4095) (eNone) = some (.mdep (wd (.res .q 1) (.res .dc 4095) .none))
    ∧ dec 0x220 (mO 10) (eV 8) (eV 4) (eV 12) = some (.vmma (wd (.v 8 false false) (.v 4 false false) (.v 12 false false)) .f16)
    ∧ dec 0x221 (mO 0) (eV 8) (eV 4) (eV 12) = some (.vmmai (wd (.v 8 false false) (.v 4 false false) (.v 12 false false)))
    ∧ dec 0x222 (mO 23) (eV 4) (eV 8) (eNone) = some (.vfrag (wd (.v 4 false false) (.v 8 false false) .none) .bf16 true) := by
  decide

/-- 14 R299; 05 R104; 20 R353: opcode, modifier and operands as the encoding table gives them. -/
theorem test_decode_barrier_task :
    dec 0x240 (mO 0) (eRes 3 7) (eNone) (eNone) = some (.bara (wd (.res .pb 7) .none .none))
    ∧ dec 0x241 (mO 0) (eRes 5 3) (eNone) (eNone) = some (.barw (wd (.res .db 3) .none .none))
    ∧ dec 0x242 (mO 0) (eRes 4 1) (eNone) (eNone) = some (.baraw (wd (.res .cb 1) .none .none))
    ∧ dec 0x243 (mO 0) (eV 1) (eRes 6 0) (eNone) = some (.barq (wd (.v 1 false false) (.res .gb 0) .none))
    ∧ dec 0x244 (mO 0) (eNone) (eNone) (eNone) = some (.teamj (wd .none .none .none))
    ∧ dec 0x260 (mO 7) (eV 5) (eV 2) (eI 0) = some (.tenq (wd (.v 5 false false) (.v 2 false false) (.imm 0)) 7)
    ∧ dec 0x261 (mO 0) (eV 5) (eI 11) (eNone) = some (.targ (wd (.v 5 false false) (.imm 11) .none))
    ∧ dec 0x262 (mO 0) (eRes 7 0) (eV 2) (eNone) = some (.dcnew (wd (.res .dc 0) (.v 2 false false) .none))
    ∧ dec 0x263 (mO 0) (eRes 7 1) (eI 1) (eNone) = some (.dcdec (wd (.res .dc 1) (.imm 1) .none))
    ∧ dec 0x264 (mO 0) (eV 1) (eRes 7 2) (eNone) = some (.dcq (wd (.v 1 false false) (.res .dc 2) .none))
    ∧ dec 0x265 (mO 0) (eV 5) (eV 2) (eI 0) = some (.launch (wd (.v 5 false false) (.v 2 false false) (.imm 0)))
    ∧ dec 0x266 (mO 0) (eV 5) (eV 2) (eI 0) = some (.mutl (wd (.v 5 false false) (.v 2 false false) (.imm 0))) := by
  decide

/-- 12 R265; 13 R279, R290: opcode, modifier and operands as the encoding table gives them. -/
theorem test_decode_splat_reuse :
    dec 0x280 (mO 0) (eRes 2 0) (eV 2) (eI 0) = some (.sproj (wd (.res .tag 0) (.v 2 false false) (.imm 0)))
    ∧ dec 0x281 (mO 0) (eRes 2 0) (eV 2) (eI 0) = some (.ssort (wd (.res .tag 0) (.v 2 false false) (.imm 0)))
    ∧ dec 0x282 (mO 31) (eV 4) (eV 2) (eI 0) = some (.sfetch (wd (.v 4 false false) (.v 2 false false) (.imm 0)) 31)
    ∧ dec 0x283 (mO 0) (eI 2) (eV 16) (eNone) = some (.cdep (wd (.imm 2) (.v 16 false false) .none))
    ∧ dec 0x284 (mO 0) (eI 7) (eV 1) (eNone) = some (.cwmark (wd (.imm 7) (.v 1 false false) .none))
    ∧ dec 0x285 (mO 0) (eV 40) (eI 0) (eV 0) = some (.cread (wd (.v 40 false false) (.imm 0) (.v 0 false false)))
    ∧ dec 0x286 (mO 0) (eV 4) (eI 0) (eV 1) = some (.crlist (wd (.v 4 false false) (.imm 0) (.v 1 false false)))
    ∧ dec 0x287 (mO 0) (eV 8) (eV 16) (eNone) = some (.cadj (wd (.v 8 false false) (.v 16 false false) .none))
    ∧ dec 0x288 (mO 0) (eI 1) (eV 2) (eI 0) = some (.crst (wd (.imm 1) (.v 2 false false) (.imm 0)))
    ∧ dec 0x288 (mO 1) (eI 1) (eNone) (eNone) = some (.crstRel (wd (.imm 1) .none .none))
    ∧ dec 0x2A0 (mO 0) (eRes 2 0) (eV 2) (eI 0) = some (.rproj (wd (.res .tag 0) (.v 2 false false) (.imm 0)))
    ∧ dec 0x2A1 (mO 0) (eRes 2 0) (eV 2) (eI 0) = some (.rwlist (wd (.res .tag 0) (.v 2 false false) (.imm 0)))
    ∧ dec 0x2A2 (mO 1) (eV 20) (eV 8) (eK 4) = some (.trace (wd (.v 20 false false) (.v 8 false false) (.k 4 false false)) true)
    ∧ dec 0x2A3 (mO 0) (eV 16) (eV 2) (eI 0) = some (.asupd (wd (.v 16 false false) (.v 2 false false) (.imm 0)))
    ∧ dec 0x2A4 (mO 0) (eV 1) (eNone) (eNone) = some (.asq (wd (.v 1 false false) .none .none))
    ∧ dec 0x2C0 (mS 8 4 0 0) (eV 4) (eV 2) (eK 4) = some (.tex (wd (.v 4 false false) (.v 2 false false) (.k 4 false false)))
    ∧ dec 0x2C1 (mS 8 4 0 0) (eV 4) (eV 2) (eK 4) = some (.tld (wd (.v 4 false false) (.v 2 false false) (.k 4 false false)))
    ∧ dec 0x2C2 (mS 12 1 2 0) (eV 4) (eV 2) (eK 4) = some (.imst (wd (.v 4 false false) (.v 2 false false) (.k 4 false false)) .f8e4 .pg .rel)
    ∧ dec 0x2C3 (mS 0 4 1 0) (eV 4) (eV 2) (eK 4) = some (.imld (wd (.v 4 false false) (.v 2 false false) (.k 4 false false)) .i32 .dev .acq) := by
  decide

/-- 18 R340; 22 R372: opcode, modifier and operands as the encoding table gives them. -/
theorem test_decode_system :
    dec 0x2E0 (mO 1) (eV 2) (eS 6) (eNone) = some (.srd (wd (.v 2 false false) (.sr 6) .none) true)
    ∧ dec 0x2E1 (mO 0) (eS 18) (eV 1) (eNone) = some (.swr (wd (.sr 18) (.v 1 false false) .none))
    ∧ dec 0x2E2 (mO 0) (eV 2) (eNone) (eNone) = some (.clk (wd (.v 2 false false) .none .none))
    ∧ dec 0x2E3 (mO 0) (eV 2) (eNone) (eNone) = some (.wtime (wd (.v 2 false false) .none .none))
    ∧ dec 0x2E4 (mO 0) (eV 1) (eI 7) (eNone) = some (.sigrd (wd (.v 1 false false) (.imm 7) .none))
    ∧ dec 0x300 (mO 0) (eNone) (eNone) (eNone) = some (.tretRes (wd .none .none .none))
    ∧ dec 0x300 (mO 1) (eNone) (eNone) (eNone) = some (.tretRst (wd .none .none .none))
    ∧ dec 0x300 (mO 2) (eNone) (eNone) (eNone) = some (.tretTerm (wd .none .none .none))
    ∧ dec 0x301 (mO 0) (eV 40) (eI 2) (eNone) = some (.tqrd (wd (.v 40 false false) (.imm 2) .none))
    ∧ dec 0x302 (mO 4) (eNone) (eNone) (eNone) = some (.killg (wd .none .none .none) .dev)
    ∧ dec 0x303 (mO 1) (eV 1) (eV 2) (eNone) = some (.privw (wd (.v 1 false false) (.v 2 false false) .none) true)
    ∧ dec 0x304 (mO 0) (eNone) (eNone) (eNone) = some (.mfrz (wd .none .none .none))
    ∧ dec 0x304 (mO 1) (eNone) (eNone) (eNone) = some (.mfrzThaw (wd .none .none .none))
    ∧ dec 0x305 (mO 0) (eV 1) (eNone) (eNone) = some (.ctxq (wd (.v 1 false false) .none .none))
    ∧ dec 0x320 (mO 0) (eNone) (eI 7) (eNone) = some (.progress (wd .none (.imm 7) .none))
    ∧ dec 0x321 (mO 0) (eNone) (eI 65535) (eV 9) = some (.mark (wd .none (.imm 65535) (.v 9 false false)))
    ∧ dec 0x322 (mO 0) (eNone) (eNone) (eNone) = some (.stopp (wd .none .none .none)) := by
  decide
/-- 01 R22, 02 R41, 05 R104, 07 R141, R157, 09 R204, 10 R234, 11 R237, 12 R265, 13 R279, 14 R299, R304, 16, 17, 18 R340, 20 R353, 22 R372, 23: the
encodings that the specification writes out, word 2 first. -/
theorem test_decode_examples :
    dec3 0x501C8080 0x00004000 0x00A00000 = some (.ld ⟨ptA, .v 4 false false, .v 2 false false, .imm 0⟩ .i32 .dev .rlx false)
    ∧ dec3 0x981C0004 0x00005000 0x00A00000 = some (.tenq (wd (.v 5 false false) (.v 2 false false) (.imm 0)) 1)
    ∧ dec3 0x009C0007 0x80000000 0xFFFFFFF6 = some (.braU ⟨pt, .none, 0xFFFFFFF6⟩)
    ∧ dec3 0x19DC0018 0x00003000 0x00A00001 = some (.xlane (wd (.v 3 false false) (.v 2 false false) (.imm 1)) .i32 1 .down)
    ∧ dec3 0x581C8848 0x00009000 0x01E00100 = some (.lda ⟨ptA, .v 9 false false, .v 7 false false, .imm 256⟩ .f32 .cg .acq)
    ∧ dec3 0x481C8000 0x00004800 0x04400006 = some (.draw ⟨ptA, .v 4 false false, .imm 17, .v 6 false false⟩)
    ∧ dec3 0x819C002F 0x00003000 0x02000009 = some (.mma (wd (.res .q 3) (.v 8 false false) (.v 9 false false)) .bf16)
    ∧ dec3 0xA0DC0002 0x00002000 0x04380000 = some (.cdep (wd (.imm 2) (.v 16 false false) .none))
    ∧ dec3 0xA89C8000 0x00014000 0x02100004 = some (.trace ⟨ptA, .v 20 false false, .v 8 false false, .k 4 false false⟩ false)
    ∧ dec3 0x909C0003 0x04001E00 0x00380000 = some (.baraw (wd (.res .cb 1) .none .none))
    ∧ dec3 0x601C8098 0x00004000 0x00A00008 = some (.atom ⟨ptA, .v 4 false false, .v 2 false false, .imm 8⟩ .i32 .dev .ar)
    ∧ dec3 0x505C0580 0x00006000 0x01200000 = some (.st (wd (.v 6 false false) (.v 4 false false) (.imm 0)) .n16 .dev .rlx false)
    ∧ dec3 0xA15C8000 0x00028800 0x00000000 = some (.cread ⟨ptA, .v 40 false false, .imm 0, .v 0 false false⟩)
    ∧ dec3 0xC01C0007 0x80000E00 0x00380000 = some (.tretRst (wd .none .none .none))
    ∧ dec3 0xC05C8000 0x00028800 0x00B80000 = some (.tqrd ⟨ptA, .v 40 false false, .imm 2, .none⟩)
    ∧ dec3 0x999C0000 0x00005000 0x00A00000 = some (.mutl (wd (.v 5 false false) (.v 2 false false) (.imm 0)))
    ∧ dec3 0xC81C0003 0x80000800 0x00F80000 = some (.progress (wd .none (.imm 3) .none))
    ∧ dec3 0xC85C0003 0x80000800 0x01400009 = some (.mark (wd .none (.imm 5) (.v 9 false false)))
    ∧ dec3 0xC89C0003 0x80000E00 0x00380000 = some (.stopp (wd .none .none .none)) := by
  decide

/-- 01 R22: the two headers of the listing, and the one of 23 with its sixteen words. -/
theorem test_decode_headers :
    Header.decode (0xFFC0003C#32 ++ 0x80000000#32 ++ 0#32) = some { wait := 0, fa := 0, fb := 15, count := 4, region := false }
    ∧ Header.decode (0xFFC007FC#32 ++ 0x40000000#32 ++ 0#32) = some { wait := 1, fa := 15, fb := 15, count := 2, region := false }
    ∧ Header.decode (0xFFC007FC#32 ++ 0x50000000#32 ++ 0#32) = some { wait := 1, fa := 15, fb := 15, count := 2, region := true }
    ∧ (Header.decode (0xFFC003FD#32 ++ 0xE0000000#32 ++ 0#32)).map (fun h => h.count) = some 15 := by
  decide

/-- 02 R31, R46: the wide words and ILLZ, opcode 0. -/
theorem test_decode_wide :
    dec3 0x009C0003 0x80000000 0x00000010 = some (.braD ⟨pt, .none, 16⟩) ∧ dec3 0x011C0003 0x80000000 0x7FFFFFFF = some (.call ⟨pt, .none, 0x7FFFFFFF⟩)
    ∧ dec3 0x18DC0000 0x0001E000 0xDEADBEEF = some (.movi ⟨pt, .v 30 false false, 0xDEADBEEF⟩)
    ∧ dec3 0 0 5 = some (.illz 5) ∧ dec3 0x003FFFFF 0 0 = some (.illz 0x3FFFFF0000000000000000) := by
  decide

/-- 02 R25: guard and hints, negated `p2`, yield, flag B, stall 7; negate and absolute of a float source. -/
theorem test_decode_guard_and_hints :
    (decodeWord (0x080#10 ++ 0b1010110111#10 ++ mT 8 0 ++ eV 1 ++ (0x060002#22) ++ (0x140003#22))).toOption
      = some (.fadd ⟨⟨true, 2, true, false, true, 7⟩, .v 1 false false, .v 2 true true, .k 3 true false⟩) := by
  decide

/-- 02 R27, R41, R44, R45: an unassigned opcode, a header in a body, reserved operand bits, a reserved scope, a reserved resource kind, a
type code where the layout has a comparison, and reserved modifier bits are refused. -/
theorem test_decode_refuses :
    dec 0x340 0 eNone eNone eNone = none ∧ dec 0x3FF 0 eNone eNone eNone = none ∧ dec 0x007 (mO 1) eNone eNone eNone = none
    ∧ dec 0x020 (mT 0 0) (eV 0x101) (eV 2) (eV 3) = none ∧ dec 0x020 (mT 0 2) (eV 1) (eV 2) (eV 3) = none
    ∧ dec 0x140 (mS 0 6 0 0) (eV 1) (eV 2) (eI 0) = none ∧ dec 0x240 (mO 0) (eRes 8 0) eNone eNone = none
    ∧ dec 0x1C0 (mO 0) (eRes 2 64) (eV 2) (eI 0) = none ∧ dec 0x060 (mK 0 0 3) (eP 1) (eV 2) (eV 3) = none
    ∧ dec 0x300 (mO 3) eNone eNone eNone = none ∧ dec 0x063 (mT 0 0) (eV 1) (0x000400#22) eNone = none := by
  decide

/-- The row of a message without payload. -/
def msgRow (cls op : Nat) : Instr := (decodeMessage 0 (bytesOfNat 16 (op * 256 + cls))).1

set_option maxRecDepth 8000 in
/-- 24 R389, R390: every message by its class and operation. -/
theorem test_decode_messages :
    msgRow 1 0 = .launchMessage ∧ msgRow 2 0 = .write ∧ msgRow 3 0 = .read ∧ msgRow 4 0 = .flushData ∧ msgRow 4 1 = .flushDataAndTlb
    ∧ msgRow 5 0 = .windowRead ∧ msgRow 5 1 = .windowWrite ∧ msgRow 5 2 = .windowFetchAdd ∧ msgRow 7 0 = .preemptStopAndSave
    ∧ msgRow 7 1 = .preemptWithNotice ∧ msgRow 7 2 = .restore ∧ msgRow 7 3 = .kill ∧ msgRow 8 0 = .checkpointControlRead
    ∧ msgRow 8 1 = .checkpointControlWrite ∧ msgRow 8 2 = .checkpointRestore := by
  decide

set_option maxRecDepth 8000 in
/-- 24 R390: the classes 9 to 12. -/
theorem test_decode_control_messages :
    msgRow 9 0 = .managementRead ∧ msgRow 9 1 = .managementWrite ∧ msgRow 9 2 = .managementReset ∧ msgRow 9 3 = .imageWrite
    ∧ msgRow 9 4 = .imageCommit ∧ msgRow 10 0 = .debugClaim ∧ msgRow 10 1 = .debugRelease ∧ msgRow 10 2 = .armTrace
    ∧ msgRow 10 3 = .stopPartition ∧ msgRow 10 4 = .resume ∧ msgRow 10 5 = .readDump ∧ msgRow 10 6 = .setWatchpoint
    ∧ msgRow 11 0 = .copyToPeer ∧ msgRow 11 1 = .copyFromPeer ∧ msgRow 12 0 = .sessionOpen ∧ msgRow 12 1 = .sessionClose
    ∧ msgRow 12 2 = .createAddressSpace ∧ msgRow 12 3 = .destroyAddressSpace := by
  decide

set_option maxRecDepth 8000 in
/-- 24 R389: a class or an operation that is not assigned, a short header and a length that the payload does not have are malformed. -/
theorem test_decode_malformed_messages :
    msgRow 6 0 = .malformedMessage ∧ msgRow 13 0 = .malformedMessage ∧ msgRow 2 1 = .malformedMessage
    ∧ (decodeMessage 0 (bytesOfNat 15 2)).1 = .malformedMessage ∧ (decodeMessage 0 (bytesOfNat 20 (4 * 65536 + 2))).1 = .malformedMessage
    ∧ (decodeMessage 0 (bytesOfNat 24 2)).1 = .malformedMessage := by
  decide

/-- The row of an 8-byte write to a control block. -/
def putRow (cls addr v : Nat) : Instr :=
  (decodeMessage 0 (bytesOfNat 16 (addr * 2 ^ 64 + 8 * 65536 + 256 + cls) ++ bytesOfNat 8 v)).1

set_option maxRecDepth 8000 in
/-- 24 R395; 08 R184; 20 R362; 22 R373, R377: the management writes that start something, by their address and the enabling bit. -/
theorem test_decode_management_writes :
    putRow 9 0x100 (2 ^ 63) = .hotnessEnable ∧ putRow 9 0x2C0 (2 ^ 63 - 1) = .managementWrite ∧ putRow 9 0x120 0 = .freeFramesAdd
    ∧ putRow 9 0x400 (2 ^ 63) = .samplingEnable ∧ putRow 9 0x810 1 = .trialEnable ∧ putRow 9 0x810 0 = .trialDisable
    ∧ putRow 8 0x30 1 = .raceCountEnable ∧ putRow 8 0x30 0 = .checkpointControlWrite := by
  decide

/-! Well-formed words: a launch with 16 registers, one role bound to `tag3`, no task server, four counters. -/

def cx : DecodeCtx := { regs := 16, roles := [0x2003, 0xF000, 0x9000], taskServer := false, nq := 0, dccnt := 4 }

def vr (n : BitVec 8) : Opd := .v n false false

/-- Well-formed neighbours of the ill-formed words below. -/
theorem test_wf_accepts :
    (Instr.iadd (wd (vr 15) (vr 0) (.imm 0x7FFFF)) .i32 true).wf cx = true ∧ (Instr.dadd (wd (vr 14) (.k 62 true false) (vr 2))).wf cx = true
    ∧ (Instr.bcopy (wd (.role 0) (vr 2) (.imm 0))).wf cx = true ∧ (Instr.vmma (wd (vr 8) (vr 4) (vr 12)) .f16).wf cx = true
    ∧ (Instr.dcnew (wd (.res .dc 3) (.imm 65535) .none)).wf cx = true ∧ (Instr.hadd2 (wd (vr 1) (vr 2) (.imm 0xFFFF)) .f16).wf cx = true := by
  decide

/-- 02 R28: a register at the launch's count, an odd pair, an odd constant pair, a pair that ends beyond the count. -/
theorem test_wf_registers :
    (Instr.iadd (wd (vr 16) (vr 0) (vr 1)) .i32 false).wf cx = false ∧ (Instr.dadd (wd (vr 13) (vr 0) (vr 2))).wf cx = false
    ∧ (Instr.dadd (wd (vr 14) (.k 1 false false) (vr 2))).wf cx = false ∧ (Instr.dadd (wd (vr 16) (vr 0) (vr 2))).wf cx = false
    ∧ (Instr.ld (wd (vr 1) (vr 3) (.imm 0)) .i32 .dev .rlx false).wf cx = false
    ∧ (Instr.ldk (wd (vr 1) (.k 3 false false) (.imm 0)) .i32).wf cx = false := by
  decide

/-- 02 R27, R28: an operand class the field does not take, negate on an integer source, a packed immediate above bit 15, an inverted
destination predicate. -/
theorem test_wf_classes :
    (Instr.iadd (wd (.imm 1) (vr 0) (vr 1)) .i32 false).wf cx = false ∧ (Instr.iadd (wd (vr 1) (.v 0 true false) (vr 1)) .i32 false).wf cx = false
    ∧ (Instr.hadd2 (wd (vr 1) (vr 2) (.imm 0x10000)) .f16).wf cx = false ∧ (Instr.icmp (wd (.p 0 true) (vr 2) (vr 3)) .i32 .eq .none).wf cx = false
    ∧ (Instr.nop (wd (vr 1) .none .none)).wf cx = false ∧ (Instr.shl (wd (vr 1) (vr 2) (.p 1 false))).wf cx = false
    ∧ (Instr.imad (wd (.v 1 false true) (vr 2) (vr 3)) .i32 false).wf cx = false ∧ (Instr.vote (wd (.p 1 false) (vr 1) .none) .any).wf cx = false
    ∧ (Instr.ld (wd (vr 1) (vr 2) (vr 3)) .i32 .dev .rlx false).wf cx = false ∧ (Instr.st (wd (.imm 0) (vr 2) (.imm 0)) .i32 .dev .rlx false).wf cx = false := by
  decide

/-- Immediates outside their ranges, one beyond each end where there are two. -/
theorem test_wf_immediates :
    (Instr.bfn3 (wd (vr 1) (vr 2) (.imm 256))).wf cx = false ∧ (Instr.bfn3 (wd (vr 1) (vr 2) (.imm 0x7FFFF))).wf cx = false
    ∧ (Instr.fchk (wd .none .none (.imm 0))).wf cx = false ∧ (Instr.waitf (wd .none .none (.imm 4096))).wf cx = false
    ∧ (Instr.dcdec (wd (.res .dc 0) (.imm 0) .none)).wf cx = false ∧ (Instr.draw (wd (vr 1) (.imm 0) (.imm 4096))).wf cx = false
    ∧ (Instr.cdep (wd (.imm 8) (vr 8) .none)).wf cx = false ∧ (Instr.ldc (wd (vr 1) (.res .q 0) (.imm 65536)) .i32).wf cx = false
    ∧ (Instr.sigrd (wd (vr 1) (.imm 8) .none)).wf cx = false ∧ (Instr.redobjInit (wd (.imm 0) (vr 2) (.imm 0)) .f32 .dev .rlx).wf cx = false
    ∧ (Instr.atom (wd (vr 1) (vr 2) (.imm 0x78000)) .i32 .dev .rlx).wf cx = false ∧ (Instr.red (wd (vr 1) (vr 2) (.imm 0x30000)) .i32 .dev .rlx).wf cx = false := by
  decide

/-- Blocks of registers: an odd start, an end beyond the count. -/
theorem test_wf_blocks :
    (Instr.vmma (wd (vr 4) (vr 4) (vr 12)) .f16).wf cx = false ∧ (Instr.vmma (wd (vr 8) (vr 2) (vr 12)) .f16).wf cx = false
    ∧ (Instr.asupd (wd (vr 8) (vr 2) (.imm 0))).wf cx = false ∧ (Instr.sfetch (wd (vr 8) (vr 2) (.imm 0)) 0).wf cx = false
    ∧ (Instr.tex (wd (vr 4) (vr 2) (.k 5 false false))).wf cx = false := by
  decide

/-- 02 R29, R32; 05 R104: a counter at the launch's count, a resource of another kind, an unbound role, a role of kind 9, a role beyond the
table, special registers 21 and, for SWR, 0. -/
theorem test_wf_resources :
    (Instr.dcq (wd (vr 1) (.res .dc 4) .none)).wf cx = false ∧ (Instr.bcopy (wd (.res .q 0) (vr 2) (.imm 0))).wf cx = false
    ∧ (Instr.bcopy (wd (.role 1) (vr 2) (.imm 0))).wf cx = false ∧ (Instr.bcopy (wd (.role 2) (vr 2) (.imm 0))).wf cx = false
    ∧ (Instr.bcopy (wd (.role 3) (vr 2) (.imm 0))).wf cx = false ∧ (Instr.mdep (wd (.res .q 0) (.role 0) .none)).wf cx = false
    ∧ (Instr.srd (wd (vr 1) (.sr 21) .none) false).wf cx = false ∧ (Instr.swr (wd (.sr 0) (vr 1) .none)).wf cx = false := by
  decide

/-- 02 R41 and the tables: a type, comparison, scope or ordering the word does not take; flags on NOP. -/
theorem test_wf_modifiers :
    (Instr.iadd (wd (vr 1) (vr 2) (vr 3)) .i64 false).wf cx = false ∧ (Instr.iadd64 (wd (vr 2) (vr 4) (vr 6)) .i32 false).wf cx = false
    ∧ (Instr.icmp (wd (.p 1 false) (vr 2) (vr 3)) .i32 .ord .none).wf cx = false ∧ (Instr.hadd2 (wd (vr 1) (vr 2) (vr 3)) .f32).wf cx = false
    ∧ (Instr.ld (wd (vr 1) (vr 2) (.imm 0)) .i32 .dev .rel false).wf cx = false ∧ (Instr.lda (wd (vr 1) (vr 2) (.imm 0)) .i32 .dg .rlx).wf cx = false
    ∧ (Instr.atom (wd (vr 1) (vr 2) (.imm 0)) .i32 .th .rlx).wf cx = false ∧ (Instr.atom (wd (vr 1) (vr 2) (.imm 0)) .f32 .dev .rlx).wf cx = false
    ∧ (Instr.fence (wd .none .none .none) .dev .rlx).wf cx = false ∧ (Instr.cvt (wd (vr 1) (vr 2) .none) .i32 .i32 true).wf cx = false
    ∧ (Instr.killg (wd .none .none .none) .sys).wf cx = false ∧ (Instr.mma (wd (.res .q 0) (vr 1) (vr 2)) .n8).wf cx = false
    ∧ (Instr.nop ⟨ptA, .none, .none, .none⟩).wf cx = false := by
  decide

/-- 05 R104, 14 R299: task words outside a task server, a queue beyond its count, barriers in one. ILLZ, an event and a message are no
well-formed words. -/
theorem test_wf_launches :
    (Instr.tenq (wd (vr 5) (vr 2) (.imm 0)) 0).wf cx = false ∧ (Instr.targ (wd (vr 5) (.imm 0) .none)).wf cx = false
    ∧ (Instr.tenq (wd (vr 5) (vr 2) (.imm 0)) 2).wf { cx with taskServer := true, nq := 2 } = false
    ∧ (Instr.tenq (wd (vr 5) (vr 2) (.imm 0)) 1).wf { cx with taskServer := true, nq := 2 } = true
    ∧ (Instr.bara (wd (.res .pb 0) .none .none)).wf { cx with taskServer := true, nq := 2 } = false
    ∧ (Instr.illz 0).wf cx = false ∧ (Instr.binDraw 0).wf cx = false ∧ Instr.read.wf cx = false := by
  decide

/-- 02 R38: an LD without a flag, one that sets a flag its header does not name, an EXIT that is not last, an unassigned opcode; their
well-formed neighbours pass. -/
theorem test_wf_clauses :
    let h : Header := { wait := 0, fa := 0, fb := 15, count := 1, region := false }
    let ld : IWord := 0x501C80800000400000A00000#96
    let ldNone : IWord := 0x501C00800000400000A00000#96
    let exit' : IWord := 0x1C#10 ++ 0x1C0#10 ++ 0#10 ++ eNone ++ eNone ++ eNone
    let ex : IWord := 0x007#10 ++ 0x1C0#10 ++ 0#10 ++ eNone ++ eNone ++ eNone
    firstBadWord cx h 0 [ld, ex] = none ∧ firstBadWord cx h 0 [ld, ldNone] = some 1 ∧ firstBadWord cx h 0 [ex, ld] = some 0
    ∧ firstBadWord cx { h with fa := 15 } 0 [ld, ex] = some 0 ∧ firstBadWord cx h 0 [ld, exit'] = some 1 := by
  decide


/-! Clause formation: the pair worked through in 01, and the checks of 01 R22. -/

/-- A line of source without a label. -/
def srcLine (op m : BitVec 10) (a b c : BitVec 22) : SourceLine :=
  { labels := [], region := false, target := none, word := op ++ 0b0111000000#10 ++ m ++ a ++ b ++ c }

/-- The kernel `bump` of 01, line by line. -/
def bumpLines : List SourceLine :=
  [ srcLine 0x2E0 (mO 0) (eV 0) (eS 0) eNone, srcLine 0x045 (mO 0) (eV 1) (eV 0) (eI 2),
    srcLine 0x020 (mT 0 0) (eV 2) (eK 0) (eV 1), srcLine 0x062 (mO 0) (eV 3) (eK 1) eNone,
    srcLine 0x140 (mS 0 4 0 0) (eV 4) (eV 2) (eI 0), srcLine 0x020 (mT 0 0) (eV 4) (eV 4) (eI 1),
    srcLine 0x141 (mS 0 4 0 0) (eV 4) (eV 2) (eI 0), srcLine 0x007 (mO 0) eNone eNone eNone ]

/-- The headers are the two words of the table in 01, and the stall counts and flags are those of its verbose listing. -/
theorem test_form_bump_headers :
    (formKernel bumpLines).map (fun c => (c.hdr.encode, c.body.map fun w => (w.2.extractLsb' 76 6).toNat))
      = [ (0xFFC0003C8000000000000000, [5, 3, 0, 3, 8]), (0xFFC007FC4000000000000000, [3, 0, 0]) ] := by
  decide

/-- The header of a clause that is written out must count its words (01 R22). -/
theorem test_form_count_refused :
    verboseClauseOk { labels := [], hdr := { wait := 0, fa := 15, fb := 15, count := 1, region := false }, body := [(none, nopWord)] } = false := by
  decide
/-! States. -/

/-- The word of an opcode with its modifier and operand fields. -/
def wordBits (op m : BitVec 10) (a b c : BitVec 22) : IWord := op ++ 0b0111000000#10 ++ m ++ a ++ b ++ c

/-- A thread of the group with the values of its first registers. -/
def thr (vals : List Word) : Thread :=
  { wordThread with ctx := { wordThread.ctx with regs := vals ++ List.replicate (64 - vals.length) 0 } }

/-- Launch 1 on core 0, its one group standing at a word that is being executed: the threads, their number, the word. -/
def at2 (ts : List Thread) (tids : List Nat) (x : IWord) : State :=
  let s := State.reset.withFetchWord 96 x.toNat
  { s with cur := some { part := 0, pos := 0 },
           w := { s.w with pgs := tput s.w.pgs wordPg { PartGroup.none with lid := 1, threads := ts, ended := false },
                           parts := tput s.w.parts 0 { Partition.init with groups := [(0, { wordGroup x with tids := tids })] } } }

def nopBits : IWord := wordBits 0x001 0 eNone eNone eNone

/-- Two threads at a word. -/
def two : State := at2 [thr [1, 2, 3], thr [4, 5, 6]] [0, 1] nopBits

def t0 : ThreadRef := { pg := wordPg, tid := 0 }
def t1 : ThreadRef := { pg := wordPg, tid := 1 }

/-- The issue of the group of `two`. -/
def ix2 : Issue :=
  { part := 0, pos := 0, pg := wordPg, cg := wordCg, core := 0, lid := 1, space := 0, pc := wordPc, hdr := 0x100000,
    header := { Header.none with count := 0 }, tids := [0, 1] }

/-- The state after an instruction. -/
def after (i : Instr) (s : State) : State := outState s (exec i s)

/-! One step. -/

/-- 06 R124, 02 R34: the first step from reset with an IADD at the fetch issues it: one result, due 4 clk later. -/
theorem test_step_issues_iadd :
    ((outState State.reset (step (State.reset.withFetchWord 96 (wordBits 0x020 (mT 1 0) (eV 1) (eI 3) (eI 4)).toNat))).w.pends.map
      fun p => (p.regs, p.vals, p.due)) = [([1], [7], 4)] := by
  decide

/-- 07 R148: 2^31 - 1 + 1 wraps, and clamps with the sticky flag under `.sat`. -/
theorem test_iadd_corner :
    let s := at2 [thr [0, 0x7FFFFFFF, 1]] [0] nopBits
    (after (.iadd (wd (vr 3) (vr 1) (vr 2)) .i32 false) s).w.pends.map (fun p => (p.vals, p.raise)) = [([0x80000000], 0)]
    ∧ (after (.iadd (wd (vr 3) (vr 1) (vr 2)) .i32 true) s).w.pends.map (fun p => (p.vals, p.raise)) = [([0x7FFFFFFF], flSat)] := by
  decide

/-- 07 R149: division by zero, and the least number by -1. -/
theorem test_idivn_corners :
    let s := at2 [thr [0, 0x80000000, 0, 0xFFFFFFFF]] [0] nopBits
    let q := fun (rem sat : Bool) (c : Opd) => (after (.idivn (wd (vr 4) (vr 1) c) .i32 sat rem) s).w.pends.map fun p => p.vals
    q false false (vr 2) = [[0xFFFFFFFF]] ∧ q true false (vr 2) = [[0x80000000]] ∧ q false false (vr 3) = [[0x80000000]]
    ∧ q true false (vr 3) = [[0]] ∧ q false true (vr 3) = [[0x7FFFFFFF]] := by
  decide

/-- 07 R151: the examples of BFN3 (0xCA selects) and BSEL (0x53 reverses the bytes), a shift by 32. -/
theorem test_bit_words :
    let s := at2 [thr [0x0000FFFF, 32, 0xAAAAAAAA, 0x55555555, 0x11223344]] [0] nopBits
    let r := fun (i : Instr) => (after i s).w.pends.map fun p => p.vals
    r (.bfn3 (wd (vr 0) (vr 2) (.imm 0xCA))) = [[0xAAAA5555]] ∧ r (.bsel (wd (vr 0) (vr 4) (.imm 0x53))) = [[0x44332211]]
    ∧ r (.shl (wd (vr 5) (vr 4) (vr 1))) = [[0]] ∧ r (.shr (wd (vr 5) (vr 2) (vr 1)) true) = [[0xFFFFFFFF]] := by
  decide

/-- 07 R157: the example of XLANE.down, VOTE.ballot and TEAMID with `tid` 0 to 3 and 38. -/
theorem test_lane_words :
    let t := fun (n : Word) => thr [0, 0, 10 * n, 0xFFFFFFFF]
    let s := at2 (t 0 :: t 1 :: t 2 :: t 3 :: (List.replicate 34 Thread.none ++ [t 38])) [0, 1, 2, 3, 38] nopBits
    ((after (.xlane (wd (vr 3) (vr 2) (.imm 1)) .i32 1 .down) s).w.pends.map fun p => (p.vals, p.preds))
      = [([10], [(1, true)]), ([20], [(1, true)]), ([30], [(1, true)]), ([], [(1, false)]), ([], [(1, false)])]
    ∧ (after (.vote (wd (vr 4) (.p 7 false) .none) .ballot) s).w.pends.map (fun p => p.vals) = List.replicate 5 [0x4F]
    ∧ (after (.teamid (wd (vr 5) .none .none)) s).w.pends.map (fun p => p.vals) = List.replicate 5 [0x80000500] := by
  decide

/-- 07 R159, R160, 03 R53: 1 + 2^-24 ties to even, infinity minus infinity is the canonical NaN and raises `nv`, the minimum of -0 and +0
is -0, of a NaN and a number the number. -/
theorem test_float_words :
    let s := at2 [thr [0x3F800000, 0x33800000, 0x7F800000, 0xFF800000, 0x80000000, 0, 0x7FC00001]] [0] nopBits
    let r := fun (i : Instr) => (after i s).w.pends.map fun p => (p.vals, decide (p.raise &&& flNv = flNv))
    r (.fadd (wd (vr 8) (vr 0) (vr 1))) = [([0x3F800000], false)] ∧ r (.fadd (wd (vr 8) (vr 2) (vr 3))) = [([0x7FC00000], true)]
    ∧ r (.fmin (wd (vr 8) (vr 4) (vr 5))) = [([0x80000000], false)] ∧ r (.fmax (wd (vr 8) (vr 6) (vr 0))) = [([0x3F800000], false)] := by
  decide

/-- 10 R228: the draw function at the keys of 21: the fork draw is 0x76E4720F, and so is the acceptance draw. -/
theorem test_draw_function :
    dfn 0x739CA740 0 1 0 = 0x76E4720F ∧ dfn 0x682788BE 0 4095 0 = 0x76E4720F := by
  decide

/-- 18 R320: the words of the entry of thread 5 in the example of R327. -/
theorem test_trap_entry_words :
    tqWords { cause := 0x06, vahi := 0x50, val := 0x00010040, next := false, defer := false, pc := 0x4000001018, rent := 0x4000001000, tid := 5,
              rgn := 1, hdr := 0x4000001000, len := 0 }
      = [0x06000050, 0x00010040, 0x00001018, 0x00000040, 0x00001000, 0x00000040, 0x00000001, 0x00000005] := by
  decide

/-- 07 R146, 18 R319: TRAP with 9 in both threads queues two entries of EXPLICIT in ascending `tid` and parks both. -/
theorem test_trap_queues :
    let s := after (.trap (wd .none (.imm 9) .none)) two
    ((s.pg wordPg).trapq.map fun e => (e.cause, e.val, e.next, e.tid)) = [(0x0B, 9, true, 0), (0x0B, 9, true, 1)]
    ∧ (s.thread t1).place = .parked := by
  decide

/-- 06 R127: BRA.u whose guard differs within its group traps UNIFORMITY in both; with one target it goes on there. -/
theorem test_bra_u :
    let p0 := fun (b : Bool) => { thr [] with ctx := { (thr []).ctx with preds := [b, false, false, false, false, false, false] } }
    let s := at2 [p0 true, p0 false] [0, 1] nopBits
    ((after (.braU ⟨{ pt with pred := 0 }, .none, 4⟩) s).pg wordPg).trapq.map (fun e => e.cause) = [0x03, 0x03]
    ∧ ((after (.braU ⟨pt, .none, 0xFFFFFFF6⟩) s).group 0 0).hdr = wordPc - 40 := by
  decide

/-- The check of a 4-byte LDA: cause and value of its trap, or the offset. -/
def bufCheck (o : Int) : BitVec 8 × Word × Nat :=
  match checkBuffer two ix2 o 4 false with
  | .ok k => (0, 0, k)
  | .error x => (x.cause, x.val, 0)

/-- 09 R204: LDA at the last word of the 640 KiB A-buffer loads, one byte further is BUFFER_ACCESS, inside it a misaligned one is
MISALIGNED. -/
theorem test_buffer_offsets :
    bufCheck 0x9FFFC = (0, 0, 0x9FFFC) ∧ bufCheck 0xA0000 = (0x09, 0xA0000, 0) ∧ bufCheck (-1) = (0x09, 0xFFFFFFFF, 0)
    ∧ bufCheck 2 = (0x05, 2, 0) := by
  decide

/-- An ATOM.add of 2 and 3 at 0x40. -/
def atomAcc : Acc :=
  { id := 9, pg := wordPg, core := 0, space := 0, lid := 1, site := { pc := wordPc, hdr := 0x100000, len := 1 }, kind := .atom .add .i32, va := 0x40,
    pa := 0x40, bytes := 4, nc := false, nt := false, scope := .dev, ord := .rlx, stage := .home, key := none,
    word := 9, lanes := [{ tid := 0, va := 0x40, val := 2, val2 := 0, pend := some 5, cflags := [] }, { tid := 1, va := 0x40, val := 3, val2 := 0, pend := some 6, cflags := [] }] }

/-- A load's result that has not come yet. -/
def pendOf (id tid : Nat) : Pend :=
  { id := id, th := { pg := wordPg, tid := tid }, site := { pc := wordPc, hdr := 0x100000, len := 1 }, isVar := true, ready := false, regs := [4],
    vals := [0], preds := [], raise := 0, cflags := [], due := 0, holds := false, bad := none }

/-- Memory with 10 at 0x40, an access on its way there. -/
def withAcc (a : Acc) : State :=
  { two with w := { two.w with mem := memWriteN two.w.mem 0x40 [10, 0, 0, 0], accs := [a], pends := [pendOf 5 0, pendOf 6 1] } }

/-- 14 R306: the lanes of an ATOM.add of 2 and 3 at 10 get 10 and 12, memory holds 15. -/
theorem test_atomic_lane_order :
    let s := after (.homeAccessPerform 9) (withAcc atomAcc)
    s.w.pends.map (fun p => (p.ready, p.vals)) = [(true, [10]), (true, [12])] ∧ memReadN s.w.mem 0x40 5 = [15, 0, 0, 0, 0] ∧ s.w.accs = [] := by
  decide

/-- 00 R4, 08 R185: a store of 0x01020304 is little-endian, and the highest lane wins. -/
theorem test_store_bytes :
    let s := after (.homeAccessPerform 9) (withAcc { atomAcc with kind := .store, lanes :=
      [{ tid := 0, va := 0x40, val := 7, val2 := 0, pend := none, cflags := [] }, { tid := 1, va := 0x40, val := 0x01020304, val2 := 0, pend := none, cflags := [] }] })
    memReadN s.w.mem 0x3F 6 = [0, 4, 3, 2, 1, 0] := by
  decide

/-- 18 R341, R335: SWR to `clk` arms the timer, 0 disarms it. -/
theorem test_swr_timer :
    let s := after (.swr (wd (.sr 10) (vr 0) .none)) two
    (s.thread t0).timer = some 1 ∧ (s.thread t1).timer = some 4
    ∧ ((after (.swr (wd (.sr 10) (.imm 0) .none)) two).thread t0).timer = none := by
  decide

/-- 07 R163: FFLAGS gives the flags and sets them to (old and not C) or B. -/
theorem test_fflags :
    let f := { thr [] with ctx := { (thr []).ctx with fflags := 0b100110 } }
    let s := after (.fflags (wd (vr 9) (.imm 1) (.imm 6))) (at2 [f] [0] nopBits)
    (s.thread t0).ctx.fflags = 0b100001 ∧ s.w.pends.map (fun p => p.vals) = [[0b100110]] := by
  decide

/-- 14 R296, R303: two arrivals at `pb0`, each thread filed to wait; a third arrival of thread 0 is BARRIER_MISUSE. -/
theorem test_barrier_misuse :
    let s := after (.bara (wd (.res .pb 0) .none .none)) two
    let u := after (.bara (wd (.res .pb 0) .none .none)) { s with w := { s.w with parts := two.w.parts } }
    (arrOf (s.thread t0) 0).pend = true ∧ (s.pg wordPg).trapq = []
    ∧ ((u.pg wordPg).trapq.map fun e => e.cause).all (· = 0x10) = true := by
  decide

/-- 04 R74, R78: phase 2 fails with cause 3 where the secure element does not answer, and the device is in the safe talkative state. -/
theorem test_bringup_failure :
    let s := { State.reset with mgmt := { State.reset.mgmt with phase := 2 }, env := { State.reset.env with seOk := false } }
    let u := after .bringupPhaseComplete s
    u.mgmt.cause = 3 ∧ u.mgmt.safe = true ∧ u.mgmt.ready = false := by
  decide

/-- A message of an unbound management session in the receive register. -/
def hostState (cls : BitVec 8) (op : BitVec 7) (addr : Nat) (pay : List Byte) : State :=
  { two with sessions := [(0, { number := 0, serial := 0, management := true, space := none, clock := 0, ords := 0 })],
             rx := { conn := 0, cls := cls, op := op, big := false, tag := 7, addr := BitVec.ofNat 64 addr, payload := pay } }

/-- 24 R392, 08 R191: WINDOW_FETCH_ADD of 5 to 0xFFFFFFFF leaves 4 and answers the old value with status 0. -/
theorem test_window_fetch_add :
    let s := hostState 5 2 0x10 (bytesOfNat 8 5)
    let u := after .windowFetchAdd { s with w := { s.w with window := memWriteN s.w.window 0x10 [255, 255, 255, 255] } }
    memReadN u.w.window 0x10 4 = [4, 0, 0, 0] ∧ u.outbox.map (fun m => (m.cls, m.tag, m.addr)) = [(0x85, 7, 0xFFFFFFFF00)] := by
  decide

/-- 24 R391: a misaligned WRITE answers 0x03, one without a session 0x06. -/
theorem test_host_statuses :
    (after .write (hostState 2 0 4 (bytesOfNat 8 1))).outbox.map (fun m => m.addr) = [3]
    ∧ (after .write { hostState 2 0 8 (bytesOfNat 8 1) with sessions := [] }).outbox.map (fun m => m.addr) = [6] := by
  decide

/-- 04 R79, 24 R395: MANAGEMENT_READ of address 0 in phase 6: `bu.phase` 6 in [31:29], `bu.ready` in [0]. -/
theorem test_management_read :
    (after .managementRead (hostState 9 0 0 [])).outbox.map (fun m => m.addr) = [0xC000000100] := by
  decide

/-! Witnesses: for every statement with hypotheses, states and operands that meet them. A statement that is not named here has none.

The statements on words have as their hypothesis that a group issues (`witness_issue`), some that its threads differ; those whose lanes must be
able to make their step have theirs below. `witness_issue` serves IntegerWordsGiveTheirExactValue, DivideGivesQuotientOrRemainder,
BitWordsGiveTheirValue, CompareMoveAndLaneWords, FloatWordsRoundOnce, PackedSpecialAndConversionWords, ObservingAndFragmentWords,
BusyUnitsAreReserved, BranchesFileEachThread, TrapWordsRaiseTheirCause, ReturnLeavesTheHandler, FlagAndSpecialRegisterWrites,
AccessWordsSendTheirAccesses, PrefetchAndFenceComplete, SystemWords and UniformAndIndirectBranches (BRX and RET). -/

/-- A group issues; its threads are distinct and guard-true. -/
theorem witness_issue : two.issue = some ix2 ∧ ix2.tids.Nodup ∧ activeOf two ix2 pt = [t0, t1] := by decide

/-- The same with a guard that only thread 0 passes. -/
def split : State :=
  at2 [{ thr [1, 2] with ctx := { (thr [1, 2]).ctx with preds := [true, false, false, false, false, false, false] } }, thr [3, 4]] [0, 1] nopBits

def p0 : Ctl := { pt with pred := 0 }

theorem witness_issue_split : split.issue = some ix2 ∧ activeOf split ix2 p0 = [t0] := by decide

/-- ClampingAndRounding: both ends of i8 for the first two clauses; the last pattern of a float format of 8 bits, and 0. -/
theorem witness_clamping :
    (tyLo .i8 ≤ -128 ∧ (-128 : Int) ≤ tyHi .i8 ∧ tyLo .i8 ≤ 127 ∧ (127 : Int) ≤ tyHi .i8) ∧ Ty.f8e4.isFloat = true ∧ 255 < 2 ^ Ty.f8e4.bits := by
  decide

/-- A result of thread 0 in flight. -/
def withPend (p : Pend) : State := { two with w := { two.w with pends := [p] } }

/-- DueResultsAreWrittenOnce: a value, and a completion that is left for the flags, both due now. -/
theorem witness_due (p : Pend) (hp : p = { pendOf 5 0 with ready := true, cflags := [0] } ∨
      p = { pendOf 5 0 with ready := true, isVar := false, regs := [], vals := [], cflags := [0, 1], flagOnly := true }) :
    (withPend p).w.pends.find? (fun x => x.id = p.id) = some p ∧ p.ready = true ∧ p.bad = none
    ∧ p.due ≤ timeOf (withPend p) (cgOfPg p.th.pg) ∧ p.th.tid < ((withPend p).pg p.th.pg).threads.length := by
  obtain rfl | rfl := hp <;> decide

/-- A thread changed. -/
def withThread (s : State) (f : Thread → Thread) : State := modThread s t0 f

/-- `two` with bins keyed by its partition group, PCs 0, 4, 8 and so on. -/
def withBins (n : Nat) : State :=
  modPart two 0 fun p => { p with bins := (List.range n).map fun k => (k, { pg := wordPg, pc := 4 * k, age := 0, aged := false }) }

/-- FilingFollowsTheNextPc: the last thread of the group, which stands in no bin; a bin with the key, none and one free, none and none free; a
thread that stands in a bin. -/
theorem witness_filing :
    let left := fun n => setPlace (withBins n) t1 .parked
    let keyed := fun (pc : Nat) (x : Nat × Bin) => decide (x.2.pg = t1.pg) && decide (x.2.pc = pc)
    t1.tid < (two.pg t1.pg).threads.length ∧ ¬ t1.tid + 1 < (two.pg t1.pg).threads.length ∧ (two.thread t1).place = .running 0
    ∧ (((left 4).part 0).bins.find? (keyed 8)).map (fun x => x.1) = some 2
    ∧ ((left 4).part 0).bins.find? (keyed 0x40) = none ∧ tget? ((left 4).part 0).bins 4 = none
    ∧ (∀ m < 4, (tget? ((left 4).part 0).bins m).isSome = true)
    ∧ ((left Config.bins).part 0).bins.find? (keyed 0x400) = none ∧ (∀ n < Config.bins, (tget? ((left Config.bins).part 0).bins n).isSome = true)
    ∧ ((withThread two fun x => { x with place := .bin 3 }).thread t0).place = .bin 3 := by
  refine ⟨?_, ?_, ?_, ?_, ?_, ?_, ?_, ?_, ?_, ?_⟩ <;> decide +kernel

/-- UniformAndIndirectBranches: every thread takes BRA.u, and one of two does. -/
theorem witness_bra_u (b : WideWd) (hb : b = ⟨p0, .none, 4⟩) :
    let next := fun s i => if guardOf s b.ctl { pg := ix2.pg, tid := i } then (((ix2.pc : Int) + 4 * b.imm.toInt) % 2 ^ 56).toNat else ix2.pc + 12
    ix2.tids ≠ [] ∧ (∀ i ∈ ix2.tids, next two i = wordPc + 12) ∧ ∃ i ∈ ix2.tids, ∃ j ∈ ix2.tids, next split i ≠ next split j := by
  subst hb; decide

/-- What EXIT leaves of one thread. -/
def exitOne (a : State) (t : ThreadRef) : State := taskSignal (endThread (traceRecord a t 5 wordPc 0 0) t none true) t (a.thread t).task

/-- ExitEndsGuardTrueThreads: the threads of a launch without records end one after the other. -/
theorem witness_exit : ∃ e, Lanes (fun a t b => (∀ x, (cvClose a t).2 = some x → x.again = none) ∧ b = exitOne a t) two [t0, t1] e := by
  have h0 : (cvClose two t0).2 = none := by decide
  have h1 : (cvClose (exitOne two t0) t1).2 = none := by decide +kernel
  exact ⟨_, .cons ⟨fun x h => by simp [h0] at h, rfl⟩ (.cons ⟨fun x h => by simp [h1] at h, rfl⟩ (.nil _))⟩

/-- A launch record changed. -/
def withLr (s : State) (f : LaunchRec → LaunchRec) : State := { s with w := { s.w with launches := tmod s.w.launches 1 fun l => { l with lr := f l.lr } } }

/-- A claim of the launch with a catch mask. -/
def withClaim (s : State) (mask : BitVec 3) : State :=
  { s with w := { s.w with claims := [(1, { conn := 0, mask := mask, watches := [], trace := none, reclaimed := 0, lost := 0 })] } }

/-- TrapCallsQueueOrContain: a live thread outside its handler; one that has ended; one in its handler, and one without a handler, that no
debugger catches; one that a debugger catches, by each bit of the mask. -/
theorem witness_trap_calls :
    (t0.tid < (two.pg t0.pg).threads.length ∧ (two.thread t0).live = true ∧ (two.thread t0).handler = false ∧ (two.lrOfPg t0.pg).trapvec ≠ 0
      ∧ tget? two.w.claims (two.pg t0.pg).lid = none)
    ∧ ((withThread two fun x => { x with place := .ended }).thread t0).live = false
    ∧ (let s := withThread two fun x => { x with handler := true }
       (s.thread t0).live = true ∧ caught s (s.pg t0.pg).lid 0x0C = false ∧ (s.thread t0).handler = true)
    ∧ (let s := withLr two fun l => { l with trapvec := 0 }
       (s.thread t0).live = true ∧ caught s (s.pg t0.pg).lid 0x0B = false ∧ (s.lrOfPg t0.pg).trapvec = 0)
    ∧ (caught (withClaim two 1) 1 0x0C = true ∧ caught (withClaim two 2) 1 0x0B = true ∧ caught (withClaim two 4) 1 0x15 = true
      ∧ ((withClaim two 1).thread t0).live = true) := by
  decide

/-- The entry of thread 0 after an EXPLICIT in a clause of two words. -/
def entry0 : TqEntry :=
  { cause := 0x0B, vahi := 0, val := 9, next := true, defer := false, pc := wordPc, rent := 0x100000, tid := 0, rgn := 1, hdr := 0x100000, len := 2 }

/-- Thread 0 parked with its entry at the head of the queue. -/
def parked : State :=
  let s := withThread two fun x => { x with place := .parked, trap := some entry0 }
  modPg s wordPg fun g => { g with trapq := [entry0] }

/-- DeliveryEntersTheHandler. -/
theorem witness_delivery :
    (tget? parked.w.pgs wordPg).isSome = true ∧ launchRuns parked (parked.pg wordPg).lid = true ∧ (parked.pg wordPg).trapq = entry0 :: []
    ∧ (parked.pg wordPg).handling = false ∧ entry0.tid < (parked.pg wordPg).threads.length
    ∧ (∀ p ∈ parked.w.pends, p.th ≠ { pg := wordPg, tid := entry0.tid })
    ∧ (∀ n ∈ (parked.thread { pg := wordPg, tid := entry0.tid }).ctx.flags, n = 0)
    ∧ (parked.thread { pg := wordPg, tid := entry0.tid }).redo = none ∧ tget? parked.w.claims (parked.pg wordPg).lid = none := by
  decide

/-- ResumeAndRestart: a resumption inside the clause, and one at a header. -/
theorem witness_resume :
    t0.tid < (parked.pg t0.pg).threads.length ∧ (parked.thread t0).trap = some entry0
    ∧ ((withThread parked fun x => { x with trap := some { entry0 with len := 0 } }).thread t0).trap = some { entry0 with len := 0 }
    ∧ (let r := if entry0.next then entry0.pc + 12 else entry0.pc
       r ≠ entry0.hdr ∧ r ≠ entry0.hdr + 12 * (entry0.len + 1) ∧ entry0.len ≠ 0) := by
  decide

/-! Lanes: a run of lanes whose step is computed. -/

/-- The step of a lane that goes on or traps; none where it waits for a frame. -/
def laneStep (ix : Issue) (t : ThreadRef) (r : State × Option Trap) : Option State :=
  match r with
  | (a, none) => some a
  | (a, some x) => if x.again = none then some (trapAt a ix t.tid x) else none

/-- The lanes one after the other. -/
def runLanes (f : State → ThreadRef → State × Option Trap) (ix : Issue) (ts : List ThreadRef) (s : State) : Option State :=
  match ts with
  | [] => some s
  | t :: r => (laneStep ix t (f s t)).bind (runLanes f ix r)

theorem laneStep_stepsOrTraps {ix : Issue} {t : ThreadRef} {r : State × Option Trap} {b : State} (h : laneStep ix t r = some b) :
    stepsOrTraps r ix t b := by
  obtain ⟨a, x | x⟩ := r
  · simp only [laneStep, Option.some.injEq] at h
    exact .inl (by rw [h])
  · simp only [laneStep] at h
    split at h
    · exact .inr ⟨a, x, rfl, ‹_›, (Option.some.inj h).symm⟩
    · cases h

/-- Lanes that can be computed are a run of lanes. -/
theorem lanes_of_run {f : State → ThreadRef → State × Option Trap} {ix : Issue} {ts : List ThreadRef} {s : State}
    (h : (runLanes f ix ts s).isSome = true) : ∃ e, Lanes (fun a t b => stepsOrTraps (f a t) ix t b) s ts e := by
  induction ts generalizing s with
  | nil => exact ⟨s, .nil s⟩
  | cons t r ih =>
    simp only [runLanes] at h
    cases hb : laneStep ix t (f s t) with
    | none => simp [hb] at h
    | some b =>
      obtain ⟨e, he⟩ := ih (s := b) (by simpa [hb] using h)
      exact ⟨e, .cons (laneStep_stepsOrTraps hb) he⟩

/-- Lanes that always have a step run to their end. -/
theorem lanes_total {lane : State → ThreadRef → State → Prop} {ts : List ThreadRef} (h : ∀ a, ∀ t ∈ ts, ∃ b, lane a t b) (s : State) :
    ∃ e, Lanes lane s ts e := by
  induction ts generalizing s with
  | nil => exact ⟨s, .nil s⟩
  | cons t r ih =>
    obtain ⟨b, hb⟩ := h s t (by simp)
    obtain ⟨e, he⟩ := ih (fun a u hu => h a u (by simp [hu])) b
    exact ⟨e, .cons hb he⟩

/-- A run of lanes whose steps are steps of another form. -/
theorem lanes_mono {lane other : State → ThreadRef → State → Prop} (h : ∀ a t b, lane a t b → other a t b) {s e : State} {ts : List ThreadRef}
    (r : Lanes lane s ts e) : Lanes other s ts e := by
  induction r with
  | nil s => exact .nil s
  | cons hl _ ih => exact .cons (h _ _ _ hl) ih

/-- The lanes that act or trap, one after the other, and their traps; none where one waits. -/
def runTraps (f : State → ThreadRef → State × Option Trap) (ts : List ThreadRef) (s : State) : Option (State × List (ThreadRef × Trap)) :=
  match ts with
  | [] => some (s, [])
  | t :: r => match f s t with
    | (b, none) => runTraps f r b
    | (b, some x) => if x.again = none then (runTraps f r b).map fun y => (y.1, (t, x) :: y.2) else none

/-- Lanes that can be computed are a run of lanes that act or trap. -/
theorem trapLanes_of_run {f : State → ThreadRef → State × Option Trap} {ts : List ThreadRef} {s e : State} {l : List (ThreadRef × Trap)}
    (h : runTraps f ts s = some (e, l)) : TrapLanes f s ts e l := by
  induction ts generalizing s l with
  | nil => simp only [runTraps, Option.some.injEq, Prod.mk.injEq] at h; obtain ⟨rfl, rfl⟩ := h; exact .nil s
  | cons t r ih =>
    simp only [runTraps] at h
    split at h
    · next b hb => exact .acts hb (ih h)
    · next b x hb =>
      split at h
      · next hx =>
        obtain ⟨⟨e', l'⟩, hr, hy⟩ := Option.map_eq_some_iff.1 h
        cases hy
        exact .traps hb hx (ih hr)
      · cases h

/-- Such lanes, where it is known that none waits. -/
theorem trapLanes_exist {f : State → ThreadRef → State × Option Trap} {ts : List ThreadRef} {s : State} (h : (runTraps f ts s).isSome = true) :
    ∃ e l, TrapLanes f s ts e l := by
  obtain ⟨⟨e, l⟩, h⟩ := Option.isSome_iff_exists.1 h
  exact ⟨e, l, trapLanes_of_run h⟩

/-- A descriptor at a misaligned address is not read. -/
theorem readDesc_misaligned {s : State} {t : ThreadRef} {va n k : Nat} (h : va % n ≠ 0) :
    readDesc s t va n k = (s, .error { cause := 0x05, val := word va, vahi := 0 })
    ∧ readDescAcq s t va n k = (s, .error { cause := 0x05, val := word va, vahi := 0 }) := by
  simp [readDesc, readDescAcq, h, plainTrap]

/-- Page 0 of the launch's space lies at 2 MiB; thread 0 has address `a` in v2 and v3, thread 1 `b`. -/
def mapped (a b : Word) : State :=
  let s := at2 [thr [1, 0, a, 0], thr [2, 0, b, 0]] [0, 1] nopBits
  modCore s 0 fun c => { c with tlb := [{ space := 0, vpn := 0, large := false, pa := 0x200000, nc := false, x := true, w := true, r := true }] }

/-- A word with its address in v2 and v3. -/
def ad : Wd := wd (vr 0) (vr 2) (.imm 0)

theorem mapped_issue : (mapped 0x1000 0x1040).issue = some ix2 := by decide

/-! Memory. -/

/-- MemoryReadsBackWhatWasWritten: a memory with two bytes. -/
theorem witness_memory : (Memory.wf (memWriteN two.w.mem 0x40 [10, 20]) = true) ∧ memWriteN two.w.mem 0x40 [10, 20] ≠ two.w.mem := by decide

/-- EveryLaneIsCheckedOnce: a lane that is misaligned, one aligned at 2^56, one that goes on. -/
theorem witness_lane_checks :
    let ea := fun (t : ThreadRef) => if t.tid = 0 then 2 else if t.tid = 1 then 2 ^ 56 else 0x1000
    let t2 : ThreadRef := { pg := wordPg, tid := 2 }
    t0 ∈ [t0, t1, t2] ∧ ea t0 % 4 ≠ 0 ∧ t1 ∈ [t0, t1, t2] ∧ ea t1 % 4 = 0 ∧ 2 ^ 56 ≤ ea t1
    ∧ (checkLanes (mapped 0 0) wordPg [t0, t1, t2] ea 4 .read).2.ok.map (fun x => x.1) = [t2] := by
  decide

/-- An access of thread 0 at the end of the order log's ring. -/
def storeAcc : Acc :=
  { atomAcc with kind := .store, pa := 0x100000, lanes := [{ tid := 0, va := 0x40, val := 0x01020304, val2 := 0, pend := none, cflags := [] }] }

/-- StoreWritesItsBytes: a store just above the ring, and one just below a ring that lies higher. -/
theorem witness_store :
    let s := withAcc storeAcc
    let u := { s with rb := { s.rb with olBase := 0x100004 } }
    accNow s 9 .home = some storeAcc ∧ (performAcc s storeAcc).2 = true ∧ s.rb.rcEn = false ∧ s.w.mem.wf = true
    ∧ s.rb.olBase + 2 ^ s.rb.olLsize ≤ storeAcc.pa ∧ storeAcc.kind = .store ∧ storeAcc.id = 9
    ∧ accNow u 9 .home = some storeAcc ∧ (performAcc u storeAcc).2 = true ∧ u.rb.rcEn = false ∧ u.w.mem.wf = true
    ∧ storeAcc.pa + storeAcc.bytes ≤ u.rb.olBase := by
  decide

def loadAcc (nc : Bool) : Acc :=
  { storeAcc with kind := .load .i32, nc := nc, lanes := [{ tid := 0, va := 0x40, val := 0, val2 := 0, pend := some 5, cflags := [] }] }

/-- LoadGivesTheBytesOfMemory: an uncached load, and one whose line no cache holds. -/
theorem witness_load (nc : Bool) :
    let a := loadAcc nc
    let s := withAcc a
    accNow s a.id .home = some a ∧ a.kind = .load .i32 ∧ (performAcc s a).2 = true ∧ s.w.mem.wf = true
    ∧ s.rb.olBase + 2 ^ s.rb.olLsize ≤ a.pa
    ∧ (a.nc = true ∨ (findLine (s.core a.core).l1 (a.pa / 128) = none ∧ findLine (s.die (dieOfCore a.core)).l2 (a.pa / 128) = none
      ∧ a.pa % 128 + a.bytes ≤ 128))
    ∧ ∃ l ∈ a.lanes, ∃ p ∈ s.w.pends, l.pend = some p.id := by
  cases nc <;> decide

/-- An atomic access of two lanes at the end of the ring. -/
def ringAtom (k : AccKind) : Acc := { atomAcc with kind := k, pa := 0x100000 }

/-- AtomicsActInLaneOrder: ATOM, RED, CAS and FRED. -/
theorem witness_atomics :
    ∀ k ∈ [AccKind.atom .add .i32, .red .max .n32, .cas .i32, .fred .f32],
      let a := ringAtom k
      let s := withAcc a
      accNow s a.id .home = some a ∧ (performAcc s a).2 = true ∧ s.w.mem.wf = true ∧ s.rb.olBase + 2 ^ s.rb.olLsize ≤ a.pa
      ∧ (a.lanes.filterMap (·.pend)).Nodup ∧ ∃ l, a.lanes[1]? = some l ∧ l.pend = some 6 := by
  decide

/-- ReductionObjectWords: threads whose address is no multiple of 64, whose count is 0, and whose count is 65,537. -/
theorem witness_reduction_objects :
    let s := at2 [thr [0, 0, 0x1020, 0], thr [65537, 0, 0x1040, 0]] [0, 1] nopBits
    let ea := fun t => (srcPair s t ad.b + srcPair s t ad.c).toNat
    s.issue = some ix2 ∧ t0 ∈ activeOf s ix2 ad.ctl ∧ ea t0 % 64 ≠ 0 ∧ t1 ∈ activeOf s ix2 ad.ctl ∧ ea t1 % 64 = 0
    ∧ 65536 < (srcWord s t1 ad.a).toNat
    ∧ (let u := at2 [thr [0, 0, 0x1040, 0]] [0] nopBits
       (srcPair u t0 ad.b + srcPair u t0 ad.c).toNat % 64 = 0 ∧ (srcWord u t0 ad.a).toNat = 0) := by
  decide

/-- A second core group on core 0 of launch 2, whose persistent range is bytes 256 to 511 of the A-buffer; a write lock on line 4. -/
def shared : State :=
  let s := { two with w := { two.w with cgs := tput two.w.cgs 1 { CoreGroup.none with lid := 2, ended := false, slot := 1 },
                                        launches := tput two.w.launches 2 { Launch.none with lr := { wordRec with pr := [(256, 256)] } } } }
  modCore s 0 fun c => { c with locks := [{ write := true, space := 1, slot := 0, eng := 4, id := 0, lo := 4, hi := 4, owner := 3 }] }

/-- BufferWordsActOnTheirCore: below and beyond the buffer, the two ends of another group's range, misaligned, locked, free. -/
theorem witness_buffer_checks :
    (-1 : Int) < 0 ∧ (Config.abufSize (shared.core ix2.core).carve : Int) ≤ 0xA0000 ∧ inOthersRange shared ix2.core ix2.cg 256 4 = true
    ∧ inOthersRange shared ix2.core ix2.cg 508 4 = true ∧ inOthersRange shared ix2.core ix2.cg 252 4 = false
    ∧ inOthersRange shared ix2.core ix2.cg 512 4 = false ∧ lockHit (shared.core ix2.core).locks 1 (shared.cg ix2.cg).slot 512 4 false = true
    ∧ lockHit (shared.core ix2.core).locks 1 (shared.cg ix2.cg).slot 640 4 true = false ∧ (513 : Int) % 4 ≠ 0 ∧ (640 : Int) % 4 = 0
    ∧ shared.issue = some ix2 := by
  decide

/-- What CFLUSH does in a lane; a lane of CINV differs in the line that it drops. -/
def flushLane (s a : State) (t : ThreadRef) : State × Option Trap :=
  match controlTarget a ix2 (srcPair s t ad.b).toNat with
  | (b, .error x) => (b, some x)
  | (b, .ok (some pa)) => (b, if lineBusy b ix2.core (pa / 128) then some (againTrap .order) else none)
  | (b, .ok none) => (b, none)

def invalLane (icache : Bool) (s a : State) (t : ThreadRef) : State × Option Trap :=
  match controlTarget a ix2 (srcPair s t ad.b).toNat with
  | (b, .error x) => (b, some x)
  | (b, .ok (some pa)) => (dropLineOf b ix2.core icache (pa / 128), none)
  | (b, .ok none) => (b, none)

/-- CacheControlAndSignalWords: CFLUSH, CINV, HWSIG and LDK whose lanes all make their step, one of two traps; the two ends outside the window. -/
theorem witness_cache_control :
    let s := mapped 0x1000 2
    (∃ e l, TrapLanes (flushLane s) s (byLane (activeOf s ix2 ad.ctl)) e l)
    ∧ (∀ icache, ∃ e l, TrapLanes (invalLane icache s) s (byLane (activeOf s ix2 ad.ctl)) e l)
    ∧ (∃ e l, TrapLanes (ldkLane ad .i32 s ix2) s (byLane (activeOf s ix2 ad.ctl)) e l)
    ∧ (runLanes (fun a t => hwsigLane a ix2 t (srcPair s t ad.b).toNat 5) ix2 [t0, t1] s).isSome = true
    ∧ activeOf s ix2 ad.ctl = [t0, t1] ∧ byLane [t0, t1] = [t0, t1] ∧ (2 : Nat) % 4 ≠ 0
    ∧ Config.windowBase - 4 < Config.windowBase ∧ (Config.windowBase - 4) % 4 = 0
    ∧ (Config.windowBase + Config.windowSize) % 4 = 0 := by
  refine ⟨trapLanes_exist (by decide), fun icache => trapLanes_exist (by cases icache <;> decide), trapLanes_exist (by decide), ?_, ?_, ?_, ?_, ?_, ?_, ?_⟩
    <;> decide

/-- A launch whose output records hold `4 cvstride - 4` entries, thread 0 at the last one. -/
def fullRecords : State :=
  withThread (withLr two fun l => { l with cvout := 0x1000, cvstride := 2 }) fun x =>
    { x with ctx := { x.ctx with cv := { x.ctx.cv with cvout := 4 } } }

/-- DrawWords: threads without records, one whose output record is full; the draw of a thread without records succeeds. -/
theorem witness_draws :
    (two.lrOfPg t0.pg).cvout = 0 ∧ (two.lrOfPg t0.pg).cvmode = 0 ∧ t0.tid < (two.pg t0.pg).threads.length
    ∧ (fullRecords.lrOfPg t0.pg).cvout ≠ 0 ∧ (fullRecords.thread t0).ctx.cv.cvout.toNat = cvCap (fullRecords.lrOfPg t0.pg) := by
  decide

/-- A draw as a step of a lane. -/
def drawStep (a : State) (t : ThreadRef) : State × Option Trap :=
  match draw a t 0 0 with
  | (c, .ok x) => (pushResult c ix2 pt 0 true true t (out1 4 x 0), none)
  | (c, .error x) => (c, some x)

/-- The lanes of DrawWords: both threads of `two` draw; the one whose record is full takes its trap. -/
theorem witness_draw_lanes : ∀ s ∈ [two, fullRecords], ∃ e, Lanes (fun a t b =>
    (∃ c x, draw a t 0 0 = (c, .ok x) ∧ b = pushResult c ix2 pt 0 true true t (out1 4 x 0))
    ∨ ∃ c x, draw a t 0 0 = (c, .error x) ∧ x.again = none ∧ b = trapAt c ix2 t.tid x) s [t0] e := by
  intro s hs
  obtain ⟨e, he⟩ := lanes_of_run (f := drawStep) (ix := ix2) (ts := [t0]) (s := s)
    (by simp only [List.mem_cons, List.not_mem_nil, or_false] at hs; obtain rfl | rfl := hs <;> decide)
  refine ⟨e, lanes_mono (fun a t b h => ?_) he⟩
  simp only [drawStep, stepsOrTraps] at h
  split at h
  · next c x hd =>
    obtain h | ⟨_, _, h, _⟩ := h
    · exact .inl ⟨c, x, hd, (Prod.mk.inj h).1.symm⟩
    · exact absurd (Prod.mk.inj h).2 nofun
  · next c x hd =>
    obtain h | ⟨_, _, h, h0, hb⟩ := h
    · exact absurd (Prod.mk.inj h).2 nofun
    · obtain ⟨rfl, hx⟩ := Prod.mk.inj h
      cases hx
      exact .inr ⟨_, _, hd, h0, hb⟩

/-! Engines, barriers, tasks. -/

def opOf (id tag : Nat) (locks : List RLock) : EngOp :=
  { id := id, kind := .bcopy, core := 0, cg := wordCg, th := t0, space := 0, tag := tag, desc := [], descVa := 0,
    site := { pc := wordPc, hdr := 0x100000, len := 1 }, locks := locks, accepted := false, done := false, waits := [], due := 0 }

def lock1 : RLock := { write := true, space := 0, slot := 0, eng := 4, id := 0, lo := 0, hi := 1, owner := 9 }

/-- CopyAndTagWords: lanes of BCOPY on an aligned descriptor and on a misaligned one; a misaligned codebook; an operation that its core has room
for, with the last free lock entry and the last count of its tag. -/
theorem witness_copies :
    (runLanes (fun a t => copyLane a ix2 t .bcopy 0 (srcPair (mapped 0x1000 0x1001) t ad.b).toNat) ix2 [t0, t1] (mapped 0x1000 0x1001)).isSome = true
    ∧ (0x1001 : Nat) % 64 ≠ 0 ∧ (0x1040 : Nat) % 1024 ≠ 0 ∧ (0x400 : Nat) % 1024 = 0
    ∧ (let o := opOf 9 3 [lock1]
       let s := modCore (modTag two wordCg 3 fun x => { x with count := 254 }) 0 fun c => { c with locks := List.replicate 31 lock1 }
       o.accepted = false ∧ o.counted = false ∧ (∀ p ∈ s.w.ops, p.id ≠ o.id ∧ (p.core = o.core → p.accepted = true)) ∧ (s.core o.core).locks.length + o.locks.length ≤ 32
       ∧ (tagOf s o.cg o.tag).count < 255 ∧ (tget? s.w.cgs o.cg).isSome = true) := by
  decide

/-- The lanes of TGWAIT, which always have a step. -/
theorem witness_tgwait (chk : Bool) : two.issue = some ix2 ∧ ∃ e, Lanes (fun a t b =>
    match ((List.range 64).filter fun i => (srcPair two t ad.b).getLsbD i).find? fun n => decide ((tagOf a ix2.cg n).err ≠ 0) with
    | some n => b = if chk then trapAt a ix2 t.tid { cause := (tagOf a ix2.cg n).err, val := (tagOf a ix2.cg n).val, vahi := 0 } else a
    | none => b = a) two [t0, t1] e := by
  refine ⟨by decide, lanes_total (fun a t _ => ?_) two⟩
  split <;> exact ⟨_, rfl⟩

/-- The lanes of CBLD, which always have a step. -/
theorem witness_cbld {bad : Prop} [Decidable bad] (f g : State → ThreadRef → State) :
    ∃ e, Lanes (fun a t b => if bad then b = f a t else b = g a t) two [t0, t1] e := by
  refine lanes_total (fun a t _ => ?_) two
  split <;> exact ⟨_, rfl⟩

/-- A stream of one element of which thread 0 has popped nothing: one entry waits. -/
def stream1 (c : BitVec 8) : Stream := { active := true, desc := List.replicate 32 0, entries := [{ tid := 0, elem := 0, val := 5, cause := c, va := 0x40, at' := 0 }] }
def streamed (c : BitVec 8) : State := modPg two wordPg fun g => { g with streams := g.streams.set 1 (stream1 c) }

/-- StreamWords: the lanes of ASLICE on an aligned and a misaligned descriptor, of QPOP on an idle stream; an entry with a value and one
with a fault. -/
theorem witness_streams :
    (runLanes (fun a t => asliceLane a ix2 t 0 (srcPair (mapped 0x1000 0x1001) t ad.b).toNat) ix2 [t0, t1] (mapped 0x1000 0x1001)).isSome = true
    ∧ (0x1001 : Nat) % 32 ≠ 0 ∧ (asliceLane (mapped 0x1000 0) ix2 t0 3 0x1000).2 = none ∧ t0.pg = ix2.pg ∧ (3 : Nat) < 4
    ∧ ((asliceLane (mapped 0x1000 0) ix2 t0 3 0x1000).1.pg t0.pg).streams.length = 4
    ∧ (runLanes (fun a t => qpopLane a ix2 t ad 0) ix2 [t0, t1] two).isSome = true ∧ (streamOf two t0.pg 0).active = false := by
  decide

/-- StreamWords: an entry with a value, one with a fault, one without a frame, one past the last element. -/
theorem witness_stream_entries :
    (∀ c ∈ [(0 : BitVec 8), 0x06, 0x12], (streamOf (streamed c) t0.pg 1).active = true ∧ posOf (streamed c) t0 1 < sdCount (streamOf (streamed c) t0.pg 1).desc
      ∧ nextEntry (streamed c) t0 1 = some { tid := 0, elem := 0, val := 5, cause := c, va := 0x40, at' := 0 }
      ∧ present (streamed c) t0.pg { tid := 0, elem := 0, val := 5, cause := c, va := 0x40, at' := 0 } = true)
    ∧ ¬ ((sdType (streamOf (streamed 0) t0.pg 1).desc).is64 = true ∧ vNum ad.a % 2 = 1)
    ∧ (let s := withThread (streamed 0) fun x => { x with pos := [0, sdCount (streamOf (streamed 0) t0.pg 1).desc, 0, 0] }
       sdCount (streamOf s t0.pg 1).desc ≤ posOf s t0 1) := by
  decide

/-- The operand of GANG. -/
def gangMask (n : BitVec 19) : Wd := wd .none (.imm n) .none

/-- EngineOwnershipWords: no active thread; one. -/
theorem witness_gang_active : two.issue = some ix2 ∧ activeOf two ix2 { pt with neg := true } = [] ∧ activeOf two ix2 pt ≠ [] := by
  decide

/-- EngineOwnershipWords: a mask beyond 63, of one bit, beyond an `npg` of 2, without the issuer 0. -/
theorem witness_gang_masks :
    (∀ n ∈ [64, 1, 5, 6], srcWord two t0 (gangMask (BitVec.ofNat 19 n)).b = word n) ∧ (two.pg ix2.pg).pgid = 0
    ∧ (64 : Word) ≠ 0 ∧ 64 ≤ (64 : Word).toNat ∧ ((List.range 6).filter fun i => (1 : Word).getLsbD i).length < 2
    ∧ 2 ∈ (List.range 6).filter (fun i => (5 : Word).getLsbD i) ∧ 0 ∉ (List.range 6).filter fun i => (6 : Word).getLsbD i := by
  decide

/-- EngineOwnershipWords: a change by an owner. -/
theorem witness_gang_owner :
    let s := modEng two 0 fun e => { e with owner := some { cg := wordCg, serial := (two.launch 1).serial, members := [0] } }
    ownsEngine s ix2.pg = true ∧ sortBy id (gangMembers (s.cg ix2.cg) 0) ≠ [0, 1] := by
  decide

/-- EngineOwnershipWords: a different mask that is pending; the gang it has; no gang. -/
theorem witness_gang_asks :
    ((modCg two wordCg fun g => { g with gangAsk := [(1, 5)] }).cg wordCg).gangAsk = [(1, 5)] ∧ (5 : Word) ≠ 3 ∧ (5 : Word) &&& 3 ≠ 0
    ∧ sortBy id (gangMembers ((modCg two wordCg fun g => { g with gangs := [[0, 1]] }).cg wordCg) 0) = [0, 1] := by
  decide

/-- EngineOwnershipWords: a gang to be formed. -/
theorem witness_gang_none :
    (sortBy id (gangMembers (two.cg wordCg) 0)).length < 2 ∧ ownsEngine two ix2.pg = false ∧ waitsEngine two ix2.pg = false := by
  decide

/-- EngineOwnershipWords: RESV on an aligned descriptor of one block, whose number is then reserved, and lanes that trap; RFREE. -/
theorem witness_reservations :
    (resvCode (two.core 0) { cg := wordCg, off := 0, len := 0x4000, fmt := 11, blk := 0, sfmt := 0, scale := 0, npan := 1, clearing := true } false).1 = 0
    ∧ (match (readDescAcq (mapped 0x1000 0) t0 0x1000 32 32).2 with | .ok d => d.length | .error _ => 0) = 32 := by
  decide

/-- The lanes of a word that reads a descriptor of 8 to 128 bytes, misaligned in both threads: the traps of RESV, SPROJ, SSORT, RPROJ, RWLIST, TENQ,
LAUNCH and MUTL. -/
theorem witness_descriptor_lanes (acq : Bool) (n k : Nat) (hn : n ∈ [32, 64, 128]) (g : State → State) (f : State → ThreadRef → State → List Byte → State → Prop) :
    ∃ e, Lanes (fun a t b =>
      match (if acq then readDescAcq else readDesc) (g a) t
        (srcPair (mapped 0x1004 0x1008) t ad.b + srcPair (mapped 0x1004 0x1008) t ad.c).toNat n k with
      | (x, .error tr) => tr.again = none ∧ b = trapAt x ix2 t.tid tr
      | (x, .ok d) => f a t x d b) (mapped 0x1004 0x1008) [t0, t1] e := by
  refine lanes_total (fun a t ht => ?_) _
  have h : (srcPair (mapped 0x1004 0x1008) t ad.b + srcPair (mapped 0x1004 0x1008) t ad.c).toNat % n ≠ 0 := by
    simp only [List.mem_cons, List.not_mem_nil, or_false] at ht hn
    obtain rfl | rfl := ht <;> obtain rfl | rfl | rfl := hn <;> decide
  cases acq
  · simp only [Bool.false_eq_true, if_false, (readDesc_misaligned h).1]
    exact ⟨_, rfl, rfl⟩
  · simp only [if_true, (readDesc_misaligned h).2]
    exact ⟨_, rfl, rfl⟩

set_option maxRecDepth 8000 in
/-- Such a descriptor is read where it is aligned. -/
theorem witness_descriptor_read :
    ∀ n ∈ [32, 64, 128], (match (readDesc (mapped 0x1000 0) t0 0x1000 n n).2 with | .ok d => d.length | .error _ => 0) = n
      ∧ (match (readDescAcq (mapped 0x1000 0) t0 0x1000 n n).2 with | .ok d => d.length | .error _ => 0) = n := by
  decide

theorem witness_rfree {own : State → ThreadRef → Prop} [∀ a t, Decidable (own a t)] (f g : State → ThreadRef → State) :
    ∃ e, Lanes (fun a t b => if own a t then b = f a t else b = g a t) two [t0, t1] e := by
  refine lanes_total (fun a t _ => ?_) two
  split <;> exact ⟨_, rfl⟩

/-- MatrixWords: the lanes of MWAIT that name no tile; the other hypotheses are those of `witness_gangs`. -/
theorem witness_mwait : ∃ e, Lanes (fun a t b =>
    let qs := (List.range 16).filter fun q => (srcWord two t (.imm 0)).getLsbD q
    match qs.find? fun q => decide ((tileOf two ix2.core q).cause ≠ 0) with
    | some q => b = trapAt a ix2 t.tid { cause := 0x0E, vahi := 0, val := word (q * 2 ^ 28
        + (tileOf two ix2.core q).cause.toNat * 2 ^ 20 + (tileOf two ix2.core q).val.toNat) }
    | none => ∃ v, b = pushResult a ix2 pt 32 false true t (out1 4 v 0)
        ∧ ∀ q < 16, v.getLsbD q = (decide (q ∈ qs) && (tileOf two ix2.core q).nv)
          ∧ v.getLsbD (16 + q) = (decide (q ∈ qs) && (tileOf two ix2.core q).ovf)) two [t0, t1] e := by
  refine lanes_total (fun a t _ => ?_) two
  have h : (List.range 16).filter (fun q => (srcWord two t (.imm 0)).getLsbD q) = [] := by
    have : srcWord two t (.imm 0) = 0 := rfl
    rw [this]; decide
  simp only [h, List.find?_nil]
  exact ⟨_, 0, rfl, by simp⟩

/-- Thread 0 has arrived at `pb3` in the current generation; thread 1 has a store in flight. -/
def arrived : State :=
  let s := arriveBar two t0 3
  { s with w := { s.w with accs := [{ storeAcc with id := 3, word := 0, lanes := [{ tid := 1, va := 0x40, val := 1, val2 := 0, pend := none, cflags := [] }] }] } }

/-- BarrierWords: no thread counted, all that are not counted free to go, and a misuse beside a thread that waits for its store. -/
theorem witness_misuse :
    (∀ t ∈ activeOf two ix2 pt, (arrOf (two.thread t) 3).pend = false)
    ∧ (let s := arrived
       (arrOf (s.thread t0) 3).pend = true ∧ (arrOf (s.thread t0) 3).gen = some (barOf s ix2.pg 3).gen ∧ (arrOf (s.thread t1) 3).pend = false
       ∧ (s.launch ix2.lid).lr.dsm = false ∧ releaseWait s ix2 [t1] (barScope 3) = true
       ∧ releaseWait { s with w := { s.w with accs := [] } } ix2 [t1] (barScope 3) = false) := by
  decide

/-- BarrierWords: a thread and a barrier of the highest number, a partition group of the list. -/
theorem witness_barriers :
    two.issue = some ix2 ∧ t1.tid < (two.pg t1.pg).threads.length ∧ 23 < (two.thread t1).arr.length
    ∧ ([wordPg] : List Nat).Nodup ∧ wordPg ∈ [wordPg] ∧ (tget? two.w.pgs wordPg).isSome = true := by
  decide

/-- TaskWords: a misaligned record, a counter at the launch's count and one below it, a die with counters. -/
theorem witness_tasks :
    (0x1020 : Nat) % 64 ≠ 0 ∧ (two.launch ix2.lid).lr.dccnt ≤ 16 ∧ 15 < (two.launch ix2.lid).lr.dccnt
    ∧ (let s := { two with w := { two.w with dies := [(0, Die.init)] } }
       (tget? s.w.dies ((s.launch 1).dies.getD 0 0)).isSome = true) := by
  decide

/-- Core 0 with a slot of the core group in its Ladle, 2, and one of another, 3. -/
def slots : State :=
  modCore two 0 fun c => { c with ladle := [(2, { cg := wordCg, space := 0, list := 0, state := 0, ordered := false, terms := [], mark := none }),
                                            (3, { cg := 9, space := 0, list := 0, state := 0, ordered := true, terms := [], mark := none })] }

/-- Whether a slot is the core group's. -/
def mineAt (s : State) (v : Word) : Bool := decide (v.toNat < 8) && (slotOf s 0 v.toNat).any fun x => decide (x.cg = wordCg)

/-- SplatWords: slots that are and are not the core group's, at both ends of their numbers; SFETCH at a misaligned address; deposits that are all
done, of the highest pixel and of one beyond. -/
theorem witness_splats :
    slots.issue = some ix2 ∧ mineAt slots 2 = true ∧ mineAt slots 3 = false ∧ mineAt slots 7 = false ∧ mineAt slots 8 = false
    ∧ (slotOf slots 0 3).any (fun x => decide (x.cg ≠ wordCg)) = true ∧ slotOf slots 0 7 = none ∧ (8 : Nat) ≤ (8 : Word).toNat
    ∧ ((srcPair (mapped 0x1004 0) t0 ad.b + srcPair (mapped 0x1004 0) t0 ad.c).toNat % 8 ≠ 0)
    ∧ (slots.group 0 0).did = [] ∧ (slots.launch 1).lr.dsm = false
    ∧ slotAfter slots 0 2 = some (wordCg, false) ∧ slotAfter slots 0 3 = some (9, true) ∧ slotAfter slots 0 7 = none := by
  decide

/-- The step of a lane that asks the Ladle for an operation, for none, or traps; none where it waits. -/
def askStep (r : State × Except Trap (Option LadleReq)) (t : ThreadRef) : Option State :=
  match r with
  | (a, .error x) => if x.again = none then some (trapAt a ix2 t.tid x) else none
  | (a, .ok none) => some a
  | (a, .ok (some q)) => match sendLadle a ix2 pt t q with
    | (b, none) => some b
    | (_, some _) => none

/-- Such lanes one after the other. -/
def runAsks (f : State → ThreadRef → State × Except Trap (Option LadleReq)) (ts : List ThreadRef) (s : State) : Option State :=
  match ts with
  | [] => some s
  | t :: r => (askStep (f s t) t).bind (runAsks f r)

theorem asks_of_run {f : State → ThreadRef → State × Except Trap (Option LadleReq)} {ts : List ThreadRef} {s : State}
    (h : (runAsks f ts s).isSome = true) : ∃ e, Lanes (fun a t b => match f a t with
      | (x, .error tr) => tr.again = none ∧ b = trapAt x ix2 t.tid tr
      | (x, .ok none) => b = x
      | (x, .ok (some q)) => sendLadle x ix2 pt t q = (b, none)) s ts e := by
  induction ts generalizing s with
  | nil => exact ⟨s, .nil s⟩
  | cons t r ih =>
    simp only [runAsks] at h
    cases hb : askStep (f s t) t with
    | none => simp [hb] at h
    | some b =>
      obtain ⟨e, he⟩ := ih (s := b) (by simpa [hb] using h)
      refine ⟨e, .cons ?_ he⟩
      rcases hf : f s t with ⟨a, x | _ | q⟩
      · simp only [hf, askStep] at hb
        split at hb
        · exact ⟨‹_›, (Option.some.inj hb).symm⟩
        · cases hb
      · simp only [hf, askStep, Option.some.injEq] at hb
        exact hb.symm
      · simp only [hf, askStep] at hb
        split at hb
        · next h' => simp only [Option.some.injEq] at hb; simpa [hb] using h'
        · cases hb

/-- What CDEP asks for the pixel in v8 of each thread, at slot `v`. -/
def deposits (v : Word) (s a : State) (t : ThreadRef) : State × Except Trap (Option LadleReq) :=
  atSlot a ix2 v fun k =>
    let tm := termOf s t 8
    if 255 < tm.pix then .error { cause := 0x09, val := word tm.pix, vahi := 0 } else .ok { slot := k, kind := .deposit tm, regs := [] }

/-- The same launch under DSM. -/
def slotsDsm : State := withLr slots fun l => { l with dsm := true }

/-- A pixel beyond 255 in v8 of thread 0. -/
def farPixel : State := withThread slots fun x => { x with ctx := { x.ctx with regs := x.ctx.regs.set 8 256 } }

/-- SplatWords: the lanes of CDEP at the core group's slot, at once and under DSM, at another's slot and of a pixel beyond 255; of CREAD. -/
theorem witness_ladle_lanes :
    (∀ s ∈ [slots, slotsDsm, farPixel], (runAsks (deposits 2 s) [t0, t1] s).isSome = true ∧ (runAsks (deposits 3 s) [t0, t1] s).isSome = true)
    ∧ (runAsks (fun a _ => atSlot a ix2 2 fun k => .ok { slot := k, kind := .pixel 255, regs := (List.range 6).map fun i => 8 + i }) [t0, t1]
      slots).isSome = true
    ∧ (slotsDsm.launch ix2.lid).lr.dsm = true
    ∧ (match applyLadle slots 0 (ladleOp slots ix2 t0 { slot := 2, kind := .pixel 255, regs := [8] } none) with
      | .done _ vals => decide (vals = [0, 0, 0, 0, 0, 0])
      | _ => false) = true := by
  decide

/-- SplatWords: a pixel without entries, its first entry and the list of a slot that spills nothing. -/
theorem witness_ladle_entries :
    (slotOf slots 0 2).any (fun x => decide (Nat.min (pxN slots 0 x 255) 255 ≤ 0) && decide (x.list = 0)) = true := by
  decide

/-- The lanes of CRST, SFETCH and CRST.rel make their step: one takes the free slot 7, one of another's slot traps. -/
theorem witness_splat_lanes :
    (runAsks (fun a t => crstLane a ix2 t 3 (srcPair (mapped 0x1000 0x1020) t ad.b).toNat) [t0, t1] slots).isSome = true
    ∧ (let s := withLr (mapped 0x1000 0x1020) fun l => { l with dsm := true }
       (runAsks (fun a t => crstLane a ix2 t 7 (srcPair s t ad.b).toNat) [t0] s).isSome = true)
    ∧ (runLanes (fun a t => sfetchLane a ix2 ad 0 (mapped 0x1000 0x1004) t) ix2 [t0, t1] (mapped 0x1000 0x1004)).isSome = true := by
  decide

/-- SplatWords and ReuseRayAndTextureWords: descriptors that the units' checks let pass (12 R266, R268; 13 R280), and one that they refuse. -/
theorem witness_unit_descriptors :
    let one := fun (n k : Nat) => List.replicate n (0 : Byte) ++ [1] ++ List.replicate k 0
    let rd := one 17 30 ++ [1, 0, 1, 0] ++ List.replicate 12 0
    pjBad (one 28 3) 0 = none ∧ ssBad (one 24 7 ++ [1, 0, 1, 0] ++ List.replicate 28 0) 0 = none ∧ rdBad true rd 0 = none ∧ rdBad false rd 0 = none
    ∧ pjBad (List.replicate 32 0) 0x40 = some (0x01, 0x40) := by
  decide

/-- A texture descriptor at 0 of page 0 (13 R291): base 0x100, two by two texels of 8-bit channels, one channel; its texels 0, 51, 102, 255. -/
def textured (u v : Word) : State :=
  let s := at2 [thr [1, 0, u, v]] [0] nopBits
  let s := modCore s 0 fun c => { c with tlb := [{ space := 0, vpn := 0, large := false, pa := 0x200000, nc := false, x := true, w := true, r := true }] }
  { s with w := { s.w with mem := memWriteN (memWriteN s.w.mem 0x200000 [0, 1, 0, 0, 0, 0, 0, 0, 2, 0, 0, 0, 2, 0, 2, 0, 0x70]) 0x200100 [0, 51, 102, 255] } }

/-- ReuseRayAndTextureWords: a misaligned root; an ASUPD of an aligned and of a misaligned lane. -/
theorem witness_rays :
    two.issue = some ix2 ∧ (srcPair two t0 (.imm 1)).toNat % 64 ≠ 0 ∧ (srcPair (mapped 0x1000 0x1040) t0 ad.b).toNat % 64 = 0
    ∧ (runLanes (fun a t => traceLane a ix2 (wd (vr 8) (vr 0) (.imm 1)) false (mapped 0 0) t) ix2 [t0, t1] (mapped 0 0)).isSome = true := by
  decide

/-- What `texSample` gives for thread 0. -/
def texOf (s : State) : List Nat :=
  match readTx s t0 0 with
  | (a, .ok d) => match (readTexel a t0 d (txResolve (txWrap d) (txWd d) (srcWord s t0 (vr 2)).toInt)
      (txResolve (txWrap d) (txHt d) (srcWord s t0 (vr 3)).toInt)).2 with
    | .ok v => v
    | .error _ => []
  | (_, .error _) => []

/-- 13 R291, R292: the texel at (1, 1) is 255, which is 1.0; channels that are not there are 0, 0 and 1; a coordinate outside clamps. -/
theorem test_texel :
    texOf (textured 1 1) = [0x3F800000, 0, 0, 0x3F800000] ∧ texOf (textured 5 0xFFFFFFFF) = [0x3E4CCCCD, 0, 0, 0x3F800000] := by
  decide

/-- ReuseRayAndTextureWords: IMLD and IMST of a thread inside the image, of one outside it, and of one whose descriptor is refused. -/
theorem witness_images :
    ∀ s ∈ [textured 1 1, textured 2 0, mapped 0 0], s.issue.isSome = true
      ∧ (match (imElems [t0] s (wd (vr 0) (vr 2) (.imm 0)) .n32).2 with | .ok _ => true | .error _ => false) = true := by
  decide

/-- ReuseRayAndTextureWords: the lane of a texture word whose descriptor is refused, and one that is read. -/
theorem witness_texture_lanes :
    (match (readTx (mapped 0 0) t0 0).2 with | .error e => e.cause | .ok _ => 0) = 0x01
    ∧ (match (readTx (textured 1 1) t0 0).2 with | .error _ => 0 | .ok d => txWd d) = 2 := by
  decide
/-! Power, launches, the scheduler. -/

/-- The device in bring-up phase `n`. -/
def inPhase (n : Nat) : State := { State.reset with mgmt := { State.reset.mgmt with phase := n } }
/-- The same in another environment. -/
def withEnv (s : State) (f : Env → Env) : State := { s with env := f s.env }
/-- A die that fails all its cores. -/
def deadDie (s : State) : State := withEnv s fun e => { e with coreFail := (List.range 9).map fun c => (0, c) }

/-- PowerAndBringup: with and without power; each phase where it passes and where it fails. -/
theorem witness_bringup :
    State.reset.mgmt.powered = true ∧ State.reset.mgmt.safe = false
    ∧ (∀ n ∈ [0, 1, 2, 3, 4, 5], (inPhase n).mgmt.phase = n)
    ∧ State.reset.env.supplyOk = true ∧ (withEnv (inPhase 0) fun e => { e with supplyOk := false }).env.supplyOk = false
    ∧ bootSlot State.reset.mgmt ≠ none ∧ bootSlot { State.reset.mgmt with slots := [] } = none
    ∧ State.reset.env.seOk = true ∧ State.reset.mgmt.wrapLost = false ∧ State.reset.env.tamper = false ∧ State.reset.env.tamperLatch = false
    ∧ (withEnv (inPhase 2) fun e => { e with tamperLatch := true }).env.tamperLatch = true ∧ (withEnv (inPhase 2) fun e => { e with tamper := true }).env.tamper = true
    ∧ State.reset.env.memFail = 0 ∧ (withEnv (inPhase 3) fun e => { e with memFail := 1 }).env.memFail ≠ 0
    ∧ ((List.range 80).filter fun c => !(deadDie (inPhase 4)).env.coreFail.contains (0, c)).length < 72
    ∧ (∀ d < 8, ¬ ((List.range 80).filter fun c => !State.reset.env.coreFail.contains (d, c)).length < 72)
    ∧ State.reset.env.ports.getLsbD 0 = true ∧ (withEnv (inPhase 5) fun e => { e with ports := 0 }).env.ports.getLsbD 0 = false := by
  decide

/-- An asserted tamper alarm at a level. -/
def alarmed (level : Nat) : State :=
  let s := withEnv two fun e => { e with tamper := true }
  { s with mgmt := { s.mgmt with policy := List.replicate 6 level } }

/-- A checkpoint, valid or being written, with a frame that is pending. -/
def ckpt (valid : Bool) (pending : List (Nat × Nat)) : Ckpt :=
  { num := 1, world := World.init, images := [], spaces := [], clk := 5, fresh := 0, mark := 0, lost := false, recs := [], frames := pending,
    pending := pending, valid := valid }

/-- AlarmsAndCheckpoints: levels 0 to 3; a checkpoint that is due, one being written with and without a frame, a valid one. -/
theorem witness_checkpoints :
    (∀ n < 4, (alarmed n).mgmt.powered = true ∧ [AlarmSource.tamper].filter (alarmDue (alarmed n)) ≠ []
      ∧ alarmLevel (alarmed n) [.tamper] = n)
    ∧ (alarmed 0).w.mem.wf = true ∧ (0 : Nat) < (alarmed 0).rb.olBase + 2 ^ (alarmed 0).rb.olLsize ∧ (alarmed 0).ckpts = []
    ∧ checkpointDue { two with ckptForced := true } = true ∧ checkpointDue { two with rb := { two.rb with t := 0 } } = false
    ∧ ({ two with ckpts := [ckpt false [(3, 4)]] }.ckpts.find? fun c => !c.valid) = some (ckpt false [(3, 4)]) ∧ (ckpt false [(3, 4)]).pending ≠ []
    ∧ ({ two with ckpts := [ckpt false []] }.ckpts.find? fun c => !c.valid) = some (ckpt false []) ∧ (ckpt false []).pending = []
    ∧ two.mgmt.ready = true ∧ lastValid { two with ckpts := [ckpt true []] } = some (ckpt true []) ∧ two.logLost = false := by
  refine ⟨?_, ?_, ?_, ?_, ?_, ?_, ?_, ?_, ?_, ?_, ?_, ?_, ?_⟩ <;> decide

/-- A record (05 R87) of one core group of one partition group of threads with 64 registers. -/
def gridRecord (nthr : Nat) : List Byte :=
  List.replicate 24 0 ++ bytesOfNat 4 (2 ^ 21 + 2 ^ 14 + 2 ^ 11 + nthr) ++ bytesOfNat 4 8 ++ List.replicate 0x34 0 ++ [1] ++ List.replicate 939 0

/-- A record that thread 0 has given to the launch engine. -/
def submitted (b : List Byte) : Submit :=
  { record := b, space := 0, sess := 0, priv := false, parent := none, parentSerial := 0, answer := .thread t0 5 }

/-- AlarmsAndCheckpoints: a checkpoint that has stopped the launches, all of them, and one that has not yet; a replay; an error that rolls back with
every launch known to the checkpoint, and one with none that is valid. -/
theorem witness_rollback :
    (two.replay = none ∧ two.ckptStop = false)
    ∧ (let s := { modLaunch two 1 fun l => { l with run := .stopping 0x1000 } with ckptStop := true }
       s.replay = none ∧ s.ckptStop = true ∧ allStopped s = true)
    ∧ allStopped { two with ckptStop := true, w := { two.w with submits := [submitted []] } } = false
    ∧ { two with replay := some { left := [], recs := [] } }.replay.isSome = true
    ∧ (let c := { ckpt true [] with world := two.w }
       let s := { two with ckpts := [c] }
       s.mgmt.ready = true ∧ lastValid s = some c ∧ s.logLost = false ∧ (∀ x ∈ s.ckpts, x.valid = true ∨ x.lost = false)
       ∧ (∀ l ∈ s.w.launches, ∃ h ∈ c.world.launches, h.2.serial = l.2.serial) ∧ ∀ l ∈ s.w.launches, l.2.lr.status = 0)
    ∧ lastValid two = none ∧ State.reset.mgmt.ready = false := by
  refine ⟨?_, ?_, ?_, ?_, ?_, ?_, ?_⟩ <;> decide +kernel

/-- LaunchEvents: a record that is accepted and one that is refused, submitted by a thread. -/
theorem witness_launch_accept :
    (gridRecord 32).length = 1024 ∧ launchCode two (gridRecord 32) = 0 ∧ launchCode two (List.replicate 1024 0) = 1
    ∧ (match (submitted (gridRecord 32)).answer with | .thread _ _ => true | _ => false) = true := by
  decide +kernel

/-- Launch 1 with one core group yet to be placed, or one more than there are. -/
def unplaced (n : Nat) : State := { two with w := { two.w with launches := tmod two.w.launches 1 fun l => { l with placed := [n] } } }

/-- LaunchEvents: a core group to place, none left to place. -/
theorem witness_placement :
    (nextPlacement (unplaced 0) 1 0).isSome = true ∧ (nextPlacement (unplaced 72) 1 0) = none ∧ imageOf (unplaced 0) 1 = none := by
  decide +kernel

/-- The first 2 MiB of space 0 in the TLB of die 0. -/
def big (s : State) : State :=
  modDie s 0 fun d => { d with tlb := [{ space := 0, vpn := 0, large := true, pa := 0x200000, nc := false, x := true, w := true, r := true }] }

/-- A launch that serves tasks, an empty slot, a ready record in queue 0. -/
def serving : State :=
  let s := withThread (withLr two fun l => { l with taskServer := true, nq := 1, queues := [(0x1000, 6)] }) fun x => { x with place := .empty }
  modQueue (big s) 1 0 0 fun _ => [{ slot := 0, words := List.replicate 16 0, held := none, seq := 0, phase := 0, unwritten := false }]

/-- LaunchEvents: a task that starts. -/
theorem witness_task_start :
    startsTasks serving 1 = true ∧ startsTasks two 1 = false ∧ nextTask two 1 0 = none
    ∧ (match nextTask serving 1 0 with | some (_, q, r, _) => (settleRecord serving 1 0 q r).2 | none => false) = true
    ∧ (match (unitRead serving 0 0 (ringAddr (serving.launch 1).lr 0 0 0) 64).2 with | .ok bs => bs.length | .error _ => 0) = 64 := by
  decide +kernel

/-- The group's threads have exited. -/
def exited : State :=
  let s := modPg two wordPg fun g => { g with ended := true, threads := g.threads.map fun x => { x with place := .ended } }
  { s with w := { s.w with parts := [] } }

/-- LaunchEvents: a core group and a launch that may end and that may not, a core group that starts again. -/
theorem witness_launch_end :
    mayEndCg exited wordCg = true ∧ mayEndCg two wordCg = false ∧ launchOver two 1 = false
    ∧ (let s := modCg exited wordCg fun g => { g with ended := true }
       launchOver s 1 = true ∧ (s.launch 1).lr.status = 0 ∧ (s.launch 1).parent = none)
    ∧ (let s := modCg two wordCg fun g => { g with killed := true }
       (tget? s.w.cgs wordCg).isSome = true ∧ (s.cg wordCg).killed = true ∧ (s.cg wordCg).ended = false ∧ launchRuns s 1 = true) := by
  decide +kernel

/-- The launch's status word at 0x1000, whose page is mapped and, or, waits to be copied. -/
def ending (pend : List (Nat × Nat)) : State :=
  let s := big (modCg (withLr exited fun l => { l with status := 0x1000 }) wordCg fun g => { g with ended := true })
  { s with ckpts := [ckpt false pend] }

/-- LaunchEvents: a status word that is written, one whose page cannot be written, one whose frame is pending (20 R358). -/
theorem witness_status :
    (∀ p ∈ [[], [(0x20, 0x21)]], launchOver (ending p) 1 = true ∧ ((ending p).launch 1).lr.status = 0x1000)
    ∧ (unitWriteWhole (ending []) 0 0 0x1000 (bytesOfNat 8 1)).2 = none
    ∧ (unitWriteWhole (ending [(0x20, 0x21)]) 0 0 0x1000 (bytesOfNat 8 1)).2 = some (0, 0x1000)
    ∧ (match (unitWriteWhole two 0 0 0x1000 (bytesOfNat 8 1)).2 with | some e => decide (e.1 ≠ 0) | none => false) = true := by
  decide +kernel

/-- Threads 0 and 1 ready in a bin whose fetch failed. -/
def binned (full : Bool) : State :=
  let s := modPg two wordPg fun g => { g with threads := g.threads.map fun x => { x with place := if full then .bin 0 else .overflow, pc := 0x40 } }
  modPart s 0 fun p => { p with groups := [], failed := [{ pg := wordPg, va := 0x40, cause := 0x06 }],
                                bins := if full then [(0, { pg := wordPg, pc := 0x40, age := 3, aged := false })] else [] }

/-- SchedulerEvents: a draw from a bin, none from an empty partition; the overflow path; a fetch that is and is not asked for. -/
theorem witness_scheduler :
    drawNow (binned true) 0 = true ∧ drawNow State.reset 0 = false ∧ specialCand (binned true) 0 = none
    ∧ (match chooseBin (binned true) 0 with | some c => fetchFailed (binned true) 0 c.pg c.pc | none => none) = some 0x06
    ∧ (modPart (binned false) 0 fun p => { p with ovDue := true }).w.parts ≠ [] ∧ (two.part 0).ovDue = false
    ∧ overflowWaits (binned false) 0 = true ∧ overflowWaits (binned true) 0 = false ∧ firstOverflowed (binned false) 0 = some t0
    ∧ binFor ((binned false).part 0) wordPg 0x40 = .bin 0
    ∧ (tget? (two.part 0).groups 0).isSome = true ∧ (tget? (two.part 0).groups 1) = none
    ∧ (wordPg, 0x40) ∉ neededFetches two 0 := by
  decide +kernel

/-- A bin whose clause is not present and whose fetch has not failed. -/
def wanted : State := modPart (binned true) 0 fun p => { p with failed := [] }

/-- SchedulerEvents: a fetch that is asked for. -/
theorem witness_fetch : (wordPg, 0x40) ∈ neededFetches wanted 0 ∧ fetchDue wanted 0 wordPg 0x40 = true ∧ (wanted.part 0).stopped = false := by
  decide +kernel

/-- Page 0 is to be filled with zeros at its first access (08 R177: tables at 0x10000, 0x18000, 0x1C000 and 0x20000), and no frame is free. -/
def unfilled : State :=
  let pte := fun (m : Memory) (a e : Nat) => memWriteN m a (bytesOfNat 8 e)
  { wanted with spaces := [(0, { root := 0x10000, access := [] })],
                w := { wanted.w with mem := pte (pte (pte (pte wanted.w.mem 0x10000 0x18001) 0x18000 0x1C001) 0x1C000 0x20001) 0x20000 0xF3 } }

/-- SchedulerEvents: a fetch that fails, one that waits for a frame and one that gives the clause, whose header (02 R38) counts no further word. -/
theorem witness_fetches :
    (fetchClause wanted 0 0 1 0x40).2 = some 0x06 ∧ (fetchClause unfilled 0 0 1 0x40).2 = some 0 ∧ (fetchClause (big wanted) 0 0 1 0x40).2 = none
    ∧ (wordPg, 0x40) ∈ neededFetches unfilled 0 ∧ (wordPg, 0x40) ∈ neededFetches (big wanted) 0
    ∧ ∃ c ∈ binCands wanted 0, c.pg = wordPg ∧ c.pc = 0x40 := by
  decide +kernel
/-! Deterministic scheduling, pre-emption, memory, engines. -/

/-- The launch under DSM, its group gone from its partition, its slot `n`. -/
def dsmAt (n : Nat) : State :=
  let s := modPart (withLr two fun l => { l with dsm := true }) 0 fun p => { p with groups := [] }
  modCg s wordCg fun g => { g with dsm := { g.dsm with slot := n, advanced := false, phaseDone := false, limit := n / Config.phaseSlots } }

/-- SlotBarrierAndTimerEvents: a slot that may pass, one that has passed; the last slot of a phase and the first of the next. -/
theorem witness_slots :
    dsmCg (dsmAt 3) wordCg = true ∧ ((dsmAt 3).cg wordCg).dsm.advanced = false ∧ dsmFrozen (dsmAt 3) wordCg = false
    ∧ slotReady (dsmAt 3) wordCg = true ∧ dsmCg two wordCg = false
    ∧ phaseHeld (dsmAt (Config.phaseSlots - 1)) wordCg = true ∧ phaseHeld (dsmAt Config.phaseSlots) wordCg = false
    ∧ unaccepted (dsmAt (Config.phaseSlots - 1)) wordCg = false
    ∧ (∀ e ∈ (dsmAt (Config.phaseSlots - 1)).w.cgs, neighbours ((dsmAt (Config.phaseSlots - 1)).cg wordCg) e.2 = false) := by
  decide +kernel

/-- A store of a DSM launch with its key in phase 0, whose phase is over. -/
def keyed : State :=
  let s := dsmAt (2 * Config.phaseSlots)
  { s with w := { s.w with accs := [{ storeAcc with id := 4, key := some (0, 0), ord := .rlx }] } }

/-- SlotBarrierAndTimerEvents: an event, a release, a timer, a deferred watchpoint, a commit that are due. -/
theorem witness_dues :
    (let s := modCg (dsmAt 3) wordCg fun g => { g with dsm := { g.dsm with due := [(2 ^ 40, 3)] } }
     ((s.cg wordCg).dsm.due.find? fun d => decide (d.1 = 2 ^ 40) && decide (d.2 ≤ (s.cg wordCg).dsm.slot)) = some (2 ^ 40, 3))
    ∧ (let s := modBar two wordPg 3 fun x => { x with rels := [(0, 0)] }
       (s.pg wordPg).lid = 1 ∧ releaseDue s wordPg 3 = some 0 ∧ releaseDue two wordPg 3 = none)
    ∧ (let s := withThread two fun x => { x with timer := some 0 }
       (s.thread t0).timer = some 0 ∧ (s.thread t0).live = true)
    ∧ (let d : Deferred := { id := 2, th := t0, site := { pc := wordPc, hdr := 0x100000, len := 1 }, va := 0x40, word := 1 }
       let s := { two with w := { two.w with deferred := [d] } }
       (s.w.deferred.find? fun d => d.id = 2) = some d ∧ (s.thread t0).live = true ∧ (s.thread t0).born ≤ d.word ∧ (s.thread t0).pendTrap = none)
    ∧ (match nextCommit keyed 1 with
       | some a => decide (a.stage ≠ .frame) && !acquireFirst keyed a && !startsBefore keyed 1 (a.key.getD (0, 0)).1 && (performAcc keyed a).2
       | none => false) = true
    ∧ nextCommit two 1 = none := by
  decide +kernel

/-- A management session's message to launch `lid`; the launch's first 2 MiB are mapped. -/
def toLaunch (lid : Nat) (pay : List Byte) : State := big (hostState 9 0 lid pay)

theorem witness_admitted :
    (∀ m, admitted (toLaunch 1 []) m) ∧ ∀ m, admitted (hostState 2 0 8 []) m := by
  unfold admitted
  decide

/-- PreemptionEventsAndMessages: a launch that is not there, one that is not stoppable, a misaligned area, one that is not mapped, a good one
with and without notice; a launch in each state of a stop; a saved launch that can be restored. -/
theorem witness_preemption :
    namedLaunch (toLaunch 2 (bytesOfNat 8 0)) = none ∧ namedLaunch (toLaunch 1 (bytesOfNat 8 0)) = some 1 ∧ stoppable two 1 = true
    ∧ stoppable (modLaunch two 1 fun l => { l with run := .saved }) 1 = false
    ∧ payNat (toLaunch 1 (bytesOfNat 8 0x1001)) 0 8 % 4096 ≠ 0 ∧ payNat (toLaunch 1 (bytesOfNat 8 0x1000)) 0 8 = 0x1000
    ∧ 0x1000 + contextSize two 1 ≤ 2 ^ 56
    ∧ (checkArea (toLaunch 1 (bytesOfNat 8 0)) 1 0x1000 (contextSize two 1)).2 = none
    ∧ ((checkArea two 1 0x1000 (contextSize two 1)).2.any fun x => decide (x.1 ≠ 0)) = true
    ∧ (let s := modLaunch two 1 fun l => { l with run := .notice 0 0x1000 }
       (s.launch 1).run = .notice 0 0x1000 ∧ 0 ≤ s.clk)
    ∧ (let s := modLaunch two 1 fun l => { l with run := .stopping 0x1000 }
       (s.launch 1).run = .stopping 0x1000 ∧ stopSettled s 1 = true)
    ∧ (∀ c, (two.launch 1).run ≠ .stopping c) ∧ (∀ d c, (two.launch 1).run ≠ .notice d c)
    ∧ (let i : Image := { va := 1, space := 0, lid := 1, world := World.init, notice := false }
       let s := modLaunch { toLaunch 1 [] with images := [i] } 1 fun l => { l with run := .saved }
       (s.images.find? fun i => decide (i.va = s.rx.addr.toNat) && decide ((s.launch i.lid).run = .saved)
         && ((rxSpace s).isNone || decide (rxSpace s = some i.space))) = some i
       ∧ (match restoreLaunch s i with | .ok _ => true | .error _ => false) = true) := by
  refine ⟨?_, ?_, ?_, ?_, ?_, ?_, ?_, ?_, ?_, ?_, ?_, nofun, nofun, ?_⟩ <;> decide +kernel

/-- MemoryAndSampleEvents: a walk, a window access, a hotness record that finds its ring free and full, a stall sample, a trial window. -/
theorem witness_samples :
    (spaceOnCore two 0 0 = true ∧ (0x40 : Nat) < 2 ^ 56 ∧ tlbMiss two 0 0 0x40 = true)
    ∧ (let s := withAcc { storeAcc with stage := .window, pa := 0x10 }
       accNow s 9 .window = some { storeAcc with stage := .window, pa := 0x10 } ∧ accNow two 9 .window = none)
    ∧ ((two.die 0).mcb.hsWr - (two.die 0).mcb.hsRd).toNat ≠ 2 ^ (two.die 0).mcb.hsLsize / 16
    ∧ (let s := modDie two 0 fun d => { d with mcb := { d.mcb with hsWr := 256 } }
       ((s.die 0).mcb.hsWr - (s.die 0).mcb.hsRd).toNat = 2 ^ (s.die 0).mcb.hsLsize / 16)
    ∧ two.w.window.wf = true ∧ sampleNow two 0 = false
    ∧ (let s := { two with trial := { two.trial with en := true, left := 0 } }
       s.trial.en = true ∧ s.trial.left = 0) := by
  decide +kernel

/-- A hotness record that waits; a stall sample that is due at count 8 of a block that samples every eighth. -/
def hot : State := modCore two 0 fun c => { c with hsDue := [(0x40, 1, 0, false)] }
def sampling : State :=
  modDie (modPart two 0 fun p => { p with issued := true }) 0 fun d => { d with sm := { d.sm with en := true, k := 3, clk := 8 } }

theorem witness_sampling : (hot.core 0).hsDue = [(0x40, 1, 0, false)] ∧ sampleNow sampling 0 = true := by decide +kernel

/-- An accepted matrix operation. -/
def matOf (k : MatKind) (due : Option Nat) : MatOp :=
  { id := 6, kind := k, tiles := 3, gang := { cg := wordCg, serial := 1, members := [0] }, th := t0, core := 0, space := 0,
    site := { pc := wordPc, hdr := 0x100000, len := 1 }, waiters := [], accepted := true, since := 0, due := due }

def engineWith (ops : List MatOp) (queue : List Gang) (last : Option Gang) : State :=
  modEng two 0 fun e => { e with ops := ops, queue := queue, last := last, owner := none, readyAt := 0, nextStart := 0 }

def mmaKind : MatKind := .mma .i8 0 0

/-- MatrixEngineEvents: a reservation that is cleared; a grant to the last owner's launch and to another; an operation that starts, is complete,
or is one of the drain port. -/
theorem witness_matrix_events :
    (tget? two.w.cores 0).isSome = true
    ∧ (let r : Resv := { cg := wordCg, off := 0, len := 4096, fmt := 11, blk := 0, sfmt := 0, scale := 0, npan := 1, clearing := true }
       tget? ((modCore two 0 fun c => { c with resv := [(15, r)] }).core 0).resv 15 = some r)
    ∧ (let g : Gang := { cg := wordCg, serial := 1, members := [0] }
       (∀ l ∈ [none, some { g with serial := (two.launch 1).serial }], ((engineWith [] [g] l).core 0).eng.queue = [g]
          ∧ ((engineWith [] [g] l).core 0).eng.owner = none ∧ engFrozen ((engineWith [] [g] l).core 0).eng = false
          ∧ ((engineWith [] [g] l).cg g.cg).engBack = none))
    ∧ startable (engineWith [matOf mmaKind none] [] none) 0 = some (matOf mmaKind none)
    ∧ startable (engineWith [] [] none) 0 = none
    ∧ (((engineWith [matOf mmaKind (some 0)] [] none).core 0).eng.ops.find? fun o => o.due.isSome) = some (matOf mmaKind (some 0))
    ∧ portReady (engineWith [matOf .zero none] [] none) 0 (matOf .zero none) = true := by
  decide +kernel

/-- A state with a registered operation whose descriptor lies at 0x400. -/
def withOp (k : EngKind) : State :=
  let s := modCore two 0 fun c => { c with tlb := [{ space := 0, vpn := 0, large := false, pa := 0x200000, nc := false, x := true, w := true, r := true }] }
  { s with w := { s.w with ops := [{ opOf 9 3 [] with kind := k, accepted := true, descVa := 0x400, desc := List.replicate 64 0 }] } }

/-- UnitOperationEvents: an operation of each kind that may run, a codebook whose bytes are read and one whose page is not mapped. -/
theorem witness_unit_events :
    (∀ k ∈ [EngKind.bcopy, .bgath, .bscat, .cbld, .sproj, .ssort, .rproj, .rwlist],
      ((withOp k).op? 9).any (fun o => decide (o.kind = k) && opMayRun (withOp k) o && !clearingHit (withOp k) o) = true)
    ∧ two.op? 9 = none ∧ opMayRun (withOp .cbld) (opOf 9 3 []) = false
    ∧ (let o := { opOf 9 3 [] with kind := .cbld, accepted := true }
       (match (opRead (withOp .cbld) o 6 0x400 1024).2 with | .ok bs => bs.length | .error _ => 0) = 1024
       ∧ (match (opRead two o 6 0x400 1024).2 with | .ok _ => 0 | .error e => e.1) = 0x06) := by
  decide +kernel

/-- A job of thread 0 for a child of one thread; its outcome is known or not. -/
def jobState (done : Option (BitVec 8)) : State :=
  let j : Job := { desc := List.replicate 128 0, record := gridRecord 1, th := t0, lid := 1, serial := (two.launch 1).serial, space := 0, sess := 0, site := { pc := wordPc, hdr := 0x100000, len := 1 },
                   word := 0, priv := false, child := none, done := done }
  let s := big two
  { s with w := { s.w with jobs := [(2, j)] } }

/-- UnitOperationEvents: a stream's element that is fetched in its turn; a traversal that has no node left; a job to build and one to judge. -/
theorem witness_more_units :
    (fetchable (modPg two wordPg fun g => { g with streams := g.streams.set 1 { stream1 0 with entries := [] } }) t0 1 = some 0)
    ∧ fetchTurn two t0 1 = true
    ∧ (let v : Trav := { id := 4, th := t0, pc := wordPc, space := 0, core := 0, root := 0, ray := [], any := false, stack := [], best := [], visited := 0,
                         refetched := 0, waits := 1, pend := 5, due := 1 }
       let s := { two with clk := 1, w := { two.w with travs := [v] } }
       (s.w.travs.find? fun v => v.id = 4) = some v ∧ v.due ≠ 0 ∧ v.due ≤ timeOf s (cgOfPg v.th.pg)
       ∧ (match (traceRun (2 ^ 20 + 1) s { v with waits := 2, due := timeOf s (cgOfPg v.th.pg) + 256 } false).2 with | .done _ => true | _ => false) = true)
    ∧ mayBuild (jobState none) 2 = true ∧ mayBuild two 2 = false
    ∧ (match tget? (jobState none).w.jobs 2 with
       | some j => decide ((buildAll (recordThreads (jobLr j)) (jobState none) j 0).2 = .ok)
       | none => false) = true
    ∧ (match tget? (jobState (some 0)).w.jobs 2 with
       | some j => decide (j.done = some 0) && decide ((judgeAll (mdN j) (jobState (some 0)) j (mdFirst j) 0 0).2.1 = .ok)
           && (finishJob (jobState (some 0)) 2 0 0 0 0).2
       | none => false) = true := by
  refine ⟨?_, ?_, ?_, ?_, ?_, ?_, ?_⟩ <;> decide +kernel
/-! Messages. -/

/-- A session's message, the session in space 0 or, a management session, in none. -/
def sent (mgmt : Bool) (cls : BitVec 8) (op : BitVec 7) (addr : Nat) (pay : List Byte) : State :=
  let s := big (hostState cls op addr pay)
  { s with sessions := [(0, { number := 0, serial := 0, management := mgmt, space := some 0, clock := 0, ords := 0 })] }

/-- What the pieces of a host access are: how many, and the failure's cause. -/
def piecesOf (s : State) (a n : Nat) (need : Need) : Nat × Option (BitVec 8) :=
  let r := hostPieces s a n need
  (r.2.1.length, r.2.2.map fun e => e.1)

/-- HostAccessMessages: a session without the role; WRITE and READ aligned and not, at both ends of their lengths, of mapped pages and of one that
is not; window accesses at the last word and beyond; FLUSH with and without what it waits for. -/
theorem witness_host_access :
    (sent false 2 0 0x40 (bytesOfNat 8 1)).rx.payload ≠ [] ∧ (0x44 : Nat) % 8 ≠ 0
    ∧ piecesOf (sent false 2 0 0x40 []) 0x40 8 .write = (1, none) ∧ piecesOf (sent false 2 0 0 []) 0x1FFFF8 16 .write = (1, some 0x06)
    ∧ piecesOf (sent false 3 0 0 []) 0x78 16 .read = (2, none)
    ∧ payNat (sent false 3 0 0x40 (bytesOfNat 8 65536)) 0 8 = 65536 ∧ payNat (sent false 3 0 0x40 (bytesOfNat 8 65544)) 0 8 = 65544
    ∧ (stampHost (sent false 2 0 0x40 []) [(0x4000, 8)]).2 = true
    ∧ connOrdered (sent false 5 2 0 []).rx.conn = true ∧ (Config.windowSize - 4) % 4 = 0
    ∧ (stampHost (sent false 5 2 0 []) [(clockLine true 0x10, 8)]).2 = true
    ∧ sessionWaits (sent false 4 0 0 []) = false ∧ sessionWaits { sent false 4 0 0 [] with inbox := [(1, [])] } = true
    ∧ rxSpace (sent false 4 1 0 []) = some 0 ∧ rxSpace (hostState 4 1 0 []) = none
    ∧ rangeBusy (dropTranslations (reclaimTraces (sent false 4 1 0 []) 0 0 0x10000) 0 0 0x10000) 0 0 0x10000 = false
    ∧ (sent false 6 0 0 (gridRecord 32)).rx.payload.length = 1024
    ∧ (let s := sent false 7 0 0x40 (bytesOfNat 16 0 ++ bytesOfNat 8 8)
       s.rx.payload.length = 24 ∧ piecesOf s 0x40 (payNat s 16 8) .read = (1, none) ∧ s.replay = none) := by
  refine ⟨?_, ?_, ?_, ?_, ?_, ?_, ?_, ?_, ?_, ?_, ?_, ?_, ?_, ?_, ?_, ?_, ?_, ?_⟩ <;> decide +kernel

theorem witness_roles :
    admitted (sent false 9 0 8 []) false ∧ admitted (sent true 9 0 8 []) true ∧ rxManagement (sent false 9 0 8 []) = false
    ∧ isStatusRead (sent false 9 0 8 []) = false := by
  unfold admitted
  decide

/-- ManagementMessages: the ends of the blocks and addresses that name no word; an image at both ends of its length; a checkpoint that can be
restored. -/
theorem witness_management :
    mgmtWord 0 = some .status ∧ mgmtWord 0x100 = some (.memory 0 0) ∧ mgmtWord 0x2E8 = some (.memory 7 0x28) ∧ mgmtWord 0x2F0 = none
    ∧ mgmtWord 0x4F0 = some (.sampling 7 0x10) ∧ mgmtWord 0x4F8 = none ∧ mgmtWord 0x878 = some (.trial 0x78) ∧ mgmtWord 0x880 = none ∧ mgmtWord 4 = none
    ∧ 0x3FFFFF8 + 8 ≤ 67108864 ∧ 67108864 < 0x3FFFFF8 + 9
    ∧ (let s := { hostState 9 0 (2 ^ 64 - 1) [] with ckpts := [ckpt true []], nextSerial := 0 }
       s.mgmt.ready = true ∧ namedCkpt s = some (ckpt true []))
    ∧ (let s := { hostState 9 0 2 [] with ckpts := [ckpt true []] }
       namedCkpt s = none) := by
  decide

/-- A debugger's message about launch 1, which its session has claimed. -/
def debugs (pay : List Byte) : State := withClaim (big (hostState 0x0A 0 1 pay)) 7

/-- DebugAndSessionMessages: a launch that is claimed by this session, one that is not, one that is not there; a partition of the launch and one
that is not; a trace buffer of the least and greatest size, on mapped pages and not. -/
theorem witness_debug :
    (rxClaim (debugs [])).isSome = true ∧ rxClaim (hostState 0x0A 0 1 []) = none ∧ (tget? two.w.launches 1).isSome = true
    ∧ tget? two.w.launches 2 = none ∧ tget? two.w.claims 1 = none ∧ (tget? (debugs []).w.claims 1).isSome = true
    ∧ sessionSees (debugs []) (two.launch 1) = true ∧ payNat (debugs (bytesOfNat 8 7)) 0 8 = 7
    ∧ namedPart (debugs (bytesOfNat 8 0)) 1 = some 0 ∧ namedPart (debugs (bytesOfNat 8 0x60000)) 1 = none
    ∧ payNat (debugs (bytesOfNat 8 0x2000000)) 0 8 / 2 ^ 24 % 4 = 2 ∧ payNat (debugs (bytesOfNat 12 0 ++ bytesOfNat 4 65536)) 12 4 = 65536
    ∧ (pinBuffer (debugs []) 0 0x1000 (2 ^ 12)).2 = none ∧ (pinBuffer (debugs []) 0 0x200000 (2 ^ 12)).2 = some (0x06, 0x200000)
    ∧ 2 ^ 56 - 2 ^ 30 + 2 ^ 30 ≤ 2 ^ 56 ∧ payNat (debugs (bytesOfNat 8 0x1000 ++ bytesOfNat 8 12)) 8 8 % 32 = 12 := by
  refine ⟨?_, ?_, ?_, ?_, ?_, ?_, ?_, ?_, ?_, ?_, ?_, ?_, ?_, ?_, ?_, ?_⟩ <;> decide +kernel

/-- A session's opening message; the credential is granted space 3. Whether the credential is good is free: one of the two clauses applies. -/
def opening : State :=
  let pay := bytesOfNat 8 3
  { hostState 12 0 0 pay with sessions := [], spaces := [(3, { root := 0, access := [Config.credentialHash pay] })] }

theorem witness_sessions :
    opening.mgmt.powered = true ∧ opening.mgmt.ports.getLsbD (connPort opening.rx.conn) = true ∧ opening.mgmt.safe = false
    ∧ opening.rx.cls = 12 ∧ opening.rx.op = 0 ∧ connOrdered opening.rx.conn = true ∧ 8 ≤ opening.rx.payload.length ∧ rxSession opening = none
    ∧ openSpace opening ≠ 0xFF ∧ freeSession opening = some 0 := by
  decide +kernel

theorem witness_session_space : spaceGrants opening (openSpace opening) = true := by
  have h : openSpace opening = 3 := by decide
  rw [h]
  simp [spaceGrants, opening, tget?, hostState]

/-- DebugAndSessionMessages: a space that can be made, one that can go, one with a launch or a session, none; a lost connection. -/
theorem witness_spaces :
    (0xFFFF8000 : Nat) % 0x8000 = 0 ∧ firstFree 64 (fun n => (tget? two.spaces n).isNone) = some 0
    ∧ (tget? opening.spaces (3 % 64)).isSome = true ∧ (∀ l ∈ opening.w.launches, l.2.space ≠ 3) ∧ (∀ x ∈ opening.sessions, x.2.space ≠ some 3)
    ∧ (∃ l ∈ opening.w.launches, l.2.space = 0) ∧ (∃ x ∈ (sent true 9 0 0 []).sessions, x.2.space = some 0) ∧ tget? two.spaces 0 = none
    ∧ (∀ c ∈ two.w.claims, connHome c.2.conn ≠ 0) ∧ (tget? (sent true 9 0 0 []).sessions 0).isSome = true
    ∧ two.mgmt.ports.getLsbD (connPort 0) = true ∧ two.replay = none := by
  decide

/-! Encoding and the step. -/

/-- EncodedWordsDecode and DecodedWordsEncode: a well-formed word, and one that decodes. -/
theorem witness_encoding :
    (Instr.iadd (wd (vr 1) (vr 2) (.imm 5)) .i32 false).wf cx = true
    ∧ (decodeWord (wordBits 0x020 (mT 1 0) (eV 1) (eI 3) (eI 4))).toOption.isSome = true := by
  decide

/-- StepRunsTheDecodedWord: State.reset with a word at the fetch. -/
theorem witness_step :
    let s := State.reset.withFetchWord 96 (wordBits 0x020 (mT 1 0) (eV 1) (eI 3) (eI 4)).toNat
    ∃ c rest, s.agenda = .issue c :: rest ∧ issueNow { s with agenda := rest } c.part c.pos = true ∧ (s.group c.part c.pos).hold = .free
      ∧ ((s.group c.part c.pos).words.head?.bind fun x => (decodeWord x).toOption).isSome = true
      ∧ (issueAt { s with agenda := rest } c.part c.pos).isSome = true := by
  refine ⟨{ part := 0, pos := 0 }, [], ?_⟩
  decide

/-- StepKeepsCanonicalMemory and EveryRowAnswersANextState: reset is canonical, and a step of it goes on; without power there is none. -/
theorem witness_canonical :
    State.reset.canonical ∧ (match step State.reset with | .next _ => true | _ => false) = true
    ∧ (let s := { State.reset with mgmt := { State.reset.mgmt with powered := false } }
       s.mgmt.powered = false ∧ s.agenda = [] ∧ s.replay = none) := by
  refine ⟨?_, ?_, ?_⟩
  · exact ⟨⟨by decide, by decide⟩, nofun⟩
  · decide
  · decide

/-! Hypotheses that the parts above do not meet. -/

/-- StoreWritesItsBytes: the home is the die's own, the page is uncached, the launch is under DSM, the home is on another die. -/
theorem witness_store_homes :
    storeAcc.lanes ≠ [] ∧ (∀ l ∈ storeAcc.lanes, (storeAcc.pa + l.va - storeAcc.va) / 128 = storeAcc.pa / 128)
    ∧ homeDie storeAcc.pa = dieOfCore storeAcc.core ∧ homeDie (2 ^ 37) ≠ 0 ∧ (two.launch 1).lr.dsm = false
    ∧ (let far := { storeAcc with pa := 2 ^ 37 }
       ∀ a ∈ [{ far with nc := true }, far], accNow (withAcc a) 9 .home = some a ∧ (performAcc (withAcc a) a).2 = true)
    ∧ (let s := withLr (withAcc storeAcc) fun l => { l with dsm := true }
       accNow s 9 .home = some storeAcc ∧ (performAcc s storeAcc).2 = true) := by
  decide

/-- A write at the head of the remote write queue of die 0. -/
def headWrite : QWrite := { id := 7, space := 0, lid := 1, va := 0x40, line := 2 ^ 30, parts := [(2 ^ 37, [1, 2])], stamps := [t0] }
def queued : State := modDie two 0 fun d => { d with wq := [headWrite] }

/-- StoreWritesItsBytes: a queued write whose thread is stamped. -/
theorem witness_queued_write :
    accNow queued 7 .home = none ∧ queueHead queued 7 = some 0 ∧ (queued.die 0).wq = headWrite :: [] ∧ framePending queued (2 ^ 30 * 128) = false
    ∧ (stampAll queued (headWrite.stamps.map fun t => (t, clockLine false (2 ^ 30 * 128)))).2 = true ∧ queued.w.mem.wf = true := by
  decide

/-- LoadGivesTheBytesOfMemory: the lanes lie in one line above the ring, and nothing is queued for it. -/
theorem witness_load_lines :
    (∀ l ∈ (loadAcc false).lanes, (0x100000 + l.va - 0x40) / 128 = 0x100000 / 128 ∧ (0x100000 + l.va - 0x40) % 128 + 4 ≤ 128
      ∧ 2 ^ 20 ≤ 0x100000 + l.va - 0x40)
    ∧ queuedLine (withAcc (loadAcc false)) 0 (0x100000 / 128) = false ∧ (withAcc (loadAcc false)).rb.olBase + 2 ^ 20 = 2 ^ 20
    ∧ ((loadAcc false).lanes.filterMap (·.pend)).Nodup := by
  decide

/-- CacheControlAndSignalWords: a line that no write is on its way to, and one of the remote write queue. -/
theorem witness_line_busy : lineBusy two 0 0x4000 = false ∧ lineBusy queued 0 (2 ^ 30) = true := by decide

/-- MatrixWords: the lanes of MDEP on tile 0 with the counter in v1, which the launch has for thread 0 and not for thread 1. -/
theorem witness_mdep :
    (counterOf (withLr two fun l => { l with dccnt := 3 }) ix2 t0 (vr 1)).toOption = some 2
    ∧ (match counterOf (withLr two fun l => { l with dccnt := 3 }) ix2 t1 (vr 1) with | .error x => x.val | .ok _ => 0) = 5
    ∧ armedOn two 0 0 < 4 ∧ (two.group 0 0).did = [] := by
  decide

/-- The lanes of MDEP at `s`, tile 0 and the counter in v1: thread 0 arms, thread 1 takes PERMISSION. -/
def armStep (s a : State) (t : ThreadRef) : Option State :=
  match counterOf s ix2 t (vr 1) with
  | .error tr => some (trapAt a ix2 t.tid tr)
  | .ok n => if armedOn a 0 0 < 4 then some (fireArmed (modEng a 0 fun x => { x with armed := x.armed ++ [{ tile := 0, counter := n, cg := wordCg, ops := [] }] }) 0)
    else none
theorem witness_mdep_lanes :
    let s := withLr two fun l => { l with dccnt := 3 }
    ((armStep s s t0).bind fun a => armStep s a t1).isSome = true := by
  decide

/-- AlarmsAndCheckpoints: the launches run; they are being stopped and have not, and have, reached their stop units; a frame cut out of a range. -/
theorem witness_checkpoint_stop :
    two.ckptStop = false
    ∧ allStopped { withAcc storeAcc with ckptStop := true } = false ∧ allStopped { State.reset with ckptStop := true } = true
    ∧ (∀ x ∈ [ckpt true []], x.valid = true) ∧ cutFrame [(2, 5)] 3 = [(2, 3), (4, 5)] := by
  decide +kernel

/-- SchedulerEvents: a set of overflowed threads that may move in this clk. -/
theorem witness_overflow :
    (let s := modPart (binned false) 0 fun p => { p with ovDue := true }
     (s.part 0).ovDue = true ∧ overflowWaits s 0 = true ∧ firstOverflowed s 0 = some t0) ∧ (two.part 0).ovDue = false := by
  decide +kernel

/-- LaunchEvents: the record of the task that starts stands in its ring; a launch that serves no tasks. -/
theorem witness_settled :
    startsTasks serving 1 = true ∧ (nextTask serving 1 0).any (fun x => (settleRecord serving 1 0 x.2.1 x.2.2.1).2) = true
    ∧ startsTasks two 1 = false := by
  decide +kernel

/-- SlotBarrierAndTimerEvents: an event of a barrier and one of a task's start; a commit that no task start goes before. -/
theorem witness_slot_events :
    (let s := modCg (dsmAt 3) wordCg fun g => { g with dsm := { g.dsm with due := [(2 ^ 60 + wordPg * 1024, 3)] } }
     ((s.cg wordCg).dsm.due.find? fun d => decide (d.1 = 2 ^ 60 + wordPg * 1024) && decide (d.2 ≤ (s.cg wordCg).dsm.slot))
       = some (2 ^ 60 + wordPg * 1024, 3) ∧ (s.launch (s.cg wordCg).lid).out ≠ 3)
    ∧ (2 : Nat) ^ 40 < 2 ^ 60 ∧ startsBefore keyed 1 0 = false ∧ slotReady (dsmAt (Config.phaseSlots - 1)) wordCg = true
    ∧ t0.tid < (two.pg t0.pg).threads.length := by
  decide +kernel

/-- PreemptionEventsAndMessages: a launch with a handler whose lowest live thread is thread 0, and one without. -/
theorem witness_notice :
    (tget? two.w.launches 1).isSome = true ∧ (two.launch 1).lr.trapvec ≠ 0
    ∧ (tget? two.w.pgs wordPg).any (fun g => decide (g.lid = 1) && decide ((tidsWhere g Thread.live).head? = some 0)) = true
    ∧ ((withLr two fun l => { l with trapvec := 0 }).launch 1).lr.trapvec = 0 := by
  decide

/-- MemoryAndSampleEvents: a signal whose submitter's session is there, one whose space has two other sessions, one that nobody takes. -/
def signalled (serial : Nat) (space : Nat) : State :=
  let x : Session := { number := 3, serial := 5, management := false, space := some 0, clock := 0, ords := 0 }
  { two with sessions := [(0, x), (2, { x with number := 1, serial := 6 })],
             signals := [{ sess := serial, space := space, lid := 1, off := 0x40, val := 9 }] }

theorem witness_signals :
    (signalled 5 0).signals ≠ [] ∧ ((signalled 5 0).sessions.find? fun e => decide (e.2.serial = 5)).map (·.1) = some 0
    ∧ ((signalled 9 0).sessions.find? fun e => decide (e.2.serial = 9)) = none
    ∧ (let bound := (signalled 9 0).sessions.filter fun e => decide (e.2.space = some 0)
       (bound.map fun x => x.2.number).Nodup ∧ bound.length = 2
       ∧ (bound.find? fun e => decide (∀ x ∈ bound, e.2.number ≤ x.2.number)).map (·.1) = some 2)
    ∧ ((signalled 9 1).sessions.filter fun e => decide (e.2.space = some 1)) = [] ∧ two.signals = [] := by
  decide

/-- MatrixEngineEvents: an operation of the drain port with an effect, and one that waits for its page; a codebook that may take force. -/
theorem witness_port :
    (portEffect two (matOf .zero none)).isSome = true ∧ (tget? two.w.cores 0).isSome = true
    ∧ ((withOp .cbld).op? 9).any (fun o => decide (o.kind = .cbld) && !o.done) = true
    ∧ (let s := modOp (withOp .cbld) 9 fun o => { o with done := true }
       (s.op? 9).any (fun o => decide (o.kind = .cbld) && o.done && o.waits.all fun n => !((s.core o.core).eng.ops.map (·.id)).contains n) = true) := by
  decide +kernel

/-! Units. Their descriptors lie in page 0, which is mapped. -/

/-- Bytes at addresses of page 0. -/
def atPage (k : EngKind) (l : List (Nat × List Byte)) : State :=
  let s := withOp k
  { s with w := { s.w with mem := l.foldl (fun m x => memWriteN m (0x200000 + x.1) x.2) s.w.mem } }
/-- An operation with a descriptor of little-endian fields. -/
def unitOp (k : EngKind) (l : List (Nat × Nat)) : EngOp :=
  { opOf 9 3 [] with kind := k, accepted := true, descVa := 0x400, desc := l.flatMap fun x => bytesOfNat x.1 x.2 }

/-- UnitOperationEvents: two rows of 4 bytes from memory to memory, to either buffer, and of which the second fails. -/
def rows (dst space : Nat) : EngOp := unitOp .bcopy [(8, 0x1000), (8, dst), (8, 0), (4, 8), (4, 8), (2, 3), (2, 1), (4, space)]
theorem witness_rows :
    bdRows (rows 0x2000 0).desc = (rows 0x2000 0).row + 2 ∧ bdSsp (rows 0x2000 0).desc = 0 ∧ bdDsp (rows 0 1).desc = 1 ∧ bdDsp (rows 0 2).desc = 2
    ∧ (match copyRow (atPage .bcopy []) (rows 0x2000 0) 0 with
      | (a, none) => (copyRow a (rows 0x2000 0) 1).2.isNone
      | _ => false) = true
    ∧ (match copyRow (atPage .bcopy []) (rows 0xFFFC 0) 0 with
      | (a, none) => (copyRow a (rows 0xFFFC 0) 1).2.any fun e => decide (e.1 = 0x06)
      | _ => false) = true := by
  decide +kernel

/-- UnitOperationEvents: one splat with a camera of one pixel, and its record written. -/
def projOp : EngOp := unitOp .sproj [(8, 0x1000), (8, 0x2000), (8, 0x3000), (4, 0), (4, 1)]
theorem witness_projection :
    pjN projOp.desc = projOp.row + 1
    ∧ (match opRead (atPage .sproj [(0x3044, [1, 0, 1, 0])]) projOp 6 0x3000 128 with
      | (a, .ok cam) => !camBad cam && (match opRead a projOp 6 0x1000 64 with
        | (b, .ok g) => (opWrite b projOp 0x2000 (projectOne g cam 0)).2.isNone
        | _ => false)
      | _ => false) = true := by
  decide +kernel

/-- UnitOperationEvents: a sort of one splat that covers one tile, for which there is room and is not. -/
def sortOp (cap : Nat) : EngOp := unitOp .ssort [(8, 0x1000), (8, 0x2000), (8, 0x3000), (4, 1), (4, cap), (2, 1), (2, 1), (4, 0)]
theorem witness_sort :
    (∀ cap ∈ [0, 1], (match sieveRead (ssN (sortOp cap).desc) (atPage .ssort []) (sortOp cap) 0 [] with
      | (a, .ok l) => decide ((l.map fun e => (e.2.2.2.2.1 + 1 - e.2.2.1) * (e.2.2.2.2.2 + 1 - e.2.2.2.1)).sum = 1)
          && (opWrite a (sortOp cap) 0x424 (bytesOfNat 4 1)).2.isNone
          && (opWrite a (sortOp cap) 0x2000 (bytesOfNat 8 0)).2.isNone && (opWrite a (sortOp cap) 0x3000 (bytesOfNat 8 (2 ^ 32))).2.isNone
      | _ => false) = true) ∧ ssCap (sortOp 0).desc < 1 ∧ 1 ≤ ssCap (sortOp 1).desc := by
  decide +kernel

/-- UnitOperationEvents: a visibility buffer of one pixel, empty, that is warped; a worklist of it with and without room. -/
def visOp (k : EngKind) (cap : Nat) : EngOp :=
  unitOp k [(8, 0x1000), (8, 0x2000), (8, 0x3000), (8, 0), (8, 0x4000), (8, 0x5000), (2, 1), (2, 1), (4, 0), (4, cap), (4, 0)]
theorem witness_visibility :
    rdHt (visOp .rproj 0).desc = 1 ∧ rdRef (visOp .rproj 0).desc = 0
    ∧ (match warpRows 1 (atPage .rproj [(0x1000, List.replicate 8 0xFF)]) (visOp .rproj 0) 0 [] with
      | (a, .ok best) => (opWrite a (visOp .rproj 0) 0x3000 (bytesOfNat 8 (tget best 0 vbAllOnes))).2.isNone
      | _ => false) = true
    ∧ (∀ cap ∈ [0, 1], (match emptyRows (rdHt (visOp .rwlist cap).desc) (atPage .rwlist [(0x3000, List.replicate 8 0xFF)]) (visOp .rwlist cap) 0 [] with
      | (a, .ok l) => decide (l.length = 1) && decide (rdCap (visOp .rwlist cap).desc = cap)
          && (match opWrite a (visOp .rwlist cap) 0x4000 (l.flatMap (bytesOfNat 4)) with
            | (b, none) => (opWrite b (visOp .rwlist cap) 0x5000 (bytesOfNat 4 1)).2.isNone
            | _ => false)
      | _ => false) = true) := by
  decide +kernel

/-- UnitOperationEvents: a tag without an error; a traversal that a stop has abandoned; a job that failed. -/
theorem witness_unit_ends :
    (tget? two.w.cgs wordCg).isSome = true ∧ (tagOf two wordCg 3).err = 0
    ∧ (tget? (jobState (some 2)).w.jobs 2).any (fun j => decide (j.done = some 2)) = true ∧ (finishJob (jobState (some 2)) 2 2 0 0 0).2 = true := by
  decide +kernel

/-- HostAccessMessages: a flush in physical addresses inside DRAM and beyond its top; ManagementMessages: an image write with bytes and without. -/
theorem witness_flush :
    (0 : Nat) < Config.dramTop ∧ Config.dramTop < Config.dramTop + 8 ∧ rxSpace (hostState 4 0 0 (bytesOfNat 8 8)) = none
    ∧ payNat (hostState 4 0 0 (bytesOfNat 8 8)) 0 8 = 8 ∧ sessionWaits (hostState 4 0 0 (bytesOfNat 8 8)) = false
    ∧ (hostState 9 3 0 []).rx.payload = [] ∧ (hostState 9 3 0 [1]).rx.payload ≠ [] := by
  decide

/-- DebugAndSessionMessages: a refused delivery mode on a port that is up; a claimed launch with a watchpoint's range; StepRunsTheDecodedWord:
a group whose word is not one that is done again. -/
theorem witness_refused :
    two.mgmt.powered = true ∧ two.mgmt.ports.getLsbD (connPort 1) = true ∧ connHome 1 = 0 ∧ (two.group 0 0).redo = false := by
  decide

end Sys2Proof.Tests
end

/-! Bytes of a number, and O21: memory reads back what was written (00 R4). -/

namespace Sys2Proof.Machine

@[simp] theorem length_bytesOfNat (n v : Nat) : (bytesOfNat n v).length = n := by
  induction n generalizing v with
  | zero => rfl
  | succ k ih => simp [bytesOfNat, ih]

theorem natOfBytes_cons (b : Byte) (bs : List Byte) : natOfBytes (b :: bs) = natOfBytes bs * 256 + b.toNat := rfl

/-- The `n` low bytes of a number hold it modulo 256^n. -/
theorem natOfBytes_bytesOfNat (n v : Nat) : natOfBytes (bytesOfNat n v) = v % 256 ^ n := by
  induction n generalizing v with
  | zero => simp [bytesOfNat, natOfBytes, Nat.mod_one]
  | succ k ih =>
    rw [bytesOfNat, natOfBytes_cons, ih, BitVec.toNat_ofNat, pow_succ' 256 k, Nat.mod_mul]
    omega

/-- A number reads back, modulo what its bytes can hold. -/
theorem memNat_memWriteN_bytesOfNat (m : Memory) (a n v : Nat) (h : m.wf = true) :
    memNat (memWriteN m a (bytesOfNat n v)) a n = v % 256 ^ n := by
  have hr := memReadN_memWriteN m a (bytesOfNat n v) h
  rw [length_bytesOfNat] at hr
  rw [memNat, hr, natOfBytes_bytesOfNat]

/-- Settles O21: a write of bytes keeps the canonical form, reads back, and leaves every byte outside it alone; a number reads back by the
bytes that hold it. -/
theorem memoryReadsBackWhatWasWritten : Obligations.MemoryReadsBackWhatWasWritten := fun m a bs h =>
  ⟨memWriteN_wf m a bs h, memReadN_memWriteN m a bs h, fun k hk => memRead_memWriteN_other m a k bs h hk,
    fun n v => memNat_memWriteN_bytesOfNat m a n v h⟩

end Sys2Proof.Machine

namespace Sys2Proof.Machine

/-! O58 (00 R4, 08): every step keeps `State.canonical`. Memory and window are written through `modFrames` and `modWindow` alone, by
`memWriteN` and `memClear`, which keep the canonical form; checkpoints are taken from the present state, filtered, and brought back. So
each operation of the model that returns a state keeps `State.canonical`: one lemma `<operation>_canonical` each, in the order of the
model's files, whose proof goes through the branches of the operation and cites the lemmas of the operations it calls. An update of the
state that writes neither memory, window nor checkpoints keeps the predicate by definition. -/

/-- The state that an outcome goes on with, if it does, is canonical. -/
def OutcomeCanonical (o : Host.Outcome State Fault Refusal) : Prop :=
  match o with
  | .next t => t.canonical
  | .fault _ | .refused _ => True

/-- The state that the Ladle has left, if it has taken an operation, is canonical. -/
def LadleEndCanonical (e : LadleEnd) : Prop :=
  match e with
  | .done t _ => t.canonical
  | .full | .frame => True

theorem outcomeCanonical_next {t : State} : OutcomeCanonical (.next t) ↔ t.canonical := Iff.rfl

theorem ladleEndCanonical_done {t : State} {vals : List Word} : LadleEndCanonical (.done t vals) ↔ t.canonical := Iff.rfl

/-! How the predicate passes through the forms that the operations are written in: folds, conditionals, and results taken apart. -/

section

variable {s t : State} {α β : Type}

theorem foldl_canonical {f : State → α → State} (hf : ∀ a x, a.canonical → (f a x).canonical) {l : List α} (h : s.canonical) :
    (l.foldl f s).canonical :=
  List.foldlRecOn l f h fun a ha x _ => hf a x ha

theorem foldl_fst_canonical {f : State × β → α → State × β} (hf : ∀ r x, r.1.canonical → (f r x).1.canonical) {r : State × β}
    {l : List α} (h : r.1.canonical) : (l.foldl f r).1.canonical :=
  List.foldlRecOn (motive := fun r => r.1.canonical) l f h fun r hr x _ => hf r x hr

theorem ite_canonical {c : Prop} [Decidable c] (hs : s.canonical) (ht : t.canonical) : (if c then s else t).canonical := by
  split
  · exact hs
  · exact ht

theorem ite_fst_canonical {c : Prop} [Decidable c] {r q : State × α} (hr : r.1.canonical) (hq : q.1.canonical) :
    (if c then r else q).1.canonical := by
  split
  · exact hr
  · exact hq

theorem canonical_of_eq_mk {r : State × α} {x : α} (hr : r.1.canonical) (e : r = (t, x)) : t.canonical := by
  subst e
  exact hr

theorem canonical_of_mk_eq {r : α × State} {x : α} (hr : r.2.canonical) (e : r = (x, t)) : t.canonical := by
  subst e
  exact hr

theorem canonical_of_eq_next {o : Host.Outcome State Fault Refusal} (ho : OutcomeCanonical o) (e : o = .next t) : t.canonical := by
  subst e
  exact ho

end

/-! The writing of memory and of the window, in the present state and in the checkpoint that is being written. -/

section

variable {s : State} {bs : List Byte}

theorem copyFirst_world {l : List Ckpt} {pa n : Nat} {c : Ckpt} (hc : c ∈ copyFirst l pa n) : ∃ x ∈ l, c.world = x.world := by
  unfold copyFirst at hc
  split at hc
  · exact ⟨c, hc, rfl⟩
  · obtain ⟨x, hx, rfl⟩ := List.mem_map.1 hc
    refine ⟨x, hx, ?_⟩
    split <;> rfl

theorem modFrames_canonical {pa n : Nat} {f : Memory → Memory} (hf : ∀ m, m.wf = true → (f m).wf = true) (h : s.canonical) :
    (modFrames s pa n f).canonical := by
  obtain ⟨⟨hm, hw⟩, hc⟩ := h
  refine ⟨⟨hf _ hm, hw⟩, fun c hc' => ?_⟩
  obtain ⟨x, hx, e⟩ := copyFirst_world hc'
  exact e ▸ hc x hx

theorem modFrames_memWriteN_canonical {pa n a} (h : s.canonical) : (modFrames s pa n fun m => memWriteN m a bs).canonical :=
  modFrames_canonical (fun m => memWriteN_wf m a bs) h

theorem modFrames_memClear_canonical {pa n a k} (h : s.canonical) : (modFrames s pa n fun m => memClear m a k).canonical :=
  modFrames_canonical (fun m => memClear_wf m a k) h

theorem modWindow_canonical {f : Memory → Memory} (hf : ∀ m, m.wf = true → (f m).wf = true) (h : s.canonical) :
    (modWindow s f).canonical := by
  obtain ⟨⟨hm, hw⟩, hc⟩ := h
  exact ⟨⟨hm, hf _ hw⟩, hc⟩

theorem modWindow_memWriteN_canonical {a} (h : s.canonical) : (modWindow s fun m => memWriteN m a bs).canonical :=
  modWindow_canonical (fun m => memWriteN_wf m a bs) h

theorem foldl_memWriteN_wf (parts : List (Nat × List Byte)) {m : Memory} (h : m.wf = true) :
    Memory.wf (parts.foldl (fun m p => memWriteN m p.1 p.2) m) = true :=
  List.foldlRecOn (motive := fun m => Memory.wf m = true) parts _ h fun m hm p _ => memWriteN_wf m p.1 p.2 hm

end

/-! The tables of the state. -/

section

variable {s : State}

theorem modPg_canonical {k} {f : PartGroup → PartGroup} (h : s.canonical) : (modPg s k f).canonical := h

theorem modCg_canonical {k} {f : CoreGroup → CoreGroup} (h : s.canonical) : (modCg s k f).canonical := h

theorem modPart_canonical {k} {f : Partition → Partition} (h : s.canonical) : (modPart s k f).canonical := h

theorem modCore_canonical {k} {f : Core → Core} (h : s.canonical) : (modCore s k f).canonical := h

theorem modDie_canonical {k} {f : Die → Die} (h : s.canonical) : (modDie s k f).canonical := h

theorem modLaunch_canonical {k} {f : Launch → Launch} (h : s.canonical) : (modLaunch s k f).canonical := h

theorem modGroup_canonical {k p} {f : Group → Group} (h : s.canonical) : (modGroup s k p f).canonical := h

theorem modThread_canonical {k} {f : Thread → Thread} (h : s.canonical) : (modThread s k f).canonical := h

theorem modCtx_canonical {k} {f : ThreadCtx → ThreadCtx} (h : s.canonical) : (modCtx s k f).canonical := h

theorem modEng_canonical {k} {f : Engine → Engine} (h : s.canonical) : (modEng s k f).canonical := h

end

/-! Numbers and notices that the state hands out. -/

section

variable {s : State}

theorem nextId_canonical (h : s.canonical) : (nextId s).2.canonical := h

theorem reportEvent_canonical {kind val} (h : s.canonical) : (reportEvent s kind val).canonical := h

theorem raiseEvent_canonical {kind val} (h : s.canonical) : (raiseEvent s kind val).canonical := by
  unfold raiseEvent
  exact ite_canonical h (reportEvent_canonical h)

end

/-! Memory (08): lines and caches, homes, translation, the filling of pages, and the accesses of the engines. -/

section

variable {s : State}

theorem l2Fill_canonical {low die n} (h : s.canonical) : (l2Fill low s die n).1.canonical := by
  unfold l2Fill
  split
  · exact h
  · extract_lets +onlyGivenNames bs x
    exact modDie_canonical h

theorem l2Line_canonical {die n} (h : s.canonical) : (l2Line s die n).1.canonical := l2Fill_canonical h

theorem l1Line_canonical {core n} (h : s.canonical) : (l1Line s core n).1.canonical := by
  unfold l1Line
  split
  · exact h
  · split
    next e =>
      have he := canonical_of_eq_mk (l2Line_canonical h) e
      exact modCore_canonical he

/-- The one write of DRAM that caches, engines and atomics go through. -/
theorem homeWrite_canonical {own pa bs} (h : s.canonical) : (homeWrite s own pa bs).canonical := by
  unfold homeWrite
  split
  · exact modFrames_memWriteN_canonical h
  · exact modDie_canonical (modFrames_memWriteN_canonical h)

theorem cacheLoad_canonical {core pa n nc} (h : s.canonical) : (cacheLoad s core pa n nc).1.canonical := by
  unfold cacheLoad
  split
  · exact h
  · split
    next e => exact canonical_of_eq_mk (l1Line_canonical h) e

theorem homeOpLines_canonical {core pa} (h : s.canonical) : (homeOpLines s core pa).canonical := h

theorem homeStore_canonical {core parts} (h : s.canonical) : (homeStore s core parts).canonical :=
  foldl_canonical (fun _ _ ha => homeOpLines_canonical (homeWrite_canonical ha)) h

theorem sendHome_canonical {die space lid va stamps parts} (h : s.canonical) : (sendHome s die space lid va stamps parts).canonical := by
  unfold sendHome
  split
  · exact h
  · split
    · exact foldl_canonical (fun _ _ ha => homeWrite_canonical ha) h
    · split
      next e => exact modDie_canonical (canonical_of_mk_eq (nextId_canonical h) e)

theorem cacheStore_canonical {core space lid va low stamps parts} (h : s.canonical) :
    (cacheStore s core space lid va low stamps parts).canonical := by
  unfold cacheStore
  split
  · exact h
  · exact sendHome_canonical (modDie_canonical (l2Fill_canonical (modCore_canonical h)))

theorem homeWriteRange_canonical {pa bs} (h : s.canonical) : (homeWriteRange s pa bs).canonical := by
  unfold homeWriteRange
  exact foldl_canonical (fun _ _ ha => modDie_canonical ha) (modFrames_memWriteN_canonical h)

theorem acquireActions_canonical {core sc} (h : s.canonical) : (acquireActions s core sc).canonical := by
  unfold acquireActions
  split
  · exact h
  · exact h
  · exact h
  · exact modCore_canonical h
  · exact modDie_canonical (modCore_canonical h)
  · exact modDie_canonical (modCore_canonical h)

theorem countAccess_canonical {core va type lid win} (h : s.canonical) : (countAccess s core va type lid win).canonical := by
  unfold countAccess
  exact ite_canonical h (modCore_canonical h)

theorem countLine_canonical {core va type lid win} (h : s.canonical) : (countLine s core va type lid win).canonical := by
  unfold countLine
  split
  · exact countAccess_canonical h
  · exact ite_canonical h (countAccess_canonical h)

theorem countWalk_canonical {made va} (h : s.canonical) : (countWalk s made va).canonical := by
  unfold countWalk
  split
  · exact h
  · exact countAccess_canonical h

theorem tableLine_canonical {die n} (h : s.canonical) : (tableLine s die n).1.canonical := by
  unfold tableLine
  exact ite_fst_canonical (l2Line_canonical h) h

theorem walkFrom_canonical {levels die made table va} (h : s.canonical) : (walkFrom levels s die made table va).1.canonical := by
  induction levels generalizing s table with
  | nil => exact h
  | cons x l ih =>
    unfold walkFrom
    extract_lets +onlyGivenNames pte
    split
    next e =>
      have he := canonical_of_eq_mk (tableLine_canonical (countWalk_canonical h)) e
      extract_lets +onlyGivenNames e2 addr
      split
      · exact he
      · split
        · exact ih he
        all_goals exact he

theorem walkDie_canonical {die made space va} (h : s.canonical) : (walkDie s die made space va).1.canonical := by
  unfold walkDie
  split
  · exact h
  · exact walkFrom_canonical h

theorem walk_canonical {core space va} (h : s.canonical) : (walk s core space va).1.canonical := walkDie_canonical h

theorem fillCoreTlb_canonical {core e} (h : s.canonical) : (fillCoreTlb s core e).canonical := h

theorem fillDieTlb_canonical {die e} (h : s.canonical) : (fillDieTlb s die e).canonical := h

theorem setAccessed_canonical {pte} (h : s.canonical) : (setAccessed s pte).canonical := homeWrite_canonical h

theorem walkFill_canonical {core space va need} (h : s.canonical) : (walkFill s core space va need).1.canonical := by
  unfold walkFill
  split
  next e =>
    have he := canonical_of_eq_mk (walk_canonical h) e
    split
    · split
      · extract_lets +onlyGivenNames t s1
        have hs1 : s1.canonical := fillCoreTlb_canonical (fillDieTlb_canonical he)
        exact ite_canonical hs1 (setAccessed_canonical hs1)
      · exact he
    · exact ite_fst_canonical he he
    · exact he

theorem translate_canonical {core space a need} (h : s.canonical) : (translate s core space a need).1.canonical := by
  unfold translate
  split
  · exact h
  · split
    · exact h
    · split
      · exact fillCoreTlb_canonical h
      · split
        · exact fillCoreTlb_canonical h
        · exact walkFill_canonical h

theorem takeFrame_canonical {fuel die} (h : s.canonical) : (takeFrame fuel s die).1.canonical := by
  induction fuel generalizing s with
  | zero => exact h
  | succ k ih =>
    unfold takeFrame
    extract_lets +onlyGivenNames m
    split
    · exact h
    · extract_lets +onlyGivenNames e s1
      have hs1 : s1.canonical := modDie_canonical h
      exact ite_fst_canonical hs1 (ih hs1)

theorem refillReserve_canonical {fuel core} (h : s.canonical) : (refillReserve fuel s core).canonical := by
  induction fuel generalizing s with
  | zero => exact h
  | succ k ih =>
    unfold refillReserve
    split
    · exact h
    · split
      · next e => exact ih (modCore_canonical (canonical_of_eq_mk (takeFrame_canonical h) e))
      · next e => exact canonical_of_eq_mk (takeFrame_canonical h) e

theorem fillLeaf_canonical {pte frame nc x w r} (h : s.canonical) : (fillLeaf s pte frame nc x w r).canonical := by
  unfold fillLeaf
  exact homeWrite_canonical (modDie_canonical (modFrames_memClear_canonical h))

theorem reportShortage_canonical {die} (h : s.canonical) : (reportShortage s die).canonical := by
  unfold reportShortage
  exact ite_canonical h (modDie_canonical (raiseEvent_canonical h))

theorem walkerFill_canonical {die space va pte nc x w r busy} (h : s.canonical) :
    (walkerFill s die space va pte nc x w r busy).1.canonical := by
  unfold walkerFill
  split
  · exact h
  · split
    · next e => exact fillLeaf_canonical (canonical_of_eq_mk (takeFrame_canonical h) e)
    · next e =>
        have he := canonical_of_eq_mk (takeFrame_canonical h) e
        split
        · exact reportShortage_canonical he
        · extract_lets +onlyGivenNames s1 b
          have hs1 : s1.canonical := homeWrite_canonical he
          exact modDie_canonical (reportShortage_canonical hs1)

theorem demandFill_canonical {core space a} (h : s.canonical) : (demandFill s core space a).1.canonical := by
  unfold demandFill
  split
  next e =>
    have he := canonical_of_eq_mk (walk_canonical h) e
    split
    · split <;> next e2 => exact canonical_of_eq_mk (walkerFill_canonical he) e2
    · exact he
    · exact he

theorem fillTranslate_canonical {core space a need} (h : s.canonical) : (fillTranslate s core space a need).1.canonical := by
  unfold fillTranslate
  split
  next e =>
    have he := canonical_of_eq_mk (translate_canonical h) e
    split
    · split
      next e2 =>
        have he2 := canonical_of_eq_mk (walk_canonical he) e2
        split
        · extract_lets +onlyGivenNames die
          split
          · exact he2
          · split
            next e3 =>
              have he3 := canonical_of_eq_mk (takeFrame_canonical he2) e3
              split
              · exact translate_canonical (fillLeaf_canonical he3)
              · split
                · exact translate_canonical (fillLeaf_canonical (modCore_canonical he3))
                · exact modDie_canonical he3
        · exact he2
    · exact he

theorem pinTranslate_canonical {core owner space a need} (h : s.canonical) : (pinTranslate s core owner space a need).1.canonical := by
  unfold pinTranslate
  split
  · exact h
  · split
    next e =>
      have he := canonical_of_eq_mk (fillTranslate_canonical h) e
      split
      · exact modCore_canonical he
      · exact he

theorem dropPins_canonical {core owner} (h : s.canonical) : (dropPins s core owner).canonical := h

theorem writeTarget_canonical {t bs} (h : s.canonical) : (writeTarget s t bs).canonical := by
  cases t with
  | window off => exact modWindow_memWriteN_canonical h
  | dram pa nc => exact homeWriteRange_canonical h
  | demand | fail c => exact h

theorem countRange_canonical {core va n type lid win} (h : s.canonical) : (countRange s core va n type lid win).canonical := by
  unfold countRange
  exact ite_canonical (foldl_canonical (fun _ _ ha => countAccess_canonical ha) h) h

theorem engineStore_canonical {core space lid va pa nc bs} (h : s.canonical) : (engineStore s core space lid va pa nc bs).canonical := by
  unfold engineStore
  extract_lets +onlyGivenNames die ls s1
  have hs1 : s1.canonical := modCore_canonical h
  refine foldl_canonical (fun a _ ha => ?_) hs1
  exact ite_canonical (homeWrite_canonical ha) (sendHome_canonical (modDie_canonical ha))

theorem engineLoad_canonical {core pa n nc} (h : s.canonical) : (engineLoad s core pa n nc).1.canonical := by
  unfold engineLoad
  split
  · exact h
  · refine foldl_fst_canonical (fun a _ ha => ?_) h
    split
    next e => exact canonical_of_eq_mk (l2Line_canonical ha) e

theorem engineRead_canonical {core owner space lid type a n} (h : s.canonical) :
    (engineRead s core owner space lid type a n).1.canonical := by
  unfold engineRead
  refine foldl_fst_canonical (fun a _ ha => ?_) h
  split
  · exact ha
  · split
    next e =>
      have he := canonical_of_eq_mk (pinTranslate_canonical ha) e
      extract_lets +onlyGivenNames s1
      have hs1 : s1.canonical := countRange_canonical he
      split
      · exact hs1
      · exact hs1
      · exact hs1
      · extract_lets +onlyGivenNames r
        have hr : r.1.canonical := engineLoad_canonical hs1
        exact hr

theorem engineWrite_canonical {core owner space lid a bs} (h : s.canonical) : (engineWrite s core owner space lid a bs).1.canonical := by
  unfold engineWrite
  refine foldl_fst_canonical (fun r p hr => ?_) h
  obtain ⟨s, _ | e⟩ := r
  · dsimp only
    split
    · exact countRange_canonical (pinTranslate_canonical hr)
    · exact modWindow_memWriteN_canonical (countRange_canonical (pinTranslate_canonical hr))
    · split_ifs
      · exact countRange_canonical (pinTranslate_canonical hr)
      · exact engineStore_canonical (countRange_canonical (pinTranslate_canonical hr))
    · exact countRange_canonical (pinTranslate_canonical hr)
  · exact hr

theorem engineCheck_canonical {core owner space a n need} (h : s.canonical) : (engineCheck s core owner space a n need).1.canonical := by
  unfold engineCheck
  refine foldl_fst_canonical (fun a _ ha => ?_) h
  split
  · exact ha
  · split
    next e => split <;> exact (canonical_of_eq_mk (pinTranslate_canonical ha) e)

theorem unitTranslate_canonical {die space a need} (h : s.canonical) : (unitTranslate s die space a need).1.canonical := by
  unfold unitTranslate
  split
  · exact h
  · split
    · exact h
    · split
      · exact h
      · split
        next e =>
          have he := canonical_of_eq_mk (walkDie_canonical h) e
          split
          · split
            · extract_lets +onlyGivenNames t s1
              have hs1 : s1.canonical := fillDieTlb_canonical he
              exact ite_canonical hs1 (setAccessed_canonical hs1)
            · exact he
          · split
            · split <;> next e2 => exact canonical_of_eq_mk (walkerFill_canonical he) e2
            · exact he
          · exact he

theorem unitRead_canonical {die space a n} (h : s.canonical) : (unitRead s die space a n).1.canonical := by
  unfold unitRead
  refine foldl_fst_canonical (fun a _ ha => ?_) h
  split
  · exact ha
  · split <;> next e => exact canonical_of_eq_mk (unitTranslate_canonical ha) e

theorem unitTargets_canonical {die space a n} (h : s.canonical) : (unitTargets s die space a n).1.canonical := by
  unfold unitTargets
  refine foldl_fst_canonical (fun a _ ha => ?_) h
  split
  · exact ha
  · split <;> next e => exact canonical_of_eq_mk (unitTranslate_canonical ha) e

theorem unitWriteWhole_canonical {die space a bs} (h : s.canonical) : (unitWriteWhole s die space a bs).1.canonical := by
  unfold unitWriteWhole
  split
  · next e => exact canonical_of_eq_mk (unitTargets_canonical h) e
  · next e =>
      have he := canonical_of_eq_mk (unitTargets_canonical h) e
      exact foldl_canonical (fun _ _ ha => writeTarget_canonical ha) he

theorem unitWrite_canonical {die space a bs} (h : s.canonical) : (unitWrite s die space a bs).1.canonical := by
  unfold unitWrite
  refine foldl_fst_canonical (fun a _ ha => ?_) h
  split
  · exact ha
  · split
    · next e => exact canonical_of_eq_mk (unitTranslate_canonical ha) e
    · next e => exact canonical_of_eq_mk (unitTranslate_canonical ha) e
    · next e =>
        have he := canonical_of_eq_mk (unitTranslate_canonical ha) e
        exact ite_fst_canonical he (writeTarget_canonical he)

end

/-! Barriers (14 R295-R302). -/

section

variable {s : State}

theorem modBar_canonical {pg b} {f : Bar → Bar} (h : s.canonical) : (modBar s pg b f).canonical := by
  unfold modBar
  extract_lets +onlyGivenNames g
  split
  · exact modPg_canonical h
  · split
    · exact modCg_canonical h
    · split <;> exact modLaunch_canonical h

theorem resetRace_canonical {pg b} (h : s.canonical) : (resetRace s pg b).canonical := by
  unfold resetRace
  exact ite_canonical (foldl_canonical (fun _ _ ha => modDie_canonical ha) h) h

theorem checkBar_canonical {pg b} (h : s.canonical) : (checkBar s pg b).canonical := by
  unfold checkBar
  extract_lets +onlyGivenNames bar tier live
  split
  · extract_lets +onlyGivenNames l
    split
    · exact resetRace_canonical (modBar_canonical (foldl_canonical (fun _ _ ha => modCg_canonical ha) h))
    · exact resetRace_canonical (modBar_canonical h)
  · exact h

theorem arriveBar_canonical {t b} (h : s.canonical) : (arriveBar s t b).canonical := checkBar_canonical (modBar_canonical h)

theorem releaseWaiters_canonical {pgs b gen} (h : s.canonical) : (releaseWaiters s pgs b gen).canonical := by
  unfold releaseWaiters
  refine foldl_canonical (fun a _ ha => ?_) h
  exact ite_canonical (modPg_canonical (acquireActions_canonical ha)) ha

theorem checkAllBars_canonical {pg} (h : s.canonical) : (checkAllBars s pg).canonical :=
  foldl_canonical (fun _ _ ha => checkBar_canonical ha) h

theorem leaveBars_canonical {t} (h : s.canonical) : (leaveBars s t).canonical := by
  unfold leaveBars
  extract_lets +onlyGivenNames ph s1
  have hs1 : s1.canonical := by
    unfold s1
    split
    · exact foldl_canonical (fun _ _ ha => ite_canonical ha (modBar_canonical ha)) h
    · exact h
  exact checkAllBars_canonical hs1

end

/-! Dependence counters, range locks, and the matrix engine with its gangs and latches (05, 09, 11). -/

section

variable {s : State}

theorem dcPut_canonical {lid dg c x} (h : s.canonical) : (dcPut s lid dg c x).canonical := h

theorem dcRelease_canonical {lid dg c} (h : s.canonical) : (dcRelease s lid dg c).canonical := h

theorem dcNew_canonical {lid dg c v} (h : s.canonical) : (dcNew s lid dg c v).canonical := by
  unfold dcNew
  extract_lets +onlyGivenNames x s1
  have hs1 : s1.canonical := by
    unfold s1
    split <;> exact dcPut_canonical h
  exact ite_canonical (dcRelease_canonical hs1) hs1

theorem dcDec_canonical {lid dg c n} (h : s.canonical) : (dcDec s lid dg c n).canonical := by
  unfold dcDec
  extract_lets +onlyGivenNames x
  split
  · exact h
  · exact ite_canonical (dcRelease_canonical (dcPut_canonical h)) (dcPut_canonical h)

theorem queueTask_canonical {th op} (h : s.canonical) : (queueTask s th op).canonical := h

theorem arriveDisp_canonical {core lid dg th pend op} (h : s.canonical) : (arriveDisp s core lid dg th pend op).canonical := h

theorem unitDec_canonical {th c} (h : s.canonical) : (unitDec s th c).canonical := by
  unfold unitDec
  exact ite_canonical (queueTask_canonical h) (arriveDisp_canonical h)

theorem addLocks_canonical {core ls} (h : s.canonical) : (addLocks s core ls).canonical := h

theorem dropLocks_canonical {core owner} (h : s.canonical) : (dropLocks s core owner).canonical := h

theorem dropLocksWhere_canonical {core} {f : RLock → Bool} (h : s.canonical) : (dropLocksWhere s core f).canonical := h

theorem requestEngine_canonical {pg} (h : s.canonical) : (requestEngine s pg).canonical := by
  unfold requestEngine
  exact ite_canonical h (modEng_canonical h)

theorem modTile_canonical {core q} {f : Tile → Tile} (h : s.canonical) : (modTile s core q f).canonical := h

theorem tileError_canonical {core q cause val} (h : s.canonical) : (tileError s core q cause val).canonical := h

theorem acceptOps_canonical {core} (h : s.canonical) : (acceptOps s core).canonical := by
  unfold acceptOps
  refine foldl_canonical (fun a _ ha => ?_) h
  exact ite_canonical (addLocks_canonical (modEng_canonical ha)) ha

theorem offerOp_canonical {pg kind tiles tid site waiters} (h : s.canonical) : (offerOp s pg kind tiles tid site waiters).canonical := by
  unfold offerOp
  split
  next e =>
    have he := canonical_of_mk_eq (nextId_canonical h) e
    exact acceptOps_canonical (modEng_canonical (requestEngine_canonical he))

/-- The loop on the fuel: the latch that has closed is taken out, then its operation is offered or its tiles fail. -/
theorem closeLatch_canonical {fuel cg members} (h : s.canonical) : (closeLatch fuel s cg members).canonical := by
  induction fuel generalizing s with
  | zero => exact h
  | succ k ih =>
    unfold closeLatch
    extract_lets g heads here xs a
    have ha : a.canonical := modCg_canonical h
    clear_value heads
    obtain _ | ⟨⟨m0, _ | x0⟩, l⟩ := heads
    · exact h
    · exact h
    · refine ite_canonical (ih (ite_canonical (offerOp_canonical ha) ?_)) h
      exact foldl_canonical (fun _ _ hb => tileError_canonical hb) ha

theorem arriveLatch_canonical {pg pos tid site kind tiles} (h : s.canonical) : (arriveLatch s pg pos tid site kind tiles).canonical := by
  unfold arriveLatch
  extract_lets +onlyGivenNames cg core e bypass
  split
  · split
    next e2 => exact addLocks_canonical (modEng_canonical (canonical_of_mk_eq (nextId_canonical h) e2))
  · exact closeLatch_canonical (modCg_canonical h)

theorem releaseEngine_canonical {core} (h : s.canonical) : (releaseEngine s core).canonical := h

theorem grantEngine_canonical {core} (h : s.canonical) : (grantEngine s core).canonical := by
  unfold grantEngine
  extract_lets +onlyGivenNames e
  split
  · exact h
  · exact acceptOps_canonical (modCg_canonical (modEng_canonical h))

theorem fireArmed_canonical {core} (h : s.canonical) : (fireArmed s core).canonical := by
  unfold fireArmed
  exact foldl_canonical (fun _ _ ha => ite_canonical (unitDec_canonical ha) ha) (modEng_canonical h)

theorem settleOwner_canonical {core} (h : s.canonical) : (settleOwner s core).canonical := h

theorem finishOp_canonical {core id} (h : s.canonical) : (finishOp s core id).canonical :=
  settleOwner_canonical (acceptOps_canonical (fireArmed_canonical (dropLocks_canonical h)))

theorem settleGangs_canonical {cg} (h : s.canonical) : (settleGangs s cg).canonical := by
  unfold settleGangs
  extract_lets +onlyGivenNames g here formed
  clear_value formed
  split
  · exact modCg_canonical h
  · extract_lets +onlyGivenNames gone
    clear_value gone
    split
    · exact modCg_canonical (modEng_canonical (ite_canonical (releaseEngine_canonical h) h))
    · exact h

theorem slotEngine_canonical {cg} (h : s.canonical) : (slotEngine s cg).canonical :=
  acceptOps_canonical (foldl_canonical (fun _ _ ha => settleGangs_canonical ha) (foldl_canonical (fun _ _ ha =>
    closeLatch_canonical ha) h))

theorem leaveGang_canonical {pg} (h : s.canonical) : (leaveGang s pg).canonical :=
  settleGangs_canonical (closeLatch_canonical (settleOwner_canonical h))

end

/-! What stands before an access of a thread, and the order log (08, 09, 20 R363, R364). -/

section

variable {s : State}

theorem metAgain_canonical {r} (h : s.canonical) : (metAgain s r).canonical := h

theorem appendLog_canonical {r} (h : s.canonical) : (appendLog s r).canonical := by
  unfold appendLog
  extract_lets a cap src v b
  have ha : a.canonical := metAgain_canonical h
  have hb : b.canonical := homeWrite_canonical ha
  split
  · exact ite_canonical ha ha
  · exact hb

theorem stampOne_canonical {t line} (h : s.canonical) : (stampOne s t line).1.canonical := by
  unfold stampOne
  extract_lets +onlyGivenNames th lid jump c
  split
  · exact h
  · extract_lets +onlyGivenNames s1 s2
    have hs1 : s1.canonical := ite_canonical (appendLog_canonical h) h
    have hs2 : s2.canonical := modThread_canonical hs1
    exact hs2

theorem stampAll_canonical {l} (h : s.canonical) : (stampAll s l).1.canonical := by
  unfold stampAll
  extract_lets +onlyGivenNames r
  have hr : r.1.canonical := foldl_fst_canonical (fun _ _ ha => ite_fst_canonical (stampOne_canonical ha) ha) h
  exact ite_fst_canonical hr h

theorem deferWatch_canonical {th site va word} (h : s.canonical) : (deferWatch s th site va word).canonical := h

theorem keepPage_canonical {va need t} (h : s.canonical) : (keepPage s va need t).canonical := h

theorem translateOnce_canonical {core space va need} (h : s.canonical) : (translateOnce s core space va need).1.canonical := by
  unfold translateOnce
  split
  · exact h
  · extract_lets +onlyGivenNames r
    have hr : r.1.canonical := translate_canonical h
    exact keepPage_canonical hr

theorem checkAccess_canonical {pg va n need locked} (h : s.canonical) : (checkAccess s pg va n need locked).1.canonical :=
  translateOnce_canonical h

theorem fillOnce_canonical {core space va need} (h : s.canonical) : (fillOnce s core space va need).1.canonical := by
  unfold fillOnce
  split
  · next e => exact canonical_of_eq_mk (demandFill_canonical h) e
  · next e =>
      have he := canonical_of_eq_mk (demandFill_canonical h) e
      extract_lets +onlyGivenNames r
      have hr : r.1.canonical := translate_canonical he
      exact keepPage_canonical hr

theorem resolveNow_canonical {t va n need locked} (h : s.canonical) : (resolveNow s t va n need locked).1.canonical := by
  unfold resolveNow
  split
  · next e =>
      have he := canonical_of_eq_mk (checkAccess_canonical h) e
      extract_lets +onlyGivenNames g
      split <;> next e2 => exact canonical_of_eq_mk (fillOnce_canonical he) e2
  · exact checkAccess_canonical h

theorem stampNow_canonical {t acq tgt} (h : s.canonical) : (stampNow s t acq tgt).1.canonical := by
  unfold stampNow
  split
  · exact h
  · split
    · exact stampOne_canonical h
    · exact ite_fst_canonical (stampOne_canonical h) h
    · exact h
    · exact h

theorem readPiece_canonical {t va n locked acq} {load : State → ℕ → ℕ → State × List Byte} (h : s.canonical)
    (hload : ∀ a n n', a.canonical → (load a n n').1.canonical) : (readPiece s t va n locked acq load).1.canonical := by
  unfold readPiece
  split
  · next e => exact canonical_of_eq_mk (resolveNow_canonical h) e
  · next e =>
      have he := canonical_of_eq_mk (resolveNow_canonical h) e
      extract_lets +onlyGivenNames g
      split
      · exact he
      · split
        · next e2 => exact canonical_of_eq_mk (stampNow_canonical (countLine_canonical he)) e2
        · next e2 =>
            have he2 := canonical_of_eq_mk (stampNow_canonical (countLine_canonical he)) e2
            split
            · exact he2
            · exact homeOpLines_canonical he2
            · extract_lets +onlyGivenNames r
              have hr : r.1.canonical := hload _ _ _ he2
              exact hr
            · exact he2
            · exact he2

theorem readLines_canonical {t acq va n} (h : s.canonical) : (readLines s t acq va n).1.canonical := by
  unfold readLines
  refine foldl_fst_canonical (fun a _ ha => ?_) h
  split
  · exact ha
  · split <;> next e => exact canonical_of_eq_mk (readPiece_canonical ha (fun _ _ _ ha => cacheLoad_canonical ha)) e

theorem readNow_canonical {t va n} (h : s.canonical) : (readNow s t va n).1.canonical := readLines_canonical h

theorem readNowAcq_canonical {t va n} (h : s.canonical) : (readNowAcq s t va n).1.canonical := readLines_canonical h

theorem raceRecord_canonical {die first second lid va} (h : s.canonical) : (raceRecord s die first second lid va).canonical := by
  unfold raceRecord
  extract_lets cap src v a
  have ha : a.canonical := homeWrite_canonical h
  split
  · exact h
  · exact ⟨ha.1, ha.2⟩

theorem countWriter_canonical {core lid id pa va} (h : s.canonical) : (countWriter s core lid id pa va).canonical := by
  unfold countWriter
  split
  · extract_lets +onlyGivenNames die
    split
    · exact h
    · split
      · exact h
      · extract_lets +onlyGivenNames s1
        have hs1 : s1.canonical := modDie_canonical h
        split
        · exact raceRecord_canonical hs1
        · exact hs1
  · exact h

theorem writeTargetNow_canonical {t va tgt bs} (h : s.canonical) : (writeTargetNow s t va tgt bs).canonical := by
  unfold writeTargetNow
  split
  · exact modWindow_memWriteN_canonical (countLine_canonical h)
  · exact homeStore_canonical (countLine_canonical h)
  · exact cacheStore_canonical (countLine_canonical h)
  all_goals exact countLine_canonical h

theorem writeNow_canonical {t va bs} (h : s.canonical) : (writeNow s t va bs).1.canonical := by
  unfold writeNow
  split
  · next e => exact canonical_of_eq_mk (resolveNow_canonical h) e
  · next e =>
      have he := canonical_of_eq_mk (resolveNow_canonical h) e
      split
      · exact he
      · split
        · exact he
        · split
          · next e2 => exact canonical_of_eq_mk (stampNow_canonical he) e2
          · next e2 => exact writeTargetNow_canonical (canonical_of_eq_mk (stampNow_canonical he) e2)

theorem cvCount_canonical {t} (h : s.canonical) : (cvCount s t).1.canonical := by
  unfold cvCount
  extract_lets +onlyGivenNames lr
  split
  · exact h
  · split <;> next e => exact canonical_of_eq_mk (readNow_canonical h) e

theorem cvSearch_canonical {fuel t i n site occ} (h : s.canonical) : (cvSearch fuel s t i n site occ).1.canonical := by
  induction fuel generalizing s i with
  | zero => exact h
  | succ k ih =>
    unfold cvSearch
    split
    · exact h
    · split
      · next e => exact canonical_of_eq_mk (readNow_canonical h) e
      · next e =>
          have he := canonical_of_eq_mk (readNow_canonical h) e
          extract_lets +onlyGivenNames e2
          exact ite_fst_canonical he (ih he)

theorem draw_canonical {t site occ} (h : s.canonical) : (draw s t site occ).1.canonical := by
  unfold draw
  extract_lets +onlyGivenNames lr cv
  split
  · exact modCtx_canonical h
  · split
    · next e => exact canonical_of_eq_mk (cvCount_canonical h) e
    · next e =>
        have he := canonical_of_eq_mk (cvCount_canonical h) e
        extract_lets +onlyGivenNames c
        split
        · next e2 => exact canonical_of_eq_mk (cvSearch_canonical he) e2
        · next e2 =>
            have he2 := canonical_of_eq_mk (cvSearch_canonical he) e2
            extract_lets +onlyGivenNames r x done
            have hdone : ∀ u, u.canonical → (done u).canonical := fun _ hu => modCtx_canonical hu
            split
            · exact hdone _ he2
            · extract_lets +onlyGivenNames entry
              split
              · next e3 => exact canonical_of_eq_mk (writeNow_canonical he2) e3
              · next e3 => exact hdone _ (canonical_of_eq_mk (writeNow_canonical he2) e3)

theorem cvClose_canonical {t} (h : s.canonical) : (cvClose s t).1.canonical := by
  unfold cvClose
  extract_lets +onlyGivenNames lr
  split
  · exact h
  · split
    · next e => exact canonical_of_eq_mk (cvCount_canonical h) e
    · next e => exact writeNow_canonical (canonical_of_eq_mk (cvCount_canonical h) e)

theorem cvCloseTerm_canonical {t} (h : s.canonical) : (cvCloseTerm s t).1.canonical := by
  unfold cvCloseTerm
  extract_lets +onlyGivenNames lr
  split
  · exact h
  · extract_lets +onlyGivenNames put
    have hput : ∀ u x1 x2, u.canonical → (put u x1 x2).1.canonical := by
      intro u x1 x2 hu
      unfold put
      extract_lets +onlyGivenNames va
      split
      · next e => exact canonical_of_eq_mk (checkAccess_canonical hu) e
      · next e =>
          have he := canonical_of_eq_mk (checkAccess_canonical hu) e
          extract_lets +onlyGivenNames g
          split
          next e2 =>
            have he2 := canonical_of_mk_eq (nextId_canonical (countAccess_canonical he)) e2
            extract_lets +onlyGivenNames place a
            exact he2
    split
    · next e => exact hput _ _ _ (canonical_of_eq_mk (cvCount_canonical h) e)
    · next e =>
        have he := canonical_of_eq_mk (cvCount_canonical h) e
        exact ite_fst_canonical (hput _ _ _ he) he

end

/-! Threads and groups: filing, traps, ends, joins, the fetching of code (06, 07, 18). -/

section

variable {s : State}

theorem leaveGroup_canonical {t} (h : s.canonical) : (leaveGroup s t).canonical := by
  unfold leaveGroup
  split
  · exact modPart_canonical h
  · exact h

theorem freeBins_canonical {part} (h : s.canonical) : (freeBins s part).canonical := h

theorem setPlace_canonical {t pl} (h : s.canonical) : (setPlace s t pl).canonical := by
  unfold setPlace
  extract_lets +onlyGivenNames was s1
  have hs1 : s1.canonical := modThread_canonical (leaveGroup_canonical h)
  clear_value was
  split
  · exact freeBins_canonical hs1
  · exact hs1

theorem fileThread_canonical {t pc w} (h : s.canonical) : (fileThread s t pc w).canonical := by
  unfold fileThread
  extract_lets +onlyGivenNames s1 part pl s2
  have hs1 : s1.canonical := setPlace_canonical h
  have hs2 : s2.canonical := by
    unfold s2
    clear_value pl
    split
    · exact modPart_canonical hs1
    · exact hs1
  exact modThread_canonical hs2

theorem sendMsg_canonical {m} (h : s.canonical) : (sendMsg s m).canonical := by
  unfold sendMsg
  split <;> exact h

theorem sendNotice_canonical {lid kind core part gtid cause tval pc} (h : s.canonical) :
    (sendNotice s lid kind core part gtid cause tval pc).canonical := by
  unfold sendNotice
  split
  · exact h
  · exact sendMsg_canonical h

theorem stopPart_canonical {lid part} (h : s.canonical) : (stopPart s lid part).canonical := h

theorem traceRecord_canonical {t kind pc val id} (h : s.canonical) : (traceRecord s t kind pc val id).canonical := by
  unfold traceRecord
  extract_lets +onlyGivenNames g
  split
  · exact h
  · extract_lets +onlyGivenNames lose
    have hlose : ∀ u, u.canonical → (lose u).canonical := fun _ hu => hu
    split
    · exact ite_canonical (hlose _ h) h
    · extract_lets +onlyGivenNames cap
      split
      · exact h
      · split
        · exact hlose _ h
        · extract_lets +onlyGivenNames rec8 bs
          split
          next e => exact writeTargetNow_canonical (stampNow_canonical (canonical_of_eq_mk (translate_canonical h) e))

theorem endStream_canonical {pg q} (h : s.canonical) : (endStream s pg q).canonical := h

theorem settleStream_canonical {pg q} (h : s.canonical) : (settleStream s pg q).canonical := by
  unfold settleStream
  exact ite_canonical (endStream_canonical h) h

theorem dropResults_canonical {t} (h : s.canonical) : (dropResults s t).canonical := h

theorem dropEntry_canonical {t} (h : s.canonical) : (dropEntry s t).canonical := h

theorem countCause_canonical {lid cause} (h : s.canonical) : (countCause s lid cause).canonical := h

theorem countTerm_canonical {lid cause} (h : s.canonical) : (countTerm s lid cause).canonical := h

theorem endThread_canonical {t term counted} (h : s.canonical) : (endThread s t term counted).canonical := by
  unfold endThread
  split
  · exact h
  · extract_lets +onlyGivenNames g lr
    split
    next e =>
      have he := canonical_of_eq_mk (ite_fst_canonical (cvCloseTerm_canonical h) (cvClose_canonical h)) e
      extract_lets +onlyGivenNames s1 s2 s3 s4 s5 s6 s7
      have hs1 : s1.canonical := by
        unfold s1
        split
        · exact countTerm_canonical he
        · exact ite_canonical he (countTerm_canonical he)
        · exact he
      have hs2 : s2.canonical := dropEntry_canonical (dropResults_canonical hs1)
      have hs3 : s3.canonical := setPlace_canonical hs2
      have hs4 : s4.canonical := modThread_canonical hs3
      have hs5 : s5.canonical := ite_canonical (modPg_canonical hs4) hs4
      have hs6 : s6.canonical := ite_canonical hs5 (leaveBars_canonical hs5)
      have hs7 : s7.canonical := foldl_canonical (fun _ _ ha => settleStream_canonical ha) hs6
      split
      · extract_lets +onlyGivenNames s8
        have hs8 : s8.canonical := modPg_canonical hs7
        exact leaveGang_canonical (foldl_canonical (fun _ _ ha => endStream_canonical ha) hs8)
      · exact ite_canonical (leaveGang_canonical hs7) hs7

theorem clearTags_canonical {cg} (h : s.canonical) : (clearTags s cg).canonical := h

theorem abandonEngines_canonical {cg} (h : s.canonical) : (abandonEngines s cg).canonical := by
  unfold abandonEngines
  extract_lets +onlyGivenNames core slot ids w s1 s2 s3
  have hs1 : s1.canonical := h
  have hs2 : s2.canonical := modCore_canonical (dropLocksWhere_canonical hs1)
  have hs3 : s3.canonical := modEng_canonical hs2
  exact clearTags_canonical (modCg_canonical hs3)

theorem killForRelaunch_canonical {cg cause} (h : s.canonical) : (killForRelaunch s cg cause).canonical :=
  foldl_canonical (fun _ _ ha => endThread_canonical ha) (abandonEngines_canonical h)

theorem containCore_canonical {t cause} (h : s.canonical) : (containCore s t cause).canonical := by
  unfold containCore
  exact ite_canonical (killForRelaunch_canonical (countCause_canonical h)) (endThread_canonical h)

theorem trapCore_canonical {t x w defer} (h : s.canonical) : (trapCore s t x w defer).canonical := by
  unfold trapCore
  extract_lets +onlyGivenNames g l
  split
  · exact h
  · split
    · extract_lets +onlyGivenNames e s1 s2
      have hs1 : s1.canonical := modThread_canonical (setPlace_canonical h)
      have hs2 : s2.canonical := modPart_canonical (stopPart_canonical hs1)
      exact sendNotice_canonical hs2
    · split
      · exact containCore_canonical h
      · exact modPg_canonical (modThread_canonical (setPlace_canonical h))

theorem settleJoins_canonical {pg} (h : s.canonical) : (settleJoins s pg).canonical := by
  unfold settleJoins
  refine foldl_canonical (fun a _ ha => ?_) h
  split
  · exact ha
  · extract_lets +onlyGivenNames th same
    split
    · exact foldl_canonical (fun _ _ ha => modThread_canonical (setPlace_canonical ha)) ha
    · exact foldl_canonical (fun _ _ ha => trapCore_canonical (modThread_canonical ha)) ha

theorem leaveJoin_canonical {t} (h : s.canonical) : (leaveJoin s t).canonical := by
  unfold leaveJoin
  exact ite_canonical h (settleJoins_canonical h)

theorem contain_canonical {t cause} (h : s.canonical) : (contain s t cause).canonical := leaveJoin_canonical (containCore_canonical h)

theorem trapCall_canonical {t x w defer} (h : s.canonical) : (trapCall s t x w defer).canonical := by
  unfold trapCall
  exact ite_canonical (leaveJoin_canonical (trapCore_canonical h)) h

/-- Each piece is translated, loaded, and where its page is missing translated once more after the fill. -/
theorem fetchCode_canonical {part space lid va n} (h : s.canonical) : (fetchCode s part space lid va n).1.canonical := by
  unfold fetchCode
  refine foldl_fst_canonical (fun r p hr => ?_) h
  obtain ⟨s, _ | e⟩ := r
  · dsimp -zeta only
    extract_lets load
    have hl : ∀ a pa nc, a.canonical → (load a pa nc).canonical := by
      intro a pa nc ha
      unfold load
      split
      · exact ha
      · extract_lets b
        have hb : b.canonical := countAccess_canonical ha
        refine modPart_canonical ?_
        cases nc
        · exact l2Line_canonical hb
        · exact hb
    clear_value load
    have ht := translate_canonical (core := coreOfPart part) (space := space) (a := p.1) (need := .fetch) hr
    generalize translate s (coreOfPart part) space p.1 .fetch = r at ht ⊢
    obtain ⟨a, t⟩ := r
    have ha : a.canonical := ht
    clear ht
    dsimp -zeta only
    split
    · exact hl _ _ _ ha
    · exact ha
    · exact ha
    · split
      · next e =>
        have hd := canonical_of_eq_mk (demandFill_canonical ha) e
        exact hd
      · next e =>
        have hd := canonical_of_eq_mk (demandFill_canonical ha) e
        split
        · next e => exact hl _ _ _ (canonical_of_eq_mk (translate_canonical hd) e)
        · next e => exact canonical_of_eq_mk (translate_canonical hd) e
  · exact hr

theorem fetchClause_canonical {part space lid va} (h : s.canonical) : (fetchClause s part space lid va).1.canonical := by
  unfold fetchClause
  split
  · next e => exact canonical_of_eq_mk (fetchCode_canonical h) e
  · next e =>
      have he := canonical_of_eq_mk (fetchCode_canonical h) e
      split
      · exact he
      · exact fetchCode_canonical he

theorem groupTraps_canonical {pg tids x pc} (h : s.canonical) : (groupTraps s pg tids x pc).canonical :=
  foldl_canonical (fun _ _ ha => trapCall_canonical ha) h

theorem headerTraps_canonical {pg tids va} (h : s.canonical) : (headerTraps s pg tids va).canonical := by
  unfold headerTraps
  refine foldl_canonical (fun a _ ha => ?_) h
  extract_lets +onlyGivenNames t th
  split
  · exact trapCall_canonical (modThread_canonical ha)
  · exact ite_canonical (trapCall_canonical (modThread_canonical ha)) ha

theorem enterThread_canonical {t h va} (hs : s.canonical) : (enterThread s t h va).canonical := by
  unfold enterThread
  extract_lets +onlyGivenNames th region
  split
  · exact fileThread_canonical hs
  · exact ite_canonical (fileThread_canonical hs) (modThread_canonical hs)

theorem enterClause_canonical {part pos va clause} (h : s.canonical) : (enterClause s part pos va clause).canonical := by
  unfold enterClause
  extract_lets +onlyGivenNames pg s1
  have hs1 : s1.canonical := headerTraps_canonical h
  split
  · exact hs1
  · split
    · exact groupTraps_canonical hs1
    · split
      · exact groupTraps_canonical hs1
      · extract_lets +onlyGivenNames s2
        have hs2 : s2.canonical := foldl_canonical (fun _ _ ha => enterThread_canonical ha) hs1
        exact modGroup_canonical hs2

theorem resumeClause_canonical {part pos va pc clause} (h : s.canonical) : (resumeClause s part pos va pc clause).canonical := by
  unfold resumeClause
  extract_lets +onlyGivenNames pg
  split
  · exact h
  · split
    · exact groupTraps_canonical h
    · split
      · exact groupTraps_canonical h
      · exact modGroup_canonical h

theorem arriveHeader_canonical {part pos va} (h : s.canonical) : (arriveHeader s part pos va).canonical := by
  unfold arriveHeader
  extract_lets +onlyGivenNames s1 g
  have hs1 : s1.canonical := modGroup_canonical h
  split
  · exact hs1
  · split
    · exact hs1
    · exact enterClause_canonical hs1

theorem holdWord_canonical {ix why} (h : s.canonical) : (holdWord s ix why).canonical := by
  cases why with
  | frame va => exact demandFill_canonical h
  | log | no | order | unit => exact h

theorem trialCount_canonical {lid pc} (h : s.canonical) : (trialCount s lid pc).canonical := by
  unfold trialCount
  split <;> exact h

theorem spendSlot_canonical {ix c} (h : s.canonical) : (spendSlot s ix c).canonical := trialCount_canonical h

theorem redoNext_canonical {t} (h : s.canonical) : (redoNext s t).canonical := by
  unfold redoNext
  split
  · exact h
  · split
    · exact modThread_canonical (setPlace_canonical h)
    · extract_lets +onlyGivenNames s1 th
      have hs1 : s1.canonical := modThread_canonical (setPlace_canonical h)
      split
      · exact settleJoins_canonical (fileThread_canonical hs1)
      · exact settleJoins_canonical (fileThread_canonical hs1)
      · exact setPlace_canonical hs1

theorem advance_canonical {ix} (h : s.canonical) : (advance s ix).canonical := by
  unfold advance
  extract_lets +onlyGivenNames s1
  have hs1 : s1.canonical := modGroup_canonical h
  split
  · exact hs1
  · exact ite_canonical (arriveHeader_canonical hs1) hs1

theorem retire_canonical {ix c} (h : s.canonical) : (retire s ix c).canonical := advance_canonical (spendSlot_canonical h)

theorem retireFiled_canonical {ix c} (h : s.canonical) : (retireFiled s ix c).canonical := spendSlot_canonical h

theorem trapAt_canonical {ix i x} (h : s.canonical) : (trapAt s ix i x).canonical := trapCall_canonical h

theorem deliver_canonical {pg} (h : s.canonical) : (deliver s pg).canonical := by
  unfold deliver
  split
  · exact h
  · extract_lets +onlyGivenNames t s1 s2 s3 s4
    have hs1 : s1.canonical := modPg_canonical h
    have hs2 : s2.canonical := modCtx_canonical hs1
    have hs3 : s3.canonical := modThread_canonical hs2
    have hs4 : s4.canonical := traceRecord_canonical hs3
    exact fileThread_canonical hs4

theorem endHandler_canonical {t} (h : s.canonical) : (endHandler s t).canonical := h

theorem resumeAt_canonical {t e} (h : s.canonical) : (resumeAt s t e).canonical := by
  unfold resumeAt
  exact ite_canonical (fileThread_canonical h) (modThread_canonical (setPlace_canonical h))

theorem regionRestart_canonical {t e} (h : s.canonical) : (regionRestart s t e).canonical := fileThread_canonical h

end

/-! The forms in which a word acts for its lanes (02). -/

section

variable {s : State}

theorem lowerFlags_canonical {t fl} (h : s.canonical) : (lowerFlags s t fl).canonical := h

theorem pushResult_canonical {ix c lat isVar ready t o} (h : s.canonical) : (pushResult s ix c lat isVar ready t o).canonical := h

theorem pushAccepted_canonical {held ix fl t} (h : s.canonical) : (pushAccepted held s ix fl t).canonical := h

theorem acceptFlagsAs_canonical {held} {s0 : State} {ix c} (h : s.canonical) : (acceptFlagsAs held s0 s ix c).canonical := by
  unfold acceptFlagsAs
  extract_lets +onlyGivenNames fl
  split
  · exact h
  · refine foldl_canonical (fun a _ ha => ?_) h
    exact ite_canonical (pushAccepted_canonical ha) ha

theorem acceptFlags_canonical {s0 : State} {ix c} (h : s.canonical) : (acceptFlags s0 s ix c).canonical := acceptFlagsAs_canonical h

theorem acceptHeld_canonical {ix} (h : s.canonical) : (acceptHeld s ix).canonical := h

theorem laneResults_canonical {ix c lat isVar} {f : State → Issue → ThreadRef → LaneOut} (h : s.canonical) :
    (laneResults s ix c lat isVar f).canonical := foldl_canonical (fun _ _ ha => pushResult_canonical ha) h

theorem laneWord_canonical {c lat isVar} {f : State → Issue → ThreadRef → LaneOut} (h : s.canonical) :
    OutcomeCanonical (laneWord s c lat isVar f) := by
  unfold laneWord
  split
  · exact h
  · exact retire_canonical (laneResults_canonical h)

theorem actLanes_canonical {ix ts} {f : State → ThreadRef → State × Option Trap} (h : s.canonical)
    (hf : ∀ a t, a.canonical → (f a t).1.canonical) : ∀ u, actLanes s ix ts f = .ok u → u.canonical := by
  refine List.foldlRecOn (motive := fun r : Except Again State => ∀ u, r = .ok u → u.canonical) ts _ ?_ fun r hr t _ => ?_
  · rintro _ ⟨⟩
    exact h
  · cases r with
    | error e => exact hr
    | ok a =>
      have ha := hf a t (hr a rfl)
      intro u hu
      dsimp only at hu
      split at hu
      · next e => cases hu; exact canonical_of_eq_mk ha e
      · next e =>
        split at hu
        · cases hu
        · cases hu; exact trapAt_canonical (canonical_of_eq_mk ha e)

theorem actWord_canonical {c} {f : Issue → State → ThreadRef → State × Option Trap} (h : s.canonical)
    (hf : ∀ ix a t, a.canonical → (f ix a t).1.canonical) : OutcomeCanonical (actWord s c f) := by
  unfold actWord
  split
  · exact h
  · split
    · next e => exact retire_canonical (acceptFlags_canonical (actLanes_canonical h (fun _ _ ha => hf _ _ _ ha) _ e))
    · exact holdWord_canonical h

theorem stateWord_canonical {c} {f : Issue → State → State} (h : s.canonical) (hf : ∀ ix a, a.canonical → (f ix a).canonical) :
    OutcomeCanonical (stateWord s c f) := by
  unfold stateWord
  split
  · exact h
  · exact retire_canonical (acceptFlags_canonical (hf _ _ h))

theorem dropPend_canonical {id} (h : s.canonical) : (dropPend s id).canonical := h

theorem writeResult_canonical {p} (h : s.canonical) : (writeResult s p).canonical := by
  unfold writeResult
  split
  · exact lowerFlags_canonical (dropPend_canonical h)
  · extract_lets +onlyGivenNames s1
    have hs1 : s1.canonical := modCtx_canonical h
    split
    · exact dropPend_canonical hs1
    · extract_lets +onlyGivenNames rest
      exact hs1

end

/-! The die's task dispatcher (05 R95-R107). -/

section

variable {s : State}

theorem modQueue_canonical {lid dg q} {f : List QRec → List QRec} (h : s.canonical) : (modQueue s lid dg q f).canonical := h

theorem writeRecord_canonical {lid dg q slot r} (h : s.canonical) : (writeRecord s lid dg q slot r).1.canonical := unitWrite_canonical h

theorem enqueue_canonical {lid dg q r} (h : s.canonical) : (enqueue s lid dg q r).canonical := by
  unfold enqueue
  extract_lets +onlyGivenNames l used slot
  split
  next e => exact modQueue_canonical (writeRecord_canonical (canonical_of_mk_eq (nextId_canonical h) e))

theorem tenqEffect_canonical {lid dg q r} (h : s.canonical) : (tenqEffect s lid dg q r).1.canonical := by
  unfold tenqEffect
  extract_lets +onlyGivenNames lr c
  exact ite_fst_canonical h (ite_fst_canonical h (enqueue_canonical h))

theorem mutlEffect_canonical {t site w d r} (h : s.canonical) : (mutlEffect s t site w d r).1.canonical := by
  unfold mutlEffect
  split
  · exact h
  · split
    · exact h
    · extract_lets +onlyGivenNames lid j
      exact h

theorem launchEffect_canonical {t pend r} (h : s.canonical) : (launchEffect s t pend r).canonical := h

theorem taskEffect_canonical {lid dg t pend op} (h : s.canonical) : (taskEffect s lid dg t pend op).1.canonical := by
  unfold taskEffect
  split
  · split
    next e => exact canonical_of_eq_mk (tenqEffect_canonical h) e
  · exact dcNew_canonical h
  · exact dcDec_canonical h
  · exact h
  · exact launchEffect_canonical h
  · split
    next e => exact canonical_of_eq_mk (mutlEffect_canonical h) e

theorem readyPend_canonical {id vals} (h : s.canonical) : (readyPend s id vals).canonical := by
  cases id <;> exact h

theorem applyTask_canonical {lid dg t pend op} (h : s.canonical) : (applyTask s lid dg t pend op).canonical := by
  unfold applyTask
  split
  · next e => exact readyPend_canonical (canonical_of_eq_mk (taskEffect_canonical h) e)
  · next e => exact canonical_of_eq_mk (taskEffect_canonical h) e

theorem applyDisp_canonical {die} (h : s.canonical) : (applyDisp s die).canonical :=
  foldl_canonical (fun _ _ ha => applyTask_canonical ha) h

end

/-! The effect of an access at its point of coherence (08, 14 R304-R309, 20 R363). -/

section

variable {s : State}

theorem loadLine_canonical {a} (h : s.canonical) : (loadLine s a).1.canonical := by
  unfold loadLine
  extract_lets +onlyGivenNames n die
  split
  · exact h
  · split
    · exact h
    · split
      · exact l2Fill_canonical h
      · split
        · split
          · exact h
          · exact l2Fill_canonical h
        · exact l1Line_canonical h

theorem storeParts_canonical {a stamps parts} (h : s.canonical) : (storeParts s a stamps parts).canonical := by
  unfold storeParts
  split_ifs
  · exact modWindow_canonical (fun _ hm => foldl_memWriteN_wf parts hm) h
  · exact homeStore_canonical h
  · exact cacheStore_canonical h

theorem homePut_canonical {a n v} (h : s.canonical) : (homePut s a n v).canonical := by
  unfold homePut
  split_ifs
  · exact modWindow_memWriteN_canonical h
  · exact homeOpLines_canonical (homeWrite_canonical h)

theorem chain_canonical {a ty} {f : ℕ → Lane → ℕ} (h : s.canonical) : (chain s a ty f).canonical :=
  homePut_canonical (foldl_fst_canonical (fun _ _ ha => readyPend_canonical ha) h)

theorem objectPieces_canonical {a va n} (h : s.canonical) : (objectPieces s a va n).1.canonical := by
  unfold objectPieces
  refine foldl_fst_canonical (fun a _ ha => ?_) h
  split
  · exact ha
  · split
    · next e => exact canonical_of_eq_mk (translate_canonical ha) e
    · next e =>
        have he := canonical_of_eq_mk (translate_canonical ha) e
        split
        · next e2 => exact canonical_of_eq_mk (demandFill_canonical he) e2
        · next e2 =>
            have he2 := canonical_of_eq_mk (demandFill_canonical he) e2
            split <;> next e3 => exact canonical_of_eq_mk (translate_canonical he2) e3
    · next e => exact canonical_of_eq_mk (translate_canonical ha) e

theorem writePieces_canonical {core l bs} (h : s.canonical) : (writePieces s core l bs).canonical := by
  unfold writePieces
  refine foldl_fst_canonical (fun a _ ha => ?_) h
  extract_lets +onlyGivenNames s1 s2
  have hs1 : s1.canonical := writeTarget_canonical ha
  have hs2 : s2.canonical := by
    unfold s2
    split
    · exact homeOpLines_canonical hs1
    all_goals exact hs1
  exact hs2

theorem stickAcc_canonical {id va} (h : s.canonical) : (stickAcc s id va).canonical := h

theorem countSlots_canonical {a l} (h : s.canonical) : (countSlots s a l).canonical :=
  foldl_canonical (fun _ _ ha => countAccess_canonical ha) h

theorem dropPieces_canonical {core l} (h : s.canonical) : (dropPieces s core l).canonical := by
  unfold dropPieces
  refine foldl_canonical (fun a _ ha => ?_) h
  split
  · exact homeOpLines_canonical ha
  all_goals exact ha

theorem redobjDone_canonical {a bad} (h : s.canonical) : (redobjDone s a bad).canonical := h

theorem performInit_canonical {a ty n} (h : s.canonical) : (performInit s a ty n).1.canonical := by
  unfold performInit
  extract_lets +onlyGivenNames w
  split
  · next e =>
      have he := canonical_of_eq_mk (objectPieces_canonical (stickAcc_canonical h)) e
      exact ite_fst_canonical (stickAcc_canonical he) (redobjDone_canonical he)
  · next e =>
      have he := canonical_of_eq_mk (objectPieces_canonical (stickAcc_canonical h)) e
      split
      · exact he
      · split
        · next e2 => exact canonical_of_eq_mk (ite_fst_canonical he (stampAll_canonical he)) e2
        · next e2 =>
            have he2 := canonical_of_eq_mk (ite_fst_canonical he (stampAll_canonical he)) e2
            extract_lets +onlyGivenNames bs
            exact redobjDone_canonical (writePieces_canonical (countSlots_canonical he2))

theorem performFold_canonical {a ty} (h : s.canonical) : (performFold s a ty).1.canonical := by
  unfold performFold
  extract_lets +onlyGivenNames w
  split
  · next e =>
      have he := canonical_of_eq_mk (objectPieces_canonical (stickAcc_canonical h)) e
      exact ite_fst_canonical (stickAcc_canonical he) (redobjDone_canonical he)
  · next e =>
      have he := canonical_of_eq_mk (objectPieces_canonical (stickAcc_canonical h)) e
      extract_lets +onlyGivenNames hd n
      split
      · exact he
      · split
        · exact redobjDone_canonical he
        · split
          · next e2 =>
              have he2 := canonical_of_eq_mk (objectPieces_canonical he) e2
              exact ite_fst_canonical (stickAcc_canonical he2) (redobjDone_canonical he2)
          · next e2 =>
              have he2 := canonical_of_eq_mk (objectPieces_canonical he) e2
              split
              · exact he2
              · split
                · exact redobjDone_canonical he2
                · next e3 => exact canonical_of_eq_mk (ite_fst_canonical he2 (stampAll_canonical he2)) e3
                · next e3 =>
                    have he3 := canonical_of_eq_mk (ite_fst_canonical he2 (stampAll_canonical he2)) e3
                    extract_lets +onlyGivenNames bs slots r hd2
                    exact redobjDone_canonical (writePieces_canonical (dropPieces_canonical (countSlots_canonical he3)))

theorem countStore_canonical {a} (h : s.canonical) : (countStore s a).canonical := by
  unfold countStore
  exact ite_canonical (countWriter_canonical h) h

theorem performEffect_canonical {a stamps} (h : s.canonical) : (performEffect s a stamps).canonical := by
  unfold performEffect
  split
  case h_1 ty =>
    have hl := loadLine_canonical (a := a) h
    split
    next s' bs e =>
    rw [e] at hl
    refine foldl_canonical (fun _ _ h1 => readyPend_canonical h1) ?_
    split
    · exact homeOpLines_canonical hl
    · exact hl
  case h_2 => exact countStore_canonical (storeParts_canonical h)
  case h_3 ws =>
    dsimp only
    split_ifs
    · exact modWindow_memWriteN_canonical h
    · exact homeStore_canonical h
  case h_4 => exact storeParts_canonical h
  case h_9 op => exact foldl_canonical (fun _ _ h1 => applyTask_canonical h1) (modLaunch_canonical h)
  case h_10 | h_11 => exact h
  all_goals exact chain_canonical h

theorem readyWindow_canonical {a} (h : s.canonical) : (readyWindow s a).canonical := by
  unfold readyWindow
  split
  · refine foldl_canonical (fun a _ ha => ?_) h
    split
    · exact readyPend_canonical ha
    · exact ha
  · exact h

theorem readInput_canonical {a bs va} (h : s.canonical) : (readInput s a bs va).1.canonical := by
  unfold readInput
  extract_lets +onlyGivenNames put load
  have hput : ∀ t x1, t.canonical → (put t x1).canonical := fun _ _ ht => ht
  have hload : ∀ t x1, t.canonical → (load t x1).1.canonical := by
    intro t x1 ht
    unfold load
    split
    · exact hput _ _ (countAccess_canonical ht)
    · extract_lets +onlyGivenNames r
      have hr : r.1.canonical := cacheLoad_canonical (countAccess_canonical ht)
      exact hput _ _ hr
    · exact stickAcc_canonical ht
    · exact ht
  split
  · next e =>
      have he := canonical_of_eq_mk (translate_canonical h) e
      split
      · next e2 =>
          have he2 := canonical_of_eq_mk (demandFill_canonical he) e2
          extract_lets +onlyGivenNames r
          have hr : r.1.canonical := translate_canonical he2
          exact hload _ _ hr
      · next e2 =>
          have he2 := canonical_of_eq_mk (demandFill_canonical he) e2
          unfold load
          split
          · exact hput _ _ (countAccess_canonical he2)
          · extract_lets +onlyGivenNames r
            have hr : r.1.canonical := cacheLoad_canonical (countAccess_canonical he2)
            exact hput _ _ hr
          · exact stickAcc_canonical he2
          · exact he2
  · next e => exact hload _ _ (canonical_of_eq_mk (translate_canonical h) e)

theorem performAcc_canonical {a} (h : s.canonical) : (performAcc s a).1.canonical := by
  unfold performAcc
  extract_lets +onlyGivenNames done
  have hdone : ∀ t, t.canonical → (done t).canonical := fun _ ht => ite_canonical (acquireActions_canonical
    (readyWindow_canonical ht)) (readyWindow_canonical ht)
  split
  · split
    · next e => exact hdone _ (canonical_of_eq_mk (performInit_canonical h) e)
    · next e => exact canonical_of_eq_mk (performInit_canonical h) e
  · split
    · next e => exact hdone _ (canonical_of_eq_mk (performFold_canonical h) e)
    · next e => exact canonical_of_eq_mk (performFold_canonical h) e
  · exact readInput_canonical h
  all_goals
    extract_lets +onlyGivenNames line stamps later
    split
    · exact h
    · split
      · next e => exact canonical_of_eq_mk (stampAll_canonical h) e
      · next e => exact hdone _ (performEffect_canonical (canonical_of_eq_mk (stampAll_canonical h) e))

theorem performQueued_canonical {die} (h : s.canonical) : (performQueued s die).canonical := by
  unfold performQueued
  split
  · exact h
  · split
    · exact h
    · split
      · next e => exact canonical_of_eq_mk (stampAll_canonical h) e
      · next e =>
          have he := canonical_of_eq_mk (stampAll_canonical h) e
          extract_lets +onlyGivenNames s1
          have hs1 : s1.canonical := foldl_canonical (fun _ _ ha => homeWrite_canonical ha) (modDie_canonical he)
          split
          · exact foldl_canonical (fun _ _ ha => ite_canonical (fireArmed_canonical ha) ha) hs1
          · exact hs1

end

/-! The host link (24): responses, the gate before every message, accesses of the host. -/

section

variable {s : State}

theorem respond_canonical {status result payload} (h : s.canonical) : (respond s status result payload).canonical := sendMsg_canonical h

theorem respondTo_canonical {conn tag cls op status result} (h : s.canonical) : (respondTo s conn tag cls op status result).canonical :=
  sendMsg_canonical h

theorem holdMsg_canonical (h : s.canonical) : (holdMsg s).canonical := h

theorem gate_canonical {needMgmt wellFormed} {k : State → State} (h : s.canonical) (hk : ∀ a, a.canonical → (k a).canonical) :
    OutcomeCanonical (gate s needMgmt wellFormed k) := by
  unfold gate
  extract_lets +onlyGivenNames c m statusRead allowed
  split
  · exact h
  · split
    · exact respond_canonical h
    · split
      · exact respond_canonical h
      · split
        · exact respond_canonical h
        · exact ite_canonical (respond_canonical h) (ite_canonical (respond_canonical h) (hk _ h))

theorem hostTarget_canonical {a need} (h : s.canonical) : (hostTarget s a need).1.canonical := by
  unfold hostTarget
  split
  · exact unitTranslate_canonical h
  · exact h

theorem hostPieces_canonical {a n need} (h : s.canonical) : (hostPieces s a n need).1.canonical := by
  unfold hostPieces
  refine foldl_fst_canonical (fun a _ ha => ?_) h
  split
  · exact ha
  · split
    · next e => exact canonical_of_eq_mk (hostTarget_canonical ha) e
    · next e => exact canonical_of_eq_mk (hostTarget_canonical ha) e
    · next e =>
        have he := canonical_of_eq_mk (hostTarget_canonical ha) e
        exact ite_fst_canonical he he

theorem stampHostOne_canonical {line n} (h : s.canonical) : (stampHostOne s line n).1.canonical := by
  unfold stampHostOne
  split
  · exact h
  · extract_lets +onlyGivenNames c
    split
    · exact h
    · extract_lets +onlyGivenNames s1
      have hs1 : s1.canonical := appendLog_canonical h
      exact hs1

theorem stampHost_canonical {l} (h : s.canonical) : (stampHost s l).1.canonical := by
  unfold stampHost
  extract_lets +onlyGivenNames r
  have hr : r.1.canonical := foldl_fst_canonical (fun _ _ ha => ite_fst_canonical (stampHostOne_canonical ha) ha) h
  exact ite_fst_canonical hr h

theorem hostWritePieces_canonical {a l bs} (h : s.canonical) : (hostWritePieces s a l bs).canonical :=
  foldl_canonical (fun _ _ ha => writeTarget_canonical ha) h

theorem hostWrite_canonical {s0 : State} {a bs} {done : State → Option (BitVec 8 × ℕ) → State} (h : s0.canonical)
    (hdone : ∀ a x, a.canonical → (done a x).canonical) : (hostWrite s0 a bs done).canonical := by
  unfold hostWrite
  split
  next e =>
    have he := canonical_of_eq_mk (hostPieces_canonical h) e
    split
    · exact holdMsg_canonical he
    · split
      · next e2 => exact holdMsg_canonical (canonical_of_eq_mk (stampHost_canonical he) e2)
      · next e2 => exact hdone _ _ (hostWritePieces_canonical (canonical_of_eq_mk (stampHost_canonical he) e2))

theorem hostRead_canonical {s0 : State} {a n} {done : State → List Byte → Option (BitVec 8 × ℕ) → State} (h : s0.canonical)
    (hdone : ∀ a l x, a.canonical → (done a l x).canonical) : (hostRead s0 a n done).canonical := by
  unfold hostRead
  split
  next e =>
    have he := canonical_of_eq_mk (hostPieces_canonical h) e
    exact ite_canonical (holdMsg_canonical he) (hdone _ _ _ he)

theorem accessDone_canonical {payload e} (h : s.canonical) : (accessDone payload s e).canonical := by
  unfold accessDone
  split <;> exact respond_canonical h

end

/-! Accesses at issue, atomics, fences and cache control (08, 09, 14). -/

section

variable {s : State}

theorem pageTargets_canonical {core space need vas} (h : s.canonical) : (pageTargets s core space need vas).1.canonical := by
  unfold pageTargets
  refine foldl_fst_canonical (fun a _ ha => ?_) h
  split
  · exact ha
  · extract_lets +onlyGivenNames r
    have hr : r.1.canonical := translate_canonical ha
    exact hr

theorem checkLanes_canonical {pg ts} {ea : ThreadRef → ℕ} {n need} (h : s.canonical) : (checkLanes s pg ts ea n need).1.canonical :=
  pageTargets_canonical h

theorem takeTraps_canonical {ix l} (h : s.canonical) : (takeTraps s ix l).canonical :=
  foldl_canonical (fun _ _ ha => trapAt_canonical ha) h

theorem pushWindow_canonical {ix ts owes acq} (h : s.canonical) : (pushWindow s ix ts owes acq).canonical := by
  unfold pushWindow
  refine foldl_canonical (fun a _ ha => ?_) h
  split
  next e =>
    have he := canonical_of_mk_eq (nextId_canonical ha) e
    exact he

theorem nextKey_canonical {ix k t} (h : s.canonical) : (nextKey s ix k t).1.canonical := by
  unfold nextKey
  extract_lets +onlyGivenNames win
  split
  · extract_lets +onlyGivenNames d
    exact modCg_canonical h
  · exact h

theorem pushPending_canonical {ix c key holds t o} (h : s.canonical) : (pushPending s ix c key holds t o).canonical := h

theorem pushAcc_canonical {ix c sh va tgt ts} {val : ThreadRef → DWord} {val2 : ThreadRef → DWord} {out : ThreadRef → Option LaneOut}
    (h : s.canonical) : (pushAcc s ix c sh va tgt ts val val2 out).canonical := by
  have hk := nextKey_canonical (ix := ix) (k := sh.kind) (t := tgt) h
  unfold pushAcc
  generalize nextKey s ix sh.kind tgt = r at hk ⊢
  obtain ⟨s', key⟩ := r
  dsimp -zeta only
  extract_lets lane r
  have hr : r.1.canonical := by
    refine foldl_fst_canonical (fun r x hr => ?_) hk
    split
    · exact hr
    · exact pushPending_canonical hr
  exact ite_canonical (pushWindow_canonical hr) hr

theorem pushAccs_canonical {ix c sh ok} {val : ThreadRef → DWord} {val2 : ThreadRef → DWord} {out : ThreadRef → Option LaneOut}
    (h : s.canonical) : (pushAccs s ix c sh ok val val2 out).canonical := by
  unfold pushAccs
  extract_lets +onlyGivenNames lines s1
  have hs1 : s1.canonical := foldl_canonical (fun _ _ ha => countLine_canonical ha) h
  refine foldl_canonical (fun a _ ha => ?_) hs1
  split
  · exact ha
  · exact pushAcc_canonical ha

theorem accessWord_canonical {c sh need} {ea : State → ThreadRef → ℕ} {val : State → ThreadRef → DWord} {val2 : State → ThreadRef → DWord}
    {out : ThreadRef → Option LaneOut} (h : s.canonical) : OutcomeCanonical (accessWord s c sh need ea val val2 out) := by
  unfold accessWord
  split
  · exact h
  · extract_lets +onlyGivenNames r done
    have hr : r.1.canonical := checkLanes_canonical h
    have hdone : done.canonical := pushAccs_canonical hr
    exact retire_canonical (acceptFlags_canonical (takeTraps_canonical hdone))

theorem prefetch_canonical {ix l1 va} (h : s.canonical) : (prefetch s ix l1 va).canonical := by
  unfold prefetch
  split
  · exact h
  · split
    · next e =>
        have he := canonical_of_eq_mk (translateOnce_canonical h) e
        extract_lets +onlyGivenNames s1
        have hs1 : s1.canonical := countLine_canonical he
        exact ite_canonical hs1 (ite_canonical (l1Line_canonical hs1) (l2Line_canonical hs1))
    all_goals next e => exact canonical_of_eq_mk (translateOnce_canonical h) e

theorem constLoad_canonical {core pa n} (h : s.canonical) : (constLoad s core pa n).1.canonical := by
  unfold constLoad
  split
  · exact h
  · split
    next e =>
      have he := canonical_of_eq_mk (l2Line_canonical h) e
      exact modCore_canonical he

theorem ldkLane_canonical {w ty} {s0 : State} {ix t} (h : s.canonical) : (ldkLane w ty s0 ix s t).1.canonical := by
  unfold ldkLane
  extract_lets +onlyGivenNames va n
  split
  · exact h
  · split
    · next e => exact canonical_of_eq_mk (readPiece_canonical h (fun _ _ _ ha => constLoad_canonical ha)) e
    · next e =>
        have he := canonical_of_eq_mk (readPiece_canonical h (fun _ _ _ ha => constLoad_canonical ha)) e
        exact pushResult_canonical he

theorem laneActs_canonical {ts} {f : State → ThreadRef → State × Option Trap} (h : s.canonical)
    (hf : ∀ a t, a.canonical → (f a t).1.canonical) : ∀ r, laneActs s ts f = .ok r → r.1.canonical := by
  refine List.foldlRecOn (motive := fun r : Except Again (State × List (ThreadRef × Trap)) => ∀ u, r = .ok u → u.1.canonical)
    (byLane ts) _ ?_ fun r hr t _ => ?_
  · rintro _ ⟨⟩
    exact h
  · cases r with
    | error e => exact hr
    | ok a =>
      have ha := hf a.1 t (hr a rfl)
      intro u hu
      dsimp only at hu
      split at hu
      · next e => cases hu; exact canonical_of_eq_mk ha e
      · next e =>
        split at hu
        · cases hu
        · cases hu; exact canonical_of_eq_mk ha e

theorem laneActWord_canonical {c} {f : Issue → State → ThreadRef → State × Option Trap} (h : s.canonical)
    (hf : ∀ ix a t, a.canonical → (f ix a t).1.canonical) : OutcomeCanonical (laneActWord s c f) := by
  unfold laneActWord
  split
  · exact h
  · split
    · next hr => exact retire_canonical (acceptFlags_canonical (takeTraps_canonical (laneActs_canonical h (hf _) _ hr)))
    · exact holdWord_canonical h

theorem execAtom_canonical {w ty scope ord} (h : s.canonical) : OutcomeCanonical (execAtom w ty scope ord s) := by
  unfold execAtom
  exact accessWord_canonical h

theorem execCas_canonical {w ty scope ord} (h : s.canonical) : OutcomeCanonical (execCas w ty scope ord s) := by
  unfold execCas
  exact accessWord_canonical h

theorem execRed_canonical {w ty scope ord} (h : s.canonical) : OutcomeCanonical (execRed w ty scope ord s) := by
  unfold execRed
  exact accessWord_canonical h

theorem checkObject_canonical {pg va n} (h : s.canonical) : (checkObject s pg va n).1.canonical := by
  unfold checkObject
  split
  · exact h
  · refine foldl_fst_canonical (fun a _ ha => ?_) h
    split
    · exact ha
    · split <;> next e => exact canonical_of_eq_mk (checkAccess_canonical ha) e

theorem redobjWord_canonical {w scope ord} {kind : State → ThreadRef → Except Trap AccKind} {span : State → ThreadRef → ℕ}
    (h : s.canonical) : OutcomeCanonical (redobjWord s w scope ord kind span) := by
  unfold redobjWord
  split
  · exact h
  · extract_lets +onlyGivenNames ts r
    have hr : r.1.canonical := by
      unfold r
      refine foldl_fst_canonical (fun a _ ha => ?_) h
      extract_lets +onlyGivenNames va
      split
      · exact ha
      · split <;> next e => exact canonical_of_eq_mk (checkObject_canonical ha) e
    extract_lets +onlyGivenNames done s2
    have hdone : done.canonical := by
      unfold done
      refine foldl_canonical (fun a _ ha => ?_) hr
      split
      · exact ha
      · exact pushAcc_canonical (countLine_canonical ha)
    have hs2 : s2.canonical := takeTraps_canonical (spendSlot_canonical hdone)
    exact ite_canonical (advance_canonical hs2) (modGroup_canonical hs2)

theorem execRedobjInit_canonical {w ty scope ord} (h : s.canonical) : OutcomeCanonical (execRedobjInit w ty scope ord s) := by
  unfold execRedobjInit
  exact redobjWord_canonical h

theorem execFence_canonical {w scope ord} (h : s.canonical) : OutcomeCanonical (execFence w scope ord s) := by
  unfold execFence
  exact stateWord_canonical h (fun _ _ ha => ite_canonical (acquireActions_canonical ha) ha)

theorem controlTarget_canonical {ix va} (h : s.canonical) : (controlTarget s ix va).1.canonical := by
  unfold controlTarget
  split
  · exact h
  · split
    · next e => exact canonical_of_eq_mk (translateOnce_canonical h) e
    · next e => exact canonical_of_eq_mk (translateOnce_canonical h) e
    · next e => exact canonical_of_eq_mk (translateOnce_canonical h) e
    · next e =>
        have he := canonical_of_eq_mk (translateOnce_canonical h) e
        split <;> next e2 => exact canonical_of_eq_mk (fillOnce_canonical he) e2

theorem execCflush_canonical {w} (h : s.canonical) : OutcomeCanonical (execCflush w s) := by
  unfold execCflush
  refine laneActWord_canonical h (fun _ a _ ha => ?_)
  split <;> next e => exact canonical_of_eq_mk (controlTarget_canonical ha) e

theorem dropLineOf_canonical {core icache line} (h : s.canonical) : (dropLineOf s core icache line).canonical := by
  unfold dropLineOf
  extract_lets +onlyGivenNames s1
  have hs1 : s1.canonical := ite_canonical (foldl_canonical (fun _ _ ha => modPart_canonical ha) h) (modCore_canonical h)
  exact modDie_canonical hs1

theorem execCinv_canonical {w icache} (h : s.canonical) : OutcomeCanonical (execCinv w icache s) := by
  unfold execCinv
  refine laneActWord_canonical h (fun _ a _ ha => ?_)
  split
  · next e => exact canonical_of_eq_mk (controlTarget_canonical ha) e
  · next e => exact dropLineOf_canonical (canonical_of_eq_mk (controlTarget_canonical ha) e)
  · next e => exact canonical_of_eq_mk (controlTarget_canonical ha) e

theorem queueSignal_canonical {lid off v} (h : s.canonical) : (queueSignal s lid off v).canonical := by
  unfold queueSignal
  extract_lets +onlyGivenNames l
  split <;> exact h

theorem hwsigLane_canonical {ix t va v} (h : s.canonical) : (hwsigLane s ix t va v).1.canonical := by
  unfold hwsigLane
  split
  · exact h
  · split
    · exact h
    · split
      · next e => exact canonical_of_eq_mk (checkAccess_canonical h) e
      · next e =>
          have he := canonical_of_eq_mk (checkAccess_canonical h) e
          split
          · next e2 => exact canonical_of_eq_mk (stampNow_canonical he) e2
          · next e2 =>
              have he2 := canonical_of_eq_mk (stampNow_canonical he) e2
              exact queueSignal_canonical (writeTargetNow_canonical he2)

end

/-! The typed buffers (08 R192, R193; 09 R203-R205). -/

section

variable {s : State}

theorem bufferWord_canonical {c} {check : Issue → ThreadRef → Except Trap ℕ} {act : Issue → State → ThreadRef → ℕ → State}
    (h : s.canonical) (hact : ∀ ix a t n, a.canonical → (act ix a t n).canonical) : OutcomeCanonical (bufferWord s c check act) := by
  unfold bufferWord
  split
  · exact h
  · extract_lets +onlyGivenNames ts done traps
    have hdone : done.canonical := by
      unfold done
      refine foldl_canonical (fun a _ ha => ?_) h
      split
      · exact hact _ _ _ _ ha
      · exact ha
    exact retire_canonical (acceptFlags_canonical (takeTraps_canonical hdone))

end

/-! Operations under a tag and bulk copies (09 R210-R217). -/

section

variable {s : State}

theorem modTag_canonical {cg n} {f : TagState → TagState} (h : s.canonical) : (modTag s cg n f).canonical := h

theorem tagFail_canonical {cg n cause val} (h : s.canonical) : (tagFail s cg n cause val).canonical := h

theorem modOp_canonical {id} {f : EngOp → EngOp} (h : s.canonical) : (modOp s id f).canonical := h

theorem countOp_canonical {o} (h : s.canonical) : (countOp s o).canonical := by
  unfold countOp
  exact ite_canonical h (modTag_canonical (modOp_canonical h))

theorem acceptCopies_canonical {core} (h : s.canonical) : (acceptCopies s core).canonical := by
  unfold acceptCopies
  refine foldl_canonical (fun a _ ha => ?_) h
  split
  · exact ite_canonical (addLocks_canonical (modOp_canonical (countOp_canonical ha))) (countOp_canonical ha)
  · exact ha

theorem offerEngOp_canonical {o} (h : s.canonical) : (offerEngOp s o).canonical := by
  unfold offerEngOp
  exact acceptCopies_canonical h

theorem noFrame_canonical {o} (h : s.canonical) : (noFrame s o).canonical := by
  unfold noFrame
  split
  · exact contain_canonical h
  · exact foldl_canonical (fun _ _ ha => ite_canonical (contain_canonical ha) ha) h

theorem endOp_canonical {o} (h : s.canonical) : (endOp s o).canonical := by
  unfold endOp
  exact acceptOps_canonical (acceptCopies_canonical (modTag_canonical (dropLocks_canonical h)))

theorem failOp_canonical {o cause val} (h : s.canonical) : (failOp s o cause val).canonical := by
  unfold failOp
  extract_lets +onlyGivenNames s1
  have hs1 : s1.canonical := endOp_canonical (tagFail_canonical h)
  exact ite_canonical (noFrame_canonical hs1) hs1

theorem countEngine_canonical {o va n} (h : s.canonical) : (countEngine s o va n).canonical := by
  unfold countEngine
  extract_lets +onlyGivenNames lid
  split
  · refine foldl_canonical (fun a _ ha => ?_) h
    split
    · next e => exact countWriter_canonical (l2Line_canonical (canonical_of_eq_mk (pinTranslate_canonical ha) e))
    all_goals next e => exact canonical_of_eq_mk (pinTranslate_canonical ha) e
  · exact h

theorem supersede_canonical {o va bs} (h : s.canonical) : (supersede s o va bs).canonical := h

theorem opWrite_canonical {o va bs} (h : s.canonical) : (opWrite s o va bs).1.canonical := by
  unfold opWrite
  extract_lets +onlyGivenNames lid
  split
  · next e => exact canonical_of_eq_mk (engineWrite_canonical h) e
  · next e =>
      have he := canonical_of_eq_mk (engineWrite_canonical h) e
      extract_lets +onlyGivenNames s1
      have hs1 : s1.canonical := supersede_canonical (countEngine_canonical he)
      exact ite_canonical (deferWatch_canonical hs1) hs1

theorem opRead_canonical {o type va n} (h : s.canonical) : (opRead s o type va n).1.canonical := by
  unfold opRead
  split <;> next e => exact canonical_of_eq_mk (engineRead_canonical h) e

theorem readDescAcq_canonical {t va align n} (h : s.canonical) : (readDescAcq s t va align n).1.canonical := by
  unfold readDescAcq
  exact ite_fst_canonical h (readNowAcq_canonical h)

theorem readDesc_canonical {t va align n} (h : s.canonical) : (readDesc s t va align n).1.canonical := by
  unfold readDesc
  exact ite_fst_canonical h (readNow_canonical h)

theorem newOp_canonical {ix t k tag d va} (h : s.canonical) : (newOp s ix t k tag d va).2.canonical := h

theorem indexList_canonical {o} (h : s.canonical) : (indexList s o).1.canonical := by
  unfold indexList
  exact ite_fst_canonical h (ite_fst_canonical h (opRead_canonical h))

theorem failIssue_canonical {o cause val} (h : s.canonical) : (failIssue s o cause val).canonical := by
  unfold failIssue
  extract_lets +onlyGivenNames s1
  have hs1 : s1.canonical := tagFail_canonical (dropPins_canonical h)
  exact ite_canonical (noFrame_canonical hs1) hs1

theorem copyLane_canonical {ix t k tag va} (h : s.canonical) : (copyLane s ix t k tag va).1.canonical := by
  unfold copyLane
  split
  · next e => exact canonical_of_eq_mk (readDescAcq_canonical h) e
  · next e =>
      have he := canonical_of_eq_mk (readDescAcq_canonical h) e
      split
      · exact tagFail_canonical he
      · split
        next e2 =>
          have he2 := canonical_of_mk_eq (newOp_canonical he) e2
          split
          · next e3 =>
              have he3 := canonical_of_eq_mk (indexList_canonical he2) e3
              exact ite_fst_canonical he3 (failIssue_canonical he3)
          · next e3 =>
              have he3 := canonical_of_eq_mk (indexList_canonical he2) e3
              extract_lets +onlyGivenNames o
              split
              · exact failIssue_canonical he3
              · exact offerEngOp_canonical he3

theorem engineWord_canonical {c} {f : Issue → State → ThreadRef → State × Option Trap} (h : s.canonical)
    (hf : ∀ ix a t, a.canonical → (f ix a t).1.canonical) : OutcomeCanonical (engineWord s c f) := by
  unfold engineWord
  split
  · exact h
  · split
    · exact holdWord_canonical h
    · next e =>
        extract_lets +onlyGivenNames waits s'
        have hs' : s'.canonical := spendSlot_canonical (acceptFlagsAs_canonical (actLanes_canonical h (fun _ _ ha => hf _ _ _ ha) _ e))
        exact ite_canonical (modGroup_canonical hs') (advance_canonical hs')

theorem copyWord_canonical {w k} (h : s.canonical) : OutcomeCanonical (copyWord s w k) :=
  engineWord_canonical h (fun _ _ _ ha => copyLane_canonical ha)

theorem copyRow_canonical {o i} (h : s.canonical) : (copyRow s o i).1.canonical := by
  unfold copyRow
  extract_lets +onlyGivenNames n a b r
  have hr : r.1.canonical := ite_fst_canonical (opRead_canonical h) h
  split
  · clear_value r
    split
    · exact hr
    · exact opWrite_canonical hr
  all_goals
    clear_value r
    split
    · exact hr
    · exact modCore_canonical hr

theorem copyRows_canonical {fuel o i} (h : s.canonical) : (copyRows fuel s o i).1.canonical := by
  induction fuel generalizing s i with
  | zero => exact h
  | succ k ih =>
    unfold copyRows
    split
    · next e => exact canonical_of_eq_mk (copyRow_canonical h) e
    · next e => exact ih (canonical_of_eq_mk (copyRow_canonical h) e)

theorem opOutcome_canonical {s0 : State} {o r} {done : State → State} (h : s0.canonical) (hdone : ∀ a, a.canonical → (done a).canonical)
    (hr : r.1.canonical) : (opOutcome s0 o r done).canonical := by
  unfold opOutcome
  split
  · exact hdone _ hr
  · exact ite_canonical h (failOp_canonical hr)

theorem copyRun_canonical {o} (h : s.canonical) : (copyRun s o).1.canonical := copyRows_canonical h

theorem unitComplete_canonical {id} {k : EngKind → Bool} {run : State → EngOp → State × Option (BitVec 8 × ℕ)} (h : s.canonical)
    (hrun : ∀ a o, a.canonical → (run a o).1.canonical) : (unitComplete id k run s).canonical := by
  unfold unitComplete
  split
  · exact h
  · exact ite_canonical (opOutcome_canonical h (fun _ ha => endOp_canonical ha) (hrun _ _ h)) h

theorem execCopyComplete_canonical {id} (h : s.canonical) : OutcomeCanonical (execCopyComplete id s) := by
  unfold execCopyComplete
  split
  · exact h
  · split
    · exact h
    · split
      · split
        · exact h
        · split
          · next e =>
            exact opOutcome_canonical h (fun _ ha => ha) (show State.canonical _ from canonical_of_eq_mk (opRead_canonical h) e)
          · next e => exact modOp_canonical (canonical_of_eq_mk (opRead_canonical h) e)
      · exact unitComplete_canonical h fun _ _ ha => copyRun_canonical ha

theorem execTgwait_canonical {w chk} (h : s.canonical) : OutcomeCanonical (execTgwait w chk s) := by
  unfold execTgwait
  refine actWord_canonical h (fun _ a _ ha => ?_)
  split
  · exact ite_fst_canonical ha ha
  · exact ha

end

/-! Floating-point words (07 R158-R166). -/

section

variable {s : State}

theorem f32Word_canonical {w} {f : State → ThreadRef → FVal × Bool} (h : s.canonical) : OutcomeCanonical (f32Word s w f) :=
  laneWord_canonical h

theorem f64Lanes_canonical {w} {f : State → Issue → ThreadRef → LaneOut} (h : s.canonical) : OutcomeCanonical (f64Lanes s w f) :=
  stateWord_canonical h (fun _ _ ha => laneResults_canonical ha)

theorem f64Word_canonical {w} {f : State → ThreadRef → FVal × Bool} (h : s.canonical) : OutcomeCanonical (f64Word s w f) :=
  f64Lanes_canonical h

theorem execFflags_canonical {w} (h : s.canonical) : OutcomeCanonical (execFflags w s) := by
  unfold execFflags
  refine stateWord_canonical h (fun _ a ha => ?_)
  exact foldl_canonical (fun _ _ ha => pushResult_canonical (modCtx_canonical ha)) ha

theorem packedWord_canonical {w} {f : ℕ → ℕ → ℕ → ℕ × BitVec 6} (h : s.canonical) : OutcomeCanonical (packedWord s w f) :=
  laneWord_canonical h

theorem specialWord_canonical {w ty} {f : FFmt → ℕ → ℕ × BitVec 6} (h : s.canonical) : OutcomeCanonical (specialWord s w ty f) :=
  laneWord_canonical h

theorem execCvts_canonical {w ty sat} (h : s.canonical) : OutcomeCanonical (execCvts w ty sat s) := by
  unfold execCvts
  refine actWord_canonical h (fun _ a _ ha => ?_)
  extract_lets +onlyGivenNames v k
  split
  · next e => exact canonical_of_eq_mk (draw_canonical ha) e
  · next e =>
      have he := canonical_of_eq_mk (draw_canonical ha) e
      extract_lets +onlyGivenNames r
      exact pushResult_canonical he

end

/-! The matrix engine (11 R237-R257). -/

section

variable {s : State}

theorem holdAfter_canonical {s0 : State} {ix c h} (hs : s.canonical) : (holdAfter s0 s ix c h).canonical := by
  unfold holdAfter
  exact modGroup_canonical (spendSlot_canonical (acceptFlagsAs_canonical hs))

theorem execMacq_canonical {w} (h : s.canonical) : OutcomeCanonical (execMacq w s) := by
  unfold execMacq
  split
  · exact h
  · split
    · exact retire_canonical h
    · extract_lets +onlyGivenNames s1
      have hs1 : s1.canonical := requestEngine_canonical h
      split
      · exact retire_canonical (acceptFlags_canonical hs1)
      · exact holdAfter_canonical hs1

theorem letGo_canonical {pg} (h : s.canonical) : (letGo s pg).canonical := by
  unfold letGo
  exact ite_canonical (releaseEngine_canonical h) (modEng_canonical h)

theorem execMrel_canonical {w} (h : s.canonical) : OutcomeCanonical (execMrel w s) := by
  unfold execMrel
  exact stateWord_canonical h (fun _ _ ha => ite_canonical ha (letGo_canonical ha))

theorem execGang_canonical {w} (h : s.canonical) : OutcomeCanonical (execGang w s) := by
  unfold execGang
  split
  · exact h
  · split
    · exact retire_canonical h
    · extract_lets +onlyGivenNames m
      split
      · exact retire_canonical (foldl_canonical (fun _ _ ha => trapAt_canonical ha) h)
      · exact retire_canonical (acceptFlags_canonical h)
      · exact retire_canonical (acceptFlags_canonical (letGo_canonical h))
      · extract_lets +onlyGivenNames pgid now s1
        have hs1 : s1.canonical := settleGangs_canonical (modCg_canonical h)
        split
        · exact holdAfter_canonical hs1
        · exact retire_canonical (acceptFlags_canonical hs1)

theorem execResv_canonical {w} (h : s.canonical) : OutcomeCanonical (execResv w s) := by
  unfold execResv
  refine actWord_canonical h (fun _ a _ ha => ?_)
  split
  · next e => exact canonical_of_eq_mk (readDescAcq_canonical ha) e
  · next e =>
      have he := canonical_of_eq_mk (readDescAcq_canonical ha) e
      extract_lets +onlyGivenNames r k s1
      have hs1 : s1.canonical := ite_canonical (modCore_canonical he) he
      exact pushResult_canonical hs1

theorem execReservationClearComplete_canonical {core num} (h : s.canonical) :
    OutcomeCanonical (execReservationClearComplete core num s) := by
  unfold execReservationClearComplete
  split
  · exact h
  · split
    · exact modCore_canonical h
    · exact h

theorem execRfree_canonical {w} (h : s.canonical) : OutcomeCanonical (execRfree w s) := by
  unfold execRfree
  refine actWord_canonical h (fun _ a _ ha => ?_)
  extract_lets +onlyGivenNames n
  split
  · exact ite_fst_canonical (modCore_canonical ha) ha
  · exact ha

theorem execCbld_canonical {w} (h : s.canonical) : OutcomeCanonical (execCbld w s) := by
  unfold execCbld
  refine engineWord_canonical h (fun _ a _ ha => ?_)
  extract_lets +onlyGivenNames tag va
  split
  · exact tagFail_canonical ha
  · split
    next e =>
      have he := canonical_of_mk_eq (newOp_canonical ha) e
      extract_lets +onlyGivenNames l waits
      exact offerEngOp_canonical he

theorem execCodebookSwap_canonical {id} (h : s.canonical) : OutcomeCanonical (execCodebookSwap id s) := by
  unfold execCodebookSwap
  split
  · exact h
  · split
    · exact endOp_canonical (modCg_canonical h)
    · exact h

theorem jointWord_canonical {c} {f : Issue → ThreadRef → MatKind × BitVec 16} (h : s.canonical) : OutcomeCanonical (jointWord s c f) := by
  unfold jointWord
  split
  · exact h
  · split
    · exact retire_canonical h
    · exact holdAfter_canonical (arriveLatch_canonical (modPg_canonical h))

theorem execMwait_canonical {w} (h : s.canonical) : OutcomeCanonical (execMwait w s) := by
  unfold execMwait
  refine actWord_canonical h (fun _ a _ ha => ?_)
  extract_lets +onlyGivenNames qs
  split
  · extract_lets +onlyGivenNames x3
    exact ha
  · extract_lets +onlyGivenNames v
    exact pushResult_canonical ha

theorem mdepLane_canonical {s0 : State} {ix w t} (h : s.canonical) : (mdepLane s0 ix w s t).1.canonical := by
  unfold mdepLane
  extract_lets +onlyGivenNames q
  split
  · exact trapAt_canonical h
  · split
    · exact h
    · extract_lets +onlyGivenNames ops
      exact fireArmed_canonical (modEng_canonical h)

theorem execMdep_canonical {w} (h : s.canonical) : OutcomeCanonical (execMdep w s) := by
  unfold execMdep
  split
  · exact h
  · extract_lets +onlyGivenNames did r
    have hr : r.1.canonical := by
      unfold r
      refine foldl_fst_canonical (fun a _ ha => ?_) h
      split
      · exact ha
      · split <;> next e => exact canonical_of_eq_mk (mdepLane_canonical ha) e
    exact ite_canonical (holdWord_canonical (modGroup_canonical hr)) (retire_canonical (acceptFlags_canonical hr))

theorem computeEffect_canonical {o} (h : s.canonical) : (computeEffect s o).canonical := by
  unfold computeEffect
  extract_lets +onlyGivenNames q
  split
  · exact h
  · split
    · exact h
    · split
      · exact tileError_canonical h
      · exact h
      · exact modTile_canonical h

theorem execMatrixOpStart_canonical {core} (h : s.canonical) : OutcomeCanonical (execMatrixOpStart core s) := by
  unfold execMatrixOpStart
  split
  · exact h
  · exact modEng_canonical h

theorem execMatrixOpComplete_canonical {core} (h : s.canonical) : OutcomeCanonical (execMatrixOpComplete core s) := by
  unfold execMatrixOpComplete
  split
  · exact h
  · split
    · exact finishOp_canonical (computeEffect_canonical h)
    · exact h

theorem execEngineGrant_canonical {core} (h : s.canonical) : OutcomeCanonical (execEngineGrant core s) := by
  unfold execEngineGrant
  extract_lets +onlyGivenNames e
  split
  · exact grantEngine_canonical h
  · exact h

theorem portFail_canonical {o q c va} (h : s.canonical) : (portFail s o q c va).canonical := by
  unfold portFail
  exact ite_canonical (noFrame_canonical (tileError_canonical h)) (tileError_canonical h)

theorem portEffect_canonical {o} (h : s.canonical) : ∀ u, portEffect s o = some u → u.canonical := by
  intro u hu
  unfold portEffect at hu
  extract_lets q at hu
  split at hu
  · cases hu
    exact foldl_canonical (fun _ _ ha => modTile_canonical ha) h
  · split at hu
    · cases hu
      exact portFail_canonical h
    · split at hu
      · next e => cases hu; exact canonical_of_eq_mk (opWrite_canonical h) e
      · next e =>
        split at hu
        · cases hu
        · cases hu; exact portFail_canonical (canonical_of_eq_mk (opWrite_canonical h) e)
  · split at hu
    · cases hu
      exact portFail_canonical h
    · split at hu
      · next e => cases hu; exact modTile_canonical (canonical_of_eq_mk (opRead_canonical h) e)
      · next e =>
        split at hu
        · cases hu
        · cases hu; exact portFail_canonical (canonical_of_eq_mk (opRead_canonical h) e)
  all_goals cases hu; exact h

theorem execDrainPortComplete_canonical {core id} (h : s.canonical) : OutcomeCanonical (execDrainPortComplete core id s) := by
  unfold execDrainPortComplete
  split
  · exact h
  · split
    · cases e : portEffect s _ with
      | none => exact h
      | some u => exact finishOp_canonical (portEffect_canonical h u e)
    · exact h

end

/-! Operand streams (09 R218-R223). -/

section

variable {s : State}

theorem modStream_canonical {pg q} {f : Stream → Stream} (h : s.canonical) : (modStream s pg q f).canonical := h

theorem fetchElement_canonical {t q e} (h : s.canonical) : (fetchElement s t q e).canonical := by
  unfold fetchElement
  extract_lets +onlyGivenNames st g a n put
  have hput : ∀ t x1 x2, t.canonical → (put t x1 x2).canonical := fun _ _ _ ht => modStream_canonical ht
  clear_value put
  split
  · split
    · exact hput _ _ _ h
    · split <;> exact hput _ _ _ h
  · split
    · exact hput _ _ _ h
    · extract_lets owner space
      dsimp only
      split
      · exact h
      · split
        · next e => exact hput _ _ _ (canonical_of_eq_mk (engineRead_canonical h) e)
        · next e => exact ite_canonical (canonical_of_eq_mk (engineRead_canonical h) e) (hput _ _ _ (canonical_of_eq_mk
            (engineRead_canonical h) e))

theorem execStreamFetch_canonical {pg q tid} (h : s.canonical) : OutcomeCanonical (execStreamFetch pg q tid s) := by
  unfold execStreamFetch
  extract_lets +onlyGivenNames t
  split
  · exact ite_canonical (fetchElement_canonical h) h
  · exact h

theorem asliceLane_canonical {ix t q va} (h : s.canonical) : (asliceLane s ix t q va).1.canonical := by
  unfold asliceLane
  extract_lets +onlyGivenNames s1
  have hs1 : s1.canonical := endStream_canonical h
  split
  · next e => exact canonical_of_eq_mk (readDescAcq_canonical hs1) e
  · next e =>
      have he := canonical_of_eq_mk (readDescAcq_canonical hs1) e
      split
      · exact he
      · split
        · exact he
        · split
          next e2 =>
            have he2 := canonical_of_mk_eq (nextId_canonical he) e2
            extract_lets +onlyGivenNames r l s2 s3
            have hs2 : s2.canonical := addLocks_canonical he2
            have hs3 : s3.canonical := modStream_canonical hs2
            exact modPg_canonical hs3

theorem popEntry_canonical {t q} (h : s.canonical) : (popEntry s t q).canonical := h

theorem qpopLane_canonical {ix t w q} (h : s.canonical) : (qpopLane s ix t w q).1.canonical := by
  unfold qpopLane
  split
  · exact h
  · split
    · exact h
    · split
      · exact h
      · split
        · extract_lets +onlyGivenNames s1
          have hs1 : s1.canonical := modStream_canonical h
          exact ite_fst_canonical (contain_canonical hs1) hs1
        · extract_lets +onlyGivenNames ty
          exact ite_fst_canonical h (pushResult_canonical (popEntry_canonical h))

theorem execQpop_canonical {w} (h : s.canonical) : OutcomeCanonical (execQpop w s) := by
  unfold execQpop
  split
  · exact h
  · extract_lets +onlyGivenNames q
    split
    · exact holdWord_canonical h
    · next e =>
        exact retire_canonical (settleStream_canonical (acceptFlags_canonical (actLanes_canonical h (fun _ _ ha =>
          qpopLane_canonical ha) _ e)))

theorem execQend_canonical {w} (h : s.canonical) : OutcomeCanonical (execQend w s) := by
  unfold execQend
  exact stateWord_canonical h (fun _ _ ha => ite_canonical ha (endStream_canonical ha))

end

/-! The control instructions (07 R141-R146). -/

section

variable {s : State}

theorem fileAll_canonical {ix} {next : ThreadRef → ℕ} {wait : ThreadRef → Wait} (h : s.canonical) : (fileAll s ix next wait).canonical :=
  foldl_canonical (fun _ _ ha => fileThread_canonical ha) h

theorem filingWord_canonical {c} {f : Issue → State → State} (h : s.canonical) (hf : ∀ ix a, a.canonical → (f ix a).canonical) :
    OutcomeCanonical (filingWord s c f) := by
  unfold filingWord
  split
  · exact h
  · exact retireFiled_canonical (acceptFlags_canonical (hf _ _ h))

theorem execIllz_canonical {_rest} (h : s.canonical) : OutcomeCanonical (execIllz _rest s) := by
  unfold execIllz
  split
  · exact h
  · exact groupTraps_canonical h

theorem execBraU_canonical {w} (h : s.canonical) : OutcomeCanonical (execBraU w s) := by
  unfold execBraU
  split
  · exact h
  · extract_lets +onlyGivenNames next dest
    split
    · exact arriveHeader_canonical (spendSlot_canonical (acceptFlags_canonical h))
    · exact foldl_canonical (fun _ _ ha => trapAt_canonical ha) (spendSlot_canonical h)

theorem takeTarget_canonical {ix t a} (h : s.canonical) : (takeTarget s ix t a).1.canonical := by
  unfold takeTarget
  split
  · exact trapAt_canonical h
  · exact ite_fst_canonical (trapAt_canonical h) (fileThread_canonical h)

theorem indirect_canonical {ix w ret} (h : s.canonical) : (indirect s ix w ret).canonical := by
  unfold indirect
  extract_lets +onlyGivenNames target go
  refine foldl_canonical (fun a _ ha => ?_) h
  extract_lets +onlyGivenNames t
  split
  · exact ite_canonical (traceRecord_canonical (takeTarget_canonical ha)) (takeTarget_canonical ha)
  · exact fileThread_canonical ha

theorem taskSignal_canonical {t task} (h : s.canonical) : (taskSignal s t task).canonical := by
  unfold taskSignal
  exact ite_canonical (unitDec_canonical h) h

theorem exitLane_canonical {ix t} (h : s.canonical) : (exitLane s ix t).canonical :=
  taskSignal_canonical (endThread_canonical (traceRecord_canonical h))

theorem exitLanes_canonical {ix ts} (h : s.canonical) : (exitLanes s ix ts).1.canonical := by
  induction ts generalizing s with
  | nil => exact h
  | cons x l ih =>
    unfold exitLanes
    split
    · exact h
    · exact ih (exitLane_canonical h)

theorem execExit_canonical {w} (h : s.canonical) : OutcomeCanonical (execExit w s) := by
  unfold execExit
  split
  · exact h
  · split
    · next e => exact holdWord_canonical (canonical_of_eq_mk (exitLanes_canonical h) e)
    · next e =>
        have he := canonical_of_eq_mk (exitLanes_canonical h) e
        extract_lets +onlyGivenNames filed
        have hfiled : filed.canonical := foldl_canonical (fun _ _ ha => fileThread_canonical ha) he
        exact retireFiled_canonical (acceptFlags_canonical (settleJoins_canonical hfiled))

theorem trapWord_canonical {w cause} (h : s.canonical) : OutcomeCanonical (trapWord s w cause) :=
  stateWord_canonical h (fun _ _ ha => foldl_canonical (fun _ _ hb => trapAt_canonical hb) ha)

end

/-! Barrier and join instructions (14 R299-R303). -/

section

variable {s : State}

theorem misuseAt_canonical {ix t} (h : s.canonical) : (misuseAt s ix t).canonical := trapAt_canonical h

theorem baraLane_canonical {ix b t} (h : s.canonical) : (baraLane s ix b t).1.canonical := by
  unfold baraLane
  exact ite_fst_canonical (misuseAt_canonical h) (arriveBar_canonical h)

theorem arrivalWord_canonical {ix c b} {run : State} (h : s.canonical) (hrun : run.canonical) : (arrivalWord s ix c b run).canonical := by
  unfold arrivalWord
  extract_lets +onlyGivenNames ts
  split
  · exact holdWord_canonical (foldl_canonical (fun _ _ ha => misuseAt_canonical ha) h)
  · exact hrun

theorem execBara_canonical {w} (h : s.canonical) : OutcomeCanonical (execBara w s) := by
  unfold execBara
  split
  · exact h
  · extract_lets +onlyGivenNames b s'
    have hs' : s'.canonical := foldl_canonical (fun _ _ ha => baraLane_canonical ha) h
    exact arrivalWord_canonical h (retire_canonical (acceptFlags_canonical hs'))

theorem barwLane_canonical {ix b t} (h : s.canonical) : (barwLane s ix b t).canonical := by
  unfold barwLane
  extract_lets +onlyGivenNames a
  split
  · exact misuseAt_canonical h
  · split
    · exact fileThread_canonical (modThread_canonical (acquireActions_canonical h))
    · exact fileThread_canonical h

theorem fileFalse_canonical {s0 : State} {ix c} (h : s.canonical) : (fileFalse s0 s ix c).canonical := by
  unfold fileFalse
  refine foldl_canonical (fun a _ ha => ?_) h
  exact ite_canonical ha (fileThread_canonical ha)

theorem execBaraw_canonical {w} (h : s.canonical) : OutcomeCanonical (execBaraw w s) := by
  unfold execBaraw
  split
  · exact h
  · extract_lets +onlyGivenNames b r s'
    have hr : r.1.canonical := by
      unfold r
      refine foldl_fst_canonical (fun a _ ha => ?_) h
      split <;> next e => exact canonical_of_eq_mk (baraLane_canonical ha) e
    have hs' : s'.canonical := fileFalse_canonical (foldl_canonical (fun _ _ ha => barwLane_canonical ha) hr)
    exact arrivalWord_canonical h (retireFiled_canonical (acceptFlags_canonical hs'))

theorem execTeamj_canonical {w} (h : s.canonical) : OutcomeCanonical (execTeamj w s) := by
  unfold execTeamj
  refine filingWord_canonical h (fun _ a ha => ?_)
  extract_lets +onlyGivenNames s1
  have hs1 : s1.canonical := by
    unfold s1
    refine foldl_canonical (fun a _ ha => ?_) ha
    exact ite_canonical (modThread_canonical (fileThread_canonical ha)) (fileThread_canonical ha)
  exact settleJoins_canonical (acquireActions_canonical hs1)

end

/-! The control blocks that privileged words and messages write (04, 20, 22). -/

section

variable {s : State}

theorem mcbWrite_canonical {die off bs} (h : s.canonical) : (mcbWrite s die off bs).canonical := by
  unfold mcbWrite
  extract_lets +onlyGivenNames old new s1
  have hs1 : s1.canonical := modDie_canonical h
  exact ite_canonical (foldl_canonical (fun _ _ ha => modCore_canonical ha) hs1) hs1

theorem smWrite_canonical {die off bs} (h : s.canonical) : (smWrite s die off bs).canonical := h

theorem trialWrite_canonical {off bs} (h : s.canonical) : (trialWrite s off bs).canonical := h

theorem replayWrite_canonical {off bs} (h : s.canonical) : (replayWrite s off bs).canonical := by
  unfold replayWrite
  extract_lets +onlyGivenNames old new s1
  have hs1 : s1.canonical := h
  split <;> exact hs1

end

/-! Special-register, privileged and observing instructions (18, 22). -/

section

variable {s : State}

theorem execSwr_canonical {w} (h : s.canonical) : OutcomeCanonical (execSwr w s) := by
  unfold execSwr
  exact stateWord_canonical h (fun _ _ ha => foldl_canonical (fun _ _ hb => modThread_canonical hb) ha)

theorem tretWord_canonical {w} {leave : State → ThreadRef → TqEntry → State} (h : s.canonical)
    (hleave : ∀ a t x, a.canonical → (leave a t x).canonical) : OutcomeCanonical (tretWord s w leave) := by
  unfold tretWord
  refine stateWord_canonical h (fun x a ha => foldl_canonical (fun b _ hb => ?_) ha)
  split
  · exact hleave _ _ _ (endHandler_canonical (traceRecord_canonical hb))
  · exact trapAt_canonical hb

theorem execTqrd_canonical {w} (h : s.canonical) : OutcomeCanonical (execTqrd w s) := by
  unfold execTqrd
  exact actWord_canonical h (fun _ _ _ ha => ite_fst_canonical (pushResult_canonical ha) ha)

theorem killThreads_canonical {pgs cause} (h : s.canonical) : (killThreads s pgs cause).canonical :=
  foldl_canonical (fun _ _ ha => foldl_canonical (fun _ _ hb => endThread_canonical hb) ha) h

theorem unpackImage_canonical {lid dg} (h : s.canonical) : (unpackImage s lid dg).canonical := by
  unfold unpackImage
  split <;> exact h

theorem killUnplaced_canonical {lid dg} (h : s.canonical) : (killUnplaced s lid dg).canonical := h

theorem killScope_canonical {pg sc cause} (h : s.canonical) : (killScope s pg sc cause).canonical := by
  unfold killScope
  extract_lets +onlyGivenNames g s1 pgs s2 s3
  have hs1 : s1.canonical := by
    unfold s1
    split
    · exact h
    · exact h
    · exact h
    all_goals exact unpackImage_canonical h
  have hs2 : s2.canonical := by
    unfold s2
    split
    · exact hs1
    · exact hs1
    all_goals exact foldl_canonical (fun _ _ ha => modCg_canonical (abandonEngines_canonical ha)) hs1
  have hs3 : s3.canonical := killThreads_canonical hs2
  split
  · exact checkAllBars_canonical (killUnplaced_canonical hs3)
  · exact modLaunch_canonical (killUnplaced_canonical hs3)
  · exact modLaunch_canonical (killUnplaced_canonical hs3)
  all_goals exact settleJoins_canonical hs3

theorem execKillg_canonical {w scope} (h : s.canonical) : OutcomeCanonical (execKillg w scope s) := by
  unfold execKillg
  split
  · exact h
  · split
    · exact retire_canonical h
    · exact killScope_canonical (spendSlot_canonical (acceptFlags_canonical h))

theorem execPrivw_canonical {w d} (h : s.canonical) : OutcomeCanonical (execPrivw w d s) := by
  unfold execPrivw
  refine actWord_canonical h (fun _ a _ ha => ?_)
  extract_lets +onlyGivenNames n a2
  split
  · exact ha
  · exact ite_fst_canonical ha (ite_fst_canonical ha (mcbWrite_canonical ha))

theorem thawed_canonical {core} (h : s.canonical) : (thawed s core).canonical := by
  unfold thawed
  split
  · exact h
  · extract_lets +onlyGivenNames cgs s1
    have hs1 : s1.canonical := foldl_canonical (fun _ _ ha => foldl_canonical (fun _ _ hb => closeLatch_canonical hb) ha) h
    exact acceptOps_canonical hs1

theorem freezeLane_canonical {ix t} {f : State → State} (h : s.canonical) (hf : ∀ a, a.canonical → (f a).canonical) :
    (freezeLane s ix t f).1.canonical := by
  unfold freezeLane
  exact ite_fst_canonical (hf _ h) h

theorem execProgress_canonical {w} (h : s.canonical) : OutcomeCanonical (execProgress w s) := by
  refine stateWord_canonical h fun ix a ha => ?_
  split
  · refine foldl_canonical (fun b _ hb => ?_) ha
    exact hb
  · exact ha

theorem execStopp_canonical {w} (h : s.canonical) : OutcomeCanonical (execStopp w s) := by
  unfold execStopp
  split
  · exact h
  · extract_lets +onlyGivenNames s'
    have hs' : s'.canonical := retire_canonical (acceptFlags_canonical h)
    split
    · exact hs'
    · exact ite_canonical (sendNotice_canonical (stopPart_canonical hs')) hs'

end

/-! The issue of a word (02 R33-R36, 06 R116), and words that are issued again. -/

section

variable {s : State}

theorem logReads_canonical {s0 : State} {ix i} (h : s.canonical) : (logReads s0 ix i s).canonical := by
  unfold logReads
  split
  · exact h
  · split
    · refine foldl_canonical (fun a _ ha => ?_) h
      split
      · exact appendLog_canonical ha
      · exact ha
    · exact h

theorem dropAbandoned_canonical {t pc} (h : s.canonical) : (dropAbandoned s t pc).canonical := by
  unfold dropAbandoned
  extract_lets +onlyGivenNames acc trav ids w s1
  have hs1 : s1.canonical := h
  refine foldl_canonical (fun a _ ha => ?_) hs1
  split
  · exact lowerFlags_canonical (dropPend_canonical ha)
  · exact ha

theorem abandonedEnd_canonical {t pc} (h : s.canonical) : (abandonedEnd s t pc).canonical := by
  unfold abandonedEnd
  split
  · exact redoNext_canonical (modThread_canonical (dropAbandoned_canonical h))
  · exact h

theorem abandonedTrap_canonical {t x site} (h : s.canonical) : (abandonedTrap s t x site).canonical :=
  abandonedEnd_canonical (trapCall_canonical h)

theorem recheck_canonical {t l} (h : s.canonical) : (recheck s t l).1.canonical := by
  unfold recheck
  refine foldl_fst_canonical (fun a _ ha => ?_) h
  split
  · exact ha
  · split <;> next e => exact canonical_of_eq_mk (checkAccess_canonical ha) e

theorem reissueLane_canonical {ix t} (h : s.canonical) : (reissueLane s ix t).canonical := by
  unfold reissueLane
  split
  · next e => exact abandonedTrap_canonical (canonical_of_eq_mk (recheck_canonical h) e)
  · next e =>
      have he := canonical_of_eq_mk (recheck_canonical h) e
      exact ite_canonical (modGroup_canonical he) (redoNext_canonical he)

theorem reissueWord_canonical {ix c} (h : s.canonical) : (reissueWord s ix c).canonical :=
  foldl_canonical (fun _ _ ha => reissueLane_canonical ha) (spendSlot_canonical h)

/-- For any meaning `run` of the words that keeps the predicate; `act` uses it with `exec`. -/
theorem issueGroup_canonical {run : Instr → State → Host.Outcome State Fault Refusal} {part pos} (h : s.canonical)
    (hrun : ∀ i a, a.canonical → OutcomeCanonical (run i a)) : OutcomeCanonical (issueGroup run part pos s) := by
  unfold issueGroup
  extract_lets g cur
  have hcur : cur.canonical := h
  split
  · exact h
  · split_ifs
    · exact requestEngine_canonical h
    · exact foldl_canonical (fun _ _ ha => redoNext_canonical ha) h
    · exact advance_canonical (acceptHeld_canonical h)
    · split
      · exact h
      · split
        · exact reissueWord_canonical h
        · exact h
    · split
      · exact h
      · next i _ =>
        have hr := hrun i cur hcur
        split
        · next e => rw [e] at hr; exact logReads_canonical hr
        · trivial
        · trivial

end

/-! The scheduler's events (06 R116-R126). -/

section

variable {s : State}

theorem newGroup_canonical {part pg tids} (h : s.canonical) : (newGroup s part pg tids).1.canonical :=
  foldl_canonical (fun _ _ ha => setPlace_canonical ha) h

theorem settleAge_canonical {part n} (h : s.canonical) : (settleAge s part n).canonical := by
  unfold settleAge
  exact ite_canonical (ite_canonical (modPart_canonical h) h) (modPart_canonical h)

theorem clearFail_canonical {part pg va} (h : s.canonical) : (clearFail s part pg va).canonical := h

theorem drawBin_canonical {part c} (h : s.canonical) : (drawBin s part c).canonical := by
  unfold drawBin
  extract_lets +onlyGivenNames ts served mark s1 s2
  have hmark : ∀ x0 x1 t, t.canonical → (mark x0 x1 t).canonical := fun _ _ _ ht => foldl_canonical (fun _ _ ha =>
    modThread_canonical ha) ht
  have hs1 : s1.canonical := hmark _ _ _ h
  have hs2 : s2.canonical := hmark _ _ _ hs1
  split
  next e =>
    have he := canonical_of_eq_mk (newGroup_canonical hs2) e
    extract_lets +onlyGivenNames s3
    have hs3 : s3.canonical := settleAge_canonical he
    split
    · exact groupTraps_canonical (clearFail_canonical hs3)
    · exact arriveHeader_canonical hs3

theorem enterAlone_canonical {part pos t cl} (h : s.canonical) : (enterAlone s part pos t cl).canonical := by
  unfold enterAlone
  extract_lets +onlyGivenNames w s1
  have hs1 : s1.canonical := resumeClause_canonical h
  split
  · exact hs1
  · exact ite_canonical (modGroup_canonical hs1) (abandonedEnd_canonical hs1)

theorem standAlone_canonical {part pos t} (h : s.canonical) : (standAlone s part pos t).canonical := by
  unfold standAlone
  exact ite_canonical (modGroup_canonical h) (modThread_canonical (modGroup_canonical h))

theorem drawSpecial_canonical {part c} (h : s.canonical) : (drawSpecial s part c).canonical := by
  unfold drawSpecial
  split
  split
  next e =>
    have he := canonical_of_eq_mk (newGroup_canonical h) e
    extract_lets +onlyGivenNames t
    split
    · extract_lets +onlyGivenNames s1 x
      have hs1 : s1.canonical := clearFail_canonical he
      split
      · exact foldl_canonical (fun _ _ ha => trapCall_canonical ha) hs1
      · exact ite_canonical (abandonedTrap_canonical hs1) (trapCall_canonical hs1)
    · split
      · extract_lets +onlyGivenNames s1
        have hs1 : s1.canonical := standAlone_canonical he
        split
        · exact enterAlone_canonical hs1
        · exact hs1
      · exact arriveHeader_canonical he

theorem execOverflowMove_canonical {part} (h : s.canonical) : OutcomeCanonical (execOverflowMove part s) := by
  unfold execOverflowMove
  split
  · extract_lets +onlyGivenNames s1
    have hs1 : s1.canonical := modPart_canonical h
    split
    · exact hs1
    · extract_lets +onlyGivenNames pc
      split
      · exact settleAge_canonical (modPg_canonical (modPart_canonical (modPart_canonical h)))
      · exact hs1
  · exact h

theorem execAgedGroupFiling_canonical {part pos} (h : s.canonical) : OutcomeCanonical (execAgedGroupFiling part pos s) := by
  unfold execAgedGroupFiling
  split
  · exact h
  · split
    · exact foldl_canonical (fun _ _ ha => fileThread_canonical ha) h
    · exact h

theorem execYieldExpiry_canonical {pg tid} (h : s.canonical) : OutcomeCanonical (execYieldExpiry pg tid s) := by
  unfold execYieldExpiry
  exact ite_canonical (modThread_canonical h) h

theorem enterWaiting_canonical {part pg va} (h : s.canonical) : (enterWaiting s part pg va).canonical := by
  unfold enterWaiting
  refine foldl_canonical (fun a _ ha => ?_) h
  split
  · exact arriveHeader_canonical ha
  · split
    · split
      · exact enterAlone_canonical ha
      · exact resumeClause_canonical ha
    · exact ha

theorem waitingTraps_canonical {e x} (h : s.canonical) : (waitingTraps s e x).canonical := by
  unfold waitingTraps
  split
  · exact groupTraps_canonical h
  · split
    · exact abandonedTrap_canonical h
    · exact foldl_canonical (fun _ _ ha => trapCall_canonical ha) h

theorem execClauseFetchComplete_canonical {part pg va} (h : s.canonical) : OutcomeCanonical (execClauseFetchComplete part pg va s) := by
  unfold execClauseFetchComplete
  split
  · extract_lets +onlyGivenNames l done
    have hdone : ∀ t, t.canonical → (done t).canonical := fun _ ht => modPart_canonical ht
    split
    · next e => exact enterWaiting_canonical (hdone _ (canonical_of_eq_mk (fetchClause_canonical h) e))
    · next e =>
        have he := canonical_of_eq_mk (fetchClause_canonical h) e
        split
        · exact he
        · extract_lets +onlyGivenNames s1 s2 more
          have hs1 : s1.canonical := hdone _ he
          have hs2 : s2.canonical := foldl_canonical (fun _ _ ha => waitingTraps_canonical ha) hs1
          exact ite_canonical (modPart_canonical hs2) hs2
  · exact h

theorem execFixedResultWrite_canonical {id} (h : s.canonical) : OutcomeCanonical (execFixedResultWrite id s) := by
  unfold execFixedResultWrite
  split
  · exact h
  · split
    · exact writeResult_canonical h
    · exact h

theorem execVariableResultComplete_canonical {id} (h : s.canonical) : OutcomeCanonical (execVariableResultComplete id s) := by
  unfold execVariableResultComplete
  split
  · exact h
  · split
    · split
      · exact trapCall_canonical (lowerFlags_canonical (dropPend_canonical h))
      · exact writeResult_canonical h
    · exact h

end

/-! The debug interface (22 R379-R386). -/

section

variable {s : State}

theorem modClaim_canonical {lid} {f : Claim → Claim} (h : s.canonical) : (modClaim s lid f).canonical := h

theorem claimWord_canonical {needMgmt ok} {k : State → ℕ → Claim → State} (h : s.canonical)
    (hk : ∀ a n c, a.canonical → (k a n c).canonical) : OutcomeCanonical (claimWord s needMgmt ok k) := by
  unfold claimWord
  refine gate_canonical h (fun a ha => ?_)
  split
  · exact respond_canonical ha
  · exact hk _ _ _ ha

theorem execDebugClaim_canonical (h : s.canonical) : OutcomeCanonical (execDebugClaim s) := by
  unfold execDebugClaim
  refine gate_canonical h (fun a ha => ?_)
  split
  · exact respond_canonical ha
  · split
    · exact respond_canonical ha
    · split <;> exact respond_canonical ha

theorem caughtFate_canonical {fate x} (h : s.canonical) : (caughtFate s fate x).canonical := by
  unfold caughtFate
  extract_lets +onlyGivenNames t e
  split
  · exact h
  · split
    · exact resumeAt_canonical h
    · split
      · exact modPg_canonical (modThread_canonical h)
      · exact settleJoins_canonical (contain_canonical h)

theorem endCaught_canonical {part fate} {f : ThreadRef → Bool} (h : s.canonical) : (endCaught s part fate f).canonical :=
  foldl_canonical (fun _ _ ha => caughtFate_canonical ha) h

theorem resumePart_canonical {part fate} (h : s.canonical) : (resumePart s part fate).canonical := by
  unfold resumePart
  exact ite_canonical (endCaught_canonical (modPart_canonical h)) h

theorem freePart_canonical {lid part} (h : s.canonical) : (freePart s lid part).canonical := by
  unfold freePart
  extract_lets +onlyGivenNames p
  split
  · exact h
  · exact ite_canonical (resumePart_canonical h) (endCaught_canonical (modPart_canonical h))

theorem endClaim_canonical {lid} (h : s.canonical) : (endClaim s lid).canonical := by
  unfold endClaim
  exact foldl_canonical (fun _ _ ha => freePart_canonical ha) h

theorem execStopPartition_canonical (h : s.canonical) : OutcomeCanonical (execStopPartition s) := by
  unfold execStopPartition
  refine claimWord_canonical h (fun a _ _ ha => ?_)
  split
  · exact respond_canonical ha
  · exact respond_canonical (sendNotice_canonical (stopPart_canonical ha))

theorem execResume_canonical (h : s.canonical) : OutcomeCanonical (execResume s) := by
  unfold execResume
  refine claimWord_canonical h (fun a _ _ ha => ?_)
  split
  · exact respond_canonical ha
  · exact respond_canonical (resumePart_canonical ha)

theorem pinBuffer_canonical {space va n} (h : s.canonical) : (pinBuffer s space va n).1.canonical := by
  unfold pinBuffer
  refine foldl_fst_canonical (fun a _ ha => ?_) h
  split
  · exact ha
  · split <;> next e => exact canonical_of_eq_mk (unitTranslate_canonical ha) e

theorem execArmTrace_canonical (h : s.canonical) : OutcomeCanonical (execArmTrace s) := by
  unfold execArmTrace
  extract_lets +onlyGivenNames va w ls
  refine claimWord_canonical h (fun a _ _ ha => ?_)
  split
  · next e => exact respond_canonical (canonical_of_eq_mk (pinBuffer_canonical ha) e)
  · next e => exact respond_canonical (modClaim_canonical (canonical_of_eq_mk (pinBuffer_canonical ha) e))

theorem execReadDump_canonical (h : s.canonical) : OutcomeCanonical (execReadDump s) := by
  unfold execReadDump
  extract_lets +onlyGivenNames n
  refine claimWord_canonical h (fun a _ _ ha => ?_)
  split <;> exact respond_canonical ha

end

/-! The splat projection engine and the Sieve (12 R262-R268). -/

section

variable {s : State}

theorem tagOpWord_canonical {w k n} {bad : List Byte → ℕ → Option (BitVec 8 × ℕ)} {locks : State → Issue → EngOp → List RLock}
    (h : s.canonical) : OutcomeCanonical (tagOpWord s w k n bad locks) := by
  unfold tagOpWord
  refine engineWord_canonical h (fun _ a _ ha => ?_)
  extract_lets +onlyGivenNames tag va
  split
  · next e => exact canonical_of_eq_mk (readDescAcq_canonical ha) e
  · next e =>
      have he := canonical_of_eq_mk (readDescAcq_canonical ha) e
      split
      · exact tagFail_canonical he
      · split
        next e2 => exact offerEngOp_canonical (canonical_of_mk_eq (newOp_canonical he) e2)

theorem projectFrom_canonical {fuel o cam i} (h : s.canonical) : (projectFrom fuel s o cam i).1.canonical := by
  induction fuel generalizing s i with
  | zero => exact h
  | succ k ih =>
    unfold projectFrom
    extract_lets +onlyGivenNames idx
    split
    · next e => exact canonical_of_eq_mk (opRead_canonical h) e
    · next e =>
        have he := canonical_of_eq_mk (opRead_canonical h) e
        split
        · next e2 => exact canonical_of_eq_mk (opWrite_canonical he) e2
        · next e2 => exact ih (canonical_of_eq_mk (opWrite_canonical he) e2)

theorem projectSome_canonical {o k} (h : s.canonical) : (projectSome s o k).1.canonical := by
  unfold projectSome
  split
  · next e => exact canonical_of_eq_mk (opRead_canonical h) e
  · next e =>
      have he := canonical_of_eq_mk (opRead_canonical h) e
      exact ite_fst_canonical he (projectFrom_canonical he)

theorem projectRun_canonical {o} (h : s.canonical) : (projectRun s o).1.canonical := projectSome_canonical h

theorem sieveRead_canonical {fuel o i acc} (h : s.canonical) : (sieveRead fuel s o i acc).1.canonical := by
  induction fuel generalizing s i acc with
  | zero => exact h
  | succ k ih =>
    unfold sieveRead
    split
    · next e => exact canonical_of_eq_mk (opRead_canonical h) e
    · next e => exact ih (canonical_of_eq_mk (opRead_canonical h) e)

theorem opWrites_canonical {o l} (h : s.canonical) : (opWrites s o l).1.canonical := by
  unfold opWrites
  refine foldl_fst_canonical (fun a _ ha => ?_) h
  split
  · exact ha
  · exact opWrite_canonical ha

theorem sortRun_canonical {o} (h : s.canonical) : (sortRun s o).1.canonical := by
  unfold sortRun
  extract_lets +onlyGivenNames d
  split
  · next e => exact canonical_of_eq_mk (sieveRead_canonical h) e
  · next e =>
      have he := canonical_of_eq_mk (sieveRead_canonical h) e
      extract_lets +onlyGivenNames area total
      split
      · next e2 => exact canonical_of_eq_mk (opWrite_canonical he) e2
      · next e2 =>
          have he2 := canonical_of_eq_mk (opWrite_canonical he) e2
          split
          · exact he2
          · extract_lets +onlyGivenNames tiles pairs table
            exact opWrites_canonical he2

end

/-! The Ladle and the adjoint step (12 R269-R278). -/

section

variable {s : State}

theorem sfetchLane_canonical {ix w kn} {s0 : State} {t} (h : s.canonical) : (sfetchLane s ix w kn s0 t).1.canonical := by
  unfold sfetchLane
  extract_lets +onlyGivenNames va
  split
  · next e => exact canonical_of_eq_mk (readDesc_canonical h) e
  · next e =>
      have he := canonical_of_eq_mk (readDesc_canonical h) e
      extract_lets +onlyGivenNames base
      split
      · next e2 => exact canonical_of_eq_mk (readDesc_canonical he) e2
      · next e2 => exact pushResult_canonical (canonical_of_eq_mk (readDesc_canonical he) e2)

theorem putSlot_canonical {core k x} (h : s.canonical) : (putSlot s core k x).canonical := h

theorem commitTerm_canonical {o k t} (h : s.canonical) : ∀ u, commitTerm s o k t = some u → u.canonical := by
  intro u hu
  unfold commitTerm at hu
  split at hu
  · cases hu; exact h
  · extract_lets n r w at hu
    have hw : w.1.canonical := ite_fst_canonical (opWrite_canonical h) h
    clear_value w
    obtain ⟨a, e⟩ := w
    dsimp only at hu
    split at hu
    · cases hu
    · cases hu
      exact ite_canonical (putSlot_canonical (modCore_canonical hw)) (modCore_canonical hw)

theorem commitBuffered_canonical {o k t} (h : s.canonical) : ∀ u, commitBuffered s o k t = some u → u.canonical := by
  intro u hu
  unfold commitBuffered at hu
  split at hu
  · cases hu; exact h
  · exact commitTerm_canonical (putSlot_canonical h) u hu

theorem ofCommit_canonical {r} (h : ∀ u, r = some u → u.canonical) : LadleEndCanonical (LadleEnd.ofCommit r) := by
  cases r with
  | none => trivial
  | some t => exact h t rfl

theorem bufferTerm_canonical {fuel o k t} (h : s.canonical) : LadleEndCanonical (bufferTerm fuel s o k t) := by
  induction fuel generalizing s with
  | zero => exact h
  | succ n ih =>
    unfold bufferTerm
    split
    · exact h
    · dsimp only
      split_ifs
      · exact putSlot_canonical h
      · trivial
      all_goals split
      any_goals exact h
      all_goals split
      any_goals exact ofCommit_canonical (commitTerm_canonical h)
      all_goals split
      any_goals trivial
      all_goals
        next hs =>
        have := commitBuffered_canonical h _ hs
        split_ifs
        · exact this
        · exact ih this

theorem depositTerm_canonical {o k x t} (h : s.canonical) : LadleEndCanonical (depositTerm s o k x t) := by
  unfold depositTerm
  extract_lets a t
  split
  · exact h
  · split
    · exact h
    · split
      · split
        · exact ofCommit_canonical (commitTerm_canonical h)
        · exact bufferTerm_canonical h
      · exact bufferTerm_canonical h

theorem raiseMark_canonical {o k x key} (h : s.canonical) : LadleEndCanonical (raiseMark s o k x key) := by
  unfold raiseMark
  refine ofCommit_canonical (List.foldlRecOn (motive := fun r : Option State => ∀ u, r = some u → u.canonical) _ _ ?_ fun r hr t _ => ?_)
  · rintro _ ⟨⟩
    exact putSlot_canonical h
  · cases r with
    | none => exact hr
    | some a =>
      have ha : a.canonical := hr a rfl
      intro u hu
      dsimp only at hu
      split at hu
      · split at hu
        · exact commitBuffered_canonical ha u hu
        · cases hu; exact ha
      · cases hu; exact ha

theorem listEntry_canonical {o x p j} (h : s.canonical) : LadleEndCanonical (listEntry s o x p j) := by
  unfold listEntry
  extract_lets n
  split
  · exact h
  · have hr := opRead_canonical (o := o) (type := 6) (va := x.list + 4096 * p + 16 * (n - 1 - j)) (n := 16) h
    split
    · next e => rw [e] at hr; exact hr
    · next e =>
      rw [e] at hr
      split
      · trivial
      · exact hr

theorem releaseSlot_canonical {core k} (h : s.canonical) : (releaseSlot s core k).canonical := by
  unfold releaseSlot
  split
  · exact h
  · extract_lets +onlyGivenNames slot s1
    have hs1 : s1.canonical := dropLocksWhere_canonical (modCore_canonical h)
    exact acceptOps_canonical (acceptCopies_canonical (dropPins_canonical hs1))

theorem releaseFirst_canonical {core k kind} (h : s.canonical) : (releaseFirst s core k kind).canonical := by
  unfold releaseFirst
  split
  · exact releaseSlot_canonical h
  all_goals exact h

theorem claimSlot_canonical {core k o d owner} (h : s.canonical) : LadleEndCanonical (claimSlot s core k o d owner) := by
  unfold claimSlot
  dsimp only
  split_ifs
  · trivial
  · exact modCore_canonical (addLocks_canonical (releaseSlot_canonical h))

theorem applyLadle_canonical {core o} (h : s.canonical) : LadleEndCanonical (applyLadle s core o) := by
  unfold applyLadle
  extract_lets +onlyGivenNames e
  split
  · exact claimSlot_canonical h
  · exact releaseSlot_canonical h
  all_goals
    split
    · exact h
    · split
      · exact depositTerm_canonical h
      · exact raiseMark_canonical h
      · exact h
      · exact listEntry_canonical h
      · exact h
      · exact h

theorem acceptLadle_canonical {core now} (h : s.canonical) : (acceptLadle s core now).canonical := by
  unfold acceptLadle
  refine foldl_fst_canonical (fun r o hr => ?_) h
  split
  · exact hr
  · extract_lets put
    have hl := applyLadle_canonical (core := core) (o := o) hr
    split
    · next e =>
      rw [e] at hl
      exact readyPend_canonical (modCore_canonical (ladleEndCanonical_done.1 hl))
    · exact releaseFirst_canonical hr
    · exact hr

theorem sendLadle_canonical {ix c t q} (h : s.canonical) : (sendLadle s ix c t q).1.canonical := by
  unfold sendLadle
  extract_lets out
  split
  · exact modCore_canonical (pushResult_canonical h)
  · have hl := applyLadle_canonical (core := ix.core) (o := ladleOp s ix t q none) h
    split
    · next a vals e =>
      rw [e] at hl
      have hb := modCore_canonical (k := ix.core) (f := fun x => { x with ladleAt := (a.clk + 1, ix.part) }) (ladleEndCanonical_done.1 hl)
      exact ite_canonical hb (pushResult_canonical hb)
    all_goals exact h

theorem ladleLanes_canonical {ts ix c} {f : State → ThreadRef → State × Except Trap (Option LadleReq)} {did} (h : s.canonical)
    (hf : ∀ a t, a.canonical → (f a t).1.canonical) : (ladleLanes ts s ix c f did).1.canonical := by
  induction ts generalizing s did with
  | nil => exact h
  | cons x l ih =>
    unfold ladleLanes
    split
    · next e =>
        have he := canonical_of_eq_mk (hf _ _ h) e
        split
        · exact h
        · exact ih (trapAt_canonical he)
    · next e => exact ih (canonical_of_eq_mk (hf _ _ h) e)
    · next e =>
        have he := canonical_of_eq_mk (hf _ _ h) e
        split
        · exact ite_canonical (releaseFirst_canonical h) h
        · next e2 => exact ih (canonical_of_eq_mk (sendLadle_canonical he) e2)

theorem ladleWord_canonical {c stall} {f : Issue → State → ThreadRef → State × Except Trap (Option LadleReq)} (h : s.canonical)
    (hf : ∀ ix a t, a.canonical → (f ix a t).1.canonical) : OutcomeCanonical (ladleWord s c stall f) := by
  unfold ladleWord
  split
  · exact h
  · extract_lets +onlyGivenNames did ts
    split
    · next e =>
        have he := canonical_of_eq_mk (ladleLanes_canonical h (fun _ _ ha => hf _ _ _ ha)) e
        exact holdWord_canonical (modGroup_canonical he)
    · next e =>
        have he := canonical_of_eq_mk (ladleLanes_canonical h (fun _ _ ha => hf _ _ _ ha)) e
        extract_lets +onlyGivenNames s' holds
        have hs' : s'.canonical := spendSlot_canonical (acceptFlags_canonical he)
        exact ite_canonical (advance_canonical hs') (modGroup_canonical hs')

theorem atSlot_canonical {ix v} {q : ℕ → Except Trap LadleReq} (h : s.canonical) : (atSlot s ix v q).1.canonical := by
  unfold atSlot
  split
  · exact h
  · split <;> exact h

theorem checkTileDesc_canonical {ix owner d va} (h : s.canonical) : (checkTileDesc s ix owner d va).1.canonical := by
  unfold checkTileDesc
  extract_lets +onlyGivenNames w8 st list
  split
  · exact h
  · split
    · exact h
    · split
      · exact h
      · split
        · next e => exact canonical_of_eq_mk (ite_fst_canonical h (engineCheck_canonical h)) e
        · next e =>
            have he := canonical_of_eq_mk (ite_fst_canonical h (engineCheck_canonical h)) e
            exact ite_fst_canonical he he

theorem crstLane_canonical {ix t v va} (h : s.canonical) : (crstLane s ix t v va).1.canonical := by
  unfold crstLane
  extract_lets +onlyGivenNames others
  split
  · exact h
  · split
    · next e => exact canonical_of_eq_mk (readDesc_canonical h) e
    · next e =>
        have he := canonical_of_eq_mk (readDesc_canonical h) e
        split
        next e2 =>
          have he2 := canonical_of_mk_eq (nextId_canonical he) e2
          split
          · next e3 =>
              have he3 := canonical_of_eq_mk (checkTileDesc_canonical he2) e3
              extract_lets +onlyGivenNames s1
              have hs1 : s1.canonical := dropPins_canonical he3
              exact ite_fst_canonical (contain_canonical hs1) hs1
          · next e3 => exact canonical_of_eq_mk (checkTileDesc_canonical he2) e3

theorem crstRelLane_canonical {ix v} (h : s.canonical) : (crstRelLane s ix v).1.canonical := by
  unfold crstRelLane
  split
  · exact ite_fst_canonical h h
  · exact h

end

/-! The passing of a clk and of a slot (06 R131-R135). -/

section

variable {s : State}

theorem advancePart_canonical {part} (h : s.canonical) : (advancePart s part).canonical := by
  unfold advancePart
  extract_lets +onlyGivenNames ov held s' w s1
  have hs' : s'.canonical := modPart_canonical h
  have hs1 : s1.canonical := hs'
  split <;> exact hs1

theorem advanceGroups_canonical (h : s.canonical) : (advanceGroups s).canonical := h

theorem advanceSampling_canonical (h : s.canonical) : (advanceSampling s).canonical := h

theorem advanceTrial_canonical (h : s.canonical) : (advanceTrial s).canonical := by
  unfold advanceTrial
  split <;> exact h

theorem refillDie_canonical {die} (h : s.canonical) : (refillDie s die).canonical := by
  unfold refillDie
  split
  · exact h
  · exact foldl_canonical (fun _ _ ha => ite_canonical (refillReserve_canonical ha) ha) h

theorem endClk_canonical {die} (h : s.canonical) : (endClk s die).canonical := refillDie_canonical (applyDisp_canonical h)

theorem retryLadle_canonical {cg} (h : s.canonical) : (retryLadle s cg).canonical := by
  unfold retryLadle
  exact ite_canonical (acceptLadle_canonical h) h

theorem tick_canonical (h : s.canonical) : (tick s).canonical := by
  unfold tick
  extract_lets +onlyGivenNames s1 s2 s3 s4
  have hs1 : s1.canonical := foldl_canonical (fun _ _ ha => endClk_canonical ha) h
  have hs2 : s2.canonical := foldl_canonical (fun _ _ ha => retryLadle_canonical ha) hs1
  have hs3 : s3.canonical := foldl_canonical (fun _ _ ha => ite_canonical ha (advancePart_canonical ha)) hs2
  have hs4 : s4.canonical := advanceTrial_canonical (advanceSampling_canonical (advanceGroups_canonical hs3))
  exact hs4

theorem askFetches_canonical {part slot} (h : s.canonical) : (askFetches s part slot).canonical := h

theorem beginTask_canonical {t words} (h : s.canonical) : (beginTask s t words).canonical :=
  fileThread_canonical (acquireActions_canonical h)

theorem execDsmEventDelivery_canonical {cg id} (h : s.canonical) : OutcomeCanonical (execDsmEventDelivery cg id s) := by
  unfold execDsmEventDelivery
  extract_lets +onlyGivenNames g
  split
  · exact h
  · extract_lets +onlyGivenNames s1
    have hs1 : s1.canonical := modCg_canonical h
    split
    · exact ite_canonical (modCg_canonical h) (beginTask_canonical (modCg_canonical h))
    · exact releaseWaiters_canonical (modCg_canonical h)

theorem commitPhase_canonical {fuel lid} (h : s.canonical) : (commitPhase fuel s lid).canonical := by
  induction fuel generalizing s with
  | zero => exact h
  | succ k ih =>
    unfold commitPhase
    split
    · exact h
    · split
      · exact h
      · split
        · next e => exact ih (canonical_of_eq_mk (performAcc_canonical h) e)
        · next e => exact canonical_of_eq_mk (performAcc_canonical h) e

theorem execBinDraw_canonical {part} (h : s.canonical) : OutcomeCanonical (execBinDraw part s) := by
  unfold execBinDraw
  split
  · split
    · exact drawSpecial_canonical h
    · exact drawBin_canonical h
    · exact h
  · exact h

theorem execDsmPhaseBoundary_canonical {cg} (h : s.canonical) : OutcomeCanonical (execDsmPhaseBoundary cg s) := by
  unfold execDsmPhaseBoundary
  extract_lets +onlyGivenNames g p ahead
  split
  · exact modCg_canonical h
  · exact h

theorem execDsmSlotAdvance_canonical {cg} (h : s.canonical) : OutcomeCanonical (execDsmSlotAdvance cg s) := by
  unfold execDsmSlotAdvance
  extract_lets +onlyGivenNames g
  split
  · exact h
  · extract_lets +onlyGivenNames parts s1 s2 s3
    have hs1 : s1.canonical := foldl_canonical (fun _ _ ha => askFetches_canonical ha) h
    have hs2 : s2.canonical := foldl_canonical (fun _ _ ha => ite_canonical (advancePart_canonical ha) ha) hs1
    have hs3 : s3.canonical := modCg_canonical hs2
    exact acceptLadle_canonical (slotEngine_canonical hs3)

theorem execBarrierRelease_canonical {lid bar} (h : s.canonical) : OutcomeCanonical (execBarrierRelease lid bar s) := by
  unfold execBarrierRelease
  extract_lets +onlyGivenNames pg b
  split
  · exact h
  · split
    · exact h
    · exact releaseWaiters_canonical (modBar_canonical h)

theorem execTimerExpiry_canonical {pg tid} (h : s.canonical) : OutcomeCanonical (execTimerExpiry pg tid s) := by
  unfold execTimerExpiry
  exact ite_canonical (modThread_canonical h) h

end

/-! Placing work on cores, fresh and from an image (06 R111-R114, 18 R334). -/

section

variable {s : State}

theorem freeBytes_canonical {n} (h : s.canonical) : (freeBytes s n).1.canonical := h

theorem applyCarve_canonical {core carve} (h : s.canonical) : (applyCarve s core carve).canonical := by
  unfold applyCarve
  split
  · exact h
  · split
    next e => exact modCore_canonical (canonical_of_eq_mk (freeBytes_canonical h) e)

theorem startThreads_canonical {pg lr} (h : s.canonical) : (startThreads s pg lr).canonical := by
  unfold startThreads
  split
  · exact h
  · exact foldl_canonical (fun _ _ ha => fileThread_canonical (modThread_canonical ha)) h

theorem clearCode_canonical {core} (h : s.canonical) : (clearCode s core).canonical := by
  unfold clearCode
  exact foldl_canonical (fun _ _ ha => modPart_canonical ha) h

theorem startSampling_canonical {key} (h : s.canonical) : (startSampling s key).canonical := h

theorem placeFresh_canonical {lid dgid cgid core places} (h : s.canonical) : (placeFresh s lid dgid cgid core places).canonical := by
  unfold placeFresh
  extract_lets +onlyGivenNames lr key slot s1 s2 s3 src g w s4
  have hs1 : s1.canonical := applyCarve_canonical h
  have hs2 : s2.canonical := modCore_canonical (acquireActions_canonical hs1)
  have hs3 : s3.canonical := ite_canonical (startSampling_canonical (clearCode_canonical hs2)) hs2
  have hs4 : s4.canonical := hs3
  refine foldl_canonical (fun a _ ha => ?_) hs4
  exact startThreads_canonical ha

theorem refetchGroup_canonical {part pos} (h : s.canonical) : (refetchGroup s part pos).canonical := by
  unfold refetchGroup
  extract_lets +onlyGivenNames g
  split
  · exact h
  · extract_lets +onlyGivenNames s1 lid
    have hs1 : s1.canonical := modGroup_canonical h
    split
    · exact hs1
    · split
      · next e => exact canonical_of_eq_mk (fetchClause_canonical hs1) e
      · next e =>
          have he := canonical_of_eq_mk (fetchClause_canonical hs1) e
          split
          · exact resumeClause_canonical he
          · exact he

theorem restorePg_canonical {img pk core p base} (h : s.canonical) : (restorePg s img pk core p base).1.canonical := by
  unfold restorePg
  split
  · exact h
  · extract_lets +onlyGivenNames part saved pos bins g snap w s1 x s2 s3 s4
    have hs1 : s1.canonical := h
    have hs2 : s2.canonical := modPart_canonical hs1
    have hs3 : s3.canonical := foldl_canonical (fun _ _ ha => refetchGroup_canonical ha) hs2
    have hs4 : s4.canonical := ite_canonical (sendNotice_canonical hs3) (endCaught_canonical hs3)
    exact hs4

theorem restoreLast_canonical {core key b} (h : s.canonical) : (restoreLast s core key b).canonical := h

theorem restoreCg_canonical {img key core places} (h : s.canonical) : (restoreCg s img key core places).canonical := by
  unfold restoreCg
  split
  · exact h
  · extract_lets +onlyGivenNames lr slot s1 s2 s3 r
    have hs1 : s1.canonical := applyCarve_canonical h
    have hs2 : s2.canonical := ite_canonical (clearCode_canonical hs1) hs1
    have hs3 : s3.canonical := modCore_canonical (acquireActions_canonical hs2)
    have hr : r.1.canonical := by
      unfold r
      refine foldl_fst_canonical (fun a _ ha => ?_) hs3
      extract_lets +onlyGivenNames r2
      have hr2 : r2.1.canonical := restorePg_canonical ha
      exact hr2
    extract_lets +onlyGivenNames s4 at' op parts g saved kept w s5 s6 claim s7 s8 mine
    have hs4 : s4.canonical := hr
    have hs5 : s5.canonical := hs4
    have hs6 : s6.canonical := modCore_canonical hs5
    have hs7 : s7.canonical := modEng_canonical hs6
    have hs8 : s8.canonical := by
      unfold s8
      split
      · exact ite_canonical hs7 (restoreLast_canonical hs7)
      · exact hs7
    exact hs8

theorem takeFromImage_canonical {lid key} (h : s.canonical) : (takeFromImage s lid key).canonical := h

theorem restoreEnded_canonical {img key g} (h : s.canonical) : (restoreEnded s img key g).canonical := h

theorem execCoreGroupPlacement_canonical {lid dgid} (h : s.canonical) : OutcomeCanonical (execCoreGroupPlacement lid dgid s) := by
  unfold execCoreGroupPlacement
  split
  · exact h
  · extract_lets +onlyGivenNames key img s'
    have hs' : s'.canonical := by
      unfold s'
      clear_value img
      split
      · exact takeFromImage_canonical (restoreEnded_canonical h)
      · exact takeFromImage_canonical (restoreCg_canonical h)
      · exact placeFresh_canonical h
      · exact h
    exact modLaunch_canonical hs'

end

/-! The mutation relaunch engine (20 R352-R356, 21). -/

section

variable {s : State}

theorem readRecord_canonical {space base lr g} (h : s.canonical) : (readRecord s space base lr g).1.canonical := by
  unfold readRecord
  extract_lets +onlyGivenNames a
  split
  · next e => exact canonical_of_eq_mk (unitRead_canonical h) e
  · next e =>
      have he := canonical_of_eq_mk (unitRead_canonical h) e
      split <;> next e2 => exact canonical_of_eq_mk (unitRead_canonical he) e2

theorem jobWrite_canonical {j a bs} (h : s.canonical) : (jobWrite s j a bs).1.canonical := by
  unfold jobWrite
  split
  · next e => exact canonical_of_eq_mk (unitWrite_canonical h) e
  · next e =>
      have he := canonical_of_eq_mk (unitWrite_canonical h) e
      exact ite_canonical (deferWatch_canonical he) he

theorem buildOne_canonical {j g} (h : s.canonical) : (buildOne s j g).1.canonical := by
  unfold buildOne
  extract_lets +onlyGivenNames lr
  split
  · next e => exact canonical_of_eq_mk (readRecord_canonical h) e
  · next e =>
      have he := canonical_of_eq_mk (readRecord_canonical h) e
      extract_lets +onlyGivenNames useY
      split
      · next e2 => exact canonical_of_eq_mk (ite_fst_canonical (readRecord_canonical he) he) e2
      · next e2 =>
          have he2 := canonical_of_eq_mk (ite_fst_canonical (readRecord_canonical he) he) e2
          extract_lets +onlyGivenNames es
          split
          next e3 => exact canonical_of_eq_mk (jobWrite_canonical he2) e3

theorem buildAll_canonical {n j g} (h : s.canonical) : (buildAll n s j g).1.canonical := by
  induction n generalizing s g with
  | zero => exact h
  | succ k ih =>
    unfold buildAll
    split
    · next e => exact ih (canonical_of_eq_mk (buildOne_canonical h) e)
    · exact buildOne_canonical h

theorem queueSaved_canonical {lid th op} (h : s.canonical) : (queueSaved s lid th op).canonical := by
  unfold queueSaved
  split <;> exact h

theorem parentDec_canonical {th serial c} (h : s.canonical) : (parentDec s th serial c).canonical := by
  unfold parentDec
  extract_lets +onlyGivenNames lid l
  split
  · exact h
  · split
    · exact arriveDisp_canonical h
    · exact ite_canonical (queueTask_canonical h) (queueSaved_canonical h)

theorem finishJob_canonical {num code refuse acc rej} (h : s.canonical) : (finishJob s num code refuse acc rej).1.canonical := by
  unfold finishJob
  split
  · exact h
  · split
    · next e => exact canonical_of_eq_mk (jobWrite_canonical h) e
    · next e =>
        have he := canonical_of_eq_mk (jobWrite_canonical h) e
        extract_lets +onlyGivenNames w s1 lr
        have hs1 : s1.canonical := he
        exact ite_canonical (parentDec_canonical hs1) hs1

theorem execWhiskBuild_canonical {num} (h : s.canonical) : OutcomeCanonical (execWhiskBuild num s) := by
  unfold execWhiskBuild
  split
  · exact h
  · split
    · exact h
    · split
      · exact h
      · next e =>
          have he := canonical_of_eq_mk (buildAll_canonical h) e
          split
          · next e2 => exact canonical_of_eq_mk (finishJob_canonical he) e2
          · exact h
      · next e =>
          have he := canonical_of_eq_mk (buildAll_canonical h) e
          exact he

theorem judgeOne_canonical {j g} (h : s.canonical) : (judgeOne s j g).1.canonical := by
  unfold judgeOne
  extract_lets +onlyGivenNames lr
  split
  · exact h
  · exact h
  · next e _ =>
      have he := canonical_of_eq_mk (unitRead_canonical h) e
      extract_lets +onlyGivenNames v
      split
      · next e2 => exact canonical_of_eq_mk (jobWrite_canonical h) e2
      · next e2 =>
          have he2 := canonical_of_eq_mk (jobWrite_canonical h) e2
          split
          · split
            · next e3 => exact canonical_of_eq_mk (readRecord_canonical he2) e3
            · next e3 =>
                have he3 := canonical_of_eq_mk (readRecord_canonical he2) e3
                split
                next e4 => exact canonical_of_eq_mk (jobWrite_canonical he3) e4
          · exact he2

theorem judgeAll_canonical {n j g acc rej} (h : s.canonical) : (judgeAll n s j g acc rej).1.canonical := by
  induction n generalizing s g acc rej with
  | zero => exact h
  | succ k ih =>
    unfold judgeAll
    split
    · next e => exact ih (canonical_of_eq_mk (judgeOne_canonical h) e)
    · next e => exact canonical_of_eq_mk (judgeOne_canonical h) e

theorem execWhiskJudge_canonical {num} (h : s.canonical) : OutcomeCanonical (execWhiskJudge num s) := by
  unfold execWhiskJudge
  split
  · exact h
  · split
    · exact h
    · extract_lets +onlyGivenNames finish
      have hfinish : ∀ t x1 x2 x3, t.canonical → (finish t x1 x2 x3).canonical := by
        intro t x1 x2 x3 ht
        unfold finish
        split
        · next e => exact canonical_of_eq_mk (finishJob_canonical ht) e
        · exact h
      split
      · exact hfinish _ _ _ _ h
      · split
        · exact h
        · next e => exact hfinish _ _ _ _ (canonical_of_eq_mk (judgeAll_canonical h) e)
        · next e => exact hfinish _ _ _ _ (canonical_of_eq_mk (judgeAll_canonical h) e)

end

/-! Launches from acceptance to end (05 R88-R103). -/

section

variable {s : State}

theorem clearCounters_canonical {lid} (h : s.canonical) : (clearCounters s lid).canonical := by
  unfold clearCounters
  exact foldl_canonical (fun _ _ ha => foldl_canonical (fun _ _ hb => modDie_canonical hb) ha) h

theorem placeDsm_canonical {lid} {place : State → ℕ → ℕ → ℕ → State} (h : s.canonical)
    (hplace : ∀ a n n' n'', a.canonical → (place a n n' n'').canonical) : (placeDsm s lid place).canonical :=
  foldl_canonical (fun _ _ ha => foldl_canonical (fun _ _ hb => hplace _ _ _ _ hb) ha) h

theorem createLaunch_canonical {x} (h : s.canonical) : (createLaunch s x).1.canonical := by
  unfold createLaunch
  extract_lets +onlyGivenNames lr lid dies version src l w s1 s2 s3
  have hs1 : s1.canonical := h
  have hs2 : s2.canonical := clearCounters_canonical hs1
  have hs3 : s3.canonical := ite_canonical (enqueue_canonical hs2) hs2
  split
  · exact placeDsm_canonical hs3 (fun _ _ _ _ ha => placeFresh_canonical ha)
  · exact hs3

theorem answerSubmit_canonical {x lid code} (h : s.canonical) : (answerSubmit s x lid code).1.canonical := by
  unfold answerSubmit
  split
  · exact respondTo_canonical h
  · exact readyPend_canonical h
  · exact ite_fst_canonical h (finishJob_canonical h)

theorem execLaunchAccept_canonical (h : s.canonical) : OutcomeCanonical (execLaunchAccept s) := by
  unfold execLaunchAccept
  split
  · exact h
  · extract_lets +onlyGivenNames w s' c r
    have hs' : s'.canonical := h
    have hr : r.1.canonical := ite_fst_canonical (createLaunch_canonical hs') hs'
    split
    · next e => exact canonical_of_eq_mk (answerSubmit_canonical hr) e
    · exact h

theorem execLaunchMessage_canonical (h : s.canonical) : OutcomeCanonical (execLaunchMessage s) := by
  unfold execLaunchMessage
  refine gate_canonical h (fun a ha => ?_)
  split
  · exact respond_canonical ha
  · exact ha

theorem startTask_canonical {t words phase} (h : s.canonical) : (startTask s t words phase).canonical := by
  unfold startTask
  extract_lets +onlyGivenNames g l s1
  have hs1 : s1.canonical := appendLog_canonical h
  exact ite_canonical (modCg_canonical (modThread_canonical hs1)) (beginTask_canonical hs1)

theorem settleRecord_canonical {lid dgid q r} (h : s.canonical) : (settleRecord s lid dgid q r).1.canonical := by
  unfold settleRecord
  split
  · exact h
  · split
    · next e => exact canonical_of_eq_mk (writeRecord_canonical h) e
    · next e => exact modQueue_canonical (canonical_of_eq_mk (writeRecord_canonical h) e)

theorem execTaskStart_canonical {lid dgid} (h : s.canonical) : OutcomeCanonical (execTaskStart lid dgid s) := by
  unfold execTaskStart
  split
  · exact h
  · extract_lets +onlyGivenNames l
    split
    · exact h
    · extract_lets +onlyGivenNames taken discard
      have htaken : ∀ t, t.canonical → (taken t).canonical := fun _ ht => modQueue_canonical ht
      have hdiscard : ∀ t, t.canonical → (discard t).canonical := fun _ ht => modLaunch_canonical (htaken _ ht)
      split
      · exact h
      · next e =>
          have he := canonical_of_eq_mk (settleRecord_canonical h) e
          split
          · next e2 => exact ite_canonical h (hdiscard _ (canonical_of_eq_mk (unitRead_canonical he) e2))
          · next e2 =>
              have he2 := canonical_of_eq_mk (unitRead_canonical he) e2
              extract_lets +onlyGivenNames words
              exact ite_canonical (hdiscard _ he2) (startTask_canonical (htaken _ he2))

theorem releaseCg_canonical {cg} (h : s.canonical) : (releaseCg s cg).canonical := by
  unfold releaseCg
  extract_lets +onlyGivenNames g core s1 s2 s3
  have hs1 : s1.canonical := modCore_canonical (dropLocksWhere_canonical h)
  have hs2 : s2.canonical := modEng_canonical hs1
  have hs3 : s3.canonical := modCg_canonical hs2
  exact thawed_canonical hs3

theorem execCoreGroupEnd_canonical {cg} (h : s.canonical) : OutcomeCanonical (execCoreGroupEnd cg s) := by
  unfold execCoreGroupEnd
  exact ite_canonical (releaseCg_canonical h) h

theorem execCoreGroupRelaunch_canonical {cg} (h : s.canonical) : OutcomeCanonical (execCoreGroupRelaunch cg s) := by
  unfold execCoreGroupRelaunch
  extract_lets +onlyGivenNames g
  split
  · exact h
  · extract_lets +onlyGivenNames lr s1 s2 s3
    have hs1 : s1.canonical := modLaunch_canonical h
    have hs2 : s2.canonical := modCg_canonical hs1
    have hs3 : s3.canonical := by
      unfold s3
      refine foldl_canonical (fun a _ ha => ?_) hs2
      exact startThreads_canonical (modPg_canonical ha)
    exact thawed_canonical hs3

theorem removeLaunch_canonical {lid} (h : s.canonical) : (removeLaunch s lid).canonical := by
  unfold removeLaunch
  exact foldl_canonical (fun _ _ ha => releaseCg_canonical ha) h

theorem answerAsk_canonical {lid status result} (h : s.canonical) : (answerAsk s lid status result).canonical :=
  foldl_canonical (fun _ _ ha => respondTo_canonical ha) h

theorem tellJob_canonical {lid out} (h : s.canonical) : (tellJob s lid out).canonical := h

theorem endLaunch_canonical {lid} (h : s.canonical) : ∀ u, endLaunch s lid = some u → u.canonical := by
  intro u hu
  unfold endLaunch at hu
  extract_lets l w r a b c at hu
  have hr : r.1.canonical := ite_fst_canonical h (unitWriteWhole_canonical h)
  split at hu
  · cases hu
  · have ha : a.canonical := by
      unfold a
      split
      · exact raiseEvent_canonical hr
      · exact hr
    have hc : c.canonical := by
      unfold c
      split
      · exact ite_canonical (parentDec_canonical (tellJob_canonical ha)) (tellJob_canonical ha)
      · exact tellJob_canonical ha
    cases hu
    exact removeLaunch_canonical (answerAsk_canonical hc)

theorem execLaunchEnd_canonical {lid} (h : s.canonical) : OutcomeCanonical (execLaunchEnd lid s) := by
  unfold execLaunchEnd
  split
  · cases e : endLaunch s lid with
    | none => exact h
    | some t => exact endLaunch_canonical h t e
  · exact h

end

/-! Traps raised later and pre-emption (18 R322-R337). -/

section

variable {s : State}

theorem execTrapDelivery_canonical {pg} (h : s.canonical) : OutcomeCanonical (execTrapDelivery pg s) := by
  unfold execTrapDelivery
  exact ite_canonical (deliver_canonical h) h

theorem oweTrap_canonical {t e} (h : s.canonical) : (oweTrap s t e).canonical := by
  unfold oweTrap
  extract_lets +onlyGivenNames s1
  have hs1 : s1.canonical := by
    unfold s1
    split
    · exact h
    · exact ite_canonical (deferWatch_canonical h) h
  exact modThread_canonical hs1

theorem execWatchpointDeferred_canonical {id} (h : s.canonical) : OutcomeCanonical (execWatchpointDeferred id s) := by
  unfold execWatchpointDeferred
  split
  · exact h
  · extract_lets +onlyGivenNames gone
    have hgone : ∀ t, t.canonical → (gone t).canonical := fun _ ht => ht
    split
    · split
      · exact h
      · exact hgone _ (oweTrap_canonical h)
    · split
      · exact h
      · exact sendNotice_canonical h

theorem checkArea_canonical {lid ctx n} (h : s.canonical) : (checkArea s lid ctx n).1.canonical := by
  unfold checkArea
  extract_lets +onlyGivenNames l
  refine foldl_fst_canonical (fun a _ ha => ?_) h
  split
  · exact ha
  · split <;> next e => exact canonical_of_eq_mk (unitTranslate_canonical ha) e

theorem freezeEngines_canonical {p : ℕ → Bool} {on} (h : s.canonical) : (freezeEngines s p on).canonical := by
  unfold freezeEngines
  exact foldl_canonical (fun _ _ ha => modEng_canonical ha) h

theorem beginStop_canonical {lid ctx} (h : s.canonical) : (beginStop s lid ctx).canonical := freezeEngines_canonical h

theorem execPreemptGraceExpiry_canonical {lid} (h : s.canonical) : OutcomeCanonical (execPreemptGraceExpiry lid s) := by
  unfold execPreemptGraceExpiry
  split
  · exact ite_canonical (beginStop_canonical h) h
  all_goals exact h

theorem runUnits_canonical {o k} (h : s.canonical) : (runUnits s o k).1.canonical := by
  unfold runUnits
  exact ite_fst_canonical (copyRows_canonical h) (projectSome_canonical h)

theorem stopOp_canonical {o} (h : s.canonical) : (stopOp s o).canonical := by
  unfold stopOp
  extract_lets left k rows a
  split
  · exact h
  · have ha : a.canonical := h
    exact opOutcome_canonical ha (fun _ hb => modOp_canonical hb) (runUnits_canonical ha)

theorem splitAcc_canonical {a} (h : s.canonical) : (splitAcc s a).1.canonical := by
  unfold splitAcc
  refine foldl_fst_canonical (fun a _ ha => ?_) h
  split
  next e =>
    have he := canonical_of_mk_eq (nextId_canonical ha) e
    extract_lets +onlyGivenNames t
    exact he

theorem abandonAll_canonical {lid} (h : s.canonical) : (abandonAll s lid).canonical := by
  unfold abandonAll
  extract_lets +onlyGivenNames stuck r
  have hr : r.1.canonical := by
    unfold r
    refine foldl_fst_canonical (fun a _ ha => ?_) h
    split
    · extract_lets +onlyGivenNames r2
      have hr2 : r2.1.canonical := splitAcc_canonical ha
      exact hr2
    · exact ha
  extract_lets +onlyGivenNames s1
  have hs1 : s1.canonical := hr
  exact hs1

theorem leaveAbandoned_canonical {t} (h : s.canonical) : (leaveAbandoned s t).canonical := by
  unfold leaveAbandoned
  extract_lets +onlyGivenNames th words
  split
  · exact h
  · split
    · exact ite_canonical h (modThread_canonical (setPlace_canonical h))
    · exact modThread_canonical (setPlace_canonical h)
    · exact modThread_canonical (setPlace_canonical h)

theorem settleStop_canonical {lid} (h : s.canonical) : (settleStop s lid).canonical := by
  unfold settleStop
  extract_lets +onlyGivenNames s1
  have hs1 : s1.canonical := foldl_canonical (fun _ _ ha => stopOp_canonical ha) h
  split
  · exact hs1
  · exact foldl_canonical (fun _ _ ha => leaveAbandoned_canonical ha) (abandonAll_canonical hs1)

theorem clearLaunch_canonical {lid} (h : s.canonical) : (clearLaunch s lid).canonical := by
  unfold clearLaunch
  extract_lets +onlyGivenNames mine here keys ids cores parts w s1 s2 w2 s3
  have hs1 : s1.canonical := h
  have hs2 : s2.canonical := by
    unfold s2
    refine foldl_canonical (fun a _ ha => ?_) hs1
    exact modEng_canonical (modCore_canonical (dropLocksWhere_canonical ha))
  have hs3 : s3.canonical := hs2
  exact foldl_canonical (fun _ _ ha => acceptCopies_canonical (thawed_canonical ha)) hs3

theorem privateBytes_canonical {n} (h : s.canonical) : (privateBytes s n).1.canonical := h

theorem saveLaunch_canonical {lid ctx} (h : s.canonical) : (saveLaunch s lid ctx).canonical := by
  unfold saveLaunch
  extract_lets +onlyGivenNames n l s1 w recs s2
  have hs1 : s1.canonical := settleStop_canonical h
  have hs2 : s2.canonical := modLaunch_canonical (clearLaunch_canonical hs1)
  split
  next e => exact unitWrite_canonical (canonical_of_eq_mk (privateBytes_canonical hs2) e)

theorem execPreemptStopComplete_canonical {lid} (h : s.canonical) : OutcomeCanonical (execPreemptStopComplete lid s) := by
  unfold execPreemptStopComplete
  split
  · split
    · exact answerAsk_canonical (saveLaunch_canonical h)
    · exact h
  all_goals exact h

theorem preemptWord_canonical {n} {k : State → ℕ → ℕ → State} (h : s.canonical) (hk : ∀ a n n', a.canonical → (k a n n').canonical) :
    OutcomeCanonical (preemptWord s n k) := by
  unfold preemptWord
  refine gate_canonical h (fun a ha => ?_)
  split
  · exact respond_canonical ha
  · extract_lets +onlyGivenNames ctx size
    split
    · exact respond_canonical ha
    · split
      · exact respond_canonical ha
      · split
        · next e =>
            have he := canonical_of_eq_mk (checkArea_canonical ha) e
            exact ite_canonical (holdMsg_canonical he) (respond_canonical he)
        · next e => exact hk _ _ _ (modLaunch_canonical (canonical_of_eq_mk (checkArea_canonical ha) e))

theorem noticePg_canonical {pk grace} (h : s.canonical) : (noticePg s pk grace).canonical := by
  unfold noticePg
  split
  · exact h
  · exact oweTrap_canonical h

theorem noticeLaunch_canonical {lid grace} (h : s.canonical) : (noticeLaunch s lid grace).canonical := by
  unfold noticeLaunch
  extract_lets +onlyGivenNames s1
  have hs1 : s1.canonical := foldl_canonical (fun _ _ ha => noticePg_canonical ha) h
  split
  · exact hs1
  · extract_lets +onlyGivenNames w s2
    have hs2 : s2.canonical := foldl_canonical (fun _ _ ha => noticePg_canonical ha) hs1
    exact hs2

theorem execPreemptWithNotice_canonical (h : s.canonical) : OutcomeCanonical (execPreemptWithNotice s) := by
  unfold execPreemptWithNotice
  refine preemptWord_canonical h (fun a _ _ ha => ?_)
  exact ite_canonical (modLaunch_canonical ha) (noticeLaunch_canonical (modLaunch_canonical ha))

theorem moveCounters_canonical {lid dies base} (h : s.canonical) : (moveCounters s lid dies base).canonical := by
  unfold moveCounters
  extract_lets +onlyGivenNames l at' old s1 s2
  have hold : old.canonical := h
  have hs1 : s1.canonical := by
    unfold s1
    unfold at'
    exact foldl_canonical (fun _ _ ha => foldl_canonical (fun _ _ hb => modDie_canonical hb) ha) h
  have hs2 : s2.canonical := modLaunch_canonical hs1
  unfold at'
  exact foldl_canonical (fun _ _ ha => foldl_canonical (fun _ _ hb => dcPut_canonical hb) ha) hs2

theorem restoreLaunch_canonical {img} (h : s.canonical) : ∀ u, restoreLaunch s img = .ok u → u.canonical := by
  unfold restoreLaunch
  extract_lets lid l back
  have hback : ∀ a, a.canonical → (back a).canonical := fun a ha => ha
  clear_value back
  intro u hu
  split at hu
  · split at hu
    · cases hu
    · extract_lets base a b at hu
      split at hu
      · cases hu
      · have ha : a.canonical := hback _ (moveCounters_canonical h)
        have hb : b.canonical := by
          refine placeDsm_canonical ha fun a dg cgid core ha => ?_
          extract_lets key
          split
          · exact ha
          · exact ite_canonical (restoreEnded_canonical ha) (restoreCg_canonical ha)
        cases hu
        exact hb
  · split at hu
    · cases hu
    · extract_lets base a at hu
      have ha : a.canonical := hback _ (moveCounters_canonical h)
      cases hu
      exact modLaunch_canonical ha

theorem execRestore_canonical (h : s.canonical) : OutcomeCanonical (execRestore s) := by
  unfold execRestore
  refine gate_canonical h (fun a ha => ?_)
  split
  · exact respond_canonical ha
  · split
    · exact respond_canonical ha
    · next e => exact respond_canonical (restoreLaunch_canonical ha _ e)

theorem killLaunch_canonical {lid} (h : s.canonical) : (killLaunch s lid).canonical := by
  unfold killLaunch
  extract_lets +onlyGivenNames s1 pgs s2 s3 s4
  have hs1 : s1.canonical := unpackImage_canonical h
  have hs2 : s2.canonical := foldl_canonical (fun _ _ ha => modEng_canonical (abandonEngines_canonical ha)) hs1
  have hs3 : s3.canonical := killThreads_canonical hs2
  have hs4 : s4.canonical := foldl_canonical (fun _ _ ha => modCg_canonical ha) hs3
  exact modLaunch_canonical (killUnplaced_canonical hs4)

theorem execKill_canonical (h : s.canonical) : OutcomeCanonical (execKill s) := by
  unfold execKill
  refine gate_canonical h (fun a ha => ?_)
  split
  · exact respond_canonical ha
  · exact respond_canonical (answerAsk_canonical (killLaunch_canonical ha))

end

/-! Management and checkpoint control (04 R79, 20 R362, 24). -/

section

variable {s : State}

theorem mgmtPut_canonical {w bs} (h : s.canonical) : (mgmtPut s w bs).canonical := by
  unfold mgmtPut
  split
  · exact h
  · exact mcbWrite_canonical h
  · exact smWrite_canonical h
  · exact trialWrite_canonical h

theorem respondOld_canonical {v} (h : s.canonical) : (respondOld s v).canonical := respond_canonical h

theorem execManagementRead_canonical (h : s.canonical) : OutcomeCanonical (execManagementRead s) := by
  unfold execManagementRead
  refine gate_canonical h (fun a ha => ?_)
  split
  · exact ha
  · exact respondOld_canonical ha

theorem managementPut_canonical (h : s.canonical) : OutcomeCanonical (managementPut s) := by
  unfold managementPut
  refine gate_canonical h (fun a ha => ?_)
  split
  · exact ha
  · exact mgmtPut_canonical (respondOld_canonical ha)

theorem execCheckpointControlRead_canonical (h : s.canonical) : OutcomeCanonical (execCheckpointControlRead s) := by
  unfold execCheckpointControlRead
  exact gate_canonical h (fun _ ha => respondOld_canonical ha)

theorem controlPut_canonical (h : s.canonical) : OutcomeCanonical (controlPut s) := by
  unfold controlPut
  exact gate_canonical h (fun _ ha => replayWrite_canonical (respondOld_canonical ha))

end

/-! The messages that reach memory (24 R390-R395). -/

section

variable {s : State}

theorem execRead_canonical (h : s.canonical) : OutcomeCanonical (execRead s) := by
  unfold execRead
  exact gate_canonical h (fun _ ha => hostRead_canonical ha (fun _ _ _ hb => accessDone_canonical hb))

theorem execFlushData_canonical (h : s.canonical) : OutcomeCanonical (execFlushData s) := by
  unfold execFlushData
  exact gate_canonical h (fun _ ha => ite_canonical (holdMsg_canonical ha) (accessDone_canonical ha))

theorem dropTranslations_canonical {space a n} (h : s.canonical) : (dropTranslations s space a n).canonical := h

theorem reclaimTraces_canonical {space a n} (h : s.canonical) : (reclaimTraces s space a n).canonical := by
  unfold reclaimTraces
  refine foldl_canonical (fun b c hb => ?_) h
  split
  · exact hb
  · split
    · exact sendNotice_canonical hb
    · exact hb

theorem execFlushDataAndTlb_canonical (h : s.canonical) : OutcomeCanonical (execFlushDataAndTlb s) := by
  unfold execFlushDataAndTlb
  refine gate_canonical h (fun a ha => ?_)
  extract_lets +onlyGivenNames a2 n
  split
  · exact ite_canonical (holdMsg_canonical ha) (accessDone_canonical ha)
  · extract_lets +onlyGivenNames s1
    have hs1 : s1.canonical := dropTranslations_canonical (reclaimTraces_canonical ha)
    exact ite_canonical (holdMsg_canonical hs1) (respond_canonical hs1)

theorem windowWord_canonical {n} {k : State → ℕ → ℕ → State} (h : s.canonical) (hk : ∀ a n n', a.canonical → (k a n n').canonical) :
    OutcomeCanonical (windowWord s n k) := by
  unfold windowWord
  extract_lets +onlyGivenNames off
  refine gate_canonical h (fun a ha => ?_)
  split
  · next e => exact holdMsg_canonical (canonical_of_eq_mk (stampHost_canonical ha) e)
  · next e => exact hk _ _ _ (canonical_of_eq_mk (stampHost_canonical ha) e)

theorem windowPut_canonical {off v} (h : s.canonical) : (windowPut s off v).canonical := modWindow_memWriteN_canonical h

theorem execCopyToPeer_canonical (h : s.canonical) : OutcomeCanonical (execCopyToPeer s) := by
  refine gate_canonical h fun a ha => hostRead_canonical ha fun b _ _ hb => accessDone_canonical ?_
  split <;> exact hb

end

/-! Sessions and address spaces (24 R388-R394). -/

section

variable {s : State}

theorem authFail_canonical (h : s.canonical) : (authFail s).canonical := respond_canonical h

theorem execSessionOpen_canonical (h : s.canonical) : OutcomeCanonical (execSessionOpen s) := by
  unfold execSessionOpen
  refine gate_canonical h (fun a ha => ?_)
  extract_lets +onlyGivenNames mgmt sp
  split
  · exact authFail_canonical ha
  · extract_lets +onlyGivenNames src s1
    have hs1 : s1.canonical := ha
    split
    · exact respond_canonical hs1
    · split
      · exact respond_canonical hs1
      · split
        · exact respond_canonical hs1
        · exact respond_canonical ha

theorem endSession_canonical {home} (h : s.canonical) : (endSession s home).canonical :=
  foldl_canonical (fun _ _ ha => endClaim_canonical ha) h

theorem execCreateAddressSpace_canonical (h : s.canonical) : OutcomeCanonical (execCreateAddressSpace s) := by
  unfold execCreateAddressSpace
  extract_lets +onlyGivenNames root
  refine gate_canonical h (fun a ha => ?_)
  split <;> exact respond_canonical ha

theorem execDestroyAddressSpace_canonical (h : s.canonical) : OutcomeCanonical (execDestroyAddressSpace s) := by
  unfold execDestroyAddressSpace
  extract_lets +onlyGivenNames n
  refine gate_canonical h (fun a ha => ?_)
  split
  · exact respond_canonical ha
  · refine respond_canonical ?_
    exact dropTranslations_canonical ha

theorem execConnectionLost_canonical {conn} (h : s.canonical) : OutcomeCanonical (execConnectionLost conn s) := by
  unfold execConnectionLost
  exact ite_canonical (endSession_canonical h) h

theorem execRefusedDeliveryMode_canonical {conn hdr} (h : s.canonical) : OutcomeCanonical (execRefusedDeliveryMode conn hdr s) := by
  unfold execRefusedDeliveryMode
  split <;> exact h

end

/-! Power, bring-up, alarms (04 R74-R85). -/

section

variable {s : State}

theorem modMgmt_canonical {f : Mgmt → Mgmt} (h : s.canonical) : (modMgmt s f).canonical := h

/-- Memory and window are empty after the loss of power; the checkpoints that stay were there before. -/
theorem dropVolatile_canonical (h : s.canonical) : (dropVolatile s).canonical := ⟨⟨rfl, rfl⟩, fun c hc => h.2 c (List.mem_filter.1 hc).1⟩

theorem haltWork_canonical (h : s.canonical) : (haltWork s).canonical := h

theorem enterSafe_canonical {port0} (h : s.canonical) : (enterSafe s port0).canonical := h

theorem abandonCkpt_canonical (h : s.canonical) : (abandonCkpt s).canonical := by
  unfold abandonCkpt
  split
  · exact h
  · refine foldl_canonical (fun _ _ ha => appendLog_canonical ha) ⟨h.1, fun c hc => h.2 c (List.mem_filter.1 hc).1⟩

theorem alarmEffect_canonical {level srcs} (h : s.canonical) : (alarmEffect s level srcs).canonical := by
  unfold alarmEffect
  extract_lets now a b c d e f g
  have hb : b.canonical := abandonCkpt_canonical (modMgmt_canonical h)
  have hc : c.canonical := ite_canonical (enterSafe_canonical (haltWork_canonical hb)) hb
  have hd : d.canonical := modMgmt_canonical hc
  have he : e.canonical := ite_canonical hd hc
  have hf : f.canonical := modMgmt_canonical he
  have hg : g.canonical := ite_canonical ⟨hf.1, nofun⟩ he
  exact reportEvent_canonical hg

theorem execSecurityAlarm_canonical {srcs} (h : s.canonical) : OutcomeCanonical (execSecurityAlarm srcs s) := by
  unfold execSecurityAlarm
  extract_lets +onlyGivenNames fired
  split
  · exact h
  · exact ite_canonical (modMgmt_canonical (alarmEffect_canonical h)) (alarmEffect_canonical h)

theorem environment_canonical {e} (h : s.canonical) : (environment s e).canonical := h

theorem phaseFails_canonical {cause die} (h : s.canonical) : (phaseFails s cause die).canonical := h

theorem applyImage_canonical {slot} (h : s.canonical) : (applyImage s slot).canonical := by
  unfold applyImage
  extract_lets +onlyGivenNames b addr s1
  have hs1 : s1.canonical := modMgmt_canonical h
  split
  · exact hs1
  · extract_lets +onlyGivenNames s2
    have hs2 : s2.canonical := modMgmt_canonical hs1
    exact hs2

theorem mapCores_canonical (h : s.canonical) : (mapCores s).canonical := by
  unfold mapCores
  exact ite_canonical (phaseFails_canonical h) (modMgmt_canonical h)

theorem reachReady_canonical (h : s.canonical) : (reachReady s).canonical := by
  unfold reachReady
  extract_lets +onlyGivenNames s1 s2
  have hs1 : s1.canonical := modMgmt_canonical h
  have hs2 : s2.canonical := hs1
  exact ite_canonical hs2 (raiseEvent_canonical hs2)

theorem execBringupPhaseComplete_canonical (h : s.canonical) : OutcomeCanonical (execBringupPhaseComplete s) := by
  unfold execBringupPhaseComplete
  extract_lets +onlyGivenNames m go
  have hgo : ∀ t, t.canonical → (go t).canonical := fun _ ht => modMgmt_canonical ht
  split
  · exact h
  · split
    · exact ite_canonical (hgo _ h) (phaseFails_canonical h)
    · split
      · exact phaseFails_canonical h
      · exact hgo _ (applyImage_canonical h)
    · split
      · exact phaseFails_canonical h
      · split
        · exact phaseFails_canonical (alarmEffect_canonical h)
        · exact hgo _ (modMgmt_canonical h)
    · exact ite_canonical (hgo _ h) (phaseFails_canonical h)
    · exact mapCores_canonical h
    · exact ite_canonical (reachReady_canonical h) (phaseFails_canonical h)
    · exact h

theorem execPowerGood_canonical (h : s.canonical) : OutcomeCanonical (execPowerGood s) := by
  unfold execPowerGood
  exact ite_canonical h (dropVolatile_canonical h)

theorem execPowerLoss_canonical (h : s.canonical) : OutcomeCanonical (execPowerLoss s) := by
  unfold execPowerLoss
  exact ite_canonical (modMgmt_canonical (dropVolatile_canonical h)) h

theorem execPort0Retrain_canonical (h : s.canonical) : OutcomeCanonical (execPort0Retrain s) := by
  unfold execPort0Retrain
  exact ite_canonical (modMgmt_canonical h) h

theorem execPowerThrottleStep_canonical (h : s.canonical) : OutcomeCanonical (execPowerThrottleStep s) := by
  unfold execPowerThrottleStep
  exact ite_canonical (modMgmt_canonical h) h

theorem execEccCorrection_canonical (h : s.canonical) : OutcomeCanonical (execEccCorrection s) := by
  unfold execEccCorrection
  split <;> exact h

theorem execImageWrite_canonical (h : s.canonical) : OutcomeCanonical (execImageWrite s) := by
  unfold execImageWrite
  exact gate_canonical h (fun _ ha => respond_canonical ha)

theorem execImageCommit_canonical (h : s.canonical) : OutcomeCanonical (execImageCommit s) := by
  unfold execImageCommit
  refine gate_canonical h (fun a ha => ?_)
  extract_lets +onlyGivenNames m n b v x fail
  split
  · unfold fail
    exact respond_canonical ha
  · split
    · unfold fail
      exact respond_canonical ha
    · exact respond_canonical ha

end

/-! Events of memory and of observation (08 R178-R182, 22). -/

section

variable {s : State}

theorem execTranslationWalkComplete_canonical {core space va need} (h : s.canonical) :
    OutcomeCanonical (execTranslationWalkComplete core space va need s) := by
  unfold execTranslationWalkComplete
  exact ite_canonical (walkFill_canonical h) h

theorem settleFrames_canonical {space va} (h : s.canonical) : (settleFrames s space va).canonical := by
  unfold settleFrames
  refine foldl_canonical (fun a _ ha => ?_) h
  split
  · next e =>
      have he := canonical_of_eq_mk (translate_canonical ha) e
      exact he
  · next e => exact canonical_of_eq_mk (translate_canonical ha) e

theorem execDemandZeroFill_canonical {core space va} (h : s.canonical) : OutcomeCanonical (execDemandZeroFill core space va s) := by
  unfold execDemandZeroFill
  exact ite_canonical (settleFrames_canonical (demandFill_canonical h)) h

theorem execHomeAccessPerform_canonical {id} (h : s.canonical) : OutcomeCanonical (execHomeAccessPerform id s) := by
  unfold execHomeAccessPerform
  split
  · exact performAcc_canonical h
  · exact performQueued_canonical h
  · exact h

theorem execWindowAccess_canonical {id} (h : s.canonical) : OutcomeCanonical (execWindowAccess id s) := by
  unfold execWindowAccess
  split
  · exact performAcc_canonical h
  · exact h

theorem execHotnessSample_canonical {core} (h : s.canonical) : OutcomeCanonical (execHotnessSample core s) := by
  unfold execHotnessSample
  split
  · exact h
  · extract_lets +onlyGivenNames die m s1
    have hs1 : s1.canonical := modCore_canonical h
    split
    · exact modDie_canonical hs1
    · exact modDie_canonical (homeWrite_canonical (modCore_canonical h))

theorem execStallSample_canonical {part} (h : s.canonical) : OutcomeCanonical (execStallSample part s) := by
  unfold execStallSample
  split
  · extract_lets +onlyGivenNames die m x v w took
    have htook : took.canonical := h
    split
    · exact modDie_canonical htook
    · exact modDie_canonical (homeWrite_canonical htook)
  · exact h

theorem execTrialWindowEnd_canonical (h : s.canonical) : OutcomeCanonical (execTrialWindowEnd s) := by
  unfold execTrialWindowEnd
  extract_lets +onlyGivenNames t
  split <;> exact h

theorem execSignalSend_canonical (h : s.canonical) : OutcomeCanonical (execSignalSend s) := by
  unfold execSignalSend
  split
  · exact h
  · extract_lets +onlyGivenNames s1
    have hs1 : s1.canonical := h
    split <;> exact hs1

end

/-! Checkpoints, rollback and replay (18 R338, R339; 20 R358-R361): here states come out of checkpoints and go into them. -/

section

variable {s : State}

theorem clearClocks_canonical (h : s.canonical) : (clearClocks s).canonical := h

theorem ckptEngines_canonical {on} (h : s.canonical) : (ckptEngines s on).canonical := freezeEngines_canonical h

/-- Stated for any time of the next checkpoint: the kernel would evaluate the sum that stands there. -/
theorem withStop_canonical {b n} (h : s.canonical) : ({ s with ckptStop := b, ckptAt := n } : State).canonical := h

theorem stopAll_canonical (h : s.canonical) : (stopAll s).canonical := by
  unfold stopAll
  exact withStop_canonical (ckptEngines_canonical h)

theorem resumeAll_canonical (h : s.canonical) : (resumeAll s).canonical :=
  foldl_canonical (fun _ _ ha => thawed_canonical ha) (ckptEngines_canonical h)

theorem maxBy?_mem {α : Type} {key : α → Nat} {l : List α} {x : α} (h : maxBy? key l = some x) : x ∈ l := by
  refine List.foldlRecOn (motive := fun best => ∀ y, best = some y → y ∈ l) l _ (by rintro _ ⟨⟩) (fun best hb y hy z hz => ?_) x h
  cases best with
  | none => cases hz; exact hy
  | some b =>
    dsimp only at hz
    split at hz
    · cases hz; exact hy
    · exact hb z hz

theorem lastValid_mem {c : Ckpt} (hc : lastValid s = some c) : c ∈ s.ckpts := (List.mem_filter.1 (maxBy?_mem hc)).1

/-- The checkpoints that go on are the last valid one and the one taken of the present state. -/
theorem captureCkpt_canonical (h : s.canonical) : (captureCkpt s).canonical := by
  have hr : (clearClocks (resumeAll s)).canonical := clearClocks_canonical (resumeAll_canonical h)
  refine ⟨hr.1, fun c hc => ?_⟩
  rcases List.mem_append.1 hc with hc | hc
  · cases hv : lastValid s with
    | none => simp [hv] at hc
    | some x =>
      simp only [hv, Option.map_some, Option.getD_some, List.mem_singleton] at hc
      exact hc ▸ h.2 x (lastValid_mem hv)
  · obtain rfl := List.mem_singleton.1 hc
    exact hr.1

theorem execCheckpointStart_canonical (h : s.canonical) : OutcomeCanonical (execCheckpointStart s) := by
  unfold execCheckpointStart
  split
  · exact clearClocks_canonical h
  · exact ite_canonical (ite_canonical (captureCkpt_canonical h) h) (ite_canonical (stopAll_canonical h) h)

theorem execPendingFrameCopied_canonical {frame} (h : s.canonical) : OutcomeCanonical (execPendingFrameCopied frame s) := by
  refine ⟨h.1, fun c hc => ?_⟩
  obtain ⟨x, hx, rfl⟩ := List.mem_map.1 hc
  split <;> exact h.2 x hx

theorem execCheckpointValid_canonical (h : s.canonical) : OutcomeCanonical (execCheckpointValid s) := by
  unfold execCheckpointValid
  split
  · exact h
  · split
    · exact h
    · refine ⟨h.1, fun c hc => ?_⟩
      obtain ⟨x, hx, rfl⟩ := List.mem_map.1 hc
      split <;> exact h.2 x hx

theorem endUnreplayed_canonical {l} (h : s.canonical) : (endUnreplayed s l).canonical := by
  unfold endUnreplayed
  exact ite_canonical h (unitWriteWhole_canonical h)

theorem removeUnreplayed_canonical {lid} (h : s.canonical) : (removeUnreplayed s lid).canonical :=
  removeLaunch_canonical (answerAsk_canonical (tellJob_canonical (clearLaunch_canonical (endUnreplayed_canonical h))))

/-- The state goes back to the last valid checkpoint's, whose world is canonical as a member of the list of checkpoints. -/
theorem execUncorrectableError_canonical (h : s.canonical) : OutcomeCanonical (execUncorrectableError s) := by
  unfold execUncorrectableError
  split
  · exact h
  · extract_lets done recs a live b ended lost claims since rb
    have ha : a.canonical := h
    cases hv : lastValid a with
    | none =>
      have hb : b.canonical := foldl_canonical (fun _ _ hb => endUnreplayed_canonical hb) ha
      have he : ended.canonical := raiseEvent_canonical (haltWork_canonical hb)
      exact ⟨he.1, nofun⟩
    | some c =>
      dsimp -zeta only
      extract_lets src back held d e f
      have hback : back.canonical := by
        refine clearClocks_canonical ?_
        exact ⟨(ha.2 c (lastValid_mem hv) : c.world.canonical), fun x hx => ha.2 x (List.mem_filter.1 hx).1⟩
      have hd : d.canonical := foldl_canonical (fun _ _ hb => endUnreplayed_canonical hb) hback
      have he : e.canonical := ite_canonical (foldl_canonical (fun _ _ hb => removeUnreplayed_canonical hb) hd) hd
      exact raiseEvent_canonical (kind := 3) (val := 0) he

theorem execReplayComplete_canonical (h : s.canonical) : OutcomeCanonical (execReplayComplete s) := by
  unfold execReplayComplete
  split
  · exact h
  · split <;> exact h

theorem performAllQueued_canonical {w : World} (h : w.canonical) : (performAllQueued w).canonical := by
  unfold performAllQueued
  refine List.foldlRecOn (motive := World.canonical) _ _ h fun w hw d _ => ?_
  exact List.foldlRecOn (motive := World.canonical) _ _ hw fun w hw q _ => ⟨foldl_memWriteN_wf q.parts hw.1, hw.2⟩

theorem packLaunch_canonical {lid} (h : s.canonical) : (packLaunch s lid).canonical := by
  unfold packLaunch
  extract_lets a w b
  have hb : b.canonical := modLaunch_canonical (clearLaunch_canonical (settleStop_canonical h))
  clear_value b
  exact hb

theorem unpackLaunch_canonical {lid} (h : s.canonical) : (unpackLaunch s lid).canonical := by
  unfold unpackLaunch
  split
  · exact h
  · split
    · next e => exact restoreLaunch_canonical h _ e
    · exact h

/-- Memory and window are those of the given world. -/
theorem emptyDevice_canonical {w : World} (h : s.canonical) (hw : w.canonical) : (emptyDevice s w).canonical := ⟨hw, h.2⟩

/-- The checkpoint's world, with the queued writes performed, takes the place of the present one. -/
theorem restoreCkpt_canonical {c} (h : s.canonical) (hc : c.world.canonical) : (restoreCkpt s c).canonical := by
  unfold restoreCkpt
  extract_lets lids src packed a rb b
  have hp : packed.canonical := by
    refine foldl_canonical (fun _ _ hb => packLaunch_canonical hb) ?_
    exact ⟨performAllQueued_canonical hc, h.2⟩
  have ha : a.canonical := emptyDevice_canonical ⟨h.1, hp.2⟩ hp.1
  exact foldl_canonical (fun _ _ hb => unpackLaunch_canonical hb) (show b.canonical from ha)

theorem namedCkpt_mem {c : Ckpt} (hc : namedCkpt s = some c) : c ∈ s.ckpts := by
  unfold namedCkpt at hc
  split at hc
  · exact lastValid_mem hc
  · exact List.mem_of_find?_eq_some hc

theorem execCheckpointRestore_canonical (h : s.canonical) : OutcomeCanonical (execCheckpointRestore s) := by
  refine gate_canonical h fun a ha => ?_
  split
  · exact respond_canonical ha
  · split
    · exact respond_canonical ha
    · next c hc => exact respond_canonical (restoreCkpt_canonical ha (ha.2 c (namedCkpt_mem hc)))

end

/-! The instructions that draw (10 R234-R236). -/

section

variable {s : State}

theorem drawWord_canonical {w} {f : Word → LaneOut} (h : s.canonical) : OutcomeCanonical (drawWord s w f) := by
  unfold drawWord
  refine actWord_canonical h (fun _ a _ ha => ?_)
  split
  · next e => exact canonical_of_eq_mk (draw_canonical ha) e
  · next e => exact pushResult_canonical (canonical_of_eq_mk (draw_canonical ha) e)

theorem execCvscore_canonical {w} (h : s.canonical) : OutcomeCanonical (execCvscore w s) := by
  unfold execCvscore
  exact stateWord_canonical h (fun _ _ ha => foldl_canonical (fun _ _ hb => modCtx_canonical hb) ha)

end

/-! Register fragments (11 R258-R261). -/

section

variable {s : State}

theorem fragWord_canonical {w} {f : State → Issue → ThreadRef → LaneOut} (h : s.canonical) : OutcomeCanonical (fragWord s w f) :=
  stateWord_canonical h (fun _ _ ha => laneResults_canonical ha)

end

/-! Integers, bits and shifts (07 R147-R151). -/

section

variable {s : State}

theorem intWord_canonical {w lat ty sat} {f : ℤ → ℤ → ℤ} (h : s.canonical) : OutcomeCanonical (intWord s w lat ty sat f) :=
  laneWord_canonical h

theorem bitWord_canonical {w} {f : Word → Word → Word} (h : s.canonical) : OutcomeCanonical (bitWord s w f) := laneWord_canonical h

theorem bitWord1_canonical {w} {f : Word → Word} (h : s.canonical) : OutcomeCanonical (bitWord1 s w f) := laneWord_canonical h

end

/-! The reprojection unit and the worklist (13 R280-R284). -/

section

variable {s : State}

theorem warpRows_canonical {fuel o y best} (h : s.canonical) : (warpRows fuel s o y best).1.canonical := by
  induction fuel generalizing s y best with
  | zero => exact h
  | succ k ih =>
    unfold warpRows
    extract_lets +onlyGivenNames n
    split
    · next e => exact canonical_of_eq_mk (opRead_canonical h) e
    · next e =>
        have he := canonical_of_eq_mk (opRead_canonical h) e
        split
        · next e2 => exact canonical_of_eq_mk (opRead_canonical he) e2
        · next e2 => exact ih (canonical_of_eq_mk (opRead_canonical he) e2)

theorem writeRows_canonical {fuel o y best} (h : s.canonical) : (writeRows fuel s o y best).1.canonical := by
  induction fuel generalizing s y best with
  | zero => exact h
  | succ k ih =>
    unfold writeRows
    extract_lets +onlyGivenNames d n ref
    have href : ref.1.canonical := ite_fst_canonical h (opRead_canonical h)
    clear_value ref
    split
    · exact href
    · extract_lets +onlyGivenNames row
      split
      · next e => exact canonical_of_eq_mk (opWrite_canonical href) e
      · next e => exact ih (canonical_of_eq_mk (opWrite_canonical href) e)

theorem warpRun_canonical {o} (h : s.canonical) : (warpRun s o).1.canonical := by
  unfold warpRun
  split
  · next e => exact canonical_of_eq_mk (warpRows_canonical h) e
  · next e => exact writeRows_canonical (canonical_of_eq_mk (warpRows_canonical h) e)

theorem emptyRows_canonical {fuel o y acc} (h : s.canonical) : (emptyRows fuel s o y acc).1.canonical := by
  induction fuel generalizing s y acc with
  | zero => exact h
  | succ k ih =>
    unfold emptyRows
    extract_lets +onlyGivenNames n
    split
    · next e => exact canonical_of_eq_mk (opRead_canonical h) e
    · next e => exact ih (canonical_of_eq_mk (opRead_canonical h) e)

theorem worklistRun_canonical {o} (h : s.canonical) : (worklistRun s o).1.canonical := by
  unfold worklistRun
  split
  · next e => exact canonical_of_eq_mk (emptyRows_canonical h) e
  · next e =>
      have he := canonical_of_eq_mk (emptyRows_canonical h) e
      extract_lets +onlyGivenNames m body
      split <;> next e2 => exact canonical_of_eq_mk (opWrites_canonical he) e2

end

/-! Tasks, counters and launches (05 R104-R108, 20 R351). -/

section

variable {s : State}

theorem giveTask_canonical {ix c t op va lat dst} (h : s.canonical) : (giveTask s ix c t op va lat dst).canonical := by
  unfold giveTask
  extract_lets +onlyGivenNames dg
  split
  · exact pushAcc_canonical h
  · extract_lets +onlyGivenNames id s1
    have hs1 : s1.canonical := by
      unfold s1
      split
      · exact h
      · exact pushResult_canonical h
    exact ite_canonical (applyTask_canonical hs1) (arriveDisp_canonical hs1)

theorem execTenq_canonical {w q} (h : s.canonical) : OutcomeCanonical (execTenq w q s) := by
  unfold execTenq
  refine actWord_canonical h fun ix a t ha => ?_
  split
  · next e => exact canonical_of_eq_mk (readDesc_canonical ha) e
  · next e =>
    have hx := canonical_of_eq_mk (readDesc_canonical ha) e
    dsimp only
    exact giveTask_canonical hx

theorem counterWord_canonical {w o lat dst} {op : ℕ → Word → TaskOp} (h : s.canonical) :
    OutcomeCanonical (counterWord s w o lat dst op) := by
  unfold counterWord
  refine actWord_canonical h (fun _ a _ ha => ?_)
  split
  · exact ha
  · exact giveTask_canonical ha

theorem execLaunch_canonical {w} (h : s.canonical) : OutcomeCanonical (execLaunch w s) := by
  unfold execLaunch
  refine actWord_canonical h (fun _ a _ ha => ?_)
  split
  · next e => exact canonical_of_eq_mk (readDescAcq_canonical (acquireActions_canonical ha)) e
  · next e =>
      have he := canonical_of_eq_mk (readDescAcq_canonical (acquireActions_canonical ha)) e
      exact giveTask_canonical he

theorem execMutl_canonical {w} (h : s.canonical) : OutcomeCanonical (execMutl w s) := by
  unfold execMutl
  refine actWord_canonical h (fun _ a _ ha => ?_)
  split
  · next e => exact canonical_of_eq_mk (readDescAcq_canonical (acquireActions_canonical ha)) e
  · next e =>
      have he := canonical_of_eq_mk (readDescAcq_canonical (acquireActions_canonical ha)) e
      split
      · exact giveTask_canonical he
      · split
        · next e2 => exact canonical_of_eq_mk (readNowAcq_canonical he) e2
        · next e2 => exact giveTask_canonical (canonical_of_eq_mk (readNowAcq_canonical he) e2)

end

/-! Textures and images (13 R290-R293). -/

section

variable {s : State}

theorem constRead_canonical {t va n} (h : s.canonical) : (constRead s t va n).1.canonical := by
  unfold constRead
  split
  · exact h
  · exact readPiece_canonical h (fun _ _ _ ha => constLoad_canonical ha)

theorem readTx_canonical {t va} (h : s.canonical) : (readTx s t va).1.canonical := by
  unfold readTx
  split
  · next e => exact canonical_of_eq_mk (constRead_canonical h) e
  · next e =>
      have he := canonical_of_eq_mk (constRead_canonical h) e
      exact ite_fst_canonical he he

theorem readTexel_canonical {t d x y} (h : s.canonical) : (readTexel s t d x y).1.canonical := by
  unfold readTexel
  extract_lets +onlyGivenNames a
  split <;> next e => exact canonical_of_eq_mk (readDesc_canonical h) e

theorem readTexels_canonical {l t d} (h : s.canonical) : (readTexels l s t d).1.canonical := by
  induction l generalizing s with
  | nil => exact h
  | cons x l ih =>
    unfold readTexels
    split
    · next e => exact canonical_of_eq_mk (readTexel_canonical h) e
    · next e =>
        have he := canonical_of_eq_mk (readTexel_canonical h) e
        split <;> next e2 => exact canonical_of_eq_mk (ih he) e2

theorem texNearest_canonical {t d u v} (h : s.canonical) : (texNearest s t d u v).1.canonical := readTexel_canonical h

theorem texBilinear_canonical {t d a b} (h : s.canonical) : (texBilinear s t d a b).1.canonical := by
  unfold texBilinear
  extract_lets +onlyGivenNames cx cy x y
  split
  · next e => exact canonical_of_eq_mk (readTexels_canonical h) e
  · next e =>
      have he := canonical_of_eq_mk (readTexels_canonical h) e
      extract_lets +onlyGivenNames w fx fy gx gy tx
      exact he

theorem texSample_canonical {t d u v} (h : s.canonical) : (texSample s t d u v).1.canonical := by
  unfold texSample
  extract_lets +onlyGivenNames half
  split
  · exact h
  · split
    · extract_lets +onlyGivenNames a b
      exact ite_fst_canonical h (texBilinear_canonical h)
    · exact texNearest_canonical h

theorem texWord_canonical {w} {f : State → ThreadRef → List Byte → DWord → State × Except Trap (List ℕ)} (h : s.canonical)
    (hf : ∀ a t l x, a.canonical → (f a t l x).1.canonical) : OutcomeCanonical (texWord s w f) := by
  unfold texWord
  refine actWord_canonical h (fun _ a _ ha => ?_)
  split
  · next e => exact canonical_of_eq_mk (readTx_canonical ha) e
  · next e =>
      have he := canonical_of_eq_mk (readTx_canonical ha) e
      split
      · next e2 => exact canonical_of_eq_mk (hf _ _ _ _ he) e2
      · next e2 => exact pushResult_canonical (canonical_of_eq_mk (hf _ _ _ _ he) e2)

theorem imElems_canonical {ts w ty} (h : s.canonical) : (imElems ts s w ty).1.canonical := by
  unfold imElems
  refine foldl_fst_canonical (fun a _ ha => ?_) h
  split
  · exact ha
  · split <;> next e => exact canonical_of_eq_mk (readTx_canonical ha) e

theorem imageWord_canonical {w sh ty need} {val : State → ThreadRef → DWord} {out : ThreadRef → Option LaneOut}
    {outside : State → Issue → ThreadRef → State} (h : s.canonical) (houtside : ∀ a ix t, a.canonical → (outside a ix t).canonical) :
    OutcomeCanonical (imageWord s w sh ty need val out outside) := by
  unfold imageWord
  split
  · exact h
  · split
    · exact holdWord_canonical h
    · next e =>
        have he := canonical_of_eq_mk (imElems_canonical h) e
        extract_lets +onlyGivenNames ea r done
        have hr : r.1.canonical := checkLanes_canonical he
        have hdone : done.canonical := foldl_canonical (fun _ _ ha => houtside _ _ _ ha) (pushAccs_canonical hr)
        exact retire_canonical (acceptFlags_canonical (takeTraps_canonical hdone))

end

/-! The traversal unit (13 R285-R289). -/

section

variable {s : State}

theorem fetchNode_canonical {t va first} (h : s.canonical) : (fetchNode s t va first).1.canonical := by
  unfold fetchNode
  split
  · exact h
  · split
    · next e => exact canonical_of_eq_mk (resolveNow_canonical h) e
    · next e =>
        have he := canonical_of_eq_mk (resolveNow_canonical h) e
        extract_lets +onlyGivenNames g
        split
        · exact he
        · split
          · next e2 => exact canonical_of_eq_mk (stampNow_canonical (countLine_canonical he)) e2
          · next e2 =>
              have he2 := canonical_of_eq_mk (stampNow_canonical (countLine_canonical he)) e2
              split
              · split
                · split
                  next e3 =>
                    have he3 := canonical_of_eq_mk (l2Line_canonical he2) e3
                    extract_lets +onlyGivenNames n
                    exact he3
                · exact he2
              all_goals exact he2

theorem traceRun_canonical {fuel tv first} (h : s.canonical) : (traceRun fuel s tv first).1.canonical := by
  induction fuel generalizing s tv first with
  | zero => exact h
  | succ k ih =>
    unfold traceRun
    split
    · exact h
    · extract_lets +onlyGivenNames va
      split
      · next e => exact canonical_of_eq_mk (fetchNode_canonical h) e
      · next e => exact canonical_of_eq_mk (fetchNode_canonical h) e
      · next e =>
          have he := canonical_of_eq_mk (fetchNode_canonical h) e
          split
          · exact he
          · exact he
          · exact ih he

theorem traceDone_canonical {tv} (h : s.canonical) : (traceDone s tv).canonical := h

theorem traceLane_canonical {ix w any} {s0 : State} {t} (h : s.canonical) : (traceLane s ix w any s0 t).1.canonical := by
  unfold traceLane
  extract_lets +onlyGivenNames n ray id tv push
  have hpush : ∀ u, u.canonical → (push u).canonical := fun _ hu => pushResult_canonical hu
  split
  · next e => exact canonical_of_eq_mk (traceRun_canonical h) e
  · next e => exact traceDone_canonical (hpush _ (canonical_of_eq_mk (traceRun_canonical h) e))
  · next e =>
      have he := canonical_of_eq_mk (traceRun_canonical h) e
      extract_lets +onlyGivenNames s1
      have hs1 : s1.canonical := hpush _ he
      exact hs1

theorem execTraversalRefetch_canonical {id} (h : s.canonical) : OutcomeCanonical (execTraversalRefetch id s) := by
  unfold execTraversalRefetch
  split
  · exact h
  · next tv _ =>
    split
    · exact h
    · extract_lets again gone keep
      have hgone : ∀ a : State, a.canonical → (gone a).canonical := fun a ha => ha
      have hkeep : ∀ (a : State) tv, a.canonical → (keep a tv).canonical := fun a _ ha => ha
      split
      · next e => exact traceDone_canonical (hgone _ (canonical_of_eq_mk (traceRun_canonical h) e))
      · next e => exact hkeep _ _ (canonical_of_eq_mk (traceRun_canonical h) e)
      · next e =>
        have ht := canonical_of_eq_mk (traceRun_canonical h) e
        split
        · split
          · exact hkeep _ _ (demandFill_canonical h)
          · exact hkeep _ _ h
          all_goals exact hkeep _ _ h
        · exact hgone _ ht

theorem execAsupd_canonical {w} (h : s.canonical) : OutcomeCanonical (execAsupd w s) := by
  unfold execAsupd
  split
  · exact h
  · extract_lets +onlyGivenNames r lines counted done
    have hr : r.1.canonical := checkLanes_canonical h
    have hcounted : counted.canonical := foldl_canonical (fun _ _ ha => countLine_canonical ha) hr
    have hdone : done.canonical := by
      unfold done
      refine foldl_canonical (fun a _ ha => ?_) hcounted
      exact pushAcc_canonical ha
    exact retire_canonical (acceptFlags_canonical (takeTraps_canonical hdone))

end

/-! The dispatch: words of one shape by the lemma of that shape, the others by their own. -/

section

variable {s : State}

/-- By the constructors of `Instr`. -/
theorem exec_canonical {i} (h : s.canonical) : OutcomeCanonical (exec i s) := by
  unfold exec
  cases i with
  | illz rest => exact execIllz_canonical (_rest := rest) h
  | nop => exact stateWord_canonical h (fun _ _ ha => ha)
  | braD | reform | yield | waitf => exact filingWord_canonical h (fun _ _ ha => fileAll_canonical ha)
  | braU => exact execBraU_canonical h
  | brx | ret => exact filingWord_canonical h (fun _ _ ha => indirect_canonical ha)
  | call => exact filingWord_canonical h (fun _ _ ha => foldl_canonical (fun _ _ hb => traceRecord_canonical hb) (fileAll_canonical ha))
  | exit => exact execExit_canonical h
  | trap | bkpt => exact trapWord_canonical h
  | iadd | isub | imul | imulh | imin | imax | iabs | iadd64 | imul64 => exact intWord_canonical h
  | imad | lea | bfn3 | bfi | bsel | icmp | sel | mov | movi | pset | p2v | v2p | xlane | vote | teamid | fmin | fmax | fcmp | frnd
  | hdot2 | idot4 | cvt | pack8 | unpack8 | cbdec | cvpos | tgany | tgfirst | qstat | vfrag | barq | targ | cadj | asq | srd | clk
  | wtime | sigrd | ctxq => exact laneWord_canonical h
  | idivn => exact stateWord_canonical h (fun _ _ ha => laneResults_canonical ha)
  | and | or | xor | andn | shl | shr | rotr | bfe => exact bitWord_canonical h
  | popc | clz | brev => exact bitWord1_canonical h
  | fadd | fsub | fmul | ffma | scale => exact f32Word_canonical h
  | fchk => exact actWord_canonical h (fun _ _ _ ha => ha)
  | fflags => exact execFflags_canonical h
  | dadd | dmul | dfma => exact f64Word_canonical h
  | dmin | dmax | dcmp | drnd => exact f64Lanes_canonical h
  | hadd2 | hmul2 | hfma2 | hmin2 | hmax2 => exact packedWord_canonical h
  | rcp | rsq | sqrt | exp2 | log2 | sin | cos | tanh => exact specialWord_canonical h
  | cvts => exact execCvts_canonical h
  | draw | drawf | drawb => exact drawWord_canonical h
  | cvscore => exact execCvscore_canonical h
  | ld | st | fred => exact accessWord_canonical h
  | pref => exact stateWord_canonical h (fun _ _ ha => foldl_canonical (fun _ _ hb => prefetch_canonical hb) ha)
  | ldk => exact laneActWord_canonical h (fun _ _ _ ha => ldkLane_canonical ha)
  | lda | ldc => exact bufferWord_canonical h (fun _ _ _ _ ha => pushResult_canonical ha)
  | sta => exact bufferWord_canonical h (fun _ _ _ _ ha => ha)
  | stc => exact bufferWord_canonical h (fun _ _ _ _ ha => modTile_canonical ha)
  | atom => exact execAtom_canonical h
  | cas => exact execCas_canonical h
  | red => exact execRed_canonical h
  | redobjInit => exact execRedobjInit_canonical h
  | redobjFold => exact redobjWord_canonical h
  | fence => exact execFence_canonical h
  | cflush => exact execCflush_canonical h
  | cinv => exact execCinv_canonical h
  | hwsig => exact actWord_canonical h (fun _ _ _ ha => hwsigLane_canonical ha)
  | bcopy | bgath | bscat => exact copyWord_canonical h
  | tgwait => exact execTgwait_canonical h
  | tgclr =>
    exact stateWord_canonical h (fun _ _ ha => foldl_canonical (fun _ _ hb => foldl_canonical (fun _ _ hc => modTag_canonical hc) hb) ha)
  | aslice => exact actWord_canonical h (fun _ _ _ ha => asliceLane_canonical ha)
  | qpop => exact execQpop_canonical h
  | qend => exact execQend_canonical h
  | macq => exact execMacq_canonical h
  | mrel => exact execMrel_canonical h
  | gang => exact execGang_canonical h
  | resv => exact execResv_canonical h
  | rfree => exact execRfree_canonical h
  | cbld => exact execCbld_canonical h
  | mma | mmas | mzero | mdrain | mfill => exact jointWord_canonical h
  | mwait => exact execMwait_canonical h
  | mdep => exact execMdep_canonical h
  | vmma | vmmai => exact fragWord_canonical h
  | bara => exact execBara_canonical h
  | barw => exact filingWord_canonical h (fun _ _ ha => fileFalse_canonical (foldl_canonical (fun _ _ hb => barwLane_canonical hb) ha))
  | baraw => exact execBaraw_canonical h
  | teamj => exact execTeamj_canonical h
  | tenq => exact execTenq_canonical h
  | dcnew | dcdec | dcq => exact counterWord_canonical h
  | launch => exact execLaunch_canonical h
  | mutl => exact execMutl_canonical h
  | sproj | ssort | rproj | rwlist => exact tagOpWord_canonical h
  | sfetch => exact actWord_canonical h (fun _ _ _ ha => sfetchLane_canonical ha)
  | cdep | cwmark | cread | crlist => exact ladleWord_canonical h (fun _ _ _ ha => atSlot_canonical ha)
  | crst => exact ladleWord_canonical h (fun _ _ _ ha => crstLane_canonical ha)
  | crstRel => exact ladleWord_canonical h (fun _ _ _ ha => crstRelLane_canonical ha)
  | trace => exact actWord_canonical h (fun _ _ _ ha => traceLane_canonical ha)
  | asupd => exact execAsupd_canonical h
  | tex => exact texWord_canonical h (fun _ _ _ _ ha => texSample_canonical ha)
  | tld => exact texWord_canonical h (fun _ _ _ _ ha => readTexel_canonical ha)
  | imst => exact imageWord_canonical h (fun _ _ _ ha => ha)
  | imld => exact imageWord_canonical h (fun _ _ _ ha => pushResult_canonical ha)
  | swr => exact execSwr_canonical h
  | tretRes => exact tretWord_canonical h (fun _ _ _ ha => resumeAt_canonical ha)
  | tretRst => exact tretWord_canonical h (fun _ _ _ ha => regionRestart_canonical ha)
  | tretTerm => exact tretWord_canonical h (fun _ _ _ ha => settleJoins_canonical (contain_canonical ha))
  | tqrd => exact execTqrd_canonical h
  | killg => exact execKillg_canonical h
  | privw => exact execPrivw_canonical h
  | mfrz => exact actWord_canonical h (fun _ _ _ ha => freezeLane_canonical ha (fun _ hb => hb))
  | mfrzThaw => exact actWord_canonical h (fun _ _ _ ha => freezeLane_canonical ha (fun _ hb => thawed_canonical hb))
  | progress => exact execProgress_canonical h
  | mark => exact stateWord_canonical h (fun _ _ ha => foldl_canonical (fun _ _ hb => traceRecord_canonical hb) ha)
  | stopp => exact execStopp_canonical h
  | securityAlarm => exact execSecurityAlarm_canonical h
  | pendingFrameCopied => exact execPendingFrameCopied_canonical h
  | coreGroupPlacement => exact execCoreGroupPlacement_canonical h
  | taskStart => exact execTaskStart_canonical h
  | coreGroupEnd => exact execCoreGroupEnd_canonical h
  | launchEnd => exact execLaunchEnd_canonical h
  | binDraw => exact execBinDraw_canonical h
  | overflowMove => exact execOverflowMove_canonical h
  | binAged | stallExpiry => exact h
  | agedGroupFiling => exact execAgedGroupFiling_canonical h
  | yieldExpiry => exact execYieldExpiry_canonical h
  | clauseFetchComplete => exact execClauseFetchComplete_canonical h
  | fixedResultWrite => exact execFixedResultWrite_canonical h
  | variableResultComplete => exact execVariableResultComplete_canonical h
  | dsmSlotAdvance => exact execDsmSlotAdvance_canonical h
  | dsmPhaseBoundary => exact execDsmPhaseBoundary_canonical h
  | dsmEventDelivery => exact execDsmEventDelivery_canonical h
  | dsmPhaseCommit => exact commitPhase_canonical h
  | barrierRelease => exact execBarrierRelease_canonical h
  | trapDelivery => exact execTrapDelivery_canonical h
  | coreGroupRelaunch => exact execCoreGroupRelaunch_canonical h
  | timerExpiry => exact execTimerExpiry_canonical h
  | watchpointDeferred => exact execWatchpointDeferred_canonical h
  | preemptGraceExpiry => exact execPreemptGraceExpiry_canonical h
  | preemptStopComplete => exact execPreemptStopComplete_canonical h
  | translationWalkComplete => exact execTranslationWalkComplete_canonical h
  | demandZeroFill => exact execDemandZeroFill_canonical h
  | homeAccessPerform => exact execHomeAccessPerform_canonical h
  | windowAccess => exact execWindowAccess_canonical h
  | hotnessSample => exact execHotnessSample_canonical h
  | stallSample => exact execStallSample_canonical h
  | copyComplete => exact execCopyComplete_canonical h
  | codebookSwap => exact execCodebookSwap_canonical h
  | reservationClearComplete => exact execReservationClearComplete_canonical h
  | engineGrant => exact execEngineGrant_canonical h
  | matrixOpStart => exact execMatrixOpStart_canonical h
  | matrixOpComplete => exact execMatrixOpComplete_canonical h
  | drainPortComplete => exact execDrainPortComplete_canonical h
  | streamFetch => exact execStreamFetch_canonical h
  | projectionComplete => exact unitComplete_canonical h (fun _ _ ha => projectRun_canonical ha)
  | sortComplete => exact unitComplete_canonical h (fun _ _ ha => sortRun_canonical ha)
  | reprojectionComplete => exact unitComplete_canonical h (fun _ _ ha => warpRun_canonical ha)
  | worklistComplete => exact unitComplete_canonical h (fun _ _ ha => worklistRun_canonical ha)
  | traversalRefetch => exact execTraversalRefetch_canonical h
  | whiskBuild => exact execWhiskBuild_canonical h
  | whiskJudge => exact execWhiskJudge_canonical h
  | connectionLost => exact execConnectionLost_canonical h
  | refusedDeliveryMode => exact execRefusedDeliveryMode_canonical h
  | powerGood => exact execPowerGood_canonical h
  | bringupPhaseComplete => exact execBringupPhaseComplete_canonical h
  | port0Retrain => exact execPort0Retrain_canonical h
  | powerLoss => exact execPowerLoss_canonical h
  | powerThrottleStep => exact execPowerThrottleStep_canonical h
  | eccCorrection => exact execEccCorrection_canonical h
  | uncorrectableError => exact execUncorrectableError_canonical h
  | replayComplete => exact execReplayComplete_canonical h
  | checkpointStart => exact execCheckpointStart_canonical h
  | checkpointValid => exact execCheckpointValid_canonical h
  | launchAccept => exact execLaunchAccept_canonical h
  | trialWindowEnd => exact execTrialWindowEnd_canonical h
  | signalSend => exact execSignalSend_canonical h
  | launchMessage => exact execLaunchMessage_canonical h
  | write | copyFromPeer => exact gate_canonical h (fun _ ha => hostWrite_canonical ha (fun _ _ hb => accessDone_canonical hb))
  | read => exact execRead_canonical h
  | flushData => exact execFlushData_canonical h
  | flushDataAndTlb => exact execFlushDataAndTlb_canonical h
  | windowRead => exact windowWord_canonical h (fun _ _ _ ha => respond_canonical ha)
  | windowWrite | windowFetchAdd => exact windowWord_canonical h (fun _ _ _ ha => respond_canonical (windowPut_canonical ha))
  | preemptStopAndSave => exact preemptWord_canonical h (fun _ _ _ ha => beginStop_canonical ha)
  | preemptWithNotice => exact execPreemptWithNotice_canonical h
  | restore => exact execRestore_canonical h
  | kill => exact execKill_canonical h
  | checkpointControlRead => exact execCheckpointControlRead_canonical h
  | checkpointControlWrite | raceCountEnable => exact controlPut_canonical h
  | checkpointRestore => exact execCheckpointRestore_canonical h
  | managementRead => exact execManagementRead_canonical h
  | managementWrite | hotnessEnable | freeFramesAdd | samplingEnable | trialEnable | trialDisable => exact managementPut_canonical h
  | managementReset => exact gate_canonical h (fun _ ha => modMgmt_canonical (dropVolatile_canonical (respond_canonical ha)))
  | imageWrite => exact execImageWrite_canonical h
  | imageCommit => exact execImageCommit_canonical h
  | debugClaim => exact execDebugClaim_canonical h
  | debugRelease => exact claimWord_canonical h (fun _ _ _ ha => respond_canonical (endClaim_canonical ha))
  | armTrace => exact execArmTrace_canonical h
  | stopPartition => exact execStopPartition_canonical h
  | resume => exact execResume_canonical h
  | readDump => exact execReadDump_canonical h
  | setWatchpoint => exact claimWord_canonical h (fun _ _ _ ha => respond_canonical (modClaim_canonical ha))
  | copyToPeer => exact execCopyToPeer_canonical h
  | sessionOpen => exact execSessionOpen_canonical h
  | sessionClose => exact gate_canonical h (fun _ ha => endSession_canonical (respond_canonical ha))
  | createAddressSpace => exact execCreateAddressSpace_canonical h
  | destroyAddressSpace => exact execDestroyAddressSpace_canonical h
  | malformedMessage => exact gate_canonical h (fun _ ha => ha)

end

/-! One step (log 2). -/

section

variable {s : State}

theorem outState_canonical {o} (h : s.canonical) (ho : OutcomeCanonical o) : (outState s o).canonical := by
  cases o with
  | next t => exact ho
  | fault _ | refused _ => exact h

theorem deliverMsg_canonical {conn bs} (h : s.canonical) : OutcomeCanonical (deliverMsg s conn bs) := exec_canonical h

theorem act_canonical {a} (h : s.canonical) : OutcomeCanonical (act a s) := by
  cases a with
  | event i =>
    unfold act
    dsimp only
    split
    · exact exec_canonical h
    · exact h
  | issue c =>
    unfold act
    dsimp only
    split
    · exact issueGroup_canonical h fun i _ ha => exec_canonical ha
    · exact h
  | tick => exact tick_canonical h
  | message conn bs =>
    unfold act
    dsimp only
    split
    · exact h
    · exact deliverMsg_canonical h
  | environment e => exact environment_canonical h

theorem logAction_canonical {a} (h : s.canonical) : (logAction a s).canonical := by
  unfold logAction
  split <;> exact h

theorem perform_canonical {a} (h : s.canonical) : OutcomeCanonical (perform a s) := by
  unfold perform
  split
  · next e =>
      have he := canonical_of_eq_next (act_canonical h) e
      exact ite_canonical he (logAction_canonical he)
  · exact trivial
  · exact trivial

theorem performAgain_canonical {a} (h : s.canonical) : OutcomeCanonical (performAgain a s) := by
  have hp := perform_canonical (s := { s with inbox := [] }) (a := a) h
  unfold performAgain
  split
  · next e => rw [e] at hp; exact outcomeCanonical_next.1 hp
  all_goals trivial

theorem retryMsg_canonical {i} (h : s.canonical) : ∀ r, retryMsg s i = some r → r.1.canonical := by
  intro r hr
  unfold retryMsg at hr
  split at hr
  · cases hr
  · next conn bs _ =>
    extract_lets before t at hr
    have ht : t.canonical := by
      exact outState_canonical h (deliverMsg_canonical h)
    clear_value t
    split at hr
    · cases hr
    · split at hr
      · cases hr; exact ht
      · cases hr

theorem nextRetry_canonical (h : s.canonical) : ∀ r, nextRetry s = some r → r.1.canonical := by
  intro r hr
  unfold nextRetry at hr
  split at hr
  · cases hr
  · obtain ⟨i, -, hi⟩ := List.exists_of_findSome?_eq_some hr
    exact retryMsg_canonical h r hi

theorem stepFree_canonical (h : s.canonical) : OutcomeCanonical (stepFree s) := by
  unfold stepFree
  split
  · trivial
  · split
    · next hr => exact logAction_canonical (nextRetry_canonical h _ hr)
    · exact perform_canonical h

theorem stepAgenda_canonical {a} (h : s.canonical) : OutcomeCanonical (stepAgenda a s) := by
  unfold stepAgenda
  split
  · exact h
  · exact h
  · exact perform_canonical h

theorem step_canonical (h : s.canonical) : OutcomeCanonical (step s) := by
  unfold step
  split
  · exact stepAgenda_canonical h
  · split
    · exact stepFree_canonical h
    · split
      · exact performAgain_canonical h
      · exact stepFree_canonical h

end

/-- Settles O58: the state that `step` goes on with is canonical by `step_canonical`. -/
theorem stepKeepsCanonicalMemory : Obligations.StepKeepsCanonicalMemory := by
  intro s t h hst
  have := step_canonical h
  rw [hst] at this
  exact this

end Sys2Proof.Machine

/-! The words of 02: the fields of a modifier (02 R40, R41), and that the decoder and the encoder are each other's inverse (02 R25-R33, R45). -/

namespace Sys2Proof

-- One proof after the other: the check's memory limit counts the stack of every thread that elaborates a proof.
set_option Elab.async false

/-! Appended fields are equal to a word where each equals its bits of the word. -/

theorem append_eq_iff {m n : Nat} (a : BitVec m) (b : BitVec n) (x : BitVec (m + n)) :
    a ++ b = x ↔ a = x.extractLsb' n m ∧ b = x.extractLsb' 0 n := by
  constructor
  · rintro rfl
    exact ⟨by simp [BitVec.extractLsb'_append_eq_of_le], by simp [BitVec.extractLsb'_append_eq_of_add_le]⟩
  · rintro ⟨rfl, rfl⟩
    simp [BitVec.extractLsb'_append_extractLsb'_eq_extractLsb']

theorem extractLsb'_extractLsb' {w : Nat} (x : BitVec w) (s n t k : Nat) (h : t + k ≤ n) :
    (x.extractLsb' s n).extractLsb' t k = x.extractLsb' (s + t) k := by
  ext i hi
  simp [show t + i < n by omega, Nat.add_assoc]

theorem append₃_eq_iff {m n k : Nat} (a : BitVec m) (b : BitVec n) (c : BitVec k) (x : BitVec (m + n + k)) :
    a ++ b ++ c = x ↔ a = x.extractLsb' (k + n) m ∧ b = x.extractLsb' k n ∧ c = x.extractLsb' 0 k := by
  rw [append_eq_iff, append_eq_iff, extractLsb'_extractLsb' _ _ _ _ _ (by omega), extractLsb'_extractLsb' _ _ _ _ _ (by omega),
    and_assoc, Nat.add_zero]

theorem append₄_eq_iff {m n k l : Nat} (a : BitVec m) (b : BitVec n) (c : BitVec k) (d : BitVec l) (x : BitVec (m + n + k + l)) :
    a ++ b ++ c ++ d = x ↔ a = x.extractLsb' (l + (k + n)) m ∧ b = x.extractLsb' (l + k) n ∧ c = x.extractLsb' l k
      ∧ d = x.extractLsb' 0 l := by
  rw [append_eq_iff, append₃_eq_iff, extractLsb'_extractLsb' _ _ _ _ _ (by omega), extractLsb'_extractLsb' _ _ _ _ _ (by omega),
    extractLsb'_extractLsb' _ _ _ _ _ (by omega), and_assoc, and_assoc, Nat.add_zero]

theorem bitOf_eq_extractLsb' {w : Nat} (b : Bool) (x : BitVec w) (n : Nat) : bitOf b = x.extractLsb' n 1 ↔ b = x.getLsbD n := by
  have h : x.extractLsb' n 1 = bitOf (x.getLsbD n) := by
    ext i hi
    cases hx : x.getLsbD n <;> simp [bitOf, hx, show i = 0 by omega]
  rw [h]
  cases b <;> cases x.getLsbD n <;> decide

theorem packWord_eq_iff (op g m : BitVec 10) (a b c : BitVec 22) (x : IWord) :
    packWord op g m a b c = x ↔ op = x.extractLsb' 86 10 ∧ g = x.extractLsb' 76 10 ∧ m = x.extractLsb' 66 10
      ∧ a = x.extractLsb' 44 22 ∧ b = x.extractLsb' 22 22 ∧ c = x.extractLsb' 0 22 := by
  unfold packWord
  rw [append₄_eq_iff, append₃_eq_iff]
  simp [extractLsb'_extractLsb', and_assoc]

/-! A code reads back as its field, and as no other (02 R29, R41; 03 R48). -/

theorem Ty.ofCode_iff (c : BitVec 4) (t : Ty) : Ty.ofCode c = some t ↔ t.code = c := by
  revert c; cases t <;> decide

theorem Cmp.ofCode_iff (c : BitVec 3) (t : Cmp) : Cmp.ofCode c = some t ↔ t.code = c := by
  revert c; cases t <;> decide

theorem Comb.ofCode_iff (c : BitVec 2) (t : Comb) : Comb.ofCode c = some t ↔ t.code = c := by
  revert c; cases t <;> decide

theorem Scope.ofCode_iff (c : BitVec 3) (t : Scope) : Scope.ofCode c = some t ↔ t.code = c := by
  revert c; cases t <;> decide

theorem MemOrd.ofCode_iff (c : BitVec 2) (t : MemOrd) : MemOrd.ofCode c = some t ↔ t.code = c := by
  revert c; cases t <;> decide

theorem RMode.ofCode_iff (c : BitVec 2) (t : RMode) : RMode.ofCode c = some t ↔ t.code = c := by
  revert c; cases t <;> decide

theorem LaneMode.ofCode_iff (c : BitVec 2) (t : LaneMode) : LaneMode.ofCode c = some t ↔ t.code = c := by
  revert c; cases t <;> decide

theorem VoteForm.ofCode_iff (c : BitVec 2) (t : VoteForm) : VoteForm.ofCode c = some t ↔ t.code = c := by
  revert c; cases t <;> decide

theorem ResKind.code_of_ofCode {c : BitVec 4} {k : ResKind} : ResKind.ofCode c = some k → k.code = c := by
  revert c; cases k <;> decide

/-! Guards and operands have one spelling. -/

theorem eq_of_toNat_eq_ofNat {w n : Nat} {x : BitVec w} (h : x.toNat = n) : x = BitVec.ofNat w n := by
  rw [← h, BitVec.ofNat_toNat, BitVec.setWidth_eq]

theorem Ctl.encode_decode (x : BitVec 10) : (Ctl.decode x).encode = x := by
  revert x; decide

theorem Opd.encode_of_decode {x : BitVec 22} {o : Opd} (h : Opd.decode x = some o) : o.encode = x := by
  unfold Opd.decode at h
  split at h
  case h_1 hc | h_3 hc =>
    obtain ⟨h0, ⟨⟩⟩ := Option.ite_none_right_eq_some.mp h
    unfold Opd.encode
    rw [append₄_eq_iff, append_eq_iff]
    simp [extractLsb'_extractLsb', bitOf_eq_extractLsb', h0, eq_of_toNat_eq_ofNat hc]
  case h_2 hc =>
    obtain ⟨h0, ⟨⟩⟩ := Option.ite_none_right_eq_some.mp h
    exact (append₄_eq_iff ..).mpr (by simp [bitOf_eq_extractLsb', h0, eq_of_toNat_eq_ofNat hc])
  case h_4 hc | h_6 hc =>
    obtain ⟨h0, ⟨⟩⟩ := Option.ite_none_right_eq_some.mp h
    exact (append₃_eq_iff ..).mpr (by simp [h0, eq_of_toNat_eq_ofNat hc])
  case h_5 hc =>
    obtain rfl := Option.some.inj h
    exact (append_eq_iff ..).mpr (by simp [eq_of_toNat_eq_ofNat hc])
  case h_7 hc =>
    obtain ⟨h0, h⟩ := Option.ite_none_right_eq_some.mp h
    split at h
    · next kd hk =>
      obtain ⟨-, ⟨⟩⟩ := Option.ite_none_right_eq_some.mp h
      exact (append₄_eq_iff ..).mpr (by simp [h0, eq_of_toNat_eq_ofNat hc, ResKind.code_of_ofCode hk])
    · cases h
  case h_8 h0 h1 h2 h3 h4 h5 h6 =>
    obtain ⟨hx, ⟨⟩⟩ := Option.ite_none_right_eq_some.mp h
    have hc : (x.extractLsb' 19 3).toNat = 7 := by have := (x.extractLsb' 19 3).isLt; grind
    exact (append_eq_iff ..).mpr (by simp [hx, eq_of_toNat_eq_ofNat hc])

theorem Wd.encode_of_decode {g : BitVec 10} {a b c : BitVec 22} {w : Wd} (h : Wd.decode g a b c = some w) :
    w.ctl.encode = g ∧ w.a.encode = a ∧ w.b.encode = b ∧ w.c.encode = c := by
  unfold Wd.decode at h
  split at h
  · next oa ob oc ha hb hc =>
    obtain rfl := Option.some.inj h
    exact ⟨Ctl.encode_decode g, Opd.encode_of_decode ha, Opd.encode_of_decode hb, Opd.encode_of_decode hc⟩
  · cases h

theorem WideWd.encode_of_decode {g : BitVec 10} {a b c : BitVec 22} {w : WideWd} (h : WideWd.decode g a b c = some w) :
    w.ctl.encode = g ∧ w.a.encode = a ∧ (0 : BitVec 12) ++ w.imm = b ++ c := by
  unfold WideWd.decode at h
  split at h
  · next oa ha =>
    obtain ⟨h0, ⟨⟩⟩ := Option.ite_none_right_eq_some.mp h
    exact ⟨Ctl.encode_decode g, Opd.encode_of_decode ha, (append_eq_iff ..).mpr ⟨h0.symm, rfl⟩⟩
  · cases h

/-- The word of operands that fields decode to has these fields. -/
theorem wordOf_of_decode {op g m : BitVec 10} {a b c : BitVec 22} {w : Wd} (h : Wd.decode g a b c = some w) :
    wordOf op m w = packWord op g m a b c := by
  obtain ⟨hg, ha, hb, hc⟩ := Wd.encode_of_decode h
  rw [wordOf, hg, ha, hb, hc]

theorem wideOf_of_decode {op g m : BitVec 10} {a b c : BitVec 22} {w : WideWd} (h : WideWd.decode g a b c = some w) :
    wideOf op m w = packWord op g m a b c := by
  obtain ⟨hg, ha, hi⟩ := WideWd.encode_of_decode h
  obtain ⟨hb, hc⟩ := (append_eq_iff b c _).mp hi.symm
  rw [wideOf_eq, hg, ha, hb, hc]

/-! Where the decoder accepts: the checks taken apart, then one lemma for each layout of the modifier. -/

theorem checkMod_eq_ok (p : Bool) (f : Except DecodeError Instr) (i : Instr) : checkMod p f = .ok i ↔ p = true ∧ f = .ok i := by
  cases p <;> simp [checkMod]

theorem withField_eq_ok {α : Type} (x : Option α) (f : α → Except DecodeError Instr) (i : Instr) :
    withField x f = .ok i ↔ ∃ y, x = some y ∧ f y = .ok i := by
  cases x <;> simp [withField]

theorem withOperands_eq_ok {α : Type} (x : Option α) (f : α → Instr) (i : Instr) :
    withOperands x f = .ok i ↔ ∃ w, x = some w ∧ f w = i := by
  cases x <;> simp [withOperands]

section

variable {α : Type} {m : BitVec 10} {W : Option α} {i : Instr}

theorem accepts_plain_iff {mk : α → Instr} :
    (checkMod (decide (m.extractLsb' 0 10 = 0)) <| withOperands W mk) = .ok i ↔ ∃ w, (0 : BitVec 10) = m ∧ W = some w ∧ mk w = i := by
  simp only [checkMod_eq_ok, withOperands_eq_ok, decide_eq_true_eq, BitVec.extractLsb'_eq_self]
  grind

theorem accepts_const_iff {k : BitVec 4} {mk : α → Instr} :
    (checkMod (decide (m.extractLsb' 0 6 = 0) && decide (m.extractLsb' 6 4 = k)) <| withOperands W mk) = .ok i
      ↔ ∃ w, k ++ (0 : BitVec 6) = m ∧ W = some w ∧ mk w = i := by
  have e := append_eq_iff k (0 : BitVec 6) m
  simp only [checkMod_eq_ok, withOperands_eq_ok, Bool.and_eq_true, decide_eq_true_eq, e]
  grind

theorem accepts_ty_iff {mk : α → Ty → Instr} :
    (checkMod (decide (m.extractLsb' 0 6 = 0)) <| withField (Ty.ofCode (m.extractLsb' 6 4)) fun ty => withOperands W fun w => mk w ty)
      = .ok i ↔ ∃ ty w, ty.code ++ (0 : BitVec 6) = m ∧ W = some w ∧ mk w ty = i := by
  have e := fun ty : Ty => append_eq_iff ty.code (0 : BitVec 6) m
  simp only [checkMod_eq_ok, withField_eq_ok, withOperands_eq_ok, decide_eq_true_eq, Ty.ofCode_iff, e]
  grind

theorem accepts_ty_bit_iff {mk : α → Ty → Bool → Instr} :
    (checkMod (decide (m.extractLsb' 1 5 = 0)) <| withField (Ty.ofCode (m.extractLsb' 6 4)) fun ty => withOperands W fun w =>
      mk w ty (m.getLsbD 0)) = .ok i ↔ ∃ ty b w, ty.code ++ (0 : BitVec 5) ++ bitOf b = m ∧ W = some w ∧ mk w ty b = i := by
  have e := fun (ty : Ty) b => append₃_eq_iff ty.code (0 : BitVec 5) (bitOf b) m
  simp only [checkMod_eq_ok, withField_eq_ok, withOperands_eq_ok, decide_eq_true_eq, Ty.ofCode_iff, e, bitOf_eq_extractLsb']
  grind

theorem accepts_ty_bit_bit_iff {mk : α → Ty → Bool → Bool → Instr} :
    (checkMod (decide (m.extractLsb' 2 4 = 0)) <| withField (Ty.ofCode (m.extractLsb' 6 4)) fun ty => withOperands W fun w =>
      mk w ty (m.getLsbD 1) (m.getLsbD 0)) = .ok i
      ↔ ∃ ty b₁ b₀ w, ty.code ++ (0 : BitVec 4) ++ bitOf b₁ ++ bitOf b₀ = m ∧ W = some w ∧ mk w ty b₁ b₀ = i := by
  have e := fun (ty : Ty) b₁ b₀ => append₄_eq_iff ty.code (0 : BitVec 4) (bitOf b₁) (bitOf b₀) m
  simp only [checkMod_eq_ok, withField_eq_ok, withOperands_eq_ok, decide_eq_true_eq, Ty.ofCode_iff, e, bitOf_eq_extractLsb']
  grind

theorem accepts_ty_number_iff {mk : α → Ty → BitVec 3 → Instr} :
    (checkMod (decide (m.extractLsb' 3 3 = 0)) <| withField (Ty.ofCode (m.extractLsb' 6 4)) fun ty => withOperands W fun w =>
      mk w ty (m.extractLsb' 0 3)) = .ok i ↔ ∃ ty n w, ty.code ++ (0 : BitVec 3) ++ n = m ∧ W = some w ∧ mk w ty n = i := by
  have e := fun (ty : Ty) (n : BitVec 3) => append₃_eq_iff ty.code (0 : BitVec 3) n m
  simp only [checkMod_eq_ok, withField_eq_ok, withOperands_eq_ok, decide_eq_true_eq, Ty.ofCode_iff, e]
  grind

theorem accepts_const_bit_iff {k : BitVec 4} {mk : α → Bool → Instr} :
    (checkMod (decide (m.extractLsb' 1 5 = 0) && decide (m.extractLsb' 6 4 = k)) <| withOperands W fun w => mk w (m.getLsbD 0)) = .ok i
      ↔ ∃ b w, k ++ (0 : BitVec 5) ++ bitOf b = m ∧ W = some w ∧ mk w b = i := by
  have e := fun b => append₃_eq_iff k (0 : BitVec 5) (bitOf b) m
  simp only [checkMod_eq_ok, withOperands_eq_ok, Bool.and_eq_true, decide_eq_true_eq, e, bitOf_eq_extractLsb']
  grind

theorem accepts_bit_iff {mk : α → Bool → Instr} :
    (checkMod (decide (m.extractLsb' 1 9 = 0)) <| withOperands W fun w => mk w (m.getLsbD 0)) = .ok i
      ↔ ∃ b w, (0 : BitVec 9) ++ bitOf b = m ∧ W = some w ∧ mk w b = i := by
  have e := fun b => append_eq_iff (0 : BitVec 9) (bitOf b) m
  simp only [checkMod_eq_ok, withOperands_eq_ok, decide_eq_true_eq, e, bitOf_eq_extractLsb']
  grind

theorem accepts_number_iff {p n : Nat} {mk : α → BitVec n → Instr} (m : BitVec (p + n)) :
    (checkMod (decide (m.extractLsb' n p = 0)) <| withOperands W fun w => mk w (m.extractLsb' 0 n)) = .ok i
      ↔ ∃ x w, (0 : BitVec p) ++ x = m ∧ W = some w ∧ mk w x = i := by
  simp only [checkMod_eq_ok, withOperands_eq_ok, decide_eq_true_eq, append_eq_iff]
  grind

theorem accepts_code_iff {p n : Nat} {F : Type} {code : F → BitVec n} {ofCode : BitVec n → Option F} {mk : α → F → Instr}
    (hF : ∀ c y, ofCode c = some y ↔ code y = c) (m : BitVec (p + n)) :
    (checkMod (decide (m.extractLsb' n p = 0)) <| withField (ofCode (m.extractLsb' 0 n)) fun y => withOperands W fun w => mk w y) = .ok i
      ↔ ∃ y w, (0 : BitVec p) ++ code y = m ∧ W = some w ∧ mk w y = i := by
  simp only [checkMod_eq_ok, withField_eq_ok, withOperands_eq_ok, decide_eq_true_eq, hF, append_eq_iff]
  grind

theorem accepts_code_bit_iff {mk : α → Ty → Bool → Instr} :
    (checkMod (decide (m.extractLsb' 5 5 = 0)) <| withField (Ty.ofCode (m.extractLsb' 1 4)) fun ty => withOperands W fun w =>
      mk w ty (m.getLsbD 0)) = .ok i ↔ ∃ ty b w, (0 : BitVec 5) ++ ty.code ++ bitOf b = m ∧ W = some w ∧ mk w ty b = i := by
  have e := fun (ty : Ty) b => append₃_eq_iff (0 : BitVec 5) ty.code (bitOf b) m
  simp only [checkMod_eq_ok, withField_eq_ok, withOperands_eq_ok, decide_eq_true_eq, Ty.ofCode_iff, e, bitOf_eq_extractLsb']
  grind

theorem accepts_const_code_iff {F : Type} {code : F → BitVec 2} {ofCode : BitVec 2 → Option F} {k : BitVec 4} {mk : α → F → Instr}
    (hF : ∀ c y, ofCode c = some y ↔ code y = c) :
    (checkMod (decide (m.extractLsb' 2 4 = 0) && decide (m.extractLsb' 6 4 = k)) <| withField (ofCode (m.extractLsb' 0 2)) fun y =>
      withOperands W fun w => mk w y) = .ok i ↔ ∃ y w, k ++ (0 : BitVec 4) ++ code y = m ∧ W = some w ∧ mk w y = i := by
  have e := fun y => append₃_eq_iff k (0 : BitVec 4) (code y) m
  simp only [checkMod_eq_ok, withField_eq_ok, withOperands_eq_ok, Bool.and_eq_true, decide_eq_true_eq, hF, e]
  grind

theorem accepts_ty_cmp_comb_iff {mk : α → Ty → Cmp → Comb → Instr} :
    (checkMod (decide (m.extractLsb' 2 1 = 0)) <| withField (Ty.ofCode (m.extractLsb' 6 4)) fun ty =>
      withField (Cmp.ofCode (m.extractLsb' 3 3)) fun cmp => withField (Comb.ofCode (m.extractLsb' 0 2)) fun comb =>
      withOperands W fun w => mk w ty cmp comb) = .ok i
      ↔ ∃ ty cmp comb w, ty.code ++ cmp.code ++ (0 : BitVec 1) ++ comb.code = m ∧ W = some w ∧ mk w ty cmp comb = i := by
  have e := fun (ty : Ty) (cmp : Cmp) (comb : Comb) => append₄_eq_iff ty.code cmp.code (0 : BitVec 1) comb.code m
  simp only [checkMod_eq_ok, withField_eq_ok, withOperands_eq_ok, decide_eq_true_eq, Ty.ofCode_iff, Cmp.ofCode_iff, Comb.ofCode_iff, e]
  grind

theorem accepts_const_cmp_comb_iff {k : BitVec 4} {mk : α → Cmp → Comb → Instr} :
    (checkMod (decide (m.extractLsb' 2 1 = 0) && decide (m.extractLsb' 6 4 = k)) <| withField (Cmp.ofCode (m.extractLsb' 3 3)) fun cmp =>
      withField (Comb.ofCode (m.extractLsb' 0 2)) fun comb => withOperands W fun w => mk w cmp comb) = .ok i
      ↔ ∃ cmp comb w, k ++ cmp.code ++ (0 : BitVec 1) ++ comb.code = m ∧ W = some w ∧ mk w cmp comb = i := by
  have e := fun (cmp : Cmp) (comb : Comb) => append₄_eq_iff k cmp.code (0 : BitVec 1) comb.code m
  simp only [checkMod_eq_ok, withField_eq_ok, withOperands_eq_ok, Bool.and_eq_true, decide_eq_true_eq, Cmp.ofCode_iff, Comb.ofCode_iff, e]
  grind

theorem accepts_ty_bit_number_iff {mk : α → Ty → Bool → BitVec 3 → Instr} :
    (checkMod (decide (m.extractLsb' 4 2 = 0)) <| withField (Ty.ofCode (m.extractLsb' 6 4)) fun ty => withOperands W fun w =>
      mk w ty (m.getLsbD 3) (m.extractLsb' 0 3)) = .ok i
      ↔ ∃ ty b n w, ty.code ++ (0 : BitVec 2) ++ bitOf b ++ n = m ∧ W = some w ∧ mk w ty b n = i := by
  have e := fun (ty : Ty) b (n : BitVec 3) => append₄_eq_iff ty.code (0 : BitVec 2) (bitOf b) n m
  simp only [checkMod_eq_ok, withField_eq_ok, withOperands_eq_ok, decide_eq_true_eq, Ty.ofCode_iff, e, bitOf_eq_extractLsb']
  grind

theorem accepts_ty_number_mode_iff {mk : α → Ty → BitVec 3 → LaneMode → Instr} :
    (checkMod (decide (m.extractLsb' 5 1 = 0)) <| withField (Ty.ofCode (m.extractLsb' 6 4)) fun ty =>
      withField (LaneMode.ofCode (m.extractLsb' 0 2)) fun mode => withOperands W fun w => mk w ty (m.extractLsb' 2 3) mode) = .ok i
      ↔ ∃ ty n mode w, ty.code ++ (0 : BitVec 1) ++ n ++ mode.code = m ∧ W = some w ∧ mk w ty n mode = i := by
  have e := fun (ty : Ty) (n : BitVec 3) (mode : LaneMode) => append₄_eq_iff ty.code (0 : BitVec 1) n mode.code m
  simp only [checkMod_eq_ok, withField_eq_ok, withOperands_eq_ok, decide_eq_true_eq, Ty.ofCode_iff, LaneMode.ofCode_iff, e]
  grind

theorem accepts_ty_ty_bit_iff {mk : α → Ty → Ty → Bool → Instr} :
    (checkMod (decide (m.extractLsb' 1 1 = 0)) <| withField (Ty.ofCode (m.extractLsb' 6 4)) fun ty =>
      withField (Ty.ofCode (m.extractLsb' 2 4)) fun sty => withOperands W fun w => mk w ty sty (m.getLsbD 0)) = .ok i
      ↔ ∃ ty sty b w, ty.code ++ sty.code ++ (0 : BitVec 1) ++ bitOf b = m ∧ W = some w ∧ mk w ty sty b = i := by
  have e := fun (ty sty : Ty) b => append₄_eq_iff ty.code sty.code (0 : BitVec 1) (bitOf b) m
  simp only [checkMod_eq_ok, withField_eq_ok, withOperands_eq_ok, decide_eq_true_eq, Ty.ofCode_iff, e, bitOf_eq_extractLsb']
  grind

/-! Type, scope, ordering and one bit (02 R41). -/

theorem accepts_ty_scope_ord_bit_iff {mk : α → Ty → Scope → MemOrd → Bool → Instr} :
    (checkMod true <| withField (Ty.ofCode (m.extractLsb' 6 4)) fun ty => withField (Scope.ofCode (m.extractLsb' 3 3)) fun sc =>
      withField (MemOrd.ofCode (m.extractLsb' 1 2)) fun ord => withOperands W fun w => mk w ty sc ord (m.getLsbD 0)) = .ok i
      ↔ ∃ ty sc ord b w, ty.code ++ sc.code ++ ord.code ++ bitOf b = m ∧ W = some w ∧ mk w ty sc ord b = i := by
  have e := fun (ty : Ty) (sc : Scope) (ord : MemOrd) b => append₄_eq_iff ty.code sc.code ord.code (bitOf b) m
  simp only [checkMod_eq_ok, withField_eq_ok, withOperands_eq_ok, Ty.ofCode_iff, Scope.ofCode_iff, MemOrd.ofCode_iff, e,
    bitOf_eq_extractLsb']
  grind

theorem accepts_ty_scope_ord_iff {mk : α → Ty → Scope → MemOrd → Instr} :
    (checkMod (decide (m.extractLsb' 0 1 = 0)) <| withField (Ty.ofCode (m.extractLsb' 6 4)) fun ty =>
      withField (Scope.ofCode (m.extractLsb' 3 3)) fun sc => withField (MemOrd.ofCode (m.extractLsb' 1 2)) fun ord =>
      withOperands W fun w => mk w ty sc ord) = .ok i
      ↔ ∃ ty sc ord w, ty.code ++ sc.code ++ ord.code ++ (0 : BitVec 1) = m ∧ W = some w ∧ mk w ty sc ord = i := by
  have e := fun (ty : Ty) (sc : Scope) (ord : MemOrd) => append₄_eq_iff ty.code sc.code ord.code (0 : BitVec 1) m
  simp only [checkMod_eq_ok, withField_eq_ok, withOperands_eq_ok, decide_eq_true_eq, Ty.ofCode_iff, Scope.ofCode_iff, MemOrd.ofCode_iff, e]
  grind

theorem accepts_ty_const_iff {k : BitVec 3} {k' : BitVec 2} {mk : α → Ty → Instr} :
    (checkMod (decide (m.extractLsb' 0 1 = 0) && decide (m.extractLsb' 3 3 = k) && decide (m.extractLsb' 1 2 = k')) <|
      withField (Ty.ofCode (m.extractLsb' 6 4)) fun ty => withOperands W fun w => mk w ty) = .ok i
      ↔ ∃ ty w, ty.code ++ k ++ k' ++ (0 : BitVec 1) = m ∧ W = some w ∧ mk w ty = i := by
  have e := fun (ty : Ty) => append₄_eq_iff ty.code k k' (0 : BitVec 1) m
  simp only [checkMod_eq_ok, withField_eq_ok, withOperands_eq_ok, Bool.and_eq_true, decide_eq_true_eq, Ty.ofCode_iff, e]
  grind

theorem accepts_const₃_iff {k : BitVec 4} {k' : BitVec 3} {k'' : BitVec 2} {mk : α → Instr} :
    (checkMod (decide (m.extractLsb' 0 1 = 0) && decide (m.extractLsb' 6 4 = k) && decide (m.extractLsb' 3 3 = k')
      && decide (m.extractLsb' 1 2 = k'')) <| withOperands W mk) = .ok i
      ↔ ∃ w, k ++ k' ++ k'' ++ (0 : BitVec 1) = m ∧ W = some w ∧ mk w = i := by
  have e := append₄_eq_iff k k' k'' (0 : BitVec 1) m
  simp only [checkMod_eq_ok, withOperands_eq_ok, Bool.and_eq_true, decide_eq_true_eq, e]
  grind

theorem accepts_const₃_bit_iff {k : BitVec 4} {k' : BitVec 3} {k'' : BitVec 2} {mk : α → Bool → Instr} :
    (checkMod (decide (m.extractLsb' 6 4 = k) && decide (m.extractLsb' 3 3 = k') && decide (m.extractLsb' 1 2 = k'')) <|
      withOperands W fun w => mk w (m.getLsbD 0)) = .ok i
      ↔ ∃ b w, k ++ k' ++ k'' ++ bitOf b = m ∧ W = some w ∧ mk w b = i := by
  have e := fun b => append₄_eq_iff k k' k'' (bitOf b) m
  simp only [checkMod_eq_ok, withOperands_eq_ok, Bool.and_eq_true, decide_eq_true_eq, e, bitOf_eq_extractLsb']
  grind

theorem accepts_const_scope_ord_iff {k : BitVec 4} {mk : α → Scope → MemOrd → Instr} :
    (checkMod (decide (m.extractLsb' 0 1 = 0) && decide (m.extractLsb' 6 4 = k)) <| withField (Scope.ofCode (m.extractLsb' 3 3)) fun sc =>
      withField (MemOrd.ofCode (m.extractLsb' 1 2)) fun ord => withOperands W fun w => mk w sc ord) = .ok i
      ↔ ∃ sc ord w, k ++ sc.code ++ ord.code ++ (0 : BitVec 1) = m ∧ W = some w ∧ mk w sc ord = i := by
  have e := fun (sc : Scope) (ord : MemOrd) => append₄_eq_iff k sc.code ord.code (0 : BitVec 1) m
  simp only [checkMod_eq_ok, withField_eq_ok, withOperands_eq_ok, Bool.and_eq_true, decide_eq_true_eq, Scope.ofCode_iff, MemOrd.ofCode_iff, e]
  grind

/-! Opcodes of several forms, told apart by the low bits of the modifier. -/

theorem two_forms_iff {f f' : Except DecodeError Instr} :
    (if m.extractLsb' 0 1 = 0 then f else if m.extractLsb' 0 1 = 1 then f' else .error .reservedModifier) = .ok i
      ↔ (m.extractLsb' 0 1 = 0 ∧ f = .ok i) ∨ (m.extractLsb' 0 1 = 1 ∧ f' = .ok i) := by
  grind

theorem accepts_forms_iff {mk mk' : α → Instr} :
    (if m.extractLsb' 0 1 = 0 then checkMod (decide (m.extractLsb' 1 9 = 0)) <| withOperands W mk
      else if m.extractLsb' 0 1 = 1 then checkMod (decide (m.extractLsb' 1 9 = 0)) <| withOperands W mk'
      else .error .reservedModifier) = .ok i
      ↔ (∃ w, (0 : BitVec 9) ++ (0 : BitVec 1) = m ∧ W = some w ∧ mk w = i)
        ∨ ∃ w, (0 : BitVec 9) ++ (1 : BitVec 1) = m ∧ W = some w ∧ mk' w = i := by
  have e := fun k : BitVec 1 => append_eq_iff (0 : BitVec 9) k m
  simp only [two_forms_iff, checkMod_eq_ok, withOperands_eq_ok, decide_eq_true_eq, e]
  grind

theorem accepts_ty_scope_ord_forms_iff {mk mk' : α → Ty → Scope → MemOrd → Instr} :
    (if m.extractLsb' 0 1 = 0 then
      checkMod true <| withField (Ty.ofCode (m.extractLsb' 6 4)) fun ty => withField (Scope.ofCode (m.extractLsb' 3 3)) fun sc =>
        withField (MemOrd.ofCode (m.extractLsb' 1 2)) fun ord => withOperands W fun w => mk w ty sc ord
      else if m.extractLsb' 0 1 = 1 then
      checkMod true <| withField (Ty.ofCode (m.extractLsb' 6 4)) fun ty => withField (Scope.ofCode (m.extractLsb' 3 3)) fun sc =>
        withField (MemOrd.ofCode (m.extractLsb' 1 2)) fun ord => withOperands W fun w => mk' w ty sc ord
      else .error .reservedModifier) = .ok i
      ↔ (∃ ty sc ord w, ty.code ++ sc.code ++ ord.code ++ (0 : BitVec 1) = m ∧ W = some w ∧ mk w ty sc ord = i)
        ∨ ∃ ty sc ord w, ty.code ++ sc.code ++ ord.code ++ (1 : BitVec 1) = m ∧ W = some w ∧ mk' w ty sc ord = i := by
  have e := fun (ty : Ty) (sc : Scope) (ord : MemOrd) (k : BitVec 1) => append₄_eq_iff ty.code sc.code ord.code k m
  simp only [two_forms_iff, checkMod_eq_ok, withField_eq_ok, withOperands_eq_ok, Ty.ofCode_iff, Scope.ofCode_iff, MemOrd.ofCode_iff, e]
  grind

theorem three_forms_iff {f₀ f₁ f₂ : Except DecodeError Instr} :
    (if m.extractLsb' 0 2 = 0 then f₀ else if m.extractLsb' 0 2 = 1 then f₁ else if m.extractLsb' 0 2 = 2 then f₂
      else .error .reservedModifier) = .ok i
      ↔ (m.extractLsb' 0 2 = 0 ∧ f₀ = .ok i) ∨ (m.extractLsb' 0 2 = 1 ∧ f₁ = .ok i) ∨ (m.extractLsb' 0 2 = 2 ∧ f₂ = .ok i) := by
  grind

theorem accepts_three_forms_iff {mk₀ mk₁ mk₂ : α → Instr} :
    (if m.extractLsb' 0 2 = 0 then checkMod (decide (m.extractLsb' 2 8 = 0)) <| withOperands W mk₀
      else if m.extractLsb' 0 2 = 1 then checkMod (decide (m.extractLsb' 2 8 = 0)) <| withOperands W mk₁
      else if m.extractLsb' 0 2 = 2 then checkMod (decide (m.extractLsb' 2 8 = 0)) <| withOperands W mk₂
      else .error .reservedModifier) = .ok i
      ↔ (∃ w, (0 : BitVec 8) ++ (0 : BitVec 2) = m ∧ W = some w ∧ mk₀ w = i)
        ∨ (∃ w, (0 : BitVec 8) ++ (1 : BitVec 2) = m ∧ W = some w ∧ mk₁ w = i)
        ∨ ∃ w, (0 : BitVec 8) ++ (2 : BitVec 2) = m ∧ W = some w ∧ mk₂ w = i := by
  have e := fun k : BitVec 2 => append_eq_iff (0 : BitVec 8) k m
  simp only [three_forms_iff, checkMod_eq_ok, withOperands_eq_ok, decide_eq_true_eq, e]
  grind

end

/-! Encoding what was decoded (02 R45). -/

/-- An opcode is its class and the operation in it (02 R25); `n` is the operation that an arm of the decoder stands for. -/
theorem encodeWord_of_wd {i : Instr} {op g m : BitVec 10} {cls o : BitVec 5} {n : Nat} {a b c : BitVec 22} {w : Wd}
    (hi : encodeWord i = some (wordOf op m w)) (ho : o.toNat = n) (hop : cls ++ BitVec.ofNat 5 n = op)
    (hw : Wd.decode g a b c = some w) : encodeWord i = some (packWord (cls ++ o) g m a b c) := by
  rw [hi, wordOf_of_decode hw, ← hop, ← eq_of_toNat_eq_ofNat ho]

theorem encodeWord_of_wideWd {i : Instr} {op g m : BitVec 10} {cls o : BitVec 5} {n : Nat} {a b c : BitVec 22} {w : WideWd}
    (hi : encodeWord i = some (wideOf op m w)) (ho : o.toNat = n) (hop : cls ++ BitVec.ofNat 5 n = op)
    (hw : WideWd.decode g a b c = some w) : encodeWord i = some (packWord (cls ++ o) g m a b c) := by
  rw [hi, wideOf_of_decode hw, ← hop, ← eq_of_toNat_eq_ofNat ho]

/-- ILLZ keeps all of its other bits (02 R46). -/
theorem illz_append (g m : BitVec 10) (a b c : BitVec 22) : (0 : BitVec 10) ++ (g ++ m ++ a ++ b ++ c) = packWord 0 g m a b c := by
  ext i hi
  simp only [packWord, BitVec.getElem_append]
  grind

section

variable {o : BitVec 5} {g m : BitVec 10} {a b c : BitVec 22} {i : Instr}

theorem decodeClass00_encodes
    (h : decodeClass00 o.toNat g m a b c = .ok i) : encodeWord i = some (packWord ((0x00 : BitVec 5) ++ o) g m a b c) := by
  unfold decodeClass00 at h
  split at h
  case h_1 ho =>
    obtain rfl := Except.ok.inj h
    obtain rfl := eq_of_toNat_eq_ofNat ho
    exact congrArg some (illz_append g m a b c)
  case h_2 ho | h_4 ho | h_6 ho | h_7 ho | h_8 ho | h_9 ho | h_10 ho | h_11 ho | h_12 ho =>
    obtain ⟨w, rfl, hw, rfl⟩ := accepts_plain_iff.mp h
    exact encodeWord_of_wd rfl ho rfl hw
  case h_3 ho =>
    obtain ⟨w, rfl, hw, rfl⟩ | ⟨w, rfl, hw, rfl⟩ := accepts_forms_iff.mp h <;> exact encodeWord_of_wideWd rfl ho rfl hw
  case h_5 ho =>
    obtain ⟨w, rfl, hw, rfl⟩ := accepts_plain_iff.mp h
    exact encodeWord_of_wideWd rfl ho rfl hw
  case h_13 => cases h

theorem decodeClass01_encodes
    (h : decodeClass01 o.toNat g m a b c = .ok i) : encodeWord i = some (packWord ((0x01 : BitVec 5) ++ o) g m a b c) := by
  unfold decodeClass01 at h
  split at h
  case h_1 ho | h_2 ho | h_3 ho | h_5 ho | h_9 ho | h_10 ho =>
    obtain ⟨ty, b, w, rfl, hw, rfl⟩ := accepts_ty_bit_iff.mp h
    exact encodeWord_of_wd rfl ho rfl hw
  case h_4 ho | h_6 ho | h_7 ho =>
    obtain ⟨ty, w, rfl, hw, rfl⟩ := accepts_ty_iff.mp h
    exact encodeWord_of_wd rfl ho rfl hw
  case h_8 ho =>
    obtain ⟨b, w, rfl, hw, rfl⟩ := accepts_const_bit_iff.mp h
    exact encodeWord_of_wd rfl ho rfl hw
  case h_11 ho =>
    obtain ⟨ty, n, w, rfl, hw, rfl⟩ := accepts_ty_number_iff.mp h
    exact encodeWord_of_wd rfl ho rfl hw
  case h_12 ho =>
    obtain ⟨ty, b₁, b₀, w, rfl, hw, rfl⟩ := (accepts_ty_bit_bit_iff (mk := fun w ty b₁ b₀ => .idivn w ty b₀ b₁)).mp h
    exact encodeWord_of_wd rfl ho rfl hw
  case h_13 => cases h

theorem decodeClass02_encodes
    (h : decodeClass02 o.toNat g m a b c = .ok i) : encodeWord i = some (packWord ((0x02 : BitVec 5) ++ o) g m a b c) := by
  unfold decodeClass02 at h
  split at h
  case h_1 ho | h_2 ho | h_3 ho | h_4 ho | h_5 ho | h_6 ho | h_8 ho | h_10 ho | h_11 ho | h_12 ho | h_13 ho | h_14 ho =>
    obtain ⟨w, rfl, hw, rfl⟩ := accepts_const_iff.mp h
    exact encodeWord_of_wd rfl ho rfl hw
  case h_7 ho =>
    obtain ⟨b, w, rfl, hw, rfl⟩ := accepts_const_bit_iff.mp h
    exact encodeWord_of_wd rfl ho rfl hw
  case h_9 ho =>
    obtain ⟨ty, w, rfl, hw, rfl⟩ := accepts_ty_iff.mp h
    exact encodeWord_of_wd rfl ho rfl hw
  case h_15 => cases h

theorem decodeClass03_encodes
    (h : decodeClass03 o.toNat g m a b c = .ok i) : encodeWord i = some (packWord ((0x03 : BitVec 5) ++ o) g m a b c) := by
  unfold decodeClass03 at h
  split at h
  case h_1 ho =>
    obtain ⟨ty, cmp, comb, w, rfl, hw, rfl⟩ := accepts_ty_cmp_comb_iff.mp h
    exact encodeWord_of_wd rfl ho rfl hw
  case h_2 ho =>
    obtain ⟨ty, b, n, w, rfl, hw, rfl⟩ := accepts_ty_bit_number_iff.mp h
    exact encodeWord_of_wd rfl ho rfl hw
  case h_3 ho | h_6 ho | h_7 ho | h_10 ho =>
    obtain ⟨w, rfl, hw, rfl⟩ := accepts_const_iff.mp h
    exact encodeWord_of_wd rfl ho rfl hw
  case h_4 ho =>
    obtain ⟨w, rfl, hw, rfl⟩ := accepts_const_iff.mp h
    exact encodeWord_of_wideWd rfl ho rfl hw
  case h_5 ho =>
    obtain ⟨cmp, comb, w, rfl, hw, rfl⟩ := accepts_const_cmp_comb_iff.mp h
    exact encodeWord_of_wd rfl ho rfl hw
  case h_8 ho =>
    obtain ⟨ty, n, mode, w, rfl, hw, rfl⟩ := accepts_ty_number_mode_iff.mp h
    exact encodeWord_of_wd rfl ho rfl hw
  case h_9 ho =>
    obtain ⟨form, w, rfl, hw, rfl⟩ := (accepts_const_code_iff VoteForm.ofCode_iff).mp h
    exact encodeWord_of_wd rfl ho rfl hw
  case h_11 => cases h

theorem decodeClass04_encodes
    (h : decodeClass04 o.toNat g m a b c = .ok i) : encodeWord i = some (packWord ((0x04 : BitVec 5) ++ o) g m a b c) := by
  unfold decodeClass04 at h
  split at h
  case h_1 ho | h_2 ho | h_3 ho | h_4 ho | h_5 ho | h_6 ho | h_9 ho | h_10 ho =>
    obtain ⟨w, rfl, hw, rfl⟩ := accepts_const_iff.mp h
    exact encodeWord_of_wd rfl ho rfl hw
  case h_7 ho =>
    obtain ⟨cmp, comb, w, rfl, hw, rfl⟩ := accepts_const_cmp_comb_iff.mp h
    exact encodeWord_of_wd rfl ho rfl hw
  case h_8 ho =>
    obtain ⟨rm, w, rfl, hw, rfl⟩ := (accepts_const_code_iff RMode.ofCode_iff).mp h
    exact encodeWord_of_wd rfl ho rfl hw
  case h_11 => cases h

theorem decodeClass05_encodes
    (h : decodeClass05 o.toNat g m a b c = .ok i) : encodeWord i = some (packWord ((0x05 : BitVec 5) ++ o) g m a b c) := by
  unfold decodeClass05 at h
  split at h
  case h_1 ho | h_2 ho | h_3 ho | h_4 ho | h_5 ho =>
    obtain ⟨w, rfl, hw, rfl⟩ := accepts_const_iff.mp h
    exact encodeWord_of_wd rfl ho rfl hw
  case h_6 ho =>
    obtain ⟨cmp, comb, w, rfl, hw, rfl⟩ := accepts_const_cmp_comb_iff.mp h
    exact encodeWord_of_wd rfl ho rfl hw
  case h_7 ho =>
    obtain ⟨rm, w, rfl, hw, rfl⟩ := (accepts_const_code_iff RMode.ofCode_iff).mp h
    exact encodeWord_of_wd rfl ho rfl hw
  case h_8 => cases h

theorem decodeClass06_encodes
    (h : decodeClass06 o.toNat g m a b c = .ok i) : encodeWord i = some (packWord ((0x06 : BitVec 5) ++ o) g m a b c) := by
  unfold decodeClass06 at h
  split at h
  case h_1 ho | h_2 ho | h_3 ho | h_4 ho | h_5 ho | h_6 ho =>
    obtain ⟨ty, w, rfl, hw, rfl⟩ := accepts_ty_iff.mp h
    exact encodeWord_of_wd rfl ho rfl hw
  case h_7 ho =>
    obtain ⟨ty, b, w, rfl, hw, rfl⟩ := accepts_ty_bit_iff.mp h
    exact encodeWord_of_wd rfl ho rfl hw
  case h_8 => cases h

theorem decodeClass07_encodes
    (h : decodeClass07 o.toNat g m a b c = .ok i) : encodeWord i = some (packWord ((0x07 : BitVec 5) ++ o) g m a b c) := by
  unfold decodeClass07 at h
  split at h
  case h_1 ho | h_2 ho | h_3 ho =>
    obtain ⟨ty, w, rfl, hw, rfl⟩ := accepts_ty_iff.mp h
    exact encodeWord_of_wd rfl ho rfl hw
  case h_4 ho | h_5 ho | h_6 ho | h_7 ho | h_8 ho =>
    obtain ⟨w, rfl, hw, rfl⟩ := accepts_const_iff.mp h
    exact encodeWord_of_wd rfl ho rfl hw
  case h_9 => cases h

theorem decodeClass08_encodes
    (h : decodeClass08 o.toNat g m a b c = .ok i) : encodeWord i = some (packWord ((0x08 : BitVec 5) ++ o) g m a b c) := by
  unfold decodeClass08 at h
  split at h
  case h_1 ho =>
    obtain ⟨ty, sty, b, w, rfl, hw, rfl⟩ := accepts_ty_ty_bit_iff.mp h
    exact encodeWord_of_wd rfl ho rfl hw
  case h_2 ho =>
    obtain ⟨ty, b, w, rfl, hw, rfl⟩ := accepts_ty_bit_iff.mp h
    exact encodeWord_of_wd rfl ho rfl hw
  case h_3 ho =>
    obtain ⟨ty, b₁, b₀, w, rfl, hw, rfl⟩ := accepts_ty_bit_bit_iff.mp h
    exact encodeWord_of_wd rfl ho rfl hw
  case h_4 ho =>
    obtain ⟨ty, w, rfl, hw, rfl⟩ := accepts_ty_iff.mp h
    exact encodeWord_of_wd rfl ho rfl hw
  case h_5 ho | h_6 ho =>
    obtain ⟨w, rfl, hw, rfl⟩ := accepts_const_iff.mp h
    exact encodeWord_of_wd rfl ho rfl hw
  case h_7 => cases h

theorem decodeClass09_encodes
    (h : decodeClass09 o.toNat g m a b c = .ok i) : encodeWord i = some (packWord ((0x09 : BitVec 5) ++ o) g m a b c) := by
  unfold decodeClass09 at h
  split at h
  case h_1 ho | h_2 ho | h_3 ho | h_4 ho | h_5 ho =>
    obtain ⟨w, rfl, hw, rfl⟩ := accepts_plain_iff.mp h
    exact encodeWord_of_wd rfl ho rfl hw
  case h_6 => cases h

theorem decodeClass0A_encodes
    (h : decodeClass0A o.toNat g m a b c = .ok i) : encodeWord i = some (packWord ((0x0A : BitVec 5) ++ o) g m a b c) := by
  unfold decodeClass0A at h
  split at h
  case h_1 ho | h_2 ho =>
    obtain ⟨ty, sc, ord, b, w, rfl, hw, rfl⟩ := accepts_ty_scope_ord_bit_iff.mp h
    exact encodeWord_of_wd rfl ho rfl hw
  case h_3 ho =>
    obtain ⟨b, w, rfl, hw, rfl⟩ := accepts_const₃_bit_iff.mp h
    exact encodeWord_of_wd rfl ho rfl hw
  case h_4 ho =>
    obtain ⟨ty, w, rfl, hw, rfl⟩ := accepts_ty_const_iff.mp h
    exact encodeWord_of_wd rfl ho rfl hw
  case h_5 => cases h

theorem decodeClass0B_encodes
    (h : decodeClass0B o.toNat g m a b c = .ok i) : encodeWord i = some (packWord ((0x0B : BitVec 5) ++ o) g m a b c) := by
  unfold decodeClass0B at h
  split at h
  case h_1 ho | h_2 ho =>
    obtain ⟨ty, sc, ord, w, rfl, hw, rfl⟩ := accepts_ty_scope_ord_iff.mp h
    exact encodeWord_of_wd rfl ho rfl hw
  case h_3 ho | h_4 ho =>
    obtain ⟨ty, w, rfl, hw, rfl⟩ := accepts_ty_const_iff.mp h
    exact encodeWord_of_wd rfl ho rfl hw
  case h_5 => cases h

theorem decodeClass0C_encodes
    (h : decodeClass0C o.toNat g m a b c = .ok i) : encodeWord i = some (packWord ((0x0C : BitVec 5) ++ o) g m a b c) := by
  unfold decodeClass0C at h
  split at h
  case h_1 ho | h_2 ho | h_3 ho | h_4 ho =>
    obtain ⟨ty, sc, ord, w, rfl, hw, rfl⟩ := accepts_ty_scope_ord_iff.mp h
    exact encodeWord_of_wd rfl ho rfl hw
  case h_5 ho =>
    obtain ⟨ty, sc, ord, w, rfl, hw, rfl⟩ | ⟨ty, sc, ord, w, rfl, hw, rfl⟩ := accepts_ty_scope_ord_forms_iff.mp h <;>
      exact encodeWord_of_wd rfl ho rfl hw
  case h_6 => cases h

theorem decodeClass0D_encodes
    (h : decodeClass0D o.toNat g m a b c = .ok i) : encodeWord i = some (packWord ((0x0D : BitVec 5) ++ o) g m a b c) := by
  unfold decodeClass0D at h
  split at h
  case h_1 ho =>
    obtain ⟨sc, ord, w, rfl, hw, rfl⟩ := accepts_const_scope_ord_iff.mp h
    exact encodeWord_of_wd rfl ho rfl hw
  case h_2 ho =>
    obtain ⟨w, rfl, hw, rfl⟩ := accepts_const₃_iff.mp h
    exact encodeWord_of_wd rfl ho rfl hw
  case h_3 ho =>
    obtain ⟨b, w, rfl, hw, rfl⟩ := accepts_const₃_bit_iff.mp h
    exact encodeWord_of_wd rfl ho rfl hw
  case h_4 ho =>
    obtain ⟨ty, w, rfl, hw, rfl⟩ := accepts_ty_const_iff.mp h
    exact encodeWord_of_wd rfl ho rfl hw
  case h_5 => cases h

theorem decodeClass0E_encodes
    (h : decodeClass0E o.toNat g m a b c = .ok i) : encodeWord i = some (packWord ((0x0E : BitVec 5) ++ o) g m a b c) := by
  unfold decodeClass0E at h
  split at h
  case h_1 ho | h_2 ho | h_3 ho | h_7 ho =>
    obtain ⟨w, rfl, hw, rfl⟩ := accepts_plain_iff.mp h
    exact encodeWord_of_wd rfl ho rfl hw
  case h_4 ho | h_5 ho | h_6 ho =>
    obtain ⟨b, w, rfl, hw, rfl⟩ := accepts_bit_iff.mp h
    exact encodeWord_of_wd rfl ho rfl hw
  case h_8 => cases h

theorem decodeClass0F_encodes
    (h : decodeClass0F o.toNat g m a b c = .ok i) : encodeWord i = some (packWord ((0x0F : BitVec 5) ++ o) g m a b c) := by
  unfold decodeClass0F at h
  split at h
  case h_1 ho | h_2 ho | h_3 ho | h_4 ho =>
    obtain ⟨w, rfl, hw, rfl⟩ := accepts_plain_iff.mp h
    exact encodeWord_of_wd rfl ho rfl hw
  case h_5 => cases h

theorem decodeClass10_encodes
    (h : decodeClass10 o.toNat g m a b c = .ok i) : encodeWord i = some (packWord ((0x10 : BitVec 5) ++ o) g m a b c) := by
  unfold decodeClass10 at h
  split at h
  case h_1 ho | h_2 ho | h_3 ho | h_4 ho | h_5 ho | h_6 ho | h_9 ho | h_10 ho | h_11 ho | h_12 ho | h_13 ho =>
    obtain ⟨w, rfl, hw, rfl⟩ := accepts_plain_iff.mp h
    exact encodeWord_of_wd rfl ho rfl hw
  case h_7 ho | h_8 ho =>
    obtain ⟨ty, w, rfl, hw, rfl⟩ := (accepts_code_iff (p := 6) Ty.ofCode_iff m).mp h
    exact encodeWord_of_wd rfl ho rfl hw
  case h_14 => cases h

theorem decodeClass11_encodes
    (h : decodeClass11 o.toNat g m a b c = .ok i) : encodeWord i = some (packWord ((0x11 : BitVec 5) ++ o) g m a b c) := by
  unfold decodeClass11 at h
  split at h
  case h_1 ho =>
    obtain ⟨ty, w, rfl, hw, rfl⟩ := (accepts_code_iff (p := 6) Ty.ofCode_iff m).mp h
    exact encodeWord_of_wd rfl ho rfl hw
  case h_2 ho =>
    obtain ⟨w, rfl, hw, rfl⟩ := accepts_plain_iff.mp h
    exact encodeWord_of_wd rfl ho rfl hw
  case h_3 ho =>
    obtain ⟨ty, b, w, rfl, hw, rfl⟩ := accepts_code_bit_iff.mp h
    exact encodeWord_of_wd rfl ho rfl hw
  case h_4 => cases h

theorem decodeClass12_encodes
    (h : decodeClass12 o.toNat g m a b c = .ok i) : encodeWord i = some (packWord ((0x12 : BitVec 5) ++ o) g m a b c) := by
  unfold decodeClass12 at h
  split at h
  case h_1 ho | h_2 ho | h_3 ho | h_4 ho | h_5 ho =>
    obtain ⟨w, rfl, hw, rfl⟩ := accepts_plain_iff.mp h
    exact encodeWord_of_wd rfl ho rfl hw
  case h_6 => cases h

theorem decodeClass13_encodes
    (h : decodeClass13 o.toNat g m a b c = .ok i) : encodeWord i = some (packWord ((0x13 : BitVec 5) ++ o) g m a b c) := by
  unfold decodeClass13 at h
  split at h
  case h_1 ho =>
    obtain ⟨n, w, rfl, hw, rfl⟩ := (accepts_number_iff (p := 7) (n := 3) m).mp h
    exact encodeWord_of_wd rfl ho rfl hw
  case h_2 ho | h_3 ho | h_4 ho | h_5 ho | h_6 ho | h_7 ho =>
    obtain ⟨w, rfl, hw, rfl⟩ := accepts_plain_iff.mp h
    exact encodeWord_of_wd rfl ho rfl hw
  case h_8 => cases h

theorem decodeClass14_encodes
    (h : decodeClass14 o.toNat g m a b c = .ok i) : encodeWord i = some (packWord ((0x14 : BitVec 5) ++ o) g m a b c) := by
  unfold decodeClass14 at h
  split at h
  case h_1 ho | h_2 ho | h_4 ho | h_5 ho | h_6 ho | h_7 ho | h_8 ho =>
    obtain ⟨w, rfl, hw, rfl⟩ := accepts_plain_iff.mp h
    exact encodeWord_of_wd rfl ho rfl hw
  case h_3 ho =>
    obtain ⟨n, w, rfl, hw, rfl⟩ := (accepts_number_iff (p := 5) (n := 5) m).mp h
    exact encodeWord_of_wd rfl ho rfl hw
  case h_9 ho =>
    obtain ⟨w, rfl, hw, rfl⟩ | ⟨w, rfl, hw, rfl⟩ := accepts_forms_iff.mp h <;> exact encodeWord_of_wd rfl ho rfl hw
  case h_10 => cases h

theorem decodeClass15_encodes
    (h : decodeClass15 o.toNat g m a b c = .ok i) : encodeWord i = some (packWord ((0x15 : BitVec 5) ++ o) g m a b c) := by
  unfold decodeClass15 at h
  split at h
  case h_1 ho | h_2 ho | h_4 ho | h_5 ho =>
    obtain ⟨w, rfl, hw, rfl⟩ := accepts_plain_iff.mp h
    exact encodeWord_of_wd rfl ho rfl hw
  case h_3 ho =>
    obtain ⟨b, w, rfl, hw, rfl⟩ := accepts_bit_iff.mp h
    exact encodeWord_of_wd rfl ho rfl hw
  case h_6 => cases h

theorem decodeClass16_encodes
    (h : decodeClass16 o.toNat g m a b c = .ok i) : encodeWord i = some (packWord ((0x16 : BitVec 5) ++ o) g m a b c) := by
  unfold decodeClass16 at h
  split at h
  case h_1 ho | h_2 ho =>
    obtain ⟨w, rfl, hw, rfl⟩ := accepts_const₃_iff.mp h
    exact encodeWord_of_wd rfl ho rfl hw
  case h_3 ho | h_4 ho =>
    obtain ⟨ty, sc, ord, w, rfl, hw, rfl⟩ := accepts_ty_scope_ord_iff.mp h
    exact encodeWord_of_wd rfl ho rfl hw
  case h_5 => cases h

theorem decodeClass17_encodes
    (h : decodeClass17 o.toNat g m a b c = .ok i) : encodeWord i = some (packWord ((0x17 : BitVec 5) ++ o) g m a b c) := by
  unfold decodeClass17 at h
  split at h
  case h_1 ho =>
    obtain ⟨b, w, rfl, hw, rfl⟩ := accepts_bit_iff.mp h
    exact encodeWord_of_wd rfl ho rfl hw
  case h_2 ho | h_3 ho | h_4 ho | h_5 ho =>
    obtain ⟨w, rfl, hw, rfl⟩ := accepts_plain_iff.mp h
    exact encodeWord_of_wd rfl ho rfl hw
  case h_6 => cases h

theorem decodeClass18_encodes
    (h : decodeClass18 o.toNat g m a b c = .ok i) : encodeWord i = some (packWord ((0x18 : BitVec 5) ++ o) g m a b c) := by
  unfold decodeClass18 at h
  split at h
  case h_1 ho =>
    obtain ⟨w, rfl, hw, rfl⟩ | ⟨w, rfl, hw, rfl⟩ | ⟨w, rfl, hw, rfl⟩ := accepts_three_forms_iff.mp h <;>
      exact encodeWord_of_wd rfl ho rfl hw
  case h_2 ho | h_6 ho =>
    obtain ⟨w, rfl, hw, rfl⟩ := accepts_plain_iff.mp h
    exact encodeWord_of_wd rfl ho rfl hw
  case h_3 ho =>
    obtain ⟨sc, w, rfl, hw, rfl⟩ := (accepts_code_iff (p := 7) Scope.ofCode_iff m).mp h
    exact encodeWord_of_wd rfl ho rfl hw
  case h_4 ho =>
    obtain ⟨b, w, rfl, hw, rfl⟩ := accepts_bit_iff.mp h
    exact encodeWord_of_wd rfl ho rfl hw
  case h_5 ho =>
    obtain ⟨w, rfl, hw, rfl⟩ | ⟨w, rfl, hw, rfl⟩ := accepts_forms_iff.mp h <;> exact encodeWord_of_wd rfl ho rfl hw
  case h_7 => cases h

theorem decodeClass19_encodes
    (h : decodeClass19 o.toNat g m a b c = .ok i) : encodeWord i = some (packWord ((0x19 : BitVec 5) ++ o) g m a b c) := by
  unfold decodeClass19 at h
  split at h
  case h_1 ho | h_2 ho | h_3 ho =>
    obtain ⟨w, rfl, hw, rfl⟩ := accepts_plain_iff.mp h
    exact encodeWord_of_wd rfl ho rfl hw
  case h_4 => cases h

end

/-! The decoder on the fields of a word. -/

/-- `decodeWord` on the six fields that it reads (02 R25), by the opcode's class and operation. -/
def decodeFields (cls o : BitVec 5) (g m : BitVec 10) (a b c : BitVec 22) : Except DecodeError Instr :=
  match cls.toNat with
  | 0 => decodeClass00 o.toNat g m a b c
  | 1 => decodeClass01 o.toNat g m a b c
  | 2 => decodeClass02 o.toNat g m a b c
  | 3 => decodeClass03 o.toNat g m a b c
  | 4 => decodeClass04 o.toNat g m a b c
  | 5 => decodeClass05 o.toNat g m a b c
  | 6 => decodeClass06 o.toNat g m a b c
  | 7 => decodeClass07 o.toNat g m a b c
  | 8 => decodeClass08 o.toNat g m a b c
  | 9 => decodeClass09 o.toNat g m a b c
  | 10 => decodeClass0A o.toNat g m a b c
  | 11 => decodeClass0B o.toNat g m a b c
  | 12 => decodeClass0C o.toNat g m a b c
  | 13 => decodeClass0D o.toNat g m a b c
  | 14 => decodeClass0E o.toNat g m a b c
  | 15 => decodeClass0F o.toNat g m a b c
  | 16 => decodeClass10 o.toNat g m a b c
  | 17 => decodeClass11 o.toNat g m a b c
  | 18 => decodeClass12 o.toNat g m a b c
  | 19 => decodeClass13 o.toNat g m a b c
  | 20 => decodeClass14 o.toNat g m a b c
  | 21 => decodeClass15 o.toNat g m a b c
  | 22 => decodeClass16 o.toNat g m a b c
  | 23 => decodeClass17 o.toNat g m a b c
  | 24 => decodeClass18 o.toNat g m a b c
  | 25 => decodeClass19 o.toNat g m a b c
  | 31 => if o.toNat = 31 then .error .headerInBody else .error .unassignedOpcode
  | _ => .error .unassignedOpcode

theorem decodeWord_eq (x : IWord) : decodeWord x = decodeFields (x.extractLsb' 91 5) (x.extractLsb' 86 5) (x.extractLsb' 76 10)
    (x.extractLsb' 66 10) (x.extractLsb' 44 22) (x.extractLsb' 22 22) (x.extractLsb' 0 22) := rfl

theorem decodeWord_packWord (op g m : BitVec 10) (a b c : BitVec 22) :
    decodeWord (packWord op g m a b c) = decodeFields (op.extractLsb' 5 5) (op.extractLsb' 0 5) g m a b c := by
  rw [decodeWord_eq, packWord_class, packWord_oper, packWord_ctl, packWord_mod, packWord_a, packWord_b, packWord_c]

theorem decodeFields_encodes {cls o : BitVec 5} {g m : BitVec 10} {a b c : BitVec 22} {i : Instr}
    (h : decodeFields cls o g m a b c = .ok i) : encodeWord i = some (packWord (cls ++ o) g m a b c) := by
  unfold decodeFields at h
  split at h
  case h_1 hc => obtain rfl := eq_of_toNat_eq_ofNat hc; exact decodeClass00_encodes h
  case h_2 hc => obtain rfl := eq_of_toNat_eq_ofNat hc; exact decodeClass01_encodes h
  case h_3 hc => obtain rfl := eq_of_toNat_eq_ofNat hc; exact decodeClass02_encodes h
  case h_4 hc => obtain rfl := eq_of_toNat_eq_ofNat hc; exact decodeClass03_encodes h
  case h_5 hc => obtain rfl := eq_of_toNat_eq_ofNat hc; exact decodeClass04_encodes h
  case h_6 hc => obtain rfl := eq_of_toNat_eq_ofNat hc; exact decodeClass05_encodes h
  case h_7 hc => obtain rfl := eq_of_toNat_eq_ofNat hc; exact decodeClass06_encodes h
  case h_8 hc => obtain rfl := eq_of_toNat_eq_ofNat hc; exact decodeClass07_encodes h
  case h_9 hc => obtain rfl := eq_of_toNat_eq_ofNat hc; exact decodeClass08_encodes h
  case h_10 hc => obtain rfl := eq_of_toNat_eq_ofNat hc; exact decodeClass09_encodes h
  case h_11 hc => obtain rfl := eq_of_toNat_eq_ofNat hc; exact decodeClass0A_encodes h
  case h_12 hc => obtain rfl := eq_of_toNat_eq_ofNat hc; exact decodeClass0B_encodes h
  case h_13 hc => obtain rfl := eq_of_toNat_eq_ofNat hc; exact decodeClass0C_encodes h
  case h_14 hc => obtain rfl := eq_of_toNat_eq_ofNat hc; exact decodeClass0D_encodes h
  case h_15 hc => obtain rfl := eq_of_toNat_eq_ofNat hc; exact decodeClass0E_encodes h
  case h_16 hc => obtain rfl := eq_of_toNat_eq_ofNat hc; exact decodeClass0F_encodes h
  case h_17 hc => obtain rfl := eq_of_toNat_eq_ofNat hc; exact decodeClass10_encodes h
  case h_18 hc => obtain rfl := eq_of_toNat_eq_ofNat hc; exact decodeClass11_encodes h
  case h_19 hc => obtain rfl := eq_of_toNat_eq_ofNat hc; exact decodeClass12_encodes h
  case h_20 hc => obtain rfl := eq_of_toNat_eq_ofNat hc; exact decodeClass13_encodes h
  case h_21 hc => obtain rfl := eq_of_toNat_eq_ofNat hc; exact decodeClass14_encodes h
  case h_22 hc => obtain rfl := eq_of_toNat_eq_ofNat hc; exact decodeClass15_encodes h
  case h_23 hc => obtain rfl := eq_of_toNat_eq_ofNat hc; exact decodeClass16_encodes h
  case h_24 hc => obtain rfl := eq_of_toNat_eq_ofNat hc; exact decodeClass17_encodes h
  case h_25 hc => obtain rfl := eq_of_toNat_eq_ofNat hc; exact decodeClass18_encodes h
  case h_26 hc => obtain rfl := eq_of_toNat_eq_ofNat hc; exact decodeClass19_encodes h
  case h_27 => split at h <;> cases h
  case h_28 => cases h

/-- A word is packed from its own fields. -/
theorem packWord_fields (x : IWord) : packWord (x.extractLsb' 91 5 ++ x.extractLsb' 86 5) (x.extractLsb' 76 10) (x.extractLsb' 66 10)
    (x.extractLsb' 44 22) (x.extractLsb' 22 22) (x.extractLsb' 0 22) = x := by
  refine (packWord_eq_iff ..).mpr ⟨?_, rfl, rfl, rfl, rfl, rfl⟩
  exact BitVec.extractLsb'_append_extractLsb'_eq_extractLsb' rfl

/-- Settles O55: by the class of the word, then the arm of its class that accepts it. -/
theorem decodedWordsEncode : Obligations.DecodedWordsEncode := by
  intro x i h
  rw [decodeWord_eq] at h
  rw [decodeFields_encodes h, packWord_fields]

/-! Decoding what was encoded (02 R25-R33). -/

theorem roundTrip_of_wd {i : Instr} {op m : BitVec 10} {w : Wd} (hi : encodeWord i = some (wordOf op m w))
    (h : ∀ m', m = m' → decodeFields (op.extractLsb' 5 5) (op.extractLsb' 0 5) w.ctl.encode m' w.a.encode w.b.encode w.c.encode = .ok i) :
    ∃ x, encodeWord i = some x ∧ decodeWord x = .ok i :=
  ⟨_, hi, (decodeWord_packWord ..).trans (h m rfl)⟩

theorem roundTrip_of_wideWd {i : Instr} {op m : BitVec 10} {w : WideWd} (hi : encodeWord i = some (wideOf op m w))
    (h : ∀ m', m = m' → decodeFields (op.extractLsb' 5 5) (op.extractLsb' 0 5) w.ctl.encode m' w.a.encode
      (((0 : BitVec 12) ++ w.imm).extractLsb' 22 22) (((0 : BitVec 12) ++ w.imm).extractLsb' 0 22) = .ok i) :
    ∃ x, encodeWord i = some x ∧ decodeWord x = .ok i :=
  ⟨_, hi, by rw [wideOf_eq, decodeWord_packWord, h m rfl]⟩

theorem decodeWord_encodeWord {i : Instr} (h : i.ctl?.isSome = true) (ha : i.operands.1.inRange = true)
    (hb : i.operands.2.1.inRange = true) (hc : i.operands.2.2.inRange = true) : ∃ x, encodeWord i = some x ∧ decodeWord x = .ok i := by
  cases i with
  | nop w | brx w | ret w | reform w | exit w | yield w | waitf w | trap w | bkpt w | draw w | drawf w | drawb w | cvpos w | cvscore w
  | bcopy w | bgath w | bscat w | tgclr w | aslice w | qpop w | qstat w | qend w | macq w | mrel w | gang w | resv w | rfree w | cbld w
  | mzero w | mdrain w | mfill w | mwait w | mdep w | vmmai w | bara w | barw w | baraw w | barq w | teamj w | targ w | dcnew w
  | dcdec w | dcq w | launch w | mutl w | sproj w | ssort w | cdep w | cwmark w | cread w | crlist w | cadj w | rproj w | rwlist w
  | asupd w | asq w | swr w | clk w | wtime w | sigrd w | tqrd w | ctxq w | progress w | mark w | stopp w =>
    exact roundTrip_of_wd rfl fun m hm => accepts_plain_iff.mpr ⟨_, hm, Wd.decode_encode w ha hb hc, rfl⟩
  | braD w =>
    exact roundTrip_of_wideWd rfl fun m hm => accepts_forms_iff.mpr (.inl ⟨_, hm, WideWd.decode_encode w ha, rfl⟩)
  | braU w =>
    exact roundTrip_of_wideWd rfl fun m hm => accepts_forms_iff.mpr (.inr ⟨_, hm, WideWd.decode_encode w ha, rfl⟩)
  | call w =>
    exact roundTrip_of_wideWd rfl fun m hm => accepts_plain_iff.mpr ⟨_, hm, WideWd.decode_encode w ha, rfl⟩
  | iadd w ty sat | isub w ty sat | imul w ty sat | imad w ty sat | iadd64 w ty sat | imul64 w ty sat | idot4 w ty sat | cvts w ty sat =>
    exact roundTrip_of_wd rfl fun m hm => accepts_ty_bit_iff.mpr ⟨_, _, _, hm, Wd.decode_encode w ha hb hc, rfl⟩
  | imulh w ty | imin w ty | imax w ty | bfe w ty | hadd2 w ty | hmul2 w ty | hfma2 w ty | hmin2 w ty | hmax2 w ty | hdot2 w ty
  | rcp w ty | rsq w ty | sqrt w ty | unpack8 w ty =>
    exact roundTrip_of_wd rfl fun m hm => accepts_ty_iff.mpr ⟨_, _, hm, Wd.decode_encode w ha hb hc, rfl⟩
  | iabs w sat | shr w arith =>
    exact roundTrip_of_wd rfl fun m hm => accepts_const_bit_iff.mpr ⟨_, _, hm, Wd.decode_encode w ha hb hc, rfl⟩
  | lea w ty sh =>
    exact roundTrip_of_wd rfl fun m hm => accepts_ty_number_iff.mpr ⟨_, _, _, hm, Wd.decode_encode w ha hb hc, rfl⟩
  | idivn w ty sat rem =>
    exact roundTrip_of_wd rfl fun m hm => (accepts_ty_bit_bit_iff (mk := fun w ty b₁ b₀ => .idivn w ty b₀ b₁)).mpr
      ⟨_, _, _, _, hm, Wd.decode_encode w ha hb hc, rfl⟩
  | pack8 w ty sat hi =>
    exact roundTrip_of_wd rfl fun m hm => accepts_ty_bit_bit_iff.mpr ⟨_, _, _, _, hm, Wd.decode_encode w ha hb hc, rfl⟩
  | and w | or w | xor w | andn w | bfn3 w | shl w | rotr w | bfi w | popc w | clz w | brev w | bsel w | mov w | p2v w | v2p w
  | teamid w | fadd w | fsub w | fmul w | ffma w | fmin w | fmax w | fchk w | fflags w | dadd w | dmul w | dfma w | dmin w | dmax w
  | exp2 w | log2 w | sin w | cos w | tanh w | cbdec w | scale w =>
    exact roundTrip_of_wd rfl fun m hm => accepts_const_iff.mpr ⟨_, hm, Wd.decode_encode w ha hb hc, rfl⟩
  | icmp w ty cmp comb =>
    exact roundTrip_of_wd rfl fun m hm => accepts_ty_cmp_comb_iff.mpr ⟨_, _, _, _, hm, Wd.decode_encode w ha hb hc, rfl⟩
  | sel w ty inv pn =>
    exact roundTrip_of_wd rfl fun m hm => accepts_ty_bit_number_iff.mpr ⟨_, _, _, _, hm, Wd.decode_encode w ha hb hc, rfl⟩
  | movi w =>
    exact roundTrip_of_wideWd rfl fun m hm => accepts_const_iff.mpr ⟨_, hm, WideWd.decode_encode w ha, rfl⟩
  | pset w cmp comb | fcmp w cmp comb | dcmp w cmp comb =>
    exact roundTrip_of_wd rfl fun m hm => accepts_const_cmp_comb_iff.mpr ⟨_, _, _, hm, Wd.decode_encode w ha hb hc, rfl⟩
  | xlane w ty pn mode =>
    exact roundTrip_of_wd rfl fun m hm => accepts_ty_number_mode_iff.mpr ⟨_, _, _, _, hm, Wd.decode_encode w ha hb hc, rfl⟩
  | vote w form =>
    exact roundTrip_of_wd rfl fun m hm => (accepts_const_code_iff VoteForm.ofCode_iff).mpr ⟨_, _, hm, Wd.decode_encode w ha hb hc, rfl⟩
  | frnd w rm | drnd w rm =>
    exact roundTrip_of_wd rfl fun m hm => (accepts_const_code_iff RMode.ofCode_iff).mpr ⟨_, _, hm, Wd.decode_encode w ha hb hc, rfl⟩
  | cvt w ty sty sat =>
    exact roundTrip_of_wd rfl fun m hm => accepts_ty_ty_bit_iff.mpr ⟨_, _, _, _, hm, Wd.decode_encode w ha hb hc, rfl⟩
  | ld w ty scope ord nt | st w ty scope ord nt =>
    exact roundTrip_of_wd rfl fun m hm => accepts_ty_scope_ord_bit_iff.mpr ⟨_, _, _, _, _, hm, Wd.decode_encode w ha hb hc, rfl⟩
  | pref w l1 | cinv w icache =>
    exact roundTrip_of_wd rfl fun m hm => accepts_const₃_bit_iff.mpr ⟨_, _, hm, Wd.decode_encode w ha hb hc, rfl⟩
  | ldk w ty | ldc w ty | stc w ty | hwsig w ty =>
    exact roundTrip_of_wd rfl fun m hm => accepts_ty_const_iff.mpr ⟨_, _, hm, Wd.decode_encode w ha hb hc, rfl⟩
  | lda w ty scope ord | sta w ty scope ord | atom w ty scope ord | cas w ty scope ord | red w ty scope ord | fred w ty scope ord
  | imst w ty scope ord | imld w ty scope ord =>
    exact roundTrip_of_wd rfl fun m hm => accepts_ty_scope_ord_iff.mpr ⟨_, _, _, _, hm, Wd.decode_encode w ha hb hc, rfl⟩
  | redobjInit w ty scope ord =>
    exact roundTrip_of_wd rfl fun m hm => accepts_ty_scope_ord_forms_iff.mpr (.inl ⟨_, _, _, _, hm, Wd.decode_encode w ha hb hc, rfl⟩)
  | redobjFold w ty scope ord =>
    exact roundTrip_of_wd rfl fun m hm => accepts_ty_scope_ord_forms_iff.mpr (.inr ⟨_, _, _, _, hm, Wd.decode_encode w ha hb hc, rfl⟩)
  | fence w scope ord =>
    exact roundTrip_of_wd rfl fun m hm => accepts_const_scope_ord_iff.mpr ⟨_, _, _, hm, Wd.decode_encode w ha hb hc, rfl⟩
  | cflush w | tex w | tld w =>
    exact roundTrip_of_wd rfl fun m hm => accepts_const₃_iff.mpr ⟨_, hm, Wd.decode_encode w ha hb hc, rfl⟩
  | tgwait w chk | tgany w err | tgfirst w err | trace w any | srd w d | privw w d =>
    exact roundTrip_of_wd rfl fun m hm => accepts_bit_iff.mpr ⟨_, _, hm, Wd.decode_encode w ha hb hc, rfl⟩
  | mma w aty | mmas w aty | vmma w aty =>
    exact roundTrip_of_wd rfl fun m hm => (accepts_code_iff (p := 6) Ty.ofCode_iff m).mpr ⟨_, _, hm, Wd.decode_encode w ha hb hc, rfl⟩
  | vfrag w aty tr =>
    exact roundTrip_of_wd rfl fun m hm => accepts_code_bit_iff.mpr ⟨_, _, _, hm, Wd.decode_encode w ha hb hc, rfl⟩
  | tenq w q =>
    exact roundTrip_of_wd rfl fun m hm => (accepts_number_iff (p := 7) (n := 3) m).mpr ⟨_, _, hm, Wd.decode_encode w ha hb hc, rfl⟩
  | sfetch w kn =>
    exact roundTrip_of_wd rfl fun m hm => (accepts_number_iff (p := 5) (n := 5) m).mpr ⟨_, _, hm, Wd.decode_encode w ha hb hc, rfl⟩
  | crst w | mfrz w =>
    exact roundTrip_of_wd rfl fun m hm => accepts_forms_iff.mpr (.inl ⟨_, hm, Wd.decode_encode w ha hb hc, rfl⟩)
  | crstRel w | mfrzThaw w =>
    exact roundTrip_of_wd rfl fun m hm => accepts_forms_iff.mpr (.inr ⟨_, hm, Wd.decode_encode w ha hb hc, rfl⟩)
  | tretRes w =>
    exact roundTrip_of_wd rfl fun m hm => accepts_three_forms_iff.mpr (.inl ⟨_, hm, Wd.decode_encode w ha hb hc, rfl⟩)
  | tretRst w =>
    exact roundTrip_of_wd rfl fun m hm => accepts_three_forms_iff.mpr (.inr (.inl ⟨_, hm, Wd.decode_encode w ha hb hc, rfl⟩))
  | tretTerm w =>
    exact roundTrip_of_wd rfl fun m hm => accepts_three_forms_iff.mpr (.inr (.inr ⟨_, hm, Wd.decode_encode w ha hb hc, rfl⟩))
  | killg w scope =>
    exact roundTrip_of_wd rfl fun m hm => (accepts_code_iff (p := 7) Scope.ofCode_iff m).mpr ⟨_, _, hm, Wd.decode_encode w ha hb hc, rfl⟩
  | _ => cases h

/-- Opcode 0x000 decodes to ILLZ, and to the one with the same bits since it has one spelling. -/
theorem decodeWord_illz (r : BitVec 86) : decodeWord ((0 : BitVec 10) ++ r) = .ok (.illz r) := by
  have hcls : ((0 : BitVec 10) ++ r).extractLsb' 91 5 = 0 :=
    BitVec.extractLsb'_append_eq_of_le (by decide)
  have hop : ((0 : BitVec 10) ++ r).extractLsb' 86 5 = 0 :=
    BitVec.extractLsb'_append_eq_of_le (by decide)
  obtain ⟨r', hr⟩ : ∃ r', decodeWord ((0 : BitVec 10) ++ r) = .ok (.illz r') := by
    rw [decodeWord_eq, hcls, hop]
    exact ⟨_, rfl⟩
  have he : (0 : BitVec 10) ++ r' = (0 : BitVec 10) ++ r := Option.some.inj (decodedWordsEncode _ _ hr)
  have hr' := ((append_eq_iff ..).mp he).2
  rw [hr, hr', BitVec.extractLsb'_append_eq_of_add_le (by decide), BitVec.extractLsb'_eq_self]

/-- Settles O54: operands that a launch accepts lie in range, and a word with operands in range reads back. -/
theorem encodedWordsDecode : Obligations.EncodedWordsDecode := by
  refine ⟨fun cx i h => ?_, fun r => ⟨_, rfl, ?_, ?_⟩⟩
  · simp only [Instr.wf, Bool.and_eq_true] at h
    obtain ⟨⟨⟨⟨⟨hctl, -⟩, -⟩, ha⟩, hb⟩, hc⟩ := h
    exact decodeWord_encodeWord hctl (OpKind.inRange_of_accepts cx _ _ ha) (OpKind.inRange_of_accepts cx _ _ hb)
      (OpKind.inRange_of_accepts cx _ _ hc)
  · exact decodeWord_illz r
  · rw [BitVec.toNat_append, show BitVec.toNat (0 : BitVec 10) = 0 from rfl, Nat.zero_shiftLeft, Nat.zero_or]

end Sys2Proof

/-! Words of the tables, the step that issues a group, and the control words (02 R37, R46; 06 R117, R124, R127; 07 R141-R146). -/

namespace Sys2Proof.Machine

-- One proof after the other: the check's memory limit counts the stack of every thread that elaborates a proof.
set_option Elab.async false

/-- Settles O56: each word is decoded by evaluation; the refused ones decode to an error. -/
theorem wordsOfTheTablesDecode : Obligations.WordsOfTheTablesDecode := by
  refine ⟨rfl, rfl, rfl, rfl, rfl, rfl, rfl, rfl, rfl, ?_, ?_⟩
  · intro i h; cases h
  · intro i h; cases h

/-! Every instruction word answers a next state (18 R319): first by the shape of its meaning, then each word by its shape. -/

/-- The outcome is a next state. -/
def goesOn (o : Host.Outcome State Fault Refusal) : Prop := ∃ t, o = .next t

theorem goesOn_next (s : State) : goesOn (.next s) := ⟨s, rfl⟩

theorem goesOn_issue {s : State} {f : Issue → Host.Outcome State Fault Refusal} (h : ∀ ix, goesOn (f ix)) :
    goesOn (match s.issue with | none => .next s | some ix => f ix) := by
  cases s.issue with
  | none => exact goesOn_next s
  | some ix => exact h ix

section

variable {s : State} {c : Ctl} {w : Wd}

theorem actWord_goesOn {f} : goesOn (actWord s c f) :=
  goesOn_issue fun _ => by split <;> exact goesOn_next _

theorem laneActWord_goesOn {f} : goesOn (laneActWord s c f) :=
  goesOn_issue fun _ => by split <;> exact goesOn_next _

theorem engineWord_goesOn {f} : goesOn (engineWord s c f) :=
  goesOn_issue fun _ => by dsimp only; split <;> exact goesOn_next _

theorem jointWord_goesOn {f} : goesOn (jointWord s c f) :=
  goesOn_issue fun _ => by dsimp only; split <;> exact goesOn_next _

theorem ladleWord_goesOn {stall f} : goesOn (ladleWord s c stall f) :=
  goesOn_issue fun _ => by dsimp only; split <;> exact goesOn_next _

theorem imageWord_goesOn {sh ty need val out outside} : goesOn (imageWord s w sh ty need val out outside) :=
  goesOn_issue fun _ => by dsimp only; split <;> exact goesOn_next _

theorem execBraU_goesOn {b : WideWd} : goesOn (execBraU b s) :=
  goesOn_issue fun _ => by dsimp only; split <;> exact goesOn_next _

theorem execExit_goesOn : goesOn (execExit w s) :=
  goesOn_issue fun _ => by split <;> exact goesOn_next _

theorem execQpop_goesOn : goesOn (execQpop w s) :=
  goesOn_issue fun _ => by dsimp only; split <;> exact goesOn_next _

theorem execKillg_goesOn {scope} : goesOn (execKillg w scope s) :=
  goesOn_issue fun _ => by split <;> exact goesOn_next _

theorem execMacq_goesOn : goesOn (execMacq w s) :=
  goesOn_issue fun _ => by
    split
    · exact goesOn_next _
    · dsimp only
      split <;> exact goesOn_next _

theorem execGang_goesOn : goesOn (execGang w s) :=
  goesOn_issue fun _ => by
    split
    · exact goesOn_next _
    · dsimp only
      split
      · exact goesOn_next _
      · exact goesOn_next _
      · exact goesOn_next _
      · split <;> exact goesOn_next _

/-- By the constructors of `Instr`, the words of one shape together. -/
theorem exec_goesOn {i : Instr} {x : IWord} (h : encodeWord i = some x) : goesOn (exec i s) := by
  cases i with
  | iadd | isub | imul | imulh | imin | imax | iabs | iadd64 | imul64 | imad | lea | bfn3 | bfi | bsel | icmp | sel | mov | movi | pset
  | p2v | v2p | xlane | vote | teamid | fmin | fmax | fcmp | frnd | hdot2 | idot4 | cvt | pack8 | unpack8 | cbdec | cvpos | tgany
  | tgfirst | qstat | vfrag | barq | targ | cadj | asq | srd | clk | wtime | sigrd | ctxq | and | or | xor | andn | shl | shr | rotr
  | bfe | popc | clz | brev | fadd | fsub | fmul | ffma | scale | hadd2 | hmul2 | hfma2 | hmin2 | hmax2 | rcp | rsq | sqrt | exp2
  | log2 | sin | cos | tanh | nop | trap | bkpt | idivn | fflags | dadd | dmul | dfma | dmin | dmax | dcmp | drnd | cvscore | pref
  | fence | tgclr | mrel | vmma | vmmai | swr | tretRes | tretRst | tretTerm | progress | mark | braD | reform | yield | waitf | brx
  | ret | call | barw | teamj | qend | ld | st | fred | atom | cas | red | lda | ldc | sta | stc | redobjInit | redobjFold | illz
  | mdep | bara | baraw | asupd | stopp => exact goesOn_issue fun _ => goesOn_next _
  | fchk | cvts | draw | drawf | drawb | hwsig | tgwait | aslice | resv | rfree | mwait | tenq | dcnew | dcdec | dcq | launch | mutl
  | sfetch | trace | tex | tld | tqrd | privw | mfrz | mfrzThaw => exact actWord_goesOn
  | ldk | cflush | cinv => exact laneActWord_goesOn
  | bcopy | bgath | bscat | cbld | sproj | ssort | rproj | rwlist => exact engineWord_goesOn
  | mma | mmas | mzero | mdrain | mfill => exact jointWord_goesOn
  | cdep | cwmark | cread | crlist | crst | crstRel => exact ladleWord_goesOn
  | imst =>
    unfold exec execImst
    exact imageWord_goesOn
  | imld =>
    unfold exec execImld
    exact imageWord_goesOn
  | braU => exact execBraU_goesOn
  | exit => exact execExit_goesOn
  | qpop => exact execQpop_goesOn
  | macq => exact execMacq_goesOn
  | gang => exact execGang_goesOn
  | killg => exact execKillg_goesOn
  | _ => cases h

end

/-! The step that issues a group. -/

/-- A group that may issue and stands at a word runs it (06 R124). -/
theorem issueGroup_of_word {s : State} {part pos : Nat} {ix : Issue} {x : IWord} {xs : List IWord} {i : Instr} {u : State}
    (hix : issueAt s part pos = some ix) (hfree : (s.group part pos).hold = .free) (hredo : (s.group part pos).redo = false)
    (hw : (s.group part pos).words = x :: xs) (hd : decodeWord x = .ok i)
    (hu : exec i { s with cur := some { part := part, pos := pos, word := s.w.nextId } } = .next u) :
    issueGroup exec part pos s = .next { logReads s ix i u with cur := none } := by
  have hn : nextWord (s.group part pos) = some i := by simp [nextWord, hw, hd]
  simp only [issueGroup, hix, hfree, hn, hredo, hu, ne_eq, not_true_eq_false, if_false, Bool.false_eq_true]

/-- An agenda's step performs its head, unless a replay runs and the head is a message or the beginning of a checkpoint. -/
theorem stepAgenda_issue (c : Cur) (s : State) : stepAgenda (.issue c) s = perform (.issue c) s := by
  unfold stepAgenda
  split
  · cases ‹Action.issue c = _›
  · cases ‹Action.issue c = _›
  · rfl

/-- Settles O57: the word that the group stands at has a meaning that goes on, and the step is this meaning. -/
theorem stepRunsTheDecodedWord : Obligations.StepRunsTheDecodedWord := by
  intro s c rest x xs i ix hag a hnow hix hfree hredo hw hd
  obtain ⟨u, hu⟩ := exec_goesOn (decodedWordsEncode x i hd)
  refine ⟨u, hu, ?_⟩
  have hact : act (.issue c) a = .next { logReads a ix i u with cur := none } := by
    rw [act, if_pos hnow, issueGroup_of_word hix hfree hredo hw hd hu]
  simp only [step, hag, stepAgenda_issue, perform]
  rw [hact]
  rfl

/-! The control words (02 R46; 06 R127; 07 R141-R146). -/

/-- Settles O15: TRAP and BKPT act on the state by their calls; ILLZ makes the calls at the header. -/
theorem trapWordsRaiseTheirCause : Obligations.TrapWordsRaiseTheirCause := by
  refine fun w rest => ⟨actsAs_of_stateWord _ _ _ fun _ => rfl, actsAs_of_stateWord _ _ _ fun _ => rfl, fun s ix hix => ?_⟩
  show execIllz rest s = _
  rw [execIllz, hix]
  rfl

/-- Settles O12: each word files its threads by `fileAll`; NOP acts on nothing. -/
theorem branchesFileEachThread : Obligations.BranchesFileEachThread := by
  refine fun w b => ⟨actsAs_of_stateWord _ _ _ fun _ => rfl, filesAs_of_filingWord _ _ _ fun _ => rfl,
    filesAs_of_filingWord _ _ _ fun _ => rfl, filesAs_of_filingWord _ _ _ fun _ => rfl, filesAs_of_filingWord _ _ _ fun s => ?_,
    filesAs_of_filingWord _ _ _ fun _ => rfl⟩
  show execYield w s = _
  simp only [execYield, Bool.and_eq_true, decide_eq_true_eq]

/-- Where every member goes to one header, the group moves on to it. -/
theorem execBraU_of_uniform {b : WideWd} {s : State} {ix : Issue} {dest : Nat} (hix : s.issue = some ix) (hne : ix.tids ≠ [])
    (h : ∀ i ∈ ix.tids, branchNext s ix b.ctl (wideTarget ix.pc b.imm) { pg := ix.pg, tid := i } = dest) :
    execBraU b s = .next (arriveHeader (spendSlot (acceptFlags s s ix b.ctl) ix b.ctl) ix.part ix.pos dest) := by
  have hd : branchNext s ix b.ctl (wideTarget ix.pc b.imm) { pg := ix.pg, tid := ix.tids.headD 0 } = dest := by
    obtain ⟨i, is, his⟩ := List.exists_cons_of_ne_nil hne
    simpa [his] using h i (by simp [his])
  have hall : ix.tids.all (fun i => decide (branchNext s ix b.ctl (wideTarget ix.pc b.imm) { pg := ix.pg, tid := i } = dest)) = true :=
    List.all_eq_true.mpr fun i hi => decide_eq_true (h i hi)
  simp only [execBraU, hix, hd, hall, if_true]

/-- Where two members go to different headers, every member traps. -/
theorem execBraU_of_split {b : WideWd} {s : State} {ix : Issue} {i j : Nat} (hix : s.issue = some ix) (hi : i ∈ ix.tids)
    (hj : j ∈ ix.tids) (h : branchNext s ix b.ctl (wideTarget ix.pc b.imm) { pg := ix.pg, tid := i }
      ≠ branchNext s ix b.ctl (wideTarget ix.pc b.imm) { pg := ix.pg, tid := j }) :
    execBraU b s = .next (ix.tids.foldl (fun a i => trapAt a ix i (plainTrap 0x03 ix.pc)) (spendSlot s ix b.ctl)) := by
  have hall (d : Nat) :
      ¬ ix.tids.all (fun i => decide (branchNext s ix b.ctl (wideTarget ix.pc b.imm) { pg := ix.pg, tid := i } = d)) = true := by
    intro ha
    have hd (k : Nat) (hk : k ∈ ix.tids) := of_decide_eq_true (List.all_eq_true.mp ha k hk)
    exact h ((hd i hi).trans (hd j hj).symm)
  simp [execBraU, hix, hall]

/-- What BRX and RET do to one thread of the group (07 R143). -/
def indirectLane (s : State) (ix : Issue) (w : Wd) (ret : Bool) (a : State) (t : ThreadRef) : State :=
  let target := (srcPair s t w.b).toNat
  if guardOf s w.ctl t = false then fileThread a t (ix.pc + 12) .ready
  else if 2 ^ 56 ≤ target then trapAt a ix t.tid (memTrap 0x06 target)
  else if target % 4 ≠ 0 then trapAt a ix t.tid (plainTrap 0x05 target)
  else if ret then traceRecord (fileThread a t target .ready) t 2 ix.pc (target % 2 ^ 32) 0
  else fileThread a t target .ready

theorem indirect_eq_foldl (s : State) (ix : Issue) (w : Wd) (ret : Bool) :
    indirect s ix w ret = ix.tids.foldl (fun a i => indirectLane s ix w ret a { pg := ix.pg, tid := i }) s := by
  unfold indirect
  dsimp only
  congr 1
  funext a i
  simp only [indirectLane, takeTarget]
  by_cases hg : guardOf s w.ctl { pg := ix.pg, tid := i } = true
  · by_cases hbig : 2 ^ 56 ≤ (srcPair s { pg := ix.pg, tid := i } w.b).toNat
    · simp [-Nat.reducePow, hg, hbig]
    · by_cases hmis : (srcPair s { pg := ix.pg, tid := i } w.b).toNat % 4 = 0 <;> simp [-Nat.reducePow, hg, hbig, hmis]
  · simp [hg]

/-- Settles O13: BRA.u by whether its members agree, BRX and RET thread by thread. -/
theorem uniformAndIndirectBranches : Obligations.UniformAndIndirectBranches := by
  refine ⟨fun b s ix hix => ⟨fun dest hne h => execBraU_of_uniform hix hne h, ?_⟩, fun w => ⟨?_, ?_⟩⟩
  · rintro ⟨i, hi, j, hj, h⟩
    exact execBraU_of_split hix hi hj h
  · refine filesAs_of_filingWord _ _ _ fun s => ?_
    show filingWord s w.ctl (fun ix s => indirect s ix w false) = _
    simp only [indirect_eq_foldl]
    rfl
  · refine filesAs_of_filingWord _ _ _ fun s => ?_
    show filingWord s w.ctl (fun ix s => indirect s ix w true) = _
    simp only [indirect_eq_foldl]
    rfl

end Sys2Proof.Machine

/-! Words that keep a unit of their partition busy (02 R43, 11 R258). -/

namespace Sys2Proof.Machine

-- One proof after the other: the check's memory limit counts the stack of every thread that elaborates a proof.
set_option Elab.async false

theorem acceptFlagsAs_parts (held : Bool) (s0 s : State) (ix : Issue) (c : Ctl) : (acceptFlagsAs held s0 s ix c).w.parts = s.w.parts := by
  unfold acceptFlagsAs
  dsimp only
  split
  · rfl
  · generalize activeOf s0 ix c = l
    induction l generalizing s with
    | nil => rfl
    | cons t l ih =>
      rw [List.foldl_cons, ih]
      split <;> rfl

theorem laneResults_parts (s : State) (ix : Issue) (c : Ctl) (lat : Nat) (isVar : Bool) (f : State → Issue → ThreadRef → LaneOut) :
    (laneResults s ix c lat isVar f).w.parts = s.w.parts := by
  show (pushAll s ix c lat isVar _).w.parts = _
  rw [pushAll_only]

/-- The issue of a word changes its partition's account of issues and its groups, and keeps the rest of it. -/
theorem spendSlot_part (s : State) (ix : Issue) (c : Ctl) : ∃ i l q r g, (spendSlot s ix c).part ix.part
    = { s.part ix.part with issued := i, lastIssue := l, seq := q, rot := r, groups := g } := by
  simp only [spendSlot, part_modPart, if_true, trialCount]
  split <;> exact ⟨_, _, _, _, _, rfl⟩

/-- A word of results that reserves a unit leaves the reservation `f` of its partition as its change `g` of the partition has it. -/
theorem leaves_of_busy (f : Partition → Nat) (n : Nat)
    (hf : ∀ p i l q r g, f { p with issued := i, lastIssue := l, seq := q, rot := r, groups := g } = f p) {i : Instr} {c : Ctl}
    {lat : Nat} {out : State → Issue → ThreadRef → LaneOut} {g : State → Issue → Partition → Partition}
    (h : ∀ s, exec i s = stateWord s c fun ix s => laneResults (modPart s ix.part (g s ix)) ix c lat false out)
    (hg : ∀ s ix p, f (g s ix p) = timeOf s ix.cg + n) {s : State} {ix : Issue} (hix : s.issue = some ix) :
    ∃ e, exec i s = .next (advance e ix) ∧ f (e.part ix.part) = timeOf s ix.cg + n := by
  refine ⟨_, by rw [h, stateWord, hix]; rfl, ?_⟩
  generalize hu : acceptFlags s (laneResults (modPart s ix.part (g s ix)) ix c lat false out) ix c = u
  have hp : u.part ix.part = g s ix (s.part ix.part) := by
    have hw : u.w.parts = (modPart s ix.part (g s ix)).w.parts := by rw [← hu, acceptFlags, acceptFlagsAs_parts, laneResults_parts]
    calc u.part ix.part = (modPart s ix.part (g s ix)).part ix.part := by simp only [State.part, hw]
      _ = g s ix (s.part ix.part) := by rw [part_modPart, if_pos rfl]
  obtain ⟨a, l, q, r, gs, he⟩ := spendSlot_part u ix c
  rw [he, hf, hp, hg]

/-- Settles O9: each of the words is one result per lane after the reservation of its unit. -/
theorem busyUnitsAreReserved : Obligations.BusyUnitsAreReserved := by
  intro w ty x y cmp comb rm s ix hix
  have f64 (i : Instr) (out) (h : ∀ s, exec i s = f64Lanes s w out) :
      ∃ e, exec i s = .next (advance e ix) ∧ (e.part ix.part).f64Free = timeOf s ix.cg + 2 :=
    leaves_of_busy Partition.f64Free 2 (fun _ _ _ _ _ _ => rfl) h (fun _ _ _ => rfl) hix
  have frag (i : Instr) (out) (h : ∀ s, exec i s = fragWord s w out) :
      ∃ e, exec i s = .next (advance e ix) ∧ (e.part ix.part).fragFree = timeOf s ix.cg + 16 :=
    leaves_of_busy Partition.fragFree 16 (fun _ _ _ _ _ _ => rfl) h (fun _ _ _ => rfl) hix
  refine ⟨leaves_of_busy Partition.divFree _ (fun _ _ _ _ _ _ => rfl) (fun s => show exec _ s = execIdivn w ty x y s from rfl)
      (fun _ _ _ => rfl) hix, f64 _ _ fun _ => rfl, f64 _ _ fun _ => rfl, f64 _ _ fun _ => rfl, f64 _ _ fun _ => rfl,
    f64 _ _ fun _ => rfl, f64 _ _ fun _ => rfl, f64 _ _ fun _ => rfl, frag _ _ fun _ => rfl, frag _ _ fun _ => rfl⟩

end Sys2Proof.Machine

/-! Results that are due (02 R34, R36; 07 R139). -/

namespace Sys2Proof.Machine

-- One proof after the other: the check's memory limit counts the stack of every thread that elaborates a proof.
set_option Elab.async false

/-- A result that is due, whole and in flight under its number, is written by the event that completes its kind. -/
theorem exec_resultEvent {s : State} {p : Pend} (hfind : s.w.pends.find? (fun x => x.id = p.id) = some p) (hready : p.ready = true)
    (hbad : p.bad = none) (hdue : p.due ≤ timeOf s (cgOfPg p.th.pg)) :
    exec (if p.isVar then .variableResultComplete p.id else .fixedResultWrite p.id) s = .next (writeResult s p) := by
  cases hv : p.isVar with
  | true =>
    show execVariableResultComplete p.id s = _
    simp [execVariableResultComplete, hfind, hv, hready, hdue, hbad]
  | false =>
    show execFixedResultWrite p.id s = _
    simp [execFixedResultWrite, hfind, hv, hready, hdue]

/-- A result is written into its thread and leaves its entry, and nothing else changes. -/
theorem writeResult_only (s : State) (p : Pend) :
    writeResult s p = { s with w := { s.w with pends := (writeResult s p).w.pends, pgs := (writeResult s p).w.pgs } } := by
  unfold writeResult
  dsimp only
  split
  · rfl
  · split <;> rfl

/-- What a result is written into: its thread's completion flags, or its registers, predicates and sticky flags. -/
theorem thread_writeResult (s : State) (p : Pend) (r : ThreadRef) : (writeResult s p).thread r =
    if r = p.th ∧ p.th.tid < (s.pg p.th.pg).threads.length then
      if p.flagOnly = true then
        { s.thread p.th with ctx := { (s.thread p.th).ctx with
          flags := p.cflags.foldl (fun l i => l.modify i (· - 1)) (s.thread p.th).ctx.flags } }
      else
        { s.thread p.th with ctx := { (s.thread p.th).ctx with
          regs := (p.regs.zip p.vals).foldl (fun l x => l.set x.1 x.2) (s.thread p.th).ctx.regs,
          preds := p.preds.foldl (fun l x => l.set x.1 x.2) (s.thread p.th).ctx.preds,
          fflags := (s.thread p.th).ctx.fflags ||| p.raise } }
    else s.thread r := by
  unfold writeResult
  split
  · exact thread_modThread (dropPend s p.id) p.th r _
  · dsimp only
    split <;> exact thread_modThread s p.th r _

theorem pends_writeResult (s : State) (p : Pend) : (writeResult s p).w.pends =
    if p.flagOnly = true ∨ p.cflags = [] then s.w.pends.filter fun x => x.id != p.id
    else s.w.pends.map fun x => if x.id = p.id then
      { p with isVar := false, ready := true, regs := [], vals := [], preds := [], raise := 0, holds := false, flagOnly := true,
               due := timeOf s (cgOfPg p.th.pg) + 1 } else x := by
  unfold writeResult
  by_cases hf : p.flagOnly = true
  · rw [if_pos hf, if_pos (Or.inl hf)]
    rfl
  · by_cases hc : p.cflags = []
    · simp only [hf, hc, List.isEmpty_nil, if_true, or_true, Bool.false_eq_true, if_false]
      rfl
    · simp only [hf, hc, List.isEmpty_iff, or_self, if_false, Bool.false_eq_true]
      rfl

/-- Settles O10: the event writes the result; what it changes is said of `writeResult`. -/
theorem dueResultsAreWrittenOnce : Obligations.DueResultsAreWrittenOnce := by
  intro s p hfind hready hbad hdue hlen
  refine ⟨writeResult s p, exec_resultEvent hfind hready hbad hdue, writeResult_only s p, fun r hr => ?_, ?_⟩
  · rw [thread_writeResult, if_neg fun h => hr h.1]
  · by_cases hf : p.flagOnly = true
    · rw [if_pos hf, thread_writeResult, if_pos ⟨rfl, hlen⟩, if_pos hf, pends_writeResult, if_pos (Or.inl hf)]
      exact ⟨rfl, rfl⟩
    · rw [if_neg hf, thread_writeResult, if_pos ⟨rfl, hlen⟩, if_neg hf, pends_writeResult]
      simp only [hf, Bool.false_eq_true, false_or, true_and, hready]

end Sys2Proof.Machine

/-! Clamping, wrapping and rounding (02 R47; 03 R49, R51-R53). -/

namespace Sys2Proof.Machine

-- One proof after the other: the check's memory limit counts the stack of every thread that elaborates a proof.
set_option Elab.async false

/-! The range of an integer type, and its nearest value (03 R49). -/

theorem tyLo_le_tyHi (t : Ty) : tyLo t ≤ tyHi t := by cases t <;> decide

theorem satInt_mem (t : Ty) (x : Int) : tyLo t ≤ satInt t x ∧ satInt t x ≤ tyHi t := by
  have h := tyLo_le_tyHi t
  unfold satInt
  split
  · exact ⟨le_rfl, h⟩
  · split <;> constructor <;> omega

/-- Below the range its least value is the nearest, above it its greatest, and within it the value itself. -/
theorem satInt_nearest (t : Ty) (x y : Int) (hlo : tyLo t ≤ y) (hhi : y ≤ tyHi t) : |x - satInt t x| ≤ |x - y| := by
  unfold satInt
  split
  · rw [abs_sub_comm x, abs_sub_comm x, abs_of_nonneg (by omega)]
    exact le_trans (by omega) (le_abs_self _)
  · split
    · rw [abs_of_nonneg (by omega)]
      exact le_trans (by omega) (le_abs_self _)
    · simp

/-! The residue, extended by the type's sign (02 R47). -/

theorem one_le_bits (t : Ty) : 1 ≤ t.bits := by cases t <;> decide

theorem bits_le (t : Ty) : t.bits ≤ 64 := by cases t <;> decide

theorem two_pow_bits (t : Ty) : (2 : Int) ^ t.bits = 2 * 2 ^ (t.bits - 1) := by
  rw [← pow_succ', Nat.sub_add_cancel (one_le_bits t)]

/-- The integer whose 64 bits `wrapBits` gives. -/
def wrapInt (t : Ty) (x : Int) : Int :=
  if t.isSigned && decide (2 ^ (t.bits - 1) ≤ x % 2 ^ t.bits) then x % 2 ^ t.bits - 2 ^ t.bits else x % 2 ^ t.bits

theorem wrapBits_eq (t : Ty) (x : Int) : wrapBits t x = BitVec.ofInt 64 (wrapInt t x) := rfl

theorem wrapInt_emod (t : Ty) (x : Int) : wrapInt t x % 2 ^ t.bits = x % 2 ^ t.bits := by
  unfold wrapInt
  split <;> simp

theorem wrapBits_residue (t : Ty) (x : Int) : ((wrapBits t x).toNat : Int) % 2 ^ t.bits = x % 2 ^ t.bits := by
  have h64 : ((wrapBits t x).toNat : Int) = wrapInt t x % 2 ^ 64 := by
    rw [wrapBits_eq, BitVec.toNat_ofInt]
    exact Int.toNat_of_nonneg (Int.emod_nonneg _ (by decide))
  rw [h64, Int.emod_emod_of_dvd _ (pow_dvd_pow 2 (bits_le t)), wrapInt_emod]

/-- A value of the range is its own residue, extended by the type's sign. -/
theorem wrapInt_of_mem (t : Ty) (x : Int) (hlo : tyLo t ≤ x) (hhi : x ≤ tyHi t) : wrapInt t x = x := by
  have h2 := two_pow_bits t
  unfold tyLo at hlo
  unfold tyHi at hhi
  unfold wrapInt
  cases hs : t.isSigned with
  | false =>
    simp only [hs, Bool.false_and, Bool.false_eq_true, if_false] at hlo hhi ⊢
    exact Int.emod_eq_of_lt hlo (by omega)
  | true =>
    simp only [hs, Bool.true_and, if_true, decide_eq_true_eq] at hlo hhi ⊢
    by_cases hneg : x < 0
    · have hr : x % 2 ^ t.bits = x + 2 ^ t.bits := by
        rw [← Int.add_emod_right, Int.emod_eq_of_lt (by omega) (by omega)]
      rw [hr, if_pos (by omega)]
      omega
    · rw [Int.emod_eq_of_lt (by omega) (by omega), if_neg (by omega)]

theorem wrapBits_of_mem (t : Ty) (x : Int) (hlo : tyLo t ≤ x) (hhi : x ≤ tyHi t) :
    (if t.isSigned then (wrapBits t x).toInt else ((wrapBits t x).toNat : Int)) = x := by
  have hw := wrapInt_of_mem t x hlo hhi
  have h2 := two_pow_bits t
  have h64 : (2 : Int) ^ t.bits ≤ 2 ^ 64 := pow_le_pow_right₀ (by decide) (bits_le t)
  rw [wrapBits_eq, hw]
  unfold tyLo at hlo
  unfold tyHi at hhi
  cases hs : t.isSigned with
  | false =>
    simp only [hs, Bool.false_eq_true, if_false] at hlo hhi ⊢
    rw [BitVec.toNat_ofInt]
    omega
  | true =>
    simp only [hs, if_true] at hlo hhi ⊢
    rw [BitVec.toInt_ofInt]
    exact Int.bmod_eq_of_le (by omega) (by omega)

/-! A pattern of a float format rounds to itself (03 R51-R53). -/

/-- A pattern is its sign, its exponent and its fraction. -/
theorem pattern_split (k : FFmt) (x : Nat) (hx : x < 2 ^ (k.e + k.f + 1)) :
    k.sign (decide (x / 2 ^ (k.e + k.f) % 2 = 1)) + (x / 2 ^ k.f % 2 ^ k.e * 2 ^ k.f + x % 2 ^ k.f) = x := by
  have hlow : x / 2 ^ k.f % 2 ^ k.e * 2 ^ k.f + x % 2 ^ k.f = x % 2 ^ (k.e + k.f) := by
    rw [Nat.add_comm k.e, pow_add, Nat.mod_mul]
    ring
  have hdiv : x / 2 ^ (k.e + k.f) < 2 := Nat.div_lt_of_lt_mul (by rwa [← pow_succ])
  have hsum := Nat.div_add_mod x (2 ^ (k.e + k.f))
  rw [hlow, FFmt.sign]
  obtain h0 | h1 := Nat.le_one_iff_eq_zero_or_eq_one.mp (Nat.lt_succ_iff.mp hdiv)
  · simpa [h0] using hsum
  · simpa [h1] using hsum

theorem roundUnits_self (m : Nat) (x : Int) (sticky : Bool) (tie : Option Bool) : roundUnits m x x sticky tie = (m, sticky) := by
  simp [roundUnits]

/-- A normal magnitude of the format is left alone. -/
theorem roundMag_normal (k : FFmt) (neg : Bool) {ex frac : Nat} (hfrac : frac < 2 ^ k.f) (hex : 1 ≤ ex)
    (htop : (ex : Int) - k.bias ≤ k.emax) (hlast : (ex : Int) - k.bias = k.emax → frac ≤ k.topFrac) :
    roundMag k false none neg (2 ^ k.f + frac) ((ex : Int) - k.bias - k.f) false = (k.sign neg + (ex * 2 ^ k.f + frac), 0) := by
  have hlog : Nat.log2 (2 ^ k.f + frac) = k.f := (Nat.log2_eq_iff (by positivity)).mpr ⟨by omega, by rw [pow_succ]; omega⟩
  have hun : (ex : Int) - k.bias - k.f + k.f = ex - k.bias := by omega
  have hbig : ¬ 2 ^ k.f + frac = 2 ^ (k.f + 1) := by rw [pow_succ]; omega
  have hmin : k.emin ≤ (ex : Int) - k.bias := by unfold FFmt.emin; omega
  have hover : ¬ (k.emax < (ex : Int) - k.bias ∨ (ex : Int) - k.bias = k.emax ∧ k.topFrac < frac) := by
    rintro (h | ⟨h, h'⟩)
    · omega
    · exact absurd (hlast h) (by omega)
  simp only [roundMag, hlog, hun, roundUnits_self, hbig, decide_false, Bool.false_eq_true, if_false, Bool.or_eq_true, Bool.and_eq_true,
    decide_eq_true_eq, Nat.add_sub_cancel_left, hover, hmin, if_true, Int.sub_add_cancel, Int.toNat_natCast, flagIf]

/-- A subnormal magnitude of the format is left alone. -/
theorem roundMag_subnormal (k : FFmt) (neg : Bool) {m : Nat} (hm : m ≠ 0) (hlt : m < 2 ^ k.f) (hmax : k.emin ≤ k.emax) :
    roundMag k false none neg m (k.emin - k.f) false = (k.sign neg + m, 0) := by
  have hlog : m.log2 < k.f := (Nat.log2_lt hm).mpr hlt
  have htop : k.emin - k.f + m.log2 < k.emin := by omega
  have hun : roundUnits m (k.emin - k.f) (k.emin - k.f + m.log2 - k.f) false none = (m * 2 ^ (k.f - m.log2), false) := by
    rw [roundUnits, if_pos (by omega), show (k.emin - k.f - (k.emin - k.f + m.log2 - k.f) : Int).toNat = k.f - m.log2 by omega]
  have hbig : ¬ m * 2 ^ (k.f - m.log2) = 2 ^ (k.f + 1) := by
    have hpow : 2 ^ (k.f + 1) = 2 ^ (m.log2 + 1) * 2 ^ (k.f - m.log2) := by rw [← pow_add]; congr 1; omega
    rw [hpow]
    exact ne_of_lt (Nat.mul_lt_mul_of_pos_right Nat.lt_log2_self (by positivity))
  have hover : ¬ (k.emax < k.emin - k.f + m.log2 ∨ k.emin - k.f + m.log2 = k.emax ∧ k.topFrac < m * 2 ^ (k.f - m.log2) - 2 ^ k.f) := by
    omega
  have hmin : ¬ k.emin ≤ k.emin - k.f + m.log2 := by omega
  simp only [roundMag, hun, hbig, decide_false, Bool.false_eq_true, if_false, Bool.or_eq_true, Bool.and_eq_true, decide_eq_true_eq, hover,
    hmin, roundUnits_self, flagIf, Bool.false_and]
  rfl

/-- A finite pattern of the format is left alone: zero, a subnormal, or a normal magnitude, of the top exponent too where it holds one. -/
theorem round_finite (k : FFmt) (he : 2 ≤ k.e) (neg : Bool) {ex frac : Nat} (hfrac : frac < 2 ^ k.f) (hex : ex < 2 ^ k.e)
    (hinf : k.inf = true → ex ≠ 2 ^ k.e - 1) (hnan : ex = 2 ^ k.e - 1 → frac ≠ 2 ^ k.f - 1) :
    k.round (if ex = 0 then .fin neg frac (k.emin - k.f) else .fin neg (2 ^ k.f + frac) ((ex : Int) - k.bias - k.f))
      = (k.sign neg + (ex * 2 ^ k.f + frac), 0) := by
  have hE : 2 ^ k.e = 2 * 2 ^ (k.e - 1) := by rw [← pow_succ', Nat.sub_add_cancel (by omega)]
  have hE1 : 2 ^ (k.e - 1) = 2 * 2 ^ (k.e - 2) := by rw [← pow_succ']; congr 1; omega
  have hE2 : 0 < 2 ^ (k.e - 2) := by positivity
  have hbias : k.bias = 2 ^ (k.e - 1) - 1 := rfl
  by_cases h0 : ex = 0
  · rw [if_pos h0]
    by_cases hm : frac = 0
    · simp [FFmt.round, FFmt.roundTie, h0, hm]
    · have hmax : k.emin ≤ k.emax := by
        unfold FFmt.emin FFmt.emax
        split <;> omega
      simp only [FFmt.round, FFmt.roundTie, hm, if_false, h0, Nat.zero_mul, Nat.zero_add]
      exact roundMag_subnormal k neg hm hfrac hmax
  · rw [if_neg h0]
    have hpos : 2 ^ k.f + frac ≠ 0 := by omega
    simp only [FFmt.round, FFmt.roundTie, hpos, if_false]
    refine roundMag_normal k neg hfrac (by omega) ?_ fun hlast => ?_
    all_goals cases hi : k.inf with
      | true =>
        have := hinf hi
        simp only [FFmt.emax, FFmt.topFrac, hi, if_true] at *
        omega
      | false =>
        simp only [FFmt.emax, FFmt.topFrac, hi, Bool.false_eq_true, if_false] at *
        omega

/-- A format with two or more exponent bits rounds each of its own patterns to itself. -/
theorem round_value (k : FFmt) (he : 2 ≤ k.e) (x : Nat) (hx : x < 2 ^ (k.e + k.f + 1)) :
    k.round (k.value x) = if k.value x = .nan then (k.nan, 0) else (x, 0) := by
  have hsplit := pattern_split k x hx
  have hfrac : x % 2 ^ k.f < 2 ^ k.f := Nat.mod_lt _ (by positivity)
  have hex : x / 2 ^ k.f % 2 ^ k.e < 2 ^ k.e := Nat.mod_lt _ (by positivity)
  have hfinite := round_finite k he (decide (x / 2 ^ (k.e + k.f) % 2 = 1)) hfrac hex
  rw [hsplit] at hfinite
  unfold FFmt.value
  dsimp only
  by_cases hinf : x / 2 ^ k.f % 2 ^ k.e = 2 ^ k.e - 1 ∧ k.inf = true
  · rw [if_pos hinf]
    obtain ⟨htop, hi⟩ := hinf
    by_cases h0 : x % 2 ^ k.f = 0
    · rw [htop, h0, Nat.add_zero] at hsplit
      simp [h0, FFmt.round, FFmt.roundTie, hi, FFmt.infBits, hsplit]
    · simp [h0, FFmt.round, FFmt.roundTie]
  · rw [if_neg hinf]
    by_cases hnan : x / 2 ^ k.f % 2 ^ k.e = 2 ^ k.e - 1 ∧ x % 2 ^ k.f = 2 ^ k.f - 1
    · simp [hnan, FFmt.round, FFmt.roundTie]
    · rw [if_neg hnan, hfinite (fun hi h => hinf ⟨h, hi⟩) fun h h' => hnan ⟨h, h'⟩, if_neg]
      split <;> exact FVal.noConfusion

/-- Settles O2: the integer half by `satInt` and `wrapInt`, the float half by the classes of a pattern. -/
theorem clampingAndRounding : Obligations.ClampingAndRounding := by
  refine ⟨fun t x => ⟨satInt_mem t x, satInt_nearest t x, wrapBits_residue t x, wrapBits_of_mem t x⟩, fun t ht x hx => ?_⟩
  have hfmt : 2 ≤ (fmtOf t).e ∧ t.bits = (fmtOf t).e + (fmtOf t).f + 1 := by
    revert ht; cases t <;> decide
  obtain ⟨he, hb⟩ := hfmt
  exact round_value _ he x (hb ▸ hx)

end Sys2Proof.Machine

/-! The scheduler's events (02 R34, R37-R39; 06 R116-R125; 08 R181; 22 R381). -/

namespace Sys2Proof.Machine

-- One proof after the other: the check's memory limit counts the stack of every thread that elaborates a proof.
set_option Elab.async false

/-! The model's sort and its least element. -/

theorem insertBy_perm {α : Type} (key : α → Nat) (x : α) (l : List α) : (insertBy key x l).Perm (x :: l) := by
  induction l with
  | nil => exact .refl _
  | cons y r ih =>
    unfold insertBy
    split
    · exact .refl _
    · exact (ih.cons y).trans (.swap x y r)

theorem sortBy_perm {α : Type} (key : α → Nat) (l : List α) : (sortBy key l).Perm l := by
  have h (acc : List α) : (l.foldl (fun acc x => insertBy key x acc) acc).Perm (l ++ acc) := by
    induction l generalizing acc with
    | nil => exact .refl _
    | cons x l ih => exact (ih _).trans (((insertBy_perm key x acc).append_left l).trans List.perm_middle)
  simpa [sortBy] using h []

theorem minBy?_mem {α : Type} {key : α → Nat} {l : List α} {x : α} (h : minBy? key l = some x) : x ∈ l := by
  refine List.foldlRecOn (motive := fun best => ∀ y, best = some y → y ∈ l) l _ (by rintro _ ⟨⟩) (fun best hb y hy z hz => ?_) x h
  cases best with
  | none => cases hz; exact hy
  | some b =>
    dsimp only at hz
    split at hz
    · cases hz; exact hy
    · exact hb z hz

/-! What a draw chooses and takes (06 R122, R123). -/

/-- The bin that is drawn is one of the partition's bins with ready threads, or its overflow path. -/
theorem chooseBin_mem {s : State} {part : Nat} {c : Cand} (h : chooseBin s part = some c) : c ∈ binCands s part ++ overflowCand s part := by
  unfold chooseBin at h
  extract_lets cs full second at h
  have hfull : ∀ x ∈ full, x ∈ cs := fun x hx => (List.mem_filter.1 hx).1
  have hsecond : ∀ x, second = some x → x ∈ cs := by
    intro x hx
    simp only [second] at hx
    split at hx
    · exact hfull x (minBy?_mem hx)
    · exact hfull x (List.mem_of_find?_eq_some hx)
  suffices hc : c ∈ cs from (List.mem_filter.1 hc).1
  split at h
  · cases h
    exact (List.mem_filter.1 (maxBy?_mem ‹_›)).1
  · cases h
    exact hsecond c ‹_›
  · cases h
    exact hfull c (List.mem_of_mem_head? (by rw [‹full = _›]; rfl))
  · split at h
    · exact maxBy?_mem h
    · cases h

theorem drawnAt_mem {s : State} {c : Cand} {l i : Nat} (h : drawnAt s c l = some i) : i ∈ c.ready ∧ laneOf i = l := by
  have hmem : i ∈ c.ready.filter fun i => decide (laneOf i = l) := by
    simp only [drawnAt] at h
    split at h
    · cases h
      exact List.mem_of_find?_eq_some ‹_›
    · exact List.mem_of_head? h
  simpa using hmem

/-- At a lane position with ready threads a draw takes one. -/
theorem drawnAt_of_ready {s : State} {c : Cand} {l j : Nat} (hj : j ∈ c.ready) (hl : laneOf j = l) : ∃ i, drawnAt s c l = some i := by
  have hmem : j ∈ c.ready.filter fun i => decide (laneOf i = l) := by simp [hj, hl]
  simp only [drawnAt]
  split
  · exact ⟨_, rfl⟩
  · exact Option.isSome_iff_exists.1 (List.isSome_head?.2 (List.ne_nil_of_mem hmem))

theorem mem_drawnOf {s : State} {c : Cand} {i : Nat} : i ∈ drawnOf s c ↔ ∃ l < 32, drawnAt s c l = some i := by
  rw [drawnOf, (sortBy_perm _ _).mem_iff, List.mem_filterMap]
  simp

theorem drawnOf_lanes_nodup (s : State) (c : Cand) : ((drawnOf s c).map laneOf).Nodup := by
  rw [drawnOf, ((sortBy_perm _ _).map laneOf).nodup_iff, List.map_filterMap]
  refine List.Nodup.filterMap (fun l l' b hb hb' => ?_) List.nodup_range
  have hlane : ∀ {l}, b ∈ (drawnAt s c l).map laneOf → b = l := by
    intro l h
    obtain ⟨i, hi, rfl⟩ := Option.map_eq_some_iff.1 h
    exact (drawnAt_mem hi).2
  exact (hlane hb).symm.trans (hlane hb')

theorem drawnOf_lanes (s : State) (c : Cand) : (∀ i ∈ drawnOf s c, i ∈ c.ready) ∧ ((drawnOf s c).map laneOf).Nodup
    ∧ ∀ l < 32, (∃ i ∈ c.ready, laneOf i = l) → ∃ i ∈ drawnOf s c, laneOf i = l := by
  refine ⟨fun i hi => ?_, drawnOf_lanes_nodup s c, fun l hl h => ?_⟩
  · obtain ⟨l, -, hd⟩ := mem_drawnOf.1 hi
    exact (drawnAt_mem hd).1
  · obtain ⟨j, hj, hjl⟩ := h
    obtain ⟨i, hi⟩ := drawnAt_of_ready (s := s) hj hjl
    exact ⟨i, mem_drawnOf.2 ⟨l, hl, hi⟩, (drawnAt_mem hi).2⟩

/-! What a draw keeps. -/

/-- The context of every thread and the failed fetches of every partition are the same. -/
def keepsCtx (s e : State) : Prop := (∀ r, (e.thread r).ctx = (s.thread r).ctx) ∧ ∀ p, (e.part p).failed = (s.part p).failed

theorem keepsCtx.refl (s : State) : keepsCtx s s := ⟨fun _ => rfl, fun _ => rfl⟩

theorem keepsCtx.trans {a b c : State} (h : keepsCtx a b) (h' : keepsCtx b c) : keepsCtx a c :=
  ⟨fun r => (h'.1 r).trans (h.1 r), fun p => (h'.2 p).trans (h.2 p)⟩

theorem keepsCtx_foldl {α : Type} {f : State → α → State} (h : ∀ s x, keepsCtx s (f s x)) (l : List α) (s : State) :
    keepsCtx s (l.foldl f s) := by
  induction l generalizing s with
  | nil => exact .refl s
  | cons x l ih => exact (h s x).trans (ih _)

theorem keepsCtx_modThread (s : State) (t : ThreadRef) {f : Thread → Thread} (hf : ∀ x, (f x).ctx = x.ctx) :
    keepsCtx s (modThread s t f) := by
  refine ⟨fun r => ?_, fun _ => rfl⟩
  rw [thread_modThread]
  split
  · rename_i h
    rw [hf, h.1]
  · rfl

theorem keepsCtx_modPart (s : State) (k : Nat) {f : Partition → Partition} (hf : ∀ x, (f x).failed = x.failed) :
    keepsCtx s (modPart s k f) := by
  refine ⟨fun _ => rfl, fun p => ?_⟩
  rw [part_modPart]
  split
  · rename_i h
    rw [hf, h]
  · rfl

theorem keepsCtx_leaveGroup (s : State) (t : ThreadRef) : keepsCtx s (leaveGroup s t) := by
  unfold leaveGroup
  split
  · exact keepsCtx_modPart s _ (by intro; rfl)
  · exact .refl s

theorem keepsCtx_setPlace (s : State) (t : ThreadRef) (pl : Place) : keepsCtx s (setPlace s t pl) := by
  have h := (keepsCtx_leaveGroup s t).trans (keepsCtx_modThread _ t (f := fun x => { x with place := pl }) fun _ => rfl)
  unfold setPlace
  dsimp only
  split
  · exact h.trans (keepsCtx_modPart _ _ (by intro; rfl))
  · exact h

theorem keepsCtx_newGroup (s : State) (part pg : Nat) (tids : List Nat) : keepsCtx s (newGroup s part pg tids).1 :=
  (keepsCtx_foldl (fun s i => keepsCtx_setPlace s { pg := pg, tid := i } _) tids s).trans (keepsCtx_modPart _ _ (by intro; rfl))

theorem keepsCtx_settleAge (s : State) (part n : Nat) : keepsCtx s (settleAge s part n) := by
  unfold settleAge
  split
  · split
    · exact keepsCtx_modPart s _ (by intro; rfl)
    · exact .refl s
  · exact keepsCtx_modPart s _ (by intro; rfl)

theorem keepsCtx.fetchFailed {s e : State} (h : keepsCtx s e) (part pg va : Nat) :
    Machine.fetchFailed e part pg va = Machine.fetchFailed s part pg va := by
  unfold Machine.fetchFailed
  rw [h.2 part]

theorem fetchFailed_clearFail (s : State) (part pg va : Nat) : fetchFailed (clearFail s part pg va) part pg va = none := by
  simp only [fetchFailed, clearFail, part_modPart, if_true, Option.map_eq_none_iff, List.find?_eq_none, List.mem_filter]
  intro f hf h
  simp [h] at hf

/-- A draw of a bin whose fetch has failed: its threads are taken, the failure is forgotten, and they trap at the clause's header. -/
theorem drawBin_of_failed {s : State} {part : Nat} {c : Cand} {cause : BitVec 8} (h : fetchFailed s part c.pg c.pc = some cause) :
    ∃ d, drawBin s part c = groupTraps (clearFail d part c.pg c.pc) c.pg (drawnOf s c) (memTrap cause c.pc) c.pc ∧ keepsCtx s d := by
  have mark (b : Bool) (l : List Nat) (s : State) :
      keepsCtx s (l.foldl (fun s i => modThread s { pg := c.pg, tid := i } fun x => { x with passed := b }) s) :=
    keepsCtx_foldl (fun s i => keepsCtx_modThread s { pg := c.pg, tid := i } (by intro; rfl)) l s
  unfold drawBin
  extract_lets ts served mk a b
  have hb : keepsCtx s b := (mark true _ s).trans (mark false ts a)
  have hd := (hb.trans (keepsCtx_newGroup b part c.pg ts)).trans (keepsCtx_settleAge (newGroup b part c.pg ts).1 part c.num)
  refine ⟨_, ?_, hd⟩
  simp only [hd.fetchFailed, h]
  rfl

/-! The events, each by the test that its meaning makes. -/

section

variable {s : State} {part : Nat}

theorem execBinDraw_of_not (h : drawNow s part = false) : execBinDraw part s = .next s := by
  simp [execBinDraw, h]

theorem execBinDraw_special {c : Nat × List Nat × Nat × Bool} (h : drawNow s part = true) (hc : specialCand s part = some c) :
    execBinDraw part s = .next (drawSpecial s part c) := by
  simp only [execBinDraw, h, if_true, hc]

theorem execBinDraw_bin {c : Cand} (h : drawNow s part = true) (hs : specialCand s part = none) (hc : chooseBin s part = some c) :
    execBinDraw part s = .next (drawBin s part c) := by
  simp only [execBinDraw, h, if_true, hs, hc]

theorem execBinDraw_nothing (h : drawNow s part = true) (hs : specialCand s part = none) (hc : chooseBin s part = none) :
    execBinDraw part s = .next s := by
  simp only [execBinDraw, h, if_true, hs, hc]

theorem execOverflowMove_of_not (h : (s.part part).ovDue = false ∨ overflowWaits s part = false) : execOverflowMove part s = .next s := by
  have hdue : overflowDue s part = false := by rcases h with h | h <;> simp [overflowDue, h]
  simp [execOverflowMove, hdue]

theorem part_modPg (s : State) (k p : Nat) (f : PartGroup → PartGroup) : (modPg s k f).part p = s.part p := rfl

/-- After the threads of the overflow path have been looked at, its age is 0 where none of them is ready. -/
theorem settleAge_overflow (s : State) (part : Nat) :
    ((settleAge s part Config.bins).part part).ovDue = (s.part part).ovDue
    ∧ (overflowReady (settleAge s part Config.bins) part = [] → ((settleAge s part Config.bins).part part).ovAge = 0)
    ∧ ∀ k, (settleAge s part Config.bins).pg k = s.pg k := by
  unfold settleAge
  rw [if_pos rfl]
  split
  · rw [part_modPart, if_pos rfl]
    exact ⟨rfl, fun _ => rfl, fun _ => rfl⟩
  · rename_i hne
    exact ⟨rfl, fun h => absurd (List.isEmpty_iff.2 h) hne, fun _ => rfl⟩

/-- The set of overflowed threads that share the first one's PC moves into the free bin. -/
theorem execOverflowMove_moves {t : ThreadRef} {n : Nat} (hdue : (s.part part).ovDue = true) (hw : overflowWaits s part = true)
    (ht : firstOverflowed s part = some t) (hn : binFor (s.part part) t.pg (s.thread t).pc = .bin n) :
    ∃ u, execOverflowMove part s = .next u ∧ (u.part part).ovDue = false ∧ (overflowReady u part = [] → (u.part part).ovAge = 0)
      ∧ (u.pg t.pg).threads = (s.pg t.pg).threads.map fun x =>
        if x.place = .overflow ∧ x.pc = (s.thread t).pc then { x with place := .bin n } else x := by
  have hdue' : overflowDue s part = true := by simp [overflowDue, hdue, hw]
  have ht' : firstOverflowed (modPart s part fun p => { p with ovDue := false }) part = some t := ht
  have hn' : binFor ((modPart s part fun p => { p with ovDue := false }).part part) t.pg
      ((modPart s part fun p => { p with ovDue := false }).thread t).pc = .bin n := by
    rw [part_modPart, if_pos rfl]
    exact hn
  simp only [execOverflowMove, hdue', if_true, ht', hn']
  refine ⟨_, rfl, (settleAge_overflow _ part).1.trans ?_, (settleAge_overflow _ part).2.1, ?_⟩
  · rw [part_modPg, part_modPart, if_pos rfl]
    split <;> rw [part_modPart, if_pos rfl]
  · rw [(settleAge_overflow _ part).2.2, pg_modPg, if_pos rfl]
    rfl

theorem execBinAged_eq (bin : Nat) : execBinAged part bin s = .next (modPart s part fun p => { p with bins := tmod p.bins bin fun b =>
    { b with aged := b.aged || decide (ageLimit (s.lrOfPg b.pg) ≤ b.age) } }) := rfl

theorem execAgedGroupFiling_of_group {pos : Nat} {g : Group} (hg : tget? (s.part part).groups pos = some g) :
    execAgedGroupFiling part pos s = .next
      (if (s.part part).stopped = false ∧ g.words = [] ∧ g.hold = .free ∧ g.pc = g.hdr ∧ mustFileAged s part pos = true then
        g.tids.foldl (fun s i => fileThread s { pg := g.pg, tid := i } g.hdr .ready) s else s) := by
  simp only [execAgedGroupFiling, hg, atHeaderNow, Bool.and_eq_true, Bool.not_eq_true', List.isEmpty_iff, decide_eq_true_eq, and_assoc]
  split <;> rfl

/-- A bin whose fetch has failed is drawn: its threads trap at the clause's header, and the failure is forgotten. -/
theorem execBinDraw_of_failed {c : Cand} {cause : BitVec 8} (h : drawNow s part = true) (hs : specialCand s part = none)
    (hc : chooseBin s part = some c) (hf : fetchFailed s part c.pg c.pc = some cause) :
    ∃ d, execBinDraw part s = .next (groupTraps d c.pg (drawnOf s c) (memTrap cause c.pc) c.pc)
      ∧ fetchFailed d part c.pg c.pc = none ∧ ∀ r, (d.thread r).ctx = (s.thread r).ctx := by
  obtain ⟨d, hd, hk⟩ := drawBin_of_failed hf
  refine ⟨clearFail d part c.pg c.pc, ?_, fetchFailed_clearFail d part c.pg c.pc, hk.1⟩
  rw [execBinDraw_bin h hs hc, hd]

theorem execClauseFetchComplete_of_not {pg va : Nat}
    (h : (s.part part).stopped = true ∨ (pg, va) ∉ neededFetches s part ∨ fetchDue s part pg va = false) :
    execClauseFetchComplete part pg va s = .next s := by
  have hno : (!(s.part part).stopped && (neededFetches s part).contains (pg, va) && fetchDue s part pg va) = false := by
    rcases h with h | h | h <;> simp [h]
  rw [execClauseFetchComplete, hno, if_neg Bool.false_ne_true]

theorem clauseFetch_goes {pg va : Nat} (hrun : (s.part part).stopped = false) (hneed : (pg, va) ∈ neededFetches s part)
    (hdue : fetchDue s part pg va = true) :
    (!(s.part part).stopped && (neededFetches s part).contains (pg, va) && fetchDue s part pg va) = true := by
  simp [hrun, hneed, hdue]

section

variable {pg va : Nat} {a : State} {r : Option (BitVec 8)}

/-- The fetch of a clause is no longer asked for. -/
def fetchDone (a : State) (part pg va : Nat) : State :=
  modPart a part fun p => { p with fetches := p.fetches.filter fun f => !(decide (f.1 = pg) && decide (f.2.1 = va)) }

/-- The groups that wait for a clause have trapped. -/
def waitingTrapped (a : State) (part pg va : Nat) (x : Trap) : State :=
  (waitingFor (fetchDone a part pg va) part pg va).foldl (fun b e => waitingTraps b e x) (fetchDone a part pg va)

/-- A cause is left for the draw of the threads that are filed at a clause. -/
def leaveFailed (u : State) (part pg va : Nat) (cause : BitVec 8) : State :=
  modPart u part fun p => { p with failed := p.failed ++ [{ pg := pg, va := va, cause := cause }] }

variable (hrun : (s.part part).stopped = false) (hneed : (pg, va) ∈ neededFetches s part) (hdue : fetchDue s part pg va = true)
  (hfetch : fetchClause s part (s.launch (s.pg pg).lid).space (s.pg pg).lid va = (a, r))

include hrun hneed hdue hfetch

theorem execClauseFetchComplete_present (hr : r = none) :
    execClauseFetchComplete part pg va s = .next (enterWaiting (fetchDone a part pg va) part pg va) := by
  subst hr
  simp only [execClauseFetchComplete, clauseFetch_goes hrun hneed hdue, if_true, hfetch]
  rfl

theorem execClauseFetchComplete_waits (hr : r = some 0) : execClauseFetchComplete part pg va s = .next a := by
  subst hr
  simp only [execClauseFetchComplete, clauseFetch_goes hrun hneed hdue, if_true, hfetch]

/-- The groups that wait trap; where threads are filed at the clause, the cause is left for their draw. -/
theorem execClauseFetchComplete_failed {cause : BitVec 8} (hr : r = some cause) (hc : cause ≠ 0) :
    ∃ v, execClauseFetchComplete part pg va s = .next v
      ∧ (v = waitingTrapped a part pg va (memTrap cause va)
        ∨ v = leaveFailed (waitingTrapped a part pg va (memTrap cause va)) part pg va cause)
      ∧ ((∃ c ∈ binCands (waitingTrapped a part pg va (memTrap cause va)) part
            ++ overflowCand (waitingTrapped a part pg va (memTrap cause va)) part, c.pg = pg ∧ c.pc = va) →
          { pg := pg, va := va, cause := cause } ∈ (v.part part).failed) := by
  subst hr
  simp only [execClauseFetchComplete, clauseFetch_goes hrun hneed hdue, if_true, hfetch, hc, if_false]
  refine ⟨_, rfl, ?_, fun h => ?_⟩
  · split
    · exact .inr rfl
    · exact .inl rfl
  · obtain ⟨c, hmem, hpg, hpc⟩ := h
    rw [if_pos]
    · rw [part_modPart, if_pos rfl]
      exact List.mem_append_right _ (List.mem_singleton.2 rfl)
    · rw [Bool.or_eq_true]
      exact .inl (List.any_eq_true.2 ⟨c, hmem, by simp [hpg, hpc]⟩)

end

end

/-- A group that waits at the clause's header traps there. -/
theorem waitingTraps_at_header (b : State) (e : Nat × Group) (x : Trap) (h : e.2.pc = e.2.hdr) :
    waitingTraps b e x = groupTraps b e.2.pg e.2.tids x e.2.hdr := by
  rw [waitingTraps, if_pos h]

/-- Settles O45: each event by what is said of it. -/
theorem schedulerEvents : Obligations.SchedulerEvents := by
  intro s part pos bin pg tid va
  refine ⟨execBinDraw_of_not, fun h => ?_, fun c => chooseBin_mem, drawnOf_lanes s, execOverflowMove_of_not,
    fun t n => execOverflowMove_moves, execBinAged_eq bin, fun g => execAgedGroupFiling_of_group, fun h => ?_, rfl, rfl,
    fun c cause => execBinDraw_of_failed, execClauseFetchComplete_of_not,
    fun a r hrun hneed hdue hfetch => ⟨?_, ?_, fun cause hr hc => ?_⟩⟩
  · cases hs : specialCand s part with
    | some c => exact execBinDraw_special h hs
    | none =>
      cases hc : chooseBin s part with
      | some c => exact execBinDraw_bin h hs hc
      | none => exact execBinDraw_nothing h hs hc
  · show execAgedGroupFiling part pos s = _
    simp only [execAgedGroupFiling, h]
  · exact execClauseFetchComplete_present hrun hneed hdue hfetch
  · exact execClauseFetchComplete_waits hrun hneed hdue hfetch
  · obtain ⟨v, hv, hor, hmem⟩ := execClauseFetchComplete_failed hrun hneed hdue hfetch hr hc
    exact ⟨v, hv, hor, hmem, fun b e => waitingTraps_at_header b e _⟩

end Sys2Proof.Machine

/-! Packed halves, dot products, special functions, conversions, packing, codebook and scale (07 R164-R172; 03 R62, R63, R67-R72). -/

namespace Sys2Proof.Machine

-- One proof after the other: the check's memory limit counts the stack of every thread that elaborates a proof.
set_option Elab.async false

/-- For a type of one register the step of the model gives the result that the statements name. -/
theorem intResult_eq_intStep {ty : Ty} (h : ty.is64 = false) (sat : Bool) (d : Nat) (x : Int) :
    intResult ty sat d x = out1 d ((intStep ty sat x).1.truncate 32) (intStep ty sat x).2 := by
  unfold intResult intStep outTy
  cases sat with
  | false => simp [h]
  | true => by_cases hx : satInt ty x = x <;> simp [h, hx]

/-- A running sum is where it began and the sum of its terms. -/
theorem foldl_add_eq_add_sum {α : Type} (f : α → Int) (l : List α) (n : Int) :
    l.foldl (fun n j => n + f j) n = n + (l.map f).sum := by
  induction l generalizing n with
  | nil => simp
  | cons a l ih => rw [List.foldl_cons, ih, List.map_cons, List.sum_cons, add_assoc]

/-- A rounding after a valid operation raises the flags of the rounding alone. -/
theorem floatStep_of_valid (k : FFmt) (v : FVal) : floatStep k (v, false) = k.round v := by
  simp [floatStep, flagIf]

/-- IDOT4 (07 R165): the exact value is the accumulator and the four products. -/
theorem givesResults_idot4 (w : Wd) (ty : Ty) (sat : Bool) :
    let acc : Ty := if ty.isSigned then .i32 else .n32
    givesResults (.idot4 w ty sat) w.ctl 6 false fun s _ t => intResult acc sat (vNum w.a)
      (srcInt s t acc w.a
        + ((List.range 4).map fun j => byteInt ty.isSigned (srcWord s t w.b) j * byteInt ty.isSigned (srcWord s t w.c) j).sum) := by
  intro acc
  have hacc : acc.is64 = false := by cases h : ty.isSigned <;> simp [acc, h, Ty.is64]
  refine givesResults_of_laneWord _ _ 6 false _ fun s => ?_
  simp only [intResult_eq_intStep hacc, ← foldl_add_eq_add_sum]
  rfl

/-- SCALE (07 R172): the product by a power of two is always valid. -/
theorem givesResults_scale (w : Wd) :
    givesResults (.scale w) w.ctl 4 false fun s _ t =>
      let r := fmt32.round (mulV (val32 s t w.b) (se8Value (srcWord s t w.c).toNat)).1
      out1 (vNum w.a) (word r.1) r.2 := by
  refine givesResults_of_laneWord _ _ 4 false _ fun s => ?_
  simp only [← floatStep_of_valid]
  rfl

/-- Settles O7: what each word gives is the function of one lane in its meaning, but for the sum of IDOT4 and the flags of SCALE. -/
theorem packedSpecialAndConversionWords : Obligations.PackedSpecialAndConversionWords := by
  refine ⟨fun w ty sat => ⟨⟨?hadd2, ?hmul2, ?hfma2, ?hmin2, ?hmax2⟩, ?hdot2, givesResults_idot4 w ty sat⟩,
    fun w ty => ⟨?rcp, ?rsq, ?sqrt, ?exp2, ?log2, ?sin, ?cos, ?tanh⟩,
    fun w ty sty sat hi => ⟨?cvt, ?pack8, ?unpack8, ?cbdec, givesResults_scale w⟩⟩
  case hadd2 | hmul2 | hfma2 | hmin2 | hmax2 | hdot2 | rcp | rsq | sqrt | exp2 | log2 | sin | cos | tanh | cvt | pack8 | unpack8 | cbdec =>
    exact givesResults_of_laneWord _ _ _ _ _ fun _ => rfl

end Sys2Proof.Machine

/-! The words that draw (10 R227-R235; 03 R60; 07 R169). -/

namespace Sys2Proof.Machine

-- One proof after the other: the check's memory limit counts the stack of every thread that elaborates a proof.
set_option Elab.async false

section

variable {s : State} {t : ThreadRef} {site occ : Nat}

/-! The draw (10 R228, R231). -/

/-- A full output record is CHOICE_FULL with the count, and the record is marked full. -/
theorem draw_of_full (hrec : (s.lrOfPg t.pg).cvout ≠ 0) (hfull : (s.thread t).ctx.cv.cvout.toNat = cvCap (s.lrOfPg t.pg)) :
    draw s t site occ = (modCtx s t fun c => { c with cv := { c.cv with full := true } },
      .error (plainTrap 0x11 (s.thread t).ctx.cv.cvout.toNat)) := by
  rw [draw, if_pos ⟨hrec, hfull⟩]

theorem cvCount_of_mode0 (h : (s.lrOfPg t.pg).cvmode = 0) : cvCount s t = (s, .ok 0) := by
  rw [cvCount, if_pos (Or.inl h)]

theorem cvSearch_of_le {fuel i n : Nat} (h : n ≤ i) : cvSearch fuel s t i n site occ = (s, .ok none) := by
  cases fuel with
  | zero => rfl
  | succ k => rw [cvSearch, if_pos h]

/-- Without records the value is that of the draw function, and the thread counts one draw more. -/
theorem draw_of_noRecords (hout : (s.lrOfPg t.pg).cvout = 0) (hmode : (s.lrOfPg t.pg).cvmode = 0) :
    draw s t site occ = (modCtx s t fun c => { c with cv := { (s.thread t).ctx.cv with cvout := (s.thread t).ctx.cv.cvout + 1 } },
      .ok (dfn (word (s.lrOfPg t.pg).cvkey.toNat) (word (gtidOf s t)) (word site) (word occ))) := by
  rw [draw, if_neg fun h => h.1 hout]
  simp only [cvCount_of_mode0 hmode, cvSearch_of_le (Nat.zero_le _), if_pos hout, hmode, ne_eq, not_true_eq_false, decide_false,
    Bool.false_and, Bool.or_false]

theorem thread_modCtx (r : ThreadRef) (f : ThreadCtx → ThreadCtx) :
    (modCtx s t f).thread r
      = if r = t ∧ t.tid < (s.pg t.pg).threads.length then { s.thread t with ctx := f (s.thread t).ctx } else s.thread r :=
  thread_modThread s t r _

end

/-! The lanes of a word that draws (10 R235). -/

/-- One lane: it draws, and the value's result is put in flight; or it takes the trap of its draw. -/
def drawLane (ix : Issue) (c : Ctl) (a : State) (t : ThreadRef) (site occ : Nat) (out : Word → LaneOut) : State × Option Trap :=
  match draw a t site occ with
  | (b, .error e) => (b, some e)
  | (b, .ok x) => (pushResult b ix c 0 true true t (out x), none)

theorem drawLane_goes {ix : Issue} {c : Ctl} {a b : State} {t : ThreadRef} {site occ : Nat} {out : Word → LaneOut}
    (h : (∃ d x, draw a t site occ = (d, .ok x) ∧ b = pushResult d ix c 0 true true t (out x))
      ∨ ∃ d x, draw a t site occ = (d, .error x) ∧ x.again = none ∧ b = trapAt d ix t.tid x) :
    stepsOrTraps (drawLane ix c a t site occ out) ix t b := by
  obtain ⟨d, x, hd, rfl⟩ | ⟨d, x, hd, hx, rfl⟩ := h
  · exact .inl (by rw [drawLane, hd])
  · exact .inr ⟨d, x, by rw [drawLane, hd], hx, rfl⟩

/-- A word whose lanes draw, each with the site, the occurrence and the result of its own. -/
theorem actsByLane_of_drawLane {i : Instr} {c : Ctl} {site occ : State → ThreadRef → Nat} {out : State → ThreadRef → Word → LaneOut}
    (h : ∀ s, exec i s = actWord s c fun ix a t => drawLane ix c a t (site a t) (occ a t) (out a t)) :
    actsByLane i c fun _ ix a t b =>
      (∃ d x, draw a t (site a t) (occ a t) = (d, .ok x) ∧ b = pushResult d ix c 0 true true t (out a t x))
      ∨ ∃ d x, draw a t (site a t) (occ a t) = (d, .error x) ∧ x.again = none ∧ b = trapAt d ix t.tid x :=
  actsByLane_of_actWord i c _ _ h fun _ _ _ _ _ _ hl => drawLane_goes hl

/-- Settles O32: each word is made of lanes that draw; what a draw gives is said of `draw`. -/
theorem drawWords : Obligations.DrawWords := by
  refine ⟨fun w ty sat => ⟨?draw, ?drawf, ?drawb, ?cvts, fun s t site occ hrec hfull => ⟨_, draw_of_full hrec hfull, rfl⟩⟩,
    fun s t site occ hout hmode hlen => ⟨_, draw_of_noRecords hout hmode, ?_, fun r hr => ?_, rfl⟩⟩
  case draw | drawf | drawb | cvts => exact actsByLane_of_drawLane fun _ => rfl
  · rw [thread_modCtx, if_pos ⟨rfl, hlen⟩]
  · rw [thread_modCtx, if_neg fun h => hr h.1]

end Sys2Proof.Machine

/-! Every instruction, event and message answers a next state, and so does a step of a powered device (18 R319; 04 R83). -/

namespace Sys2Proof.Machine

-- One proof after the other: the check's memory limit counts the stack of every thread that elaborates a proof.
set_option Elab.async false

section

variable {s : State}

theorem goesOn_ite {c : Prop} [Decidable c] {a b : Host.Outcome State Fault Refusal} (ha : goesOn a) (hb : goesOn b) :
    goesOn (if c then a else b) := by
  split
  · exact ha
  · exact hb

/-! The events whose meaning is a choice between next states. -/

theorem execSecurityAlarm_goesOn {srcs} : goesOn (execSecurityAlarm srcs s) := goesOn_ite (goesOn_next _) (goesOn_next _)

theorem execCoreGroupPlacement_goesOn {lid dgid} : goesOn (execCoreGroupPlacement lid dgid s) := by
  unfold execCoreGroupPlacement
  split <;> exact goesOn_next _

theorem execTaskStart_goesOn {lid dgid} : goesOn (execTaskStart lid dgid s) := by
  unfold execTaskStart
  refine goesOn_ite (goesOn_next _) ?_
  split
  · exact goesOn_next _
  · dsimp only
    split
    · exact goesOn_next _
    · split <;> exact goesOn_next _

theorem execLaunchEnd_goesOn {lid} : goesOn (execLaunchEnd lid s) := goesOn_ite (goesOn_next _) (goesOn_next _)

theorem execBinDraw_goesOn {part} : goesOn (execBinDraw part s) := by
  unfold execBinDraw
  refine goesOn_ite ?_ (goesOn_next _)
  split <;> exact goesOn_next _

theorem execOverflowMove_goesOn {part} : goesOn (execOverflowMove part s) := by
  unfold execOverflowMove
  refine goesOn_ite ?_ (goesOn_next _)
  dsimp only
  split
  · exact goesOn_next _
  · split <;> exact goesOn_next _

theorem execAgedGroupFiling_goesOn {part pos} : goesOn (execAgedGroupFiling part pos s) := by
  unfold execAgedGroupFiling
  split
  · exact goesOn_next _
  · exact goesOn_ite (goesOn_next _) (goesOn_next _)

theorem execClauseFetchComplete_goesOn {part pg va} : goesOn (execClauseFetchComplete part pg va s) := by
  unfold execClauseFetchComplete
  refine goesOn_ite ?_ (goesOn_next _)
  dsimp only
  split
  · exact goesOn_next _
  · exact goesOn_ite (goesOn_next _) (goesOn_next _)

theorem execFixedResultWrite_goesOn {id} : goesOn (execFixedResultWrite id s) := by
  unfold execFixedResultWrite
  split
  · exact goesOn_next _
  · exact goesOn_ite (goesOn_next _) (goesOn_next _)

theorem execVariableResultComplete_goesOn {id} : goesOn (execVariableResultComplete id s) := by
  unfold execVariableResultComplete
  split
  · exact goesOn_next _
  · refine goesOn_ite ?_ (goesOn_next _)
    split <;> exact goesOn_next _

theorem execDsmSlotAdvance_goesOn {cg} : goesOn (execDsmSlotAdvance cg s) := goesOn_ite (goesOn_next _) (goesOn_next _)

theorem execDsmPhaseBoundary_goesOn {cg} : goesOn (execDsmPhaseBoundary cg s) := goesOn_ite (goesOn_next _) (goesOn_next _)

theorem execDsmEventDelivery_goesOn {cg id} : goesOn (execDsmEventDelivery cg id s) := by
  unfold execDsmEventDelivery
  dsimp only
  split
  · exact goesOn_next _
  · exact goesOn_ite (goesOn_next _) (goesOn_next _)

theorem execBarrierRelease_goesOn {lid bar} : goesOn (execBarrierRelease lid bar s) := by
  unfold execBarrierRelease
  refine goesOn_ite (goesOn_next _) ?_
  split <;> exact goesOn_next _

theorem execCoreGroupRelaunch_goesOn {cg} : goesOn (execCoreGroupRelaunch cg s) := goesOn_ite (goesOn_next _) (goesOn_next _)

theorem execWatchpointDeferred_goesOn {id} : goesOn (execWatchpointDeferred id s) := by
  unfold execWatchpointDeferred
  split
  · exact goesOn_next _
  · refine goesOn_ite (goesOn_ite (goesOn_next _) (goesOn_next _)) (goesOn_ite (goesOn_next _) (goesOn_next _))

theorem execPreemptGraceExpiry_goesOn {lid} : goesOn (execPreemptGraceExpiry lid s) := by
  unfold execPreemptGraceExpiry
  split <;> exact goesOn_next _

theorem execPreemptStopComplete_goesOn {lid} : goesOn (execPreemptStopComplete lid s) := by
  unfold execPreemptStopComplete
  split
  · exact goesOn_ite (goesOn_next _) (goesOn_next _)
  all_goals exact goesOn_next _

theorem execHomeAccessPerform_goesOn {id} : goesOn (execHomeAccessPerform id s) := by
  unfold execHomeAccessPerform
  split <;> exact goesOn_next _

theorem execWindowAccess_goesOn {id} : goesOn (execWindowAccess id s) := by
  unfold execWindowAccess
  split <;> exact goesOn_next _

theorem execHotnessSample_goesOn {core} : goesOn (execHotnessSample core s) := by
  unfold execHotnessSample
  split
  · exact goesOn_next _
  · dsimp only
    split <;> exact goesOn_next _

theorem execStallSample_goesOn {part} : goesOn (execStallSample part s) := by
  unfold execStallSample
  refine goesOn_ite ?_ (goesOn_next _)
  dsimp only
  split <;> exact goesOn_next _

theorem execCopyComplete_goesOn {id} : goesOn (execCopyComplete id s) := by
  unfold execCopyComplete
  split
  · exact goesOn_next _
  · refine goesOn_ite (goesOn_next _) (goesOn_ite (goesOn_ite (goesOn_next _) ?_) (goesOn_next _))
    split <;> exact goesOn_next _

theorem execCodebookSwap_goesOn {id} : goesOn (execCodebookSwap id s) := by
  unfold execCodebookSwap
  split
  · exact goesOn_next _
  · exact goesOn_ite (goesOn_next _) (goesOn_next _)

theorem execReservationClearComplete_goesOn {core num} : goesOn (execReservationClearComplete core num s) := by
  unfold execReservationClearComplete
  split
  · exact goesOn_next _
  · exact goesOn_ite (goesOn_next _) (goesOn_next _)

theorem execEngineGrant_goesOn {core} : goesOn (execEngineGrant core s) := goesOn_ite (goesOn_next _) (goesOn_next _)

theorem execMatrixOpStart_goesOn {core} : goesOn (execMatrixOpStart core s) := by
  unfold execMatrixOpStart
  split <;> exact goesOn_next _

theorem execMatrixOpComplete_goesOn {core} : goesOn (execMatrixOpComplete core s) := by
  unfold execMatrixOpComplete
  split
  · exact goesOn_next _
  · exact goesOn_ite (goesOn_next _) (goesOn_next _)

theorem execDrainPortComplete_goesOn {core id} : goesOn (execDrainPortComplete core id s) := by
  unfold execDrainPortComplete
  split
  · exact goesOn_next _
  · exact goesOn_ite (goesOn_next _) (goesOn_next _)

theorem execStreamFetch_goesOn {pg q tid} : goesOn (execStreamFetch pg q tid s) := by
  unfold execStreamFetch
  dsimp only
  split <;> exact goesOn_next _

theorem execTraversalRefetch_goesOn {id} : goesOn (execTraversalRefetch id s) := by
  unfold execTraversalRefetch
  split
  · exact goesOn_next _
  · refine goesOn_ite (goesOn_next _) ?_
    dsimp only
    split <;> exact goesOn_next _

theorem execWhiskBuild_goesOn {job} : goesOn (execWhiskBuild job s) := by
  unfold execWhiskBuild
  refine goesOn_ite (goesOn_next _) ?_
  split
  · exact goesOn_next _
  · split
    · exact goesOn_next _
    · split <;> exact goesOn_next _
    · exact goesOn_next _

theorem execWhiskJudge_goesOn {job} : goesOn (execWhiskJudge job s) := by
  unfold execWhiskJudge
  split
  · exact goesOn_next _
  · split
    · exact goesOn_next _
    · refine goesOn_ite (goesOn_next _) ?_
      split <;> exact goesOn_next _

theorem execRefusedDeliveryMode_goesOn {conn hdr} : goesOn (execRefusedDeliveryMode conn hdr s) := goesOn_ite (goesOn_next _) (goesOn_next _)

theorem execBringupPhaseComplete_goesOn : goesOn (execBringupPhaseComplete s) := by
  unfold execBringupPhaseComplete
  refine goesOn_ite (goesOn_next _) ?_
  split
  case h_2 => split <;> exact goesOn_next _
  case h_3 => exact goesOn_ite (goesOn_next _) (goesOn_ite (goesOn_next _) (goesOn_next _))
  all_goals exact goesOn_next _

theorem execUncorrectableError_goesOn : goesOn (execUncorrectableError s) := by
  unfold execUncorrectableError
  refine goesOn_ite (goesOn_next _) ?_
  dsimp only
  split <;> exact goesOn_next _

theorem execReplayComplete_goesOn : goesOn (execReplayComplete s) := by
  unfold execReplayComplete
  split <;> exact goesOn_next _

theorem execCheckpointValid_goesOn : goesOn (execCheckpointValid s) := by
  unfold execCheckpointValid
  split
  · exact goesOn_next _
  · exact goesOn_ite (goesOn_next _) (goesOn_next _)

theorem execLaunchAccept_goesOn : goesOn (execLaunchAccept s) := by
  unfold execLaunchAccept
  split
  · exact goesOn_next _
  · dsimp only
    split <;> exact goesOn_next _

theorem execTrialWindowEnd_goesOn : goesOn (execTrialWindowEnd s) := goesOn_ite (goesOn_next _) (goesOn_next _)

theorem execSignalSend_goesOn : goesOn (execSignalSend s) := by
  unfold execSignalSend
  split <;> exact goesOn_next _

/-- By the constructors of `Instr` that are not words: an event by its own lemma; the others, messages among them, are next states as they
stand, for `gate` is one. -/
theorem exec_goesOn_of_noWord {i : Instr} (h : encodeWord i = none) : goesOn (exec i s) := by
  cases i with
  | securityAlarm => exact execSecurityAlarm_goesOn
  | coreGroupPlacement => exact execCoreGroupPlacement_goesOn
  | taskStart => exact execTaskStart_goesOn
  | launchEnd => exact execLaunchEnd_goesOn
  | binDraw => exact execBinDraw_goesOn
  | overflowMove => exact execOverflowMove_goesOn
  | agedGroupFiling => exact execAgedGroupFiling_goesOn
  | clauseFetchComplete => exact execClauseFetchComplete_goesOn
  | fixedResultWrite => exact execFixedResultWrite_goesOn
  | variableResultComplete => exact execVariableResultComplete_goesOn
  | dsmSlotAdvance => exact execDsmSlotAdvance_goesOn
  | dsmPhaseBoundary => exact execDsmPhaseBoundary_goesOn
  | dsmEventDelivery => exact execDsmEventDelivery_goesOn
  | barrierRelease => exact execBarrierRelease_goesOn
  | coreGroupRelaunch => exact execCoreGroupRelaunch_goesOn
  | watchpointDeferred => exact execWatchpointDeferred_goesOn
  | preemptGraceExpiry => exact execPreemptGraceExpiry_goesOn
  | preemptStopComplete => exact execPreemptStopComplete_goesOn
  | homeAccessPerform => exact execHomeAccessPerform_goesOn
  | windowAccess => exact execWindowAccess_goesOn
  | hotnessSample => exact execHotnessSample_goesOn
  | stallSample => exact execStallSample_goesOn
  | copyComplete => exact execCopyComplete_goesOn
  | codebookSwap => exact execCodebookSwap_goesOn
  | reservationClearComplete => exact execReservationClearComplete_goesOn
  | engineGrant => exact execEngineGrant_goesOn
  | matrixOpStart => exact execMatrixOpStart_goesOn
  | matrixOpComplete => exact execMatrixOpComplete_goesOn
  | drainPortComplete => exact execDrainPortComplete_goesOn
  | streamFetch => exact execStreamFetch_goesOn
  | traversalRefetch => exact execTraversalRefetch_goesOn
  | whiskBuild => exact execWhiskBuild_goesOn
  | whiskJudge => exact execWhiskJudge_goesOn
  | refusedDeliveryMode => exact execRefusedDeliveryMode_goesOn
  | bringupPhaseComplete => exact execBringupPhaseComplete_goesOn
  | uncorrectableError => exact execUncorrectableError_goesOn
  | replayComplete => exact execReplayComplete_goesOn
  | checkpointValid => exact execCheckpointValid_goesOn
  | launchAccept => exact execLaunchAccept_goesOn
  | trialWindowEnd => exact execTrialWindowEnd_goesOn
  | signalSend => exact execSignalSend_goesOn
  | pendingFrameCopied | coreGroupEnd | binAged | stallExpiry | yieldExpiry | dsmPhaseCommit | trapDelivery | timerExpiry
  | translationWalkComplete | demandZeroFill | projectionComplete | sortComplete | reprojectionComplete | worklistComplete
  | connectionLost | powerGood | port0Retrain | powerLoss | powerThrottleStep | eccCorrection | checkpointStart
  | launchMessage | write | read | flushData | flushDataAndTlb | windowRead | windowWrite | windowFetchAdd | preemptStopAndSave
  | preemptWithNotice | restore | kill | checkpointControlRead | checkpointControlWrite | raceCountEnable | checkpointRestore
  | managementRead | managementWrite | hotnessEnable | freeFramesAdd | samplingEnable | trialEnable | trialDisable | managementReset
  | imageWrite | imageCommit | debugClaim | debugRelease | armTrace | stopPartition | resume | readDump | setWatchpoint | copyToPeer
  | copyFromPeer | sessionOpen | sessionClose | createAddressSpace | destroyAddressSpace | malformedMessage => exact goesOn_next _
  | _ => cases h

/-- Every row of the opcode table answers a next state: words, and what is no word. -/
theorem exec_answers (i : Instr) (s : State) : goesOn (exec i s) := by
  cases h : encodeWord i with
  | some x => exact exec_goesOn h
  | none => exact exec_goesOn_of_noWord h

/-! A step goes on unless it would begin something without power. -/

theorem issueGroup_goesOn {part pos} : goesOn (issueGroup exec part pos s) := by
  unfold issueGroup
  dsimp only
  split
  · exact goesOn_next _
  · refine goesOn_ite (goesOn_next _) ?_
    split
    · exact goesOn_next _
    · next i _ =>
      refine goesOn_ite (goesOn_next _) ?_
      obtain ⟨t, ht⟩ := exec_answers i { s with cur := some { part := part, pos := pos, word := s.w.nextId } }
      rw [ht]
      exact goesOn_next _

theorem act_goesOn {a : Action} : goesOn (act a s) := by
  cases a with
  | event i => exact goesOn_ite (exec_answers i s) (goesOn_next _)
  | issue c => exact goesOn_ite issueGroup_goesOn (goesOn_next _)
  | tick => exact goesOn_next _
  | message conn bs => exact goesOn_ite (goesOn_next _) (exec_answers _ _)
  | environment e => exact goesOn_next _

theorem perform_goesOn {a : Action} : goesOn (perform a s) := by
  obtain ⟨t, ht⟩ := act_goesOn (s := s) (a := a)
  rw [perform, ht]
  exact goesOn_next _

theorem performAgain_goesOn {a : Action} : goesOn (performAgain a s) := by
  obtain ⟨t, ht⟩ := perform_goesOn (s := { s with inbox := [] }) (a := a)
  rw [performAgain, ht]
  exact goesOn_next _

theorem stepAgenda_goesOn {a : Action} : goesOn (stepAgenda a s) := by
  unfold stepAgenda
  split
  · exact goesOn_next _
  · exact goesOn_next _
  · exact perform_goesOn

theorem stepFree_goesOn (h : s.mgmt.powered = true) : goesOn (stepFree s) := by
  rw [stepFree, h, Bool.not_true, if_neg Bool.false_ne_true]
  split
  · exact goesOn_next _
  · exact perform_goesOn

theorem stepFree_unpowered (h : s.mgmt.powered = false) : stepFree s = .fault .unpowered := by
  rw [stepFree, h, Bool.not_false, if_pos rfl]

theorem step_goesOn (h : s.mgmt.powered = true) : goesOn (step s) := by
  unfold step
  split
  · exact stepAgenda_goesOn
  · split
    · exact stepFree_goesOn h
    · split
      · exact performAgain_goesOn
      · exact stepFree_goesOn h

end

/-- Settles O59: by the shape of each meaning; a step performs one action, or begins one where there is power. -/
theorem everyRowAnswersANextState : Obligations.EveryRowAnswersANextState := by
  refine ⟨exec_answers, fun s h => step_goesOn h, fun s h hagenda hreplay => ?_⟩
  simp only [step, hagenda, hreplay, stepFree_unpowered h]

end Sys2Proof.Machine

/-! The gate before every message (24 R390-R393), and the messages of management (04 R76-R79; 20 R361, R362; 22 R373, R377). -/

namespace Sys2Proof.Machine

-- One proof after the other: the check's memory limit counts the stack of every thread that elaborates a proof.
set_option Elab.async false

section

variable {s : State} {need ok : Bool} {k : State → State}

/-! What the gate lets through. -/

/-- Where the session is admitted nothing but the form of the message is left to refuse. -/
theorem gate_eq_of_admitted (h : admitted s need) : gate s need ok k = .next (if ok then k s else answered s 3 0 []) := by
  obtain ⟨hpower, hport, hsafe, hsession, hrole⟩ := h
  have hnone : (rxSession s).isNone = false := by cases hs : rxSession s <;> simp_all
  have hneed : (need && !rxManagement s) = false := by cases need <;> simp_all
  have hok (a b : State) : (if !ok then a else b) = if ok then b else a := by cases ok <;> rfl
  simp only [gate, hpower, hport, hsafe, hnone, hneed, hok, Bool.not_true, Bool.false_or, Bool.false_and, Bool.and_false, if_false,
    Bool.false_eq_true]
  rfl

theorem gate_of_admitted (h : admitted s need) (hok : ok = true) : gate s need ok k = .next (k s) := by
  rw [gate_eq_of_admitted h, if_pos hok]

theorem gate_of_malformed (h : admitted s need) (hok : ok = false) : gate s need ok k = .next (answered s 3 0 []) := by
  rw [gate_eq_of_admitted h, if_neg (by rw [hok]; exact Bool.false_ne_true)]

/-- A message that asks for the management role is refused without it (24 R391). -/
theorem gate_of_noRole (h : admitted s false) (hrole : rxManagement s = false) (hread : isStatusRead s = false) :
    gate s true ok k = .next (answered s 6 0 []) := by
  obtain ⟨hpower, hport, hsafe, hsession, -⟩ := h
  have hnone : (rxSession s).isNone = false := by cases hs : rxSession s <;> simp_all
  simp only [gate, hpower, hport, hsafe, hnone, hrole, hread, Bool.not_true, Bool.not_false, Bool.false_or, Bool.false_and, Bool.and_false,
    Bool.and_true, if_false, if_true, Bool.false_eq_true]
  rfl

end

/-! Answers. -/

@[simp] theorem respond_mgmt (s : State) (status result : Nat) (payload : List Byte) : (respond s status result payload).mgmt = s.mgmt := by
  unfold respond sendMsg
  split <;> rfl

/-- What an answer sends does not depend on the module's own state. -/
theorem respond_outbox_withMgmt (s : State) (m : Mgmt) (status result : Nat) (payload : List Byte) :
    (respond { s with mgmt := m } status result payload).outbox = (answered s status result payload).outbox := by
  unfold respond sendMsg answered
  dsimp only
  split <;> rfl

/-- The messages that ask for the management role (24 R390, R391). -/
def managed : List Instr := [.managementRead, .managementWrite, .hotnessEnable, .freeFramesAdd, .samplingEnable, .trialEnable, .trialDisable,
  .checkpointControlRead, .checkpointControlWrite, .raceCountEnable, .checkpointRestore, .managementReset, .imageWrite, .imageCommit,
  .preemptStopAndSave, .preemptWithNotice, .restore, .kill, .createAddressSpace]

theorem exec_eq_gate_of_managed {i : Instr} (hi : i ∈ managed) (s : State) : ∃ ok k, exec i s = gate s true ok k := by
  unfold exec
  fin_cases hi <;> simp only [execManagementRead, execManagementWrite, execHotnessEnable, execFreeFramesAdd, execSamplingEnable,
    execTrialEnable, execTrialDisable, managementPut, execCheckpointControlRead, execCheckpointControlWrite, execRaceCountEnable, controlPut,
    execCheckpointRestore, execManagementReset, execImageWrite, execImageCommit, execPreemptStopAndSave, execPreemptWithNotice, preemptWord,
    execRestore, execKill, execCreateAddressSpace] <;> exact ⟨_, _, rfl⟩

/-! Words of the control blocks. -/

section

variable {s : State}

theorem mgmtWord_isSome_false {a : Nat} (h : mgmtWord a = none) : (mgmtWord a).isSome = false := by rw [h]; rfl

theorem execManagementRead_of_noWord (h : admitted s true) (hw : mgmtWord s.rx.addr.toNat = none) :
    execManagementRead s = .next (answered s 3 0 []) :=
  gate_of_malformed h (mgmtWord_isSome_false hw)

theorem execManagementRead_of_word {w : MgmtWord} (h : admitted s true) (hw : mgmtWord s.rx.addr.toNat = some w) :
    execManagementRead s = .next (respondOld s (mgmtGet s w)) := by
  rw [execManagementRead, gate_of_admitted h (by rw [hw]; rfl)]
  simp only [hw]

theorem managementPut_of_malformed (h : admitted s true) (hbad : mgmtWord s.rx.addr.toNat = none ∨ s.rx.payload.length ≠ 8) :
    managementPut s = .next (answered s 3 0 []) := by
  refine gate_of_malformed h ?_
  rcases hbad with hw | hlen
  · rw [mgmtWord_isSome_false hw, Bool.false_and]
  · rw [payLen, decide_eq_false hlen, Bool.and_false]

theorem managementPut_of_word {w : MgmtWord} (h : admitted s true) (hw : mgmtWord s.rx.addr.toNat = some w)
    (hlen : s.rx.payload.length = 8) : managementPut s = .next (mgmtPut (respondOld s (mgmtGet s w)) w s.rx.payload) := by
  rw [managementPut, gate_of_admitted h (by rw [hw, payLen, decide_eq_true hlen]; rfl)]
  simp only [hw]

theorem execCheckpointControlRead_eq (s : State) : execCheckpointControlRead s
    = gate s true (controlWordOk s.rx.addr.toNat) fun s' => respondOld s' (fieldAt (replayBytes s'.rb) s.rx.addr.toNat 8) := rfl

theorem controlWordOk_iff {a : Nat} : controlWordOk a = true ↔ a % 8 = 0 ∧ a < 64 := by
  rw [controlWordOk, Bool.and_eq_true, decide_eq_true_eq, decide_eq_true_eq]

theorem controlWordOk_false {a : Nat} (h : a % 8 ≠ 0 ∨ 64 ≤ a) : controlWordOk a = false :=
  Bool.eq_false_iff.2 fun hok => by
    obtain ⟨halign, hlow⟩ := controlWordOk_iff.1 hok
    omega

theorem controlPut_of_word (h : admitted s true) (halign : s.rx.addr.toNat % 8 = 0) (hlow : s.rx.addr.toNat < 64)
    (hlen : s.rx.payload.length = 8) : controlPut s
      = .next (replayWrite (respondOld s (fieldAt (replayBytes s.rb) s.rx.addr.toNat 8)) s.rx.addr.toNat s.rx.payload) := by
  unfold controlPut
  refine gate_of_admitted h ?_
  rw [controlWordOk_iff.2 ⟨halign, hlow⟩, payLen, decide_eq_true hlen]
  rfl

/-- A ring that samples keeps its period, its place and what has been written of it (08 R184). -/
theorem mcbParse_of_enabled {m : Mcb} (h : m.hsEn = true) (b : List Byte) :
    (mcbParse m b).hsK = m.hsK ∧ (mcbParse m b).hsLsize = m.hsLsize ∧ (mcbParse m b).hsBase = m.hsBase ∧ (mcbParse m b).hsWr = m.hsWr := by
  simp only [mcbParse, h, if_true, and_self]

/-! Reset, and the module's image (04 R76-R79). -/

/-- The device after a reset by message: what is volatile is gone, but for the alarms. -/
def resetByMessage (s : State) : State :=
  modMgmt (dropVolatile (respond s 0 0 [])) fun x => { x with alarm := s.mgmt.alarm, alarms := s.mgmt.alarms }

theorem execManagementReset_of_admitted (h : admitted s true) : execManagementReset s = .next (resetByMessage s) := gate_of_admitted h rfl

theorem resetByMessage_mgmt (s : State) : (resetByMessage s).mgmt.alarms = s.mgmt.alarms ∧ (resetByMessage s).mgmt.slots = s.mgmt.slots := by
  refine ⟨rfl, ?_⟩
  show (respond s 0 0 []).mgmt.slots = s.mgmt.slots
  rw [respond_mgmt]

/-- Bytes that are written into flash stand there; a gap before them is filled up. -/
theorem flashPut_reads_back (old new : List Byte) (off : Nat) : ((flashPut old off new).drop off).take new.length = new := by
  have hlen : ((old ++ List.replicate (off - old.length) 0xFF).take off).length = off := by
    simp only [List.length_take, List.length_append, List.length_replicate]
    omega
  rw [flashPut, putBytes, List.append_assoc, List.drop_append_of_le_length hlen.ge, List.drop_of_length_le hlen.le, List.nil_append,
    List.take_left]

theorem execImageWrite_of_malformed (h : admitted s true) (hbad : s.rx.payload = [] ∨ 67108864 < s.rx.addr.toNat + s.rx.payload.length) :
    execImageWrite s = .next (answered s 3 0 []) := by
  unfold execImageWrite
  refine gate_of_malformed h ?_
  rcases hbad with hempty | hlong
  · rw [hempty]
    rfl
  · rw [decide_eq_false (Nat.not_le.2 hlong), Bool.and_false]

theorem execImageWrite_of_bytes (h : admitted s true) (hne : s.rx.payload ≠ [])
    (hfit : s.rx.addr.toNat + s.rx.payload.length ≤ 67108864) :
    ∃ m old, execImageWrite s = .next (respond { s with mgmt := m } 0 0 []) ∧ m.erased = true ∧ m.slots = s.mgmt.slots.set (1 - s.mgmt.slot)
      { bytes := flashPut old s.rx.addr.toNat s.rx.payload, signed := false, version := 0 } := by
  unfold execImageWrite
  refine ⟨_, _, gate_of_admitted h ?_, rfl, rfl⟩
  rw [decide_eq_true hfit, Bool.and_true, Bool.not_eq_true', List.isEmpty_eq_false_iff]
  exact hne

/-- The module after the commit of an image: nothing is erased, and the slot that was not booted holds `x`. -/
def committed (s : State) (x : FlashSlot) : Mgmt := { modSlot s.mgmt (1 - s.mgmt.slot) x with erased := false }

/-- The image that has been written to the slot that was not booted. -/
def newImage (s : State) : List Byte := (s.mgmt.slots.getD (1 - s.mgmt.slot) FlashSlot.empty).bytes

/-- The slot of an image that passes its checks. -/
def signedSlot (s : State) : FlashSlot := { bytes := newImage s, signed := true, version := Config.imageVersion (newImage s) }

theorem execImageCommit_eq (h : admitted s true) :
    execImageCommit s = .next (
      if newImage s = [] ∨ Config.imageSigned (newImage s) = false then respond { s with mgmt := committed s FlashSlot.empty } 3 1 []
      else if Config.imageVersion (newImage s) < s.mgmt.counter
          ∨ Config.imageVersion (newImage s) ≤ (s.mgmt.slots.getD s.mgmt.slot FlashSlot.empty).version then
        respond { s with mgmt := committed s FlashSlot.empty } 3 2 []
      else respond { s with mgmt := committed s (signedSlot s) } 0 0 []) := by
  have hbad : ((newImage s).isEmpty || !Config.imageSigned (newImage s)) = true
      ↔ newImage s = [] ∨ Config.imageSigned (newImage s) = false := by
    rw [Bool.or_eq_true, List.isEmpty_iff, Bool.not_eq_true']
  exact (gate_of_admitted h rfl).trans (congrArg Host.Outcome.next (if_congr hbad rfl rfl))

/-! A checkpoint is restored before the first launch (20 R361). -/

theorem execCheckpointRestore_refused (h : admitted s true) (hbad : s.mgmt.ready = false ∨ s.nextSerial ≠ 0 ∨ namedCkpt s = none) :
    execCheckpointRestore s = .next (answered s 3 0 []) := by
  rw [execCheckpointRestore, gate_of_admitted h rfl]
  split
  · rfl
  · next hgo =>
    rcases hbad with hready | hserial | hnone
    · simp [hready] at hgo
    · simp [hserial] at hgo
    · rw [hnone]
      rfl

theorem execCheckpointRestore_of_named {c : Ckpt} (h : admitted s true) (hready : s.mgmt.ready = true) (hserial : s.nextSerial = 0)
    (hc : namedCkpt s = some c) : execCheckpointRestore s = .next (respond (restoreCkpt s c) 0 0 []) := by
  rw [execCheckpointRestore, gate_of_admitted h rfl]
  simp only [hready, hserial, hc, Bool.not_true, ne_eq, not_true_eq_false, decide_false, Bool.or_false, Bool.false_eq_true, if_false]

end

/-- Settles O52: each message by what is said of it; all of them pass one gate. -/
theorem managementMessages : Obligations.ManagementMessages := by
  intro s a old n slot
  refine ⟨fun h hrole hread i hi => ?noRole, fun h => ⟨execManagementRead_of_noWord h, fun w => execManagementRead_of_word h⟩,
    fun h i hi => ⟨fun hbad => ?putBad, fun w hw hlen => ?put⟩, fun h => ⟨fun hbad => ?_, fun halign hlow => ?_⟩,
    fun h halign hlow hlen i hi => ?control, fun m hen => mcbParse_of_enabled hen, fun h => ?reset, execImageWrite_of_malformed,
    fun h hne hfit => ?imageWrite, fun h => ?commit, execCheckpointRestore_refused, fun c => execCheckpointRestore_of_named⟩
  case noRole =>
    obtain ⟨ok, k, hexec⟩ := exec_eq_gate_of_managed hi s
    rw [hexec, gate_of_noRole h hrole hread]
  case putBad => fin_cases hi <;> exact managementPut_of_malformed h hbad
  case put => fin_cases hi <;> exact managementPut_of_word h hw hlen
  · exact (execCheckpointControlRead_eq s).trans (gate_of_malformed h (controlWordOk_false hbad))
  · exact (execCheckpointControlRead_eq s).trans (gate_of_admitted h (controlWordOk_iff.2 ⟨halign, hlow⟩))
  case control => fin_cases hi <;> exact controlPut_of_word h halign hlow hlen
  case reset =>
    obtain ⟨halarms, hslots⟩ := resetByMessage_mgmt s
    exact ⟨_, execManagementReset_of_admitted h, rfl, rfl, rfl, rfl, halarms, hslots, rfl⟩
  case imageWrite =>
    obtain ⟨m, bytes, hexec, herased, hslots⟩ := execImageWrite_of_bytes h hne hfit
    refine ⟨_, hexec, respond_outbox_withMgmt s m 0 0 [], ?_, { bytes := flashPut bytes a s.rx.payload, signed := false, version := 0 }, ?_,
      rfl, flashPut_reads_back bytes s.rx.payload a⟩
    · rw [respond_mgmt]
      exact herased
    · rw [respond_mgmt]
      exact hslots
  case commit =>
    have hexec := execImageCommit_eq h
    by_cases hbad : slot.bytes = [] ∨ Config.imageSigned slot.bytes = false
    · refine ⟨_, hexec.trans (congrArg Host.Outcome.next (if_pos hbad)), by rw [respond_mgmt]; rfl, ?_⟩
      rw [if_pos hbad, respond_mgmt]
      exact ⟨respond_outbox_withMgmt s _ 3 1 [], rfl⟩
    · by_cases hold : Config.imageVersion slot.bytes < s.mgmt.counter
          ∨ Config.imageVersion slot.bytes ≤ (s.mgmt.slots.getD s.mgmt.slot FlashSlot.empty).version
      · refine ⟨_, hexec.trans (congrArg Host.Outcome.next ((if_neg hbad).trans (if_pos hold))), by rw [respond_mgmt]; rfl, ?_⟩
        rw [if_neg hbad, if_pos hold, respond_mgmt]
        exact ⟨respond_outbox_withMgmt s _ 3 2 [], rfl⟩
      · refine ⟨_, hexec.trans (congrArg Host.Outcome.next ((if_neg hbad).trans (if_neg hold))), by rw [respond_mgmt]; rfl, ?_⟩
        rw [if_neg hbad, if_neg hold, respond_mgmt]
        exact ⟨respond_outbox_withMgmt s _ 0 0 [], rfl⟩

end Sys2Proof.Machine

/-! What operations keep, and alarms (04 R82; 18 R338; 20 R363). -/

namespace Sys2Proof.Machine

-- One proof after the other: the check's memory limit counts the stack of every thread that elaborates a proof.
set_option Elab.async false

/-- What each step of a fold keeps the fold keeps. -/
theorem foldl_keeps {α β γ : Type} {g : β → γ} {f : β → α → β} (h : ∀ b x, g (f b x) = g b) (l : List α) (b : β) :
    g (l.foldl f b) = g b :=
  List.foldlRecOn (motive := fun c => g c = g b) l f rfl fun c hc x _ => (h c x).trans hc

section

variable {s : State}

/-! Frames that are written while a checkpoint may be (20 R359). -/

theorem mem_dirtyFrames {l : List (Nat × Nat)} {r : Nat × Nat} (h : r ∈ l) (pa n : Nat) : r ∈ dirtyFrames l pa n := by
  unfold dirtyFrames
  dsimp only
  split
  · exact h
  · exact List.mem_cons_of_mem _ h

theorem copyFirst_of_valid {l : List Ckpt} (h : ∀ c ∈ l, c.valid = true) (pa n : Nat) : copyFirst l pa n = l := by
  unfold copyFirst
  split
  · rfl
  · exact (List.map_congr_left fun c hc => if_pos (h c hc)).trans (List.map_id' l)

theorem homeWrite_dirty (s : State) (own : Option Nat) (pa : Nat) (bs : List Byte) :
    (homeWrite s own pa bs).dirty = dirtyFrames s.dirty pa bs.length := by
  unfold homeWrite
  dsimp only
  split <;> rfl

theorem homeWrite_ckpts (s : State) (own : Option Nat) (pa : Nat) (bs : List Byte) :
    (homeWrite s own pa bs).ckpts = copyFirst s.ckpts pa bs.length := by
  unfold homeWrite
  dsimp only
  split <;> rfl

theorem homeWrite_mem (s : State) (own : Option Nat) (pa : Nat) (bs : List Byte) :
    (homeWrite s own pa bs).w.mem = memWriteN s.w.mem pa bs := by
  unfold homeWrite
  dsimp only
  split <;> rfl

theorem homeWrite_logLost (s : State) (own : Option Nat) (pa : Nat) (bs : List Byte) : (homeWrite s own pa bs).logLost = s.logLost := by
  unfold homeWrite
  dsimp only
  split <;> rfl

/-! An entry of the order log (20 R363). -/

/-- The 16 bytes of a record, as a number. -/
def recValue (r : LogRec) : Nat :=
  r.type * 2 ^ 124 + r.launch * 2 ^ 108 + r.who % 2 ^ 32 * 2 ^ 76 + r.seq % 2 ^ 28 * 2 ^ 48 + r.val % 2 ^ 48

/-- A record is written at the end of what the ring holds. -/
def logWrite (s : State) (r : LogRec) : State := homeWrite s none (s.rb.olBase + 16 * s.log.length) (bytesOfNat 16 (recValue r))

/-- The record is counted too. -/
def logEntry (s : State) (r : LogRec) : State :=
  let t := logWrite s r
  { t with log := t.log ++ [r], rb := { t.rb with olWr := t.rb.olWr + 1 } }

/-- A record finds the log full for the first time. -/
def logLoses (s : State) : State :=
  { s with logLost := true, ckptForced := true, rb := { s.rb with olLost := satInc s.rb.olLost } }

theorem appendLog_eq (s : State) (r : LogRec) : appendLog s r =
    if 2 ^ s.rb.olLsize / 16 ≤ s.log.length then (if s.logLost then metAgain s r else logLoses (metAgain s r))
    else logEntry (metAgain s r) r := rfl

/-- What an entry of the order log leaves alone: the module, the sessions, the window, the work, and the place of the ring. -/
def besideLog (s : State) : State :=
  { State.reset with
    mgmt := s.mgmt, sessions := s.sessions, rb := { ReplayBlock.init with olBase := s.rb.olBase, olLsize := s.rb.olLsize },
    w := { World.init with window := s.w.window, launches := s.w.launches, cgs := s.w.cgs, pgs := s.w.pgs } }

theorem fields_of_besideLog {s t : State} (h : besideLog t = besideLog s) : t.mgmt = s.mgmt ∧ t.sessions = s.sessions
    ∧ (t.rb.olBase = s.rb.olBase ∧ t.rb.olLsize = s.rb.olLsize)
    ∧ t.w.window = s.w.window ∧ t.w.launches = s.w.launches ∧ t.w.cgs = s.w.cgs ∧ t.w.pgs = s.w.pgs := by
  simp only [besideLog, State.mk.injEq, World.mk.injEq, ReplayBlock.mk.injEq, true_and, and_true] at h
  obtain ⟨⟨hwindow, hlaunches, hcgs, hpgs⟩, hmgmt, hsessions, hrb⟩ := h
  exact ⟨hmgmt, hsessions, hrb, hwindow, hlaunches, hcgs, hpgs⟩

theorem besideLog_homeWrite (s : State) (own : Option Nat) (pa : Nat) (bs : List Byte) : besideLog (homeWrite s own pa bs) = besideLog s := by
  unfold homeWrite
  dsimp only
  split <;> rfl

theorem besideLog_appendLog (s : State) (r : LogRec) : besideLog (appendLog s r) = besideLog s := by
  rw [appendLog_eq]
  split
  · split <;> rfl
  · show besideLog (logWrite (metAgain s r) r) = besideLog s
    rw [logWrite, besideLog_homeWrite]
    rfl

theorem appendLog_ckpts (h : ∀ c ∈ s.ckpts, c.valid = true) (r : LogRec) : (appendLog s r).ckpts = s.ckpts := by
  rw [appendLog_eq]
  split
  · split <;> rfl
  · show (logWrite (metAgain s r) r).ckpts = s.ckpts
    rw [logWrite, homeWrite_ckpts]
    exact copyFirst_of_valid h _ _

theorem mem_dirty_appendLog {f : Nat × Nat} (h : f ∈ s.dirty) (r : LogRec) : f ∈ (appendLog s r).dirty := by
  rw [appendLog_eq]
  split
  · split <;> exact h
  · show f ∈ (logWrite (metAgain s r) r).dirty
    rw [logWrite, homeWrite_dirty]
    exact mem_dirtyFrames h _ _

theorem appendLog_logLost (h : s.logLost = true) (r : LogRec) : (appendLog s r).logLost = true := by
  rw [appendLog_eq]
  split
  · exact h
  · show (logWrite (metAgain s r) r).logLost = true
    rw [logWrite, homeWrite_logLost]
    exact h

/-- Memory in canonical form, and the same outside the ring of the order log. -/
def ringOnly (s t : State) : Prop :=
  t.w.mem.wf = true ∧ ∀ k, (k < s.rb.olBase ∨ s.rb.olBase + 2 ^ s.rb.olLsize ≤ k) → memRead t.w.mem k = memRead s.w.mem k

/-- A record is written where the ring still has room, inside it. -/
theorem ringOnly_appendLog (hwf : s.w.mem.wf = true) (r : LogRec) : ringOnly s (appendLog s r) := by
  rw [appendLog_eq]
  split
  · split <;> exact ⟨hwf, fun _ _ => rfl⟩
  · next hroom =>
    show ringOnly s (logWrite (metAgain s r) r)
    rw [ringOnly, logWrite, homeWrite_mem]
    show (memWriteN s.w.mem (s.rb.olBase + 16 * s.log.length) _).wf = true ∧ _
    refine ⟨memWriteN_wf _ _ _ hwf, fun k hk => memRead_memWriteN_other _ _ _ _ hwf ?_⟩
    show k < s.rb.olBase + 16 * s.log.length ∨ s.rb.olBase + 16 * s.log.length + (bytesOfNat 16 (recValue r)).length ≤ k
    rw [length_bytesOfNat]
    omega

theorem ringOnly_foldl_appendLog (hwf : s.w.mem.wf = true) (l : List LogRec) : ringOnly s (l.foldl appendLog s) := by
  induction l generalizing s with
  | nil => exact ⟨hwf, fun _ _ => rfl⟩
  | cons r l ih =>
    obtain ⟨hwf', hread⟩ := ringOnly_appendLog hwf r
    obtain ⟨hwf'', hread'⟩ := ih hwf'
    obtain ⟨-, -, ⟨hbase, hsize⟩, -⟩ := fields_of_besideLog (besideLog_appendLog s r)
    rw [hbase, hsize] at hread'
    exact ⟨hwf'', fun k hk => (hread' k hk).trans (hread k hk)⟩

/-! A checkpoint that is abandoned (18 R338). -/

theorem find_invalid_none (h : ∀ c ∈ s.ckpts, c.valid = true) : (s.ckpts.find? fun c => !c.valid) = none :=
  List.find?_eq_none.2 fun c hc => by simp [h c hc]

theorem abandonCkpt_of_valid (h : ∀ c ∈ s.ckpts, c.valid = true) : abandonCkpt s = s := by
  rw [abandonCkpt, find_invalid_none h]

/-- The state in which the records of an abandoned checkpoint's interval are logged again. -/
def unabandoned (s : State) (c : Ckpt) : State :=
  { s with ckpts := s.ckpts.filter (fun c => c.valid), dirty := c.frames ++ s.dirty, logLost := s.logLost || c.lost,
           log := [], rb := { s.rb with olWr := 0 } }

theorem abandonCkpt_of_invalid {c : Ckpt} (h : (s.ckpts.find? fun c => !c.valid) = some c) :
    abandonCkpt s = (c.recs ++ s.log).foldl appendLog (unabandoned s c) := by
  rw [abandonCkpt, h]
  rfl

theorem besideLog_abandonCkpt (s : State) : besideLog (abandonCkpt s) = besideLog s := by
  unfold abandonCkpt
  split
  · rfl
  · exact foldl_keeps besideLog_appendLog _ _

theorem valid_of_mem_unabandoned {c : Ckpt} : ∀ x ∈ (unabandoned s c).ckpts, x.valid = true := fun _ hx => (List.mem_filter.1 hx).2

theorem abandonCkpt_ckpts (s : State) : (abandonCkpt s).ckpts = s.ckpts.filter fun c => c.valid := by
  cases h : s.ckpts.find? fun c => !c.valid with
  | none =>
    have hvalid : ∀ c ∈ s.ckpts, c.valid = true := fun c hc => by simpa using List.find?_eq_none.1 h c hc
    rw [abandonCkpt_of_valid hvalid, List.filter_eq_self.2 hvalid]
  | some c =>
    rw [abandonCkpt_of_invalid h]
    refine List.foldlRecOn (motive := fun t : State => t.ckpts = (unabandoned s c).ckpts) _ _ rfl fun t ht r _ => ?_
    rw [appendLog_ckpts (by rw [ht]; exact valid_of_mem_unabandoned), ht]

theorem ringOnly_abandonCkpt (hwf : s.w.mem.wf = true) : ringOnly s (abandonCkpt s) := by
  unfold abandonCkpt
  split
  · exact ⟨hwf, fun _ _ => rfl⟩
  · next c _ => exact ringOnly_foldl_appendLog (s := unabandoned s c) hwf _

theorem mem_dirty_abandonCkpt {c : Ckpt} (h : (s.ckpts.find? fun c => !c.valid) = some c) {f : Nat × Nat} (hf : f ∈ c.frames ++ s.dirty) :
    f ∈ (abandonCkpt s).dirty := by
  rw [abandonCkpt_of_invalid h]
  exact List.foldlRecOn (motive := fun t : State => f ∈ t.dirty) _ _ hf fun _ ht r _ => mem_dirty_appendLog ht r

theorem abandonCkpt_logLost {c : Ckpt} (h : (s.ckpts.find? fun c => !c.valid) = some c) (hlost : c.lost = true) :
    (abandonCkpt s).logLost = true := by
  rw [abandonCkpt_of_invalid h]
  refine List.foldlRecOn (motive := fun t : State => t.logLost = true) _ _ ?_ fun _ ht r _ => appendLog_logLost ht r
  rw [unabandoned, hlost, Bool.or_true]

end

end Sys2Proof.Machine

/-! The effect of an alarm by its level (04 R82). -/

namespace Sys2Proof.Machine

-- One proof after the other: the check's memory limit counts the stack of every thread that elaborates a proof.
set_option Elab.async false

section

variable {s : State} {level : Nat} {srcs : List AlarmSource}

/-- The alarm is in the module's status and its list. -/
def alarmMarked (s : State) (srcs : List AlarmSource) : State :=
  modMgmt s fun m =>
    { m with alarm := true, alarms := m.alarms ++ srcs, raised := m.raised ++ srcs.filter fun a => a != .auth && alarmAsserted s a }

/-- And a checkpoint that is being written is abandoned. -/
def alarmRecorded (s : State) (srcs : List AlarmSource) : State := abandonCkpt (alarmMarked s srcs)

/-- What the levels 1 to 3 add. -/
def levelEffect (a : State) (level : Nat) : State :=
  let b := if 1 ≤ level then enterSafe (haltWork a) (!a.mgmt.safe || a.mgmt.ports.getLsbD 0) else a
  let c := if 2 ≤ level then { modMgmt b (fun m => { m with keysLoaded := false }) with sessions := [] } else b
  if 3 ≤ level then { modMgmt c (fun m => { m with wrapLost := true }) with ckpts := [] } else c

theorem alarmEffect_eq (s : State) (level : Nat) (srcs : List AlarmSource) :
    alarmEffect s level srcs = reportEvent (levelEffect (alarmRecorded s srcs) level) 4 level := rfl

/-! What each level does. -/

theorem levelEffect_zero (a : State) : levelEffect a 0 = a := rfl

/-- Level 1 stops the work and enters the safe talkative state. -/
theorem levelEffect_stops {a : State} (h : 1 ≤ level) : (levelEffect a level).mgmt.safe = true ∧ (levelEffect a level).mgmt.ready = false
    ∧ (levelEffect a level).w.launches = [] ∧ (levelEffect a level).w.cgs = [] ∧ (levelEffect a level).w.pgs = [] := by
  rw [levelEffect, if_pos h]
  dsimp only
  split_ifs <;> exact ⟨rfl, rfl, rfl, rfl, rfl⟩

/-- Level 2 drops the keys and the sessions. -/
theorem levelEffect_dropsKeys {a : State} (h : 2 ≤ level) :
    (levelEffect a level).mgmt.keysLoaded = false ∧ (levelEffect a level).sessions = [] := by
  rw [levelEffect, if_pos h]
  dsimp only
  split_ifs <;> exact ⟨rfl, rfl⟩

/-- Level 3 destroys the wrapping key. -/
theorem levelEffect_destroysKey {a : State} (h : 3 ≤ level) : (levelEffect a level).mgmt.wrapLost = true := by
  rw [levelEffect, if_pos h]
  rfl

theorem levelEffect_ckpts (a : State) (level : Nat) : (levelEffect a level).ckpts = if 3 ≤ level then [] else a.ckpts := by
  unfold levelEffect
  dsimp only
  split_ifs <;> rfl

/-- What no level changes. -/
theorem levelEffect_keeps (a : State) (level : Nat) : (levelEffect a level).w.mem = a.w.mem ∧ (levelEffect a level).w.window = a.w.window
    ∧ (levelEffect a level).mgmt.alarm = a.mgmt.alarm ∧ (levelEffect a level).mgmt.alarms = a.mgmt.alarms
    ∧ (levelEffect a level).mgmt.phase = a.mgmt.phase ∧ (levelEffect a level).mgmt.powered = a.mgmt.powered := by
  unfold levelEffect
  dsimp only
  split_ifs <;> exact ⟨rfl, rfl, rfl, rfl, rfl, rfl⟩

/-! What the record of an alarm is. -/

theorem besideLog_alarmRecorded (s : State) (srcs : List AlarmSource) :
    besideLog (alarmRecorded s srcs) = besideLog (alarmMarked s srcs) := besideLog_abandonCkpt _

theorem alarmRecorded_mgmt (s : State) (srcs : List AlarmSource) : (alarmRecorded s srcs).mgmt = (alarmMarked s srcs).mgmt :=
  (fields_of_besideLog (besideLog_alarmRecorded s srcs)).1

/-- The work, the window and the sessions go on. -/
theorem alarmRecorded_work (s : State) (srcs : List AlarmSource) : (alarmRecorded s srcs).sessions = s.sessions
    ∧ (alarmRecorded s srcs).w.window = s.w.window ∧ (alarmRecorded s srcs).w.launches = s.w.launches
    ∧ (alarmRecorded s srcs).w.cgs = s.w.cgs ∧ (alarmRecorded s srcs).w.pgs = s.w.pgs := by
  obtain ⟨-, hsessions, -, hw⟩ := fields_of_besideLog (besideLog_alarmRecorded s srcs)
  exact ⟨hsessions, hw⟩

theorem alarmRecorded_w (h : ∀ c ∈ s.ckpts, c.valid = true) : (alarmRecorded s srcs).w = s.w := by
  rw [alarmRecorded, abandonCkpt_of_valid (s := alarmMarked s srcs) h]
  rfl

/-- An alarm that is due has its effect, and the failed authentications may be counted anew. -/
theorem execSecurityAlarm_fired (hpower : s.mgmt.powered = true) (hfired : srcs.filter (alarmDue s) ≠ []) : ∃ n,
    execSecurityAlarm srcs s = .next (modMgmt (alarmEffect s (alarmLevel s (srcs.filter (alarmDue s))) (srcs.filter (alarmDue s)))
      fun m => { m with authFails := n }) := by
  unfold execSecurityAlarm
  extract_lets fired t
  have hgo : (!s.mgmt.powered || fired.isEmpty) = false := by
    rw [hpower, Bool.not_true, Bool.false_or, List.isEmpty_eq_false_iff]
    exact hfired
  rw [hgo, if_neg Bool.false_ne_true]
  split
  · exact ⟨0, rfl⟩
  · exact ⟨t.mgmt.authFails, rfl⟩

theorem execSecurityAlarm_idle (h : s.mgmt.powered = false ∨ srcs.filter (alarmDue s) = []) : execSecurityAlarm srcs s = .next s := by
  unfold execSecurityAlarm
  extract_lets fired t
  have hidle : (!s.mgmt.powered || fired.isEmpty) = true := by
    rcases h with h | h
    · rw [h]
      rfl
    · rw [show fired.isEmpty = true from List.isEmpty_iff.2 h, Bool.or_true]
  rw [hidle, if_pos rfl]

end

/-- The state `t` after the alarms `fired` have been taken at their level (04 R82). -/
def alarmTaken (s t : State) (fired : List AlarmSource) (level : Nat) : Prop :=
  t.mgmt.alarm = true ∧ t.mgmt.alarms = s.mgmt.alarms ++ fired ∧ t.w.window = s.w.window
    ∧ (s.w.mem.wf = true → ∀ k, (k < s.rb.olBase ∨ s.rb.olBase + 2 ^ s.rb.olLsize ≤ k) → memRead t.w.mem k = memRead s.w.mem k)
    ∧ ((∀ c ∈ s.ckpts, c.valid = true) → t.w.mem = s.w.mem ∧ (level = 0 → t.w = s.w))
    ∧ (level = 0 → t.mgmt.safe = s.mgmt.safe ∧ t.sessions = s.sessions ∧ t.w.launches = s.w.launches ∧ t.w.cgs = s.w.cgs ∧ t.w.pgs = s.w.pgs
      ∧ ∀ c, (s.ckpts.find? fun c => !c.valid) = some c → (∀ r ∈ c.frames ++ s.dirty, r ∈ t.dirty) ∧ (c.lost = true → t.logLost = true))
    ∧ (1 ≤ level → t.mgmt.safe = true ∧ t.mgmt.ready = false ∧ t.w.launches = [] ∧ t.w.cgs = [] ∧ t.w.pgs = [])
    ∧ (2 ≤ level → t.mgmt.keysLoaded = false ∧ t.sessions = []) ∧ (3 ≤ level → t.mgmt.wrapLost = true)
    ∧ t.ckpts = if 3 ≤ level then [] else s.ckpts.filter fun c => c.valid

theorem alarmTaken_levelEffect (s : State) (fired : List AlarmSource) (level : Nat) :
    alarmTaken s (levelEffect (alarmRecorded s fired) level) fired level := by
  obtain ⟨hmem, hwindow, halarm, halarms, -, -⟩ := levelEffect_keeps (alarmRecorded s fired) level
  obtain ⟨hsessions, hwindow', hwork⟩ := alarmRecorded_work s fired
  have hmgmt := alarmRecorded_mgmt s fired
  refine ⟨?alarm, ?alarms, hwindow.trans hwindow', ?ring, fun hvalid => ⟨?mem, ?zero⟩, ?level0, levelEffect_stops, levelEffect_dropsKeys,
    levelEffect_destroysKey, ?ckpts⟩
  case alarm =>
    rw [halarm, hmgmt]
    rfl
  case alarms =>
    rw [halarms, hmgmt]
    rfl
  case ring =>
    intro hwf
    rw [hmem]
    exact (ringOnly_abandonCkpt (s := alarmMarked s fired) hwf).2
  case mem => rw [hmem, alarmRecorded_w hvalid]
  case zero =>
    rintro rfl
    exact alarmRecorded_w hvalid
  case level0 =>
    rintro rfl
    obtain ⟨hlaunches, hcgs, hpgs⟩ := hwork
    rw [levelEffect_zero, hmgmt]
    exact ⟨rfl, hsessions, hlaunches, hcgs, hpgs, fun c hc => ⟨fun r hr => mem_dirty_abandonCkpt (s := alarmMarked s fired) hc hr,
      fun hlost => abandonCkpt_logLost (s := alarmMarked s fired) hc hlost⟩⟩
  case ckpts =>
    rw [levelEffect_ckpts]
    exact if_congr Iff.rfl rfl (abandonCkpt_ckpts (alarmMarked s fired))

theorem execSecurityAlarm_taken {s : State} {srcs : List AlarmSource} (hpower : s.mgmt.powered = true)
    (hfired : srcs.filter (alarmDue s) ≠ []) :
    ∃ t, execSecurityAlarm srcs s = .next t ∧ alarmTaken s t (srcs.filter (alarmDue s)) (alarmLevel s (srcs.filter (alarmDue s))) := by
  obtain ⟨n, hexec⟩ := execSecurityAlarm_fired hpower hfired
  exact ⟨_, hexec, alarmTaken_levelEffect s _ _⟩

end Sys2Proof.Machine

/-! Power, bring-up and what reset leaves (04 R74-R85; 18 R338). -/

namespace Sys2Proof.Machine

-- One proof after the other: the check's memory limit counts the stack of every thread that elaborates a proof.
set_option Elab.async false

/-- Settles O60: the columns of reset, as they stand in its tables. -/
theorem resetIsPhaseZero : Obligations.ResetIsPhaseZero := by
  refine ⟨⟨⟨rfl, rfl⟩, nofun⟩, fun _ => ⟨rfl, rfl⟩, rfl, rfl, rfl, rfl, rfl, rfl, rfl, rfl, rfl, rfl, rfl, rfl, rfl, rfl, rfl, rfl, rfl, rfl,
    rfl, rfl, rfl, fun _ => ⟨⟨rfl, rfl, rfl, rfl, rfl, rfl, rfl, rfl, rfl, rfl, rfl, rfl⟩, rfl, rfl, rfl, rfl, rfl, rfl, rfl⟩⟩

section

variable {s : State}

/-! A phase of bring-up that passes or fails (04 R74). -/

/-- The state of a phase that has failed: safe talkative, with the cause. -/
def failedPhase (s t : State) (cause : BitVec 5) : Prop :=
  t.mgmt.safe = true ∧ t.mgmt.ready = false ∧ t.mgmt.cause = cause ∧ t.mgmt.phase = s.mgmt.phase
    ∧ t.mgmt.ports = (if cause = 7 then 0 else 1) ∧ t.mgmt.powered = true

/-- The state of a phase that has passed: in the next one, and nothing has been executed. -/
def passedPhase (s t : State) : Prop :=
  t.mgmt.phase = s.mgmt.phase + 1 ∧ t.mgmt.safe = false ∧ t.mgmt.powered = true
    ∧ t.mgmt.ready = (s.mgmt.ready || decide (s.mgmt.phase = 5)) ∧ t.w = s.w

/-- Port 0 stays up unless it is port 0 that has failed. -/
theorem phaseFails_failed {a : State} {cause die : Nat} (hphase : a.mgmt.phase = s.mgmt.phase) (hpower : a.mgmt.powered = true)
    (hport : (BitVec.ofNat 5 cause = 7) ↔ s.mgmt.phase = 5) : failedPhase s (phaseFails a cause die) (BitVec.ofNat 5 cause) := by
  refine ⟨rfl, rfl, rfl, hphase, ?_, hpower⟩
  show (if decide (a.mgmt.phase ≠ 5) = true then (1 : BitVec 8) else 0) = _
  rw [hphase]
  by_cases h : s.mgmt.phase = 5
  · rw [if_pos (hport.2 h), if_neg (by simp [h])]
  · rw [if_neg fun hc => h (hport.1 hc), if_pos (by simp [h])]

/-- The phase that follows is entered, ready or not as before. -/
theorem nextPhase_passed {a : State} (hlast : s.mgmt.phase ≠ 5) (hphase : a.mgmt.phase = s.mgmt.phase + 1)
    (hready : a.mgmt.ready = s.mgmt.ready) (hsafe : a.mgmt.safe = false) (hpower : a.mgmt.powered = true) (hw : a.w = s.w) :
    passedPhase s a := by
  refine ⟨hphase, hsafe, hpower, ?_, hw⟩
  rw [hready, decide_eq_false hlast, Bool.or_false]

/-! The parts of bring-up. -/

theorem applyImage_keeps (s : State) (slot : Nat) : (applyImage s slot).w = s.w ∧ (applyImage s slot).mgmt.phase = s.mgmt.phase
    ∧ (applyImage s slot).mgmt.ready = s.mgmt.ready ∧ (applyImage s slot).mgmt.safe = s.mgmt.safe
    ∧ (applyImage s slot).mgmt.powered = s.mgmt.powered := by
  unfold applyImage
  dsimp only
  split <;> exact ⟨rfl, rfl, rfl, rfl, rfl⟩

theorem alarmEffect_phase (s : State) (level : Nat) (srcs : List AlarmSource) :
    (alarmEffect s level srcs).mgmt.phase = s.mgmt.phase ∧ (alarmEffect s level srcs).mgmt.powered = s.mgmt.powered := by
  obtain ⟨-, -, -, -, hphase, hpower⟩ := levelEffect_keeps (alarmRecorded s srcs) level
  have hmgmt := alarmRecorded_mgmt s srcs
  rw [alarmEffect_eq]
  exact ⟨hphase.trans (by rw [hmgmt]; rfl), hpower.trans (by rw [hmgmt]; rfl)⟩

/-- Some die has fewer cores that pass than it needs. -/
def shortOfCores (s : State) : Prop := ∃ d < 8, ((List.range 80).filter fun c => !s.env.coreFail.contains (d, c)).length < 72

/-- The cores that each die would map. -/
def coreMaps (s : State) : List (List Nat) := (List.range Config.dies).map fun d => (passing s d).take Config.coresPerDie

/-- The dies that map fewer cores than they need. -/
def shortDies (s : State) : List Nat :=
  (List.range Config.dies).filter fun d => decide (((coreMaps s).getD d []).length < Config.coresPerDie)

/-- Each of them sets its bit in the cause of the failure. -/
def shortMask (s : State) : Nat := (shortDies s).foldl (fun n d => n + 2 ^ d) 0

theorem mapCores_eq (s : State) : mapCores s =
    if shortMask s ≠ 0 then phaseFails s 6 (shortMask s)
    else modMgmt s fun m => { m with phase := 5, coreMap := coreMaps s, spares := ((coreMaps s).map sparesOf).sum } := rfl

theorem foldl_add_pow_eq_zero_iff (l : List Nat) (n : Nat) : l.foldl (fun n d => n + 2 ^ d) n = 0 ↔ n = 0 ∧ l = [] := by
  induction l generalizing n with
  | nil => simp
  | cons d l ih =>
    rw [List.foldl_cons, ih]
    have := Nat.two_pow_pos d
    simp

theorem coreMaps_getD (s : State) {d : Nat} (hd : d < 8) :
    ((coreMaps s).getD d []).length < Config.coresPerDie
      ↔ ((List.range 80).filter fun c => !s.env.coreFail.contains (d, c)).length < 72 := by
  have hget : (coreMaps s).getD d [] = (passing s d).take Config.coresPerDie := by
    have hd' : d < Config.dies := hd
    simp [coreMaps, List.getD_eq_getElem?_getD, hd']
  rw [hget, List.length_take]
  show min 72 (passing s d).length < 72 ↔ (passing s d).length < 72
  omega

theorem shortMask_ne_zero_iff (s : State) : shortMask s ≠ 0 ↔ shortOfCores s := by
  rw [shortMask, ne_eq, foldl_add_pow_eq_zero_iff, eq_self_iff_true, true_and]
  constructor
  · intro hne
    obtain ⟨d, hd⟩ := List.exists_mem_of_ne_nil _ hne
    obtain ⟨hrange, hshort⟩ := List.mem_filter.1 hd
    have hlt : d < 8 := List.mem_range.1 hrange
    exact ⟨d, hlt, (coreMaps_getD s hlt).1 (of_decide_eq_true hshort)⟩
  · rintro ⟨d, hlt, hshort⟩
    exact List.ne_nil_of_mem (List.mem_filter.2 ⟨List.mem_range.2 hlt, decide_eq_true ((coreMaps_getD s hlt).2 hshort)⟩)

theorem mapCores_of_short (h : shortOfCores s) : mapCores s = phaseFails s 6 (shortMask s) := by
  rw [mapCores_eq, if_pos ((shortMask_ne_zero_iff s).2 h)]

theorem mapCores_of_enough (h : ¬ shortOfCores s) : mapCores s =
    modMgmt s fun m => { m with phase := 5, coreMap := coreMaps s, spares := ((coreMaps s).map sparesOf).sum } := by
  rw [mapCores_eq, if_neg fun hmask => h ((shortMask_ne_zero_iff s).1 hmask)]

theorem reachReady_keeps (s : State) : (reachReady s).mgmt.phase = 6 ∧ (reachReady s).mgmt.ready = true
    ∧ (reachReady s).mgmt.safe = s.mgmt.safe ∧ (reachReady s).mgmt.powered = s.mgmt.powered ∧ (reachReady s).w = s.w := by
  unfold reachReady raiseEvent
  dsimp only
  split_ifs <;> exact ⟨rfl, rfl, rfl, rfl, rfl⟩

/-! Each phase. -/

theorem execBringupPhaseComplete_idle (h : s.mgmt.powered = false ∨ s.mgmt.safe = true ∨ 6 ≤ s.mgmt.phase) :
    execBringupPhaseComplete s = .next s := by
  unfold execBringupPhaseComplete
  extract_lets m go
  by_cases hoff : (!m.powered || m.safe) = true
  · rw [if_pos hoff]
  · rw [if_neg hoff]
    have hlast : 6 ≤ m.phase := by
      rcases h with h | h | h
      · exact absurd (by simp [m, h]) hoff
      · exact absurd (by simp [m, h]) hoff
      · exact h
    split
    case h_7 => rfl
    all_goals omega

/-- Bring-up enters the next phase. -/
def nextPhase (s : State) : State := modMgmt s fun m => { m with phase := m.phase + 1 }

section

variable (hpower : s.mgmt.powered = true) (hsafe : s.mgmt.safe = false)

include hpower hsafe

/-- Phase 0: the supplies. -/
theorem bringup_phase0 (hp : s.mgmt.phase = 0) :
    execBringupPhaseComplete s = .next (if s.env.supplyOk then nextPhase s else phaseFails s 1 0) := by
  simp only [execBringupPhaseComplete, hpower, hsafe, hp, Bool.not_true, Bool.or_self, Bool.false_eq_true, if_false]
  rfl

/-- Phase 1: a slot that may be booted. -/
theorem bringup_phase1_none (hp : s.mgmt.phase = 1) (hslot : bootSlot s.mgmt = none) :
    execBringupPhaseComplete s = .next (phaseFails s 2 0) := by
  simp only [execBringupPhaseComplete, hpower, hsafe, hp, hslot, Bool.not_true, Bool.or_self, Bool.false_eq_true, if_false]

theorem bringup_phase1_some {n : Nat} (hp : s.mgmt.phase = 1) (hslot : bootSlot s.mgmt = some n) :
    execBringupPhaseComplete s = .next (nextPhase (applyImage s n)) := by
  simp only [execBringupPhaseComplete, hpower, hsafe, hp, hslot, Bool.not_true, Bool.or_self, Bool.false_eq_true, if_false]
  rfl

/-- Phase 2: the secure element, then tampering. -/
theorem bringup_phase2 (hp : s.mgmt.phase = 2) : execBringupPhaseComplete s = .next (
    if !s.env.seOk || s.mgmt.wrapLost then phaseFails s 3 0
    else if s.env.tamper || s.env.tamperLatch then phaseFails (alarmEffect s (alarmLevel s [.tamper]) [.tamper]) 4 0
    else nextPhase (modMgmt s fun m => { m with keysLoaded := true })) := by
  simp only [execBringupPhaseComplete, hpower, hsafe, hp, Bool.not_true, Bool.or_self, Bool.false_eq_true, if_false]
  split_ifs <;> rfl

/-- Phase 3: the memories. -/
theorem bringup_phase3 (hp : s.mgmt.phase = 3) :
    execBringupPhaseComplete s = .next (if s.env.memFail = 0 then nextPhase s else phaseFails s 5 s.env.memFail.toNat) := by
  simp only [execBringupPhaseComplete, hpower, hsafe, hp, Bool.not_true, Bool.or_self, Bool.false_eq_true, if_false]
  rfl

/-- Phase 4: the cores. -/
theorem bringup_phase4 (hp : s.mgmt.phase = 4) : execBringupPhaseComplete s = .next (mapCores s) := by
  simp only [execBringupPhaseComplete, hpower, hsafe, hp, Bool.not_true, Bool.or_self, Bool.false_eq_true, if_false]

/-- Phase 5: port 0. -/
theorem bringup_phase5 (hp : s.mgmt.phase = 5) :
    execBringupPhaseComplete s = .next (if s.env.ports.getLsbD 0 then reachReady s else phaseFails s 7 0) := by
  simp only [execBringupPhaseComplete, hpower, hsafe, hp, Bool.not_true, Bool.or_self, Bool.false_eq_true, if_false]

/-- Bring-up goes to the safe talkative state with a cause. -/
def bringupFails (s : State) (cause : BitVec 5) : Prop := ∃ t, execBringupPhaseComplete s = .next t ∧ failedPhase s t cause

/-- Bring-up goes to the next phase. -/
def bringupPasses (s : State) : Prop := ∃ t, execBringupPhaseComplete s = .next t ∧ passedPhase s t

omit hsafe in
/-- A phase before the last that fails leaves port 0 up. -/
theorem phaseFails_early {cause : Nat} (die : Nat) (hcause : cause < 7) (hp : s.mgmt.phase < 5) :
    failedPhase s (phaseFails s cause die) (BitVec.ofNat 5 cause) := by
  refine phaseFails_failed rfl hpower ⟨fun h => ?_, fun h => by omega⟩
  have hmod : cause % 32 = 7 := by simpa using congrArg BitVec.toNat h
  omega

theorem nextPhase_passed_same (hp : s.mgmt.phase < 5) : passedPhase s (nextPhase s) :=
  nextPhase_passed hp.ne rfl rfl hsafe hpower rfl

theorem phase0_completes (hp : s.mgmt.phase = 0) :
    (s.env.supplyOk = false → bringupFails s 1) ∧ (s.env.supplyOk = true → bringupPasses s) := by
  have hexec := bringup_phase0 hpower hsafe hp
  refine ⟨fun hbad => ?_, fun hok => ?_⟩
  · rw [hbad, if_neg Bool.false_ne_true] at hexec
    exact ⟨_, hexec, phaseFails_early hpower 0 (by decide) (by omega)⟩
  · rw [hok, if_pos rfl] at hexec
    exact ⟨_, hexec, nextPhase_passed_same hpower hsafe (by omega)⟩

theorem phase1_completes (hp : s.mgmt.phase = 1) :
    (bootSlot s.mgmt = none → bringupFails s 2) ∧ (bootSlot s.mgmt ≠ none → bringupPasses s) := by
  refine ⟨fun hnone => ?_, fun hsome => ?_⟩
  · exact ⟨_, bringup_phase1_none hpower hsafe hp hnone, phaseFails_early hpower 0 (by decide) (by omega)⟩
  · obtain ⟨n, hn⟩ := Option.ne_none_iff_exists'.1 hsome
    obtain ⟨hw, hphase, hready, hsafe', hpower'⟩ := applyImage_keeps s n
    exact ⟨_, bringup_phase1_some hpower hsafe hp hn, nextPhase_passed (by omega) (congrArg (· + 1) hphase) hready (hsafe'.trans hsafe)
      (hpower'.trans hpower) hw⟩

theorem phase2_completes (hp : s.mgmt.phase = 2) :
    (s.env.seOk = false ∨ s.mgmt.wrapLost = true → bringupFails s 3)
    ∧ (s.env.seOk = true ∧ s.mgmt.wrapLost = false ∧ (s.env.tamper = true ∨ s.env.tamperLatch = true) → bringupFails s 4)
    ∧ (s.env.seOk = true → s.mgmt.wrapLost = false → s.env.tamper = false → s.env.tamperLatch = false → bringupPasses s) := by
  have hexec := bringup_phase2 hpower hsafe hp
  refine ⟨fun hbad => ?_, fun ⟨hse, hwrap, htamper⟩ => ?_, fun hse hwrap htamper hlatch => ?_⟩
  · have hc : (!s.env.seOk || s.mgmt.wrapLost) = true := by rcases hbad with h | h <;> simp [h]
    rw [if_pos hc] at hexec
    exact ⟨_, hexec, phaseFails_early hpower 0 (by decide) (by omega)⟩
  · have hc : (s.env.tamper || s.env.tamperLatch) = true := by rcases htamper with h | h <;> simp [h]
    rw [hse, hwrap, if_neg (by decide), if_pos hc] at hexec
    obtain ⟨hphase, hpower'⟩ := alarmEffect_phase s (alarmLevel s [.tamper]) [.tamper]
    exact ⟨_, hexec, phaseFails_failed hphase (hpower'.trans hpower) ⟨fun h => absurd h (by decide), fun h => by omega⟩⟩
  · rw [hse, hwrap, htamper, hlatch, if_neg (by decide), if_neg (by decide)] at hexec
    exact ⟨_, hexec, nextPhase_passed (by omega) rfl rfl hsafe hpower rfl⟩

theorem phase3_completes (hp : s.mgmt.phase = 3) : (s.env.memFail ≠ 0 → bringupFails s 5) ∧ (s.env.memFail = 0 → bringupPasses s) := by
  have hexec := bringup_phase3 hpower hsafe hp
  refine ⟨fun hbad => ?_, fun hok => ?_⟩
  · rw [if_neg hbad] at hexec
    exact ⟨_, hexec, phaseFails_early hpower _ (by decide) (by omega)⟩
  · rw [if_pos hok] at hexec
    exact ⟨_, hexec, nextPhase_passed_same hpower hsafe (by omega)⟩

theorem phase4_completes (hp : s.mgmt.phase = 4) : (shortOfCores s → bringupFails s 6) ∧ (¬ shortOfCores s → bringupPasses s) := by
  have hexec := bringup_phase4 hpower hsafe hp
  refine ⟨fun hshort => ?_, fun hok => ?_⟩
  · rw [mapCores_of_short hshort] at hexec
    exact ⟨_, hexec, phaseFails_early hpower _ (by decide) (by omega)⟩
  · rw [mapCores_of_enough hok] at hexec
    exact ⟨_, hexec, nextPhase_passed (by omega) (congrArg (· + 1) hp.symm) rfl hsafe hpower rfl⟩

theorem phase5_completes (hp : s.mgmt.phase = 5) :
    (s.env.ports.getLsbD 0 = false → bringupFails s 7) ∧ (s.env.ports.getLsbD 0 = true → bringupPasses s) := by
  have hexec := bringup_phase5 hpower hsafe hp
  refine ⟨fun hdown => ?_, fun hup => ?_⟩
  · rw [hdown, if_neg Bool.false_ne_true] at hexec
    exact ⟨_, hexec, phaseFails_failed rfl hpower ⟨fun _ => hp, fun _ => rfl⟩⟩
  · rw [hup, if_pos rfl] at hexec
    obtain ⟨hphase, hready, hsafe', hpower', hw⟩ := reachReady_keeps s
    refine ⟨_, hexec, by rw [hphase, hp], hsafe'.trans hsafe, hpower'.trans hpower, ?_, hw⟩
    rw [hready, decide_eq_true hp, Bool.or_true]

end

/-! Power comes and goes (04 R83), port 0 is trained again (04 R80), and what the module measures (04 R81, R85). -/

theorem execPowerGood_of_off (h : s.mgmt.powered = false) : execPowerGood s = .next (dropVolatile s) := by
  rw [execPowerGood, h, if_neg Bool.false_ne_true]

theorem execPowerGood_of_on (h : s.mgmt.powered = true) : execPowerGood s = .next s := by rw [execPowerGood, h, if_pos rfl]

theorem execPowerLoss_of_off (h : s.mgmt.powered = false) : execPowerLoss s = .next s := by
  rw [execPowerLoss, h, if_neg Bool.false_ne_true]

theorem execPowerLoss_of_on (h : s.mgmt.powered = true) :
    execPowerLoss s = .next (modMgmt (dropVolatile s) fun m => { m with powered := false }) := by
  rw [execPowerLoss, h, if_pos rfl]

theorem execPort0Retrain_eq (s : State) : execPort0Retrain s = .next (
    if s.mgmt.powered = true ∧ s.mgmt.safe = true ∧ s.mgmt.cause = 7 ∧ s.env.ports.getLsbD 0 = true then
      { s with mgmt := { s.mgmt with ports := 1 } } else s) := by
  refine congrArg Host.Outcome.next (if_congr ?_ rfl rfl)
  simp only [Bool.and_eq_true, decide_eq_true_eq, and_assoc]

theorem execPowerThrottleStep_eq (s : State) : execPowerThrottleStep s = .next (
    if s.mgmt.powered = true ∧ s.mgmt.ready = true then
      { s with mgmt := { s.mgmt with overCap := overCap s, throttling := overCap s || decide (95 < s.env.junction) } }
    else s) :=
  congrArg Host.Outcome.next (if_congr Bool.and_eq_true_iff rfl rfl)

end

/-- Settles O42: each event by what is said of it; bring-up phase by phase. -/
theorem powerAndBringup : Obligations.PowerAndBringup := by
  intro s m bare short fails passes
  refine ⟨fun hoff => ⟨execPowerLoss_of_off hoff, ?good⟩, fun hon => ⟨execPowerGood_of_on hon, ?loss⟩, execBringupPhaseComplete_idle,
    fun hpower hsafe => ⟨phase0_completes hpower hsafe, phase1_completes hpower hsafe, phase2_completes hpower hsafe,
      phase3_completes hpower hsafe, phase4_completes hpower hsafe, phase5_completes hpower hsafe⟩,
    execPort0Retrain_eq s, execPowerThrottleStep_eq s, rfl⟩
  case good =>
    exact ⟨_, execPowerGood_of_off hoff, rfl, rfl, rfl, rfl, rfl, rfl, rfl, rfl, rfl, rfl, rfl, rfl, rfl, rfl, rfl⟩
  case loss =>
    exact ⟨_, execPowerLoss_of_on hon, rfl, rfl, rfl, rfl, rfl, rfl, rfl, rfl, rfl, rfl, rfl, rfl, rfl, rfl, rfl⟩

end Sys2Proof.Machine

/-! Checkpoints from the stop of the launches to validity (18 R338; 20 R358-R361). -/

namespace Sys2Proof.Machine

-- One proof after the other: the check's memory limit counts the stack of every thread that elaborates a proof.
set_option Elab.async false

section

variable {s : State}

theorem ite_keeps {β γ : Type} {g : β → γ} {c : Prop} [Decidable c] {a b : β} {x : γ} (ha : g a = x) (hb : g b = x) :
    g (if c then a else b) = x := by
  split
  · exact ha
  · exact hb

/-! Engines that are frozen and go on: only the work of the present state changes, neither memory nor window. -/

/-- The state but for its work: memory and window, and all that is no part of the world. -/
def besideWork (s : State) : State := { s with w := { World.init with mem := s.w.mem, window := s.w.window, launches := s.w.launches } }

theorem besideWork_acceptOps (s : State) (core : Nat) : besideWork (acceptOps s core) = besideWork s :=
  foldl_keeps (g := besideWork) (by intro a o; exact ite_keeps rfl rfl) _ s

theorem besideWork_requestEngine (s : State) (pg : Nat) : besideWork (requestEngine s pg) = besideWork s := by
  unfold requestEngine
  split <;> rfl

theorem besideWork_offerOp (s : State) (pg : Nat) (kind : MatKind) (tiles : BitVec 16) (tid : Nat) (site : WordAt)
    (waiters : List (Nat × Nat)) : besideWork (offerOp s pg kind tiles tid site waiters) = besideWork s := by
  unfold offerOp
  dsimp only
  rw [besideWork_acceptOps]
  exact besideWork_requestEngine (nextId s).2 pg

/-- The loop on the fuel: the latch that has closed is taken out, then its operation is offered or its tiles fail. -/
theorem besideWork_closeLatch (fuel : Nat) (s : State) (cg : Nat) (members : List Nat) :
    besideWork (closeLatch fuel s cg members) = besideWork s := by
  induction fuel generalizing s with
  | zero => rfl
  | succ k ih =>
    unfold closeLatch
    extract_lets g heads here xs a
    clear_value heads
    obtain _ | ⟨⟨m0, _ | x0⟩, l⟩ := heads
    · rfl
    · rfl
    · dsimp only
      split
      · rw [ih]
        split
        · exact besideWork_offerOp _ _ _ _ _ _ _
        · exact foldl_keeps (g := besideWork) (by intro _ _; rfl) _ a
      · rfl

theorem besideWork_thawed (s : State) (core : Nat) : besideWork (thawed s core) = besideWork s := by
  unfold thawed
  split
  · rfl
  · dsimp only
    rw [besideWork_acceptOps]
    exact foldl_keeps (fun a k => foldl_keeps (fun b m => besideWork_closeLatch _ b k m) _ a) _ s

theorem besideWork_freezeEngines (s : State) (p : Nat → Bool) (on : Bool) : besideWork (freezeEngines s p on) = besideWork s :=
  foldl_keeps (g := besideWork) (by intro _ _; rfl) _ s

theorem besideWork_resumeAll (s : State) : besideWork (resumeAll s) = besideWork { s with ckptStop := false } := by
  unfold resumeAll
  dsimp only
  rw [foldl_keeps besideWork_thawed]
  exact besideWork_freezeEngines _ _ _

/-- Another work stands in the same state. -/
theorem eq_of_besideWork {t : State} (h : besideWork t = besideWork s) :
    t = { s with w := t.w } ∧ t.w.mem = s.w.mem ∧ t.w.window = s.w.window ∧ t.w.launches = s.w.launches := by
  have hstate := congrArg (fun x : State => { x with w := t.w }) h
  have hw := congrArg State.w h
  simp only [besideWork, World.mk.injEq, and_true] at hw
  exact ⟨hstate, hw⟩

theorem stopAll_eq (s : State) : ∃ w, stopAll s = { s with w := w, ckptStop := true, ckptAt := s.clk + s.rb.t * Config.clkPerMs }
    ∧ w.mem = s.w.mem ∧ w.launches = s.w.launches := by
  obtain ⟨heq, hmem, -, hlaunches⟩ := eq_of_besideWork (besideWork_freezeEngines s (fun l => stoppable s l) true)
  refine ⟨_, ?_, hmem, hlaunches⟩
  unfold stopAll ckptEngines
  rw [heq]

theorem resumeAll_eq (s : State) : ∃ w, resumeAll s = { s with w := w, ckptStop := false } ∧ w.mem = s.w.mem ∧ w.window = s.w.window := by
  obtain ⟨heq, hmem, hwindow, -⟩ := eq_of_besideWork (besideWork_resumeAll s)
  exact ⟨_, heq, hmem, hwindow⟩

/-! The clocks of deterministic order are cleared (20 R364). -/

theorem tget?_map {α β : Type} (t : Tab α) (k : Nat) (f : α → β) : tget? (t.map fun x => (x.1, f x.2)) k = (tget? t k).map f := by
  induction t with
  | nil => rfl
  | cons e r ih =>
    obtain ⟨j, v⟩ := e
    rw [List.map_cons, tget?, tget?, ih]
    split <;> rfl

/-- A partition group whose threads' clocks are cleared. -/
def unclocked (g : PartGroup) : PartGroup := { g with threads := g.threads.map fun t => { t with clock := 0, ords := 0 } }

theorem clearClocks_pg (s : State) (k : Nat) : (clearClocks s).pg k = unclocked (s.pg k) := by
  show (tget? (s.w.pgs.map fun g => (g.1, unclocked g.2)) k).getD PartGroup.none = unclocked ((tget? s.w.pgs k).getD PartGroup.none)
  rw [tget?_map]
  cases tget? s.w.pgs k <;> rfl

/-- A thread keeps its context. -/
theorem clearClocks_ctx (s : State) (r : ThreadRef) : ((clearClocks s).thread r).ctx = (s.thread r).ctx := by
  rw [State.thread, clearClocks_pg, State.thread, unclocked]
  simp only [List.getD_eq_getElem?_getD, List.getElem?_map]
  cases (s.pg r.pg).threads[r.tid]? <;> rfl

/-! The beginning of a checkpoint (20 R358). -/

theorem execCheckpointStart_replays (h : s.replay.isSome = true) : execCheckpointStart s = .next (clearClocks s) := by
  rw [execCheckpointStart, if_pos h]

theorem execCheckpointStart_eq (h : s.replay = none) : execCheckpointStart s =
    .next (if s.ckptStop then (if allStopped s then captureCkpt s else s) else if checkpointDue s then stopAll s else s) := by
  rw [execCheckpointStart, h]
  rfl

theorem le_foldl_max {α : Type} (f : α → Nat) (l : List α) (n : Nat) :
    n ≤ l.foldl (fun n c => Nat.max n (f c)) n ∧ ∀ x ∈ l, f x ≤ l.foldl (fun n c => Nat.max n (f c)) n := by
  induction l generalizing n with
  | nil => exact ⟨Nat.le_refl n, nofun⟩
  | cons y l ih =>
    obtain ⟨hacc, hmem⟩ := ih (Nat.max n (f y))
    refine ⟨(Nat.le_max_left n (f y)).trans hacc, fun x hx => ?_⟩
    rcases List.mem_cons.1 hx with rfl | hx
    · exact (Nat.le_max_right n (f x)).trans hacc
    · exact hmem x hx

/-- The checkpoint that is taken of the state whose launches have stopped. -/
def newCkpt (s : State) (w : World) (acts : List Action) : Ckpt :=
  { num := (s.ckpts.foldl (fun n c => Nat.max n c.num) s.rb.num.toNat) + 1, world := w, images := s.images, spaces := s.spaces, clk := s.clk,
    fresh := s.fresh, mark := acts.length, lost := s.logLost, recs := s.log, frames := s.dirty, pending := s.dirty, valid := false }

/-- The actions that lie behind the new checkpoint. -/
def actsSince (s : State) : List Action := if s.ckpts.isEmpty then s.logData else .event .checkpointStart :: s.logData

theorem captureCkpt_eq (s : State) : ∃ w sessions, w.mem = s.w.mem ∧ w.window = s.w.window ∧ w.lineClocks = [] ∧ captureCkpt s =
    { s with w := w, sessions := sessions, ckptStop := false,
             ckpts := ((lastValid s).map fun o => [o]).getD [] ++ [newCkpt s w (actsSince s)], ckptForced := false, dirty := [],
             logData := actsSince s, interval := s.interval + 1, log := [], logLost := false, logOff := 0, rb := { s.rb with olWr := 0 } } := by
  obtain ⟨w, heq, hmem, hwindow⟩ := resumeAll_eq s
  refine ⟨(clearClocks (resumeAll s)).w, (clearClocks (resumeAll s)).sessions, ?_, ?_, rfl, ?_⟩
  · rw [heq]
    exact hmem
  · rw [heq]
    exact hwindow
  · unfold captureCkpt
    rw [heq]
    rfl

theorem execCheckpointStart_captures (hreplay : s.replay = none) (hstop : s.ckptStop = true) (hall : allStopped s = true) :
    ∃ t c, execCheckpointStart s = .next t ∧ t.ckpts.getLast? = some c ∧ c.valid = false
      ∧ c.world = t.w ∧ c.images = s.images ∧ t.w.mem = s.w.mem ∧ t.w.window = s.w.window ∧ t.w.lineClocks = [] ∧ c.clk = s.clk
      ∧ (∀ o ∈ s.ckpts, o.num < c.num) ∧ c.frames = s.dirty ∧ c.pending = s.dirty ∧ t.dirty = [] ∧ c.recs = s.log ∧ t.log = []
      ∧ c.lost = s.logLost ∧ t.logLost = false ∧ t.ckptStop = false ∧ t.interval = s.interval + 1 ∧ t.rb.olWr = 0
      ∧ t.logData = actsSince s ∧ c.mark = t.logData.length := by
  have hexec := execCheckpointStart_eq hreplay
  rw [hstop, hall, if_pos rfl, if_pos rfl] at hexec
  obtain ⟨w, sessions, hmem, hwindow, hclocks, heq⟩ := captureCkpt_eq s
  rw [heq] at hexec
  exact ⟨_, _, hexec, List.getLast?_concat, rfl, rfl, rfl, hmem, hwindow, hclocks, rfl,
    fun o ho => Nat.lt_succ_of_le ((le_foldl_max (fun c : Ckpt => c.num) s.ckpts _).2 o ho), rfl, rfl, rfl, rfl, rfl, rfl, rfl, rfl, rfl, rfl,
    rfl, rfl⟩

theorem execCheckpointStart_stops (hreplay : s.replay = none) (hstop : s.ckptStop = false) (hdue : checkpointDue s = true) :
    ∃ t, execCheckpointStart s = .next t ∧ t.ckptStop = true ∧ t.ckptAt = s.clk + s.rb.t * Config.clkPerMs ∧ t.ckpts = s.ckpts
      ∧ t.w.mem = s.w.mem ∧ t.w.launches = s.w.launches := by
  have hexec := execCheckpointStart_eq hreplay
  rw [hstop, hdue, if_neg Bool.false_ne_true, if_pos rfl] at hexec
  obtain ⟨w, heq, hmem, hlaunches⟩ := stopAll_eq s
  rw [heq] at hexec
  exact ⟨_, hexec, rfl, rfl, rfl, hmem, hlaunches⟩

/-! Frames that are copied, and validity (20 R359). -/

/-- One range of frames without the frame `n`. -/
def cutRange (r : Nat × Nat) (n : Nat) : List (Nat × Nat) :=
  if r.1 ≤ n ∧ n < r.2 then [(r.1, n), (n + 1, r.2)].filter fun x => decide (x.1 < x.2) else [r]

theorem mem_cutRange_iff (x : Nat × Nat) (n f : Nat) : (∃ r ∈ cutRange x n, r.1 ≤ f ∧ f < r.2) ↔ (f ≠ n ∧ x.1 ≤ f ∧ f < x.2) := by
  unfold cutRange
  split
  · simp only [List.mem_filter, List.mem_cons, List.not_mem_nil, or_false, decide_eq_true_eq]
    constructor
    · rintro ⟨r, ⟨rfl | rfl, -⟩, hlo, hhi⟩ <;> dsimp only at hlo hhi <;> omega
    · rintro ⟨hne, hlo, hhi⟩
      rcases Nat.lt_or_gt_of_ne hne with hlt | hgt
      · exact ⟨(x.1, n), ⟨.inl rfl, by dsimp only; omega⟩, hlo, hlt⟩
      · exact ⟨(n + 1, x.2), ⟨.inr rfl, by dsimp only; omega⟩, hgt, hhi⟩
  · simp only [List.mem_singleton, exists_eq_left]
    omega

theorem mem_cutFrame_iff (l : List (Nat × Nat)) (n f : Nat) :
    (∃ r ∈ cutFrame l n, r.1 ≤ f ∧ f < r.2) ↔ (f ≠ n ∧ ∃ r ∈ l, r.1 ≤ f ∧ f < r.2) := by
  have hcut (r : Nat × Nat) : r ∈ cutFrame l n ↔ ∃ x ∈ l, r ∈ cutRange x n := List.mem_flatMap
  constructor
  · rintro ⟨r, hr, hf⟩
    obtain ⟨x, hx, hrx⟩ := (hcut r).1 hr
    obtain ⟨hne, hfx⟩ := (mem_cutRange_iff x n f).1 ⟨r, hrx, hf⟩
    exact ⟨hne, x, hx, hfx⟩
  · rintro ⟨hne, x, hx, hfx⟩
    obtain ⟨r, hrx, hf⟩ := (mem_cutRange_iff x n f).2 ⟨hne, hfx⟩
    exact ⟨r, (hcut r).2 ⟨x, hx, hrx⟩, hf⟩

theorem execCheckpointValid_pending {c : Ckpt} (hc : (s.ckpts.find? fun c => !c.valid) = some c) (hp : c.pending ≠ []) :
    execCheckpointValid s = .next s := by
  rw [execCheckpointValid, hc]
  exact if_pos (by rw [Bool.not_eq_true', List.isEmpty_eq_false_iff]; exact hp)

theorem execCheckpointValid_becomes {c : Ckpt} (hc : (s.ckpts.find? fun c => !c.valid) = some c) (hp : c.pending = []) :
    ∃ t, execCheckpointValid s = .next t ∧ { c with valid := true, mark := 0, lost := false } ∈ t.ckpts ∧ t.w = s.w
      ∧ t.rb.num = BitVec.ofNat 64 c.num := by
  unfold execCheckpointValid
  rw [hc]
  exact ⟨_, if_neg (by rw [hp]; decide), List.mem_map.2 ⟨c, List.mem_of_find?_eq_some hc, if_pos rfl⟩, rfl, rfl⟩

end

end Sys2Proof.Machine

/-! An uncorrectable error, rollback and replay (18 R338, R339; 20 R361, R363, R364). -/

namespace Sys2Proof.Machine

-- One proof after the other: the check's memory limit counts the stack of every thread that elaborates a proof.
set_option Elab.async false

section

variable {s : State}

/-! The status word of a launch that is not replayed: writing it moves no work. -/

/-- The clock, the saved images and the placed work. -/
def placedWork (s : State) : State :=
  { State.reset with clk := s.clk, images := s.images, w := { World.init with launches := s.w.launches, cgs := s.w.cgs } }

theorem placedWork_fields {t : State} (h : placedWork t = placedWork s) :
    t.clk = s.clk ∧ t.images = s.images ∧ t.w.cgs = s.w.cgs ∧ t.w.launches = s.w.launches := by
  simp only [placedWork, State.mk.injEq, World.mk.injEq, true_and, and_true] at h
  obtain ⟨⟨hlaunches, hcgs⟩, hclk, himages⟩ := h
  exact ⟨hclk, himages, hcgs, hlaunches⟩

theorem placedWork_homeWrite (s : State) (own : Option Nat) (pa : Nat) (bs : List Byte) :
    placedWork (homeWrite s own pa bs) = placedWork s := by
  unfold homeWrite
  exact ite_keeps rfl rfl

theorem placedWork_raiseEvent (s : State) (kind val : Nat) : placedWork (raiseEvent s kind val) = placedWork s := ite_keeps rfl rfl

theorem raiseEvent_w (s : State) (kind val : Nat) : (raiseEvent s kind val).w = s.w := ite_keeps (g := State.w) rfl rfl

theorem placedWork_l2Line (s : State) (die n : Nat) : placedWork (l2Line s die n).1 = placedWork s := by
  unfold l2Line l2Fill
  split <;> rfl

theorem placedWork_countWalk (s : State) (made : Option (Nat × Nat)) (va : Nat) : placedWork (countWalk s made va) = placedWork s := by
  unfold countWalk
  split
  · rfl
  · exact ite_keeps rfl rfl

theorem placedWork_tableLine (s : State) (die n : Nat) : placedWork (tableLine s die n).1 = placedWork s := by
  unfold tableLine
  split
  · exact placedWork_l2Line s die n
  · rfl

theorem placedWork_walkFrom (levels : List (Nat × Nat × Bool × Bool × Bool × Nat × Nat)) (s : State) (die : Nat) (made : Option (Nat × Nat))
    (table va : Nat) : placedWork (walkFrom levels s die made table va).1 = placedWork s := by
  induction levels generalizing s table with
  | nil => rfl
  | cons x l ih =>
    unfold walkFrom
    extract_lets +onlyGivenNames pte
    split
    next e =>
      have he := (placedWork_tableLine (countWalk s made va) die (pte / 128)).trans (placedWork_countWalk s made va)
      rw [e] at he
      extract_lets +onlyGivenNames e2 addr
      split
      · exact he
      · split
        · exact (ih _ _).trans he
        all_goals exact he

theorem placedWork_walkDie (s : State) (die : Nat) (made : Option (Nat × Nat)) (space va : Nat) :
    placedWork (walkDie s die made space va).1 = placedWork s := by
  unfold walkDie
  split
  · rfl
  · exact placedWork_walkFrom _ _ _ _ _ _

theorem placedWork_takeFrame (fuel : Nat) (s : State) (die : Nat) : placedWork (takeFrame fuel s die).1 = placedWork s := by
  induction fuel generalizing s with
  | zero => rfl
  | succ k ih =>
    unfold takeFrame
    extract_lets +onlyGivenNames m
    split
    · rfl
    · extract_lets +onlyGivenNames e s1
      split
      · rfl
      · exact ih s1

theorem placedWork_fillLeaf (s : State) (pte frame : Nat) (nc x w r : Bool) : placedWork (fillLeaf s pte frame nc x w r) = placedWork s := by
  unfold fillLeaf
  exact placedWork_homeWrite _ _ _ _

theorem placedWork_reportShortage (s : State) (die : Nat) : placedWork (reportShortage s die) = placedWork s :=
  ite_keeps rfl (placedWork_raiseEvent s 1 die)

theorem placedWork_walkerFill (s : State) (die space va pte : Nat) (nc x w r busy : Bool) :
    placedWork (walkerFill s die space va pte nc x w r busy).1 = placedWork s := by
  have htake := placedWork_takeFrame (ringEntries (s.die die).mcb) s die
  unfold walkerFill
  split
  · rfl
  · split
    · next e =>
      rw [e] at htake
      exact (placedWork_fillLeaf _ _ _ _ _ _ _).trans htake
    · next e =>
      rw [e] at htake
      split
      · exact (placedWork_reportShortage _ _).trans htake
      · exact (placedWork_reportShortage _ _).trans ((placedWork_homeWrite _ _ _ _).trans htake)

theorem placedWork_unitTranslate (s : State) (die space a : Nat) (need : Need) :
    placedWork (unitTranslate s die space a need).1 = placedWork s := by
  have hwalk := placedWork_walkDie s die none space a
  unfold unitTranslate
  split
  · rfl
  · split
    · rfl
    · split
      · rfl
      · split
        next b y e =>
          rw [e] at hwalk
          split
          · split
            · exact (ite_keeps rfl (placedWork_homeWrite _ _ _ _)).trans hwalk
            · exact hwalk
          · next pte nc x w r busy =>
            split
            · have hfill := placedWork_walkerFill b die space a pte nc x w r busy
              split <;> next e2 =>
                rw [e2] at hfill
                exact hfill.trans hwalk
            · exact hwalk
          · exact hwalk

theorem placedWork_unitTargets (s : State) (die space a n : Nat) : placedWork (unitTargets s die space a n).1 = placedWork s := by
  refine foldl_keeps (g := fun r : State × Except (BitVec 8 × Nat) (List (Nat × Nat × Target)) => placedWork r.1) (fun r p => ?_) _ _
  obtain ⟨b, _ | l⟩ := r
  · rfl
  · have htranslate := placedWork_unitTranslate b die space p.1 .write
    dsimp only
    split <;> next e =>
      rw [e] at htranslate
      exact htranslate

theorem placedWork_writeTarget (s : State) (t : Target) (bs : List Byte) : placedWork (writeTarget s t bs) = placedWork s := by
  cases t with
  | window => rfl
  | dram pa nc => exact foldl_keeps (g := placedWork) (by intro _ _; rfl) _ (modFrames s pa bs.length fun m => memWriteN m pa bs)
  | demand | fail => rfl

theorem placedWork_unitWriteWhole (s : State) (die space a : Nat) (bs : List Byte) :
    placedWork (unitWriteWhole s die space a bs).1 = placedWork s := by
  have htargets := placedWork_unitTargets s die space a bs.length
  unfold unitWriteWhole
  split
  · next e =>
    rw [e] at htargets
    exact htargets
  · next e =>
    rw [e] at htargets
    exact (foldl_keeps (by intro b p; exact placedWork_writeTarget b _ _) _ _).trans htargets

theorem placedWork_endUnreplayed (s : State) (l : Launch) : placedWork (endUnreplayed s l) = placedWork s :=
  ite_keeps rfl (placedWork_unitWriteWhole _ _ _ _ _)

theorem endUnreplayed_of_noStatus {l : Launch} (h : l.lr.status = 0) (s : State) : endUnreplayed s l = s := if_pos h

theorem foldl_endUnreplayed_of_noStatus {l : Tab Launch} (h : ∀ x ∈ l, x.2.lr.status = 0) (s : State) :
    l.foldl (fun s x => endUnreplayed s x.2) s = s :=
  List.foldlRecOn (motive := fun t => t = s) l _ rfl fun t ht x hx => (endUnreplayed_of_noStatus (h x hx) t).trans ht

/-! The rollback. -/

/-- What has been done since the last valid checkpoint, in its order: what a replay under way still has to do comes last. -/
def doneSince (s : State) : List Action := s.logData.reverse ++ (s.replay.map fun r => r.left).getD []

/-- The records of what has been done since. -/
def recsSince (s : State) : List LogRec :=
  (s.ckpts.filter fun x => !x.valid).flatMap (fun x => x.recs) ++ s.log ++ (s.replay.map fun r => r.recs).getD []

/-- The state of the checkpoint, with the debuggers' claims and the module of now. -/
def rolledBack (s : State) (c : Ckpt) : State :=
  clearClocks { s with
    w := freshEngines { c.world with claims := s.w.claims }, images := c.images, clk := c.clk, fresh := c.fresh,
    ckpts := s.ckpts.filter (fun x => x.valid), log := [], logLost := false, logOff := 0, logData := [], ckptForced := false,
    ckptAt := c.clk + s.rb.t * Config.clkPerMs, dirty := (s.ckpts.filter fun x => !x.valid).flatMap (fun x => x.frames) ++ s.dirty, cur := none,
    rb := { s.rb with olWr := 0 }, replay := none, ckptStop := false }

/-- The launches of now that the checkpoint does not know. -/
def unknownLaunches (s : State) (c : Ckpt) : Tab Launch :=
  s.w.launches.filter fun l =>
    !hasSerial c.world.launches l.2.serial && !hasSerial c.world.launches (rootOf 64 s.w.launches l.2).serial

theorem execUncorrectableError_eq {c : Ckpt} (hready : s.mgmt.ready = true) (hc : lastValid s = some c) (hlog : s.logLost = false)
    (hkept : ∀ x ∈ s.ckpts, x.valid = true ∨ x.lost = false) : execUncorrectableError s = .next
      { raiseEvent ((unknownLaunches s c).foldl (fun s l => endUnreplayed s l.2) (rolledBack s c)) 3 0 with
        replay := some { left := (doneSince s).filter replayable, recs := recsSince s } } := by
  have hlost : (s.logLost || s.ckpts.any fun x => !x.valid && x.lost) = false := by
    rw [hlog, Bool.false_or, List.any_eq_false]
    intro x hx
    rcases hkept x hx with h | h <;> simp [h]
  unfold execUncorrectableError
  rw [hready, if_neg (by decide)]
  extract_lets done recs a live b ended lost claims since rb
  rw [show lastValid a = some c from hc]
  dsimp -zeta only
  rw [show lost = false from hlost]
  rfl

theorem unknownLaunches_noStatus {c : Ckpt} (h : ∀ l ∈ s.w.launches, (∃ x ∈ c.world.launches, x.2.serial = l.2.serial) ∨ l.2.lr.status = 0) :
    ∀ l ∈ unknownLaunches s c, l.2.lr.status = 0 := by
  intro l hl
  obtain ⟨hmem, hunknown⟩ := List.mem_filter.1 hl
  refine (h l hmem).resolve_left fun ⟨x, hx, hserial⟩ => ?_
  have hknown : hasSerial c.world.launches l.2.serial = true := List.any_eq_true.2 ⟨x, hx, decide_eq_true hserial⟩
  rw [hknown] at hunknown
  exact Bool.false_ne_true hunknown

theorem execUncorrectableError_rollsBack {c : Ckpt} (hready : s.mgmt.ready = true) (hc : lastValid s = some c) (hlog : s.logLost = false)
    (hkept : ∀ x ∈ s.ckpts, x.valid = true ∨ x.lost = false) :
    ∃ t, execUncorrectableError s = .next t ∧ t.clk = c.clk ∧ t.images = c.images ∧ t.w.cgs = c.world.cgs ∧ t.w.launches = c.world.launches
      ∧ ((∀ l ∈ s.w.launches, (∃ x ∈ c.world.launches, x.2.serial = l.2.serial) ∨ l.2.lr.status = 0) →
        t.w.mem = c.world.mem ∧ t.w.window = c.world.window)
      ∧ t.replay = some { left := (doneSince s).filter replayable, recs := recsSince s } := by
  have hexec := execUncorrectableError_eq hready hc hlog hkept
  obtain ⟨hclk, himages, hcgs, hlaunches⟩ := placedWork_fields ((placedWork_raiseEvent _ 3 0).trans
    (foldl_keeps (g := placedWork) (by intro b l; exact placedWork_endUnreplayed b l.2) (unknownLaunches s c) (rolledBack s c)))
  refine ⟨_, hexec, hclk, himages, hcgs, hlaunches, fun h => ?_, rfl⟩
  rw [raiseEvent_w, foldl_endUnreplayed_of_noStatus (unknownLaunches_noStatus h)]
  exact ⟨rfl, rfl⟩

theorem execUncorrectableError_empties (hready : s.mgmt.ready = true) (hc : lastValid s = none) :
    ∃ t, execUncorrectableError s = .next t ∧ t.ckpts = [] ∧ t.w.launches = [] ∧ t.w.cgs = [] ∧ t.w.pgs = [] ∧ t.logData = []
      ∧ t.replay = none ∧ t.dirty = [(0, Config.dramTop / 0x10000)] := by
  unfold execUncorrectableError
  rw [hready, if_neg (by decide)]
  extract_lets done recs a live b
  rw [show lastValid a = none from hc]
  exact ⟨_, rfl, rfl, rfl, rfl, rfl, rfl, rfl, rfl⟩

theorem execUncorrectableError_notReady (h : s.mgmt.ready = false) : execUncorrectableError s = .next s := by
  rw [execUncorrectableError, h]
  rfl

theorem execReplayComplete_eq (s : State) :
    execReplayComplete s = .next (if s.replay.any fun r => r.left.isEmpty then { s with replay := none } else s) := by
  unfold execReplayComplete
  split <;> next h => rw [h]; rfl

end

/-- Settles O43: alarms by their level; a checkpoint from its beginning to its validity; the rollback to the last valid one. -/
theorem alarmsAndCheckpoints : Obligations.AlarmsAndCheckpoints := by
  intro s srcs frame fired level
  refine ⟨execSecurityAlarm_idle, execSecurityAlarm_taken,
    fun hreplay => ⟨execCheckpointStart_stops hreplay, fun hstop hdue => ?waits, fun hstop hall => ?stopping,
      execCheckpointStart_captures hreplay⟩,
    fun hreplay => ?replays, rfl, fun l f => mem_cutFrame_iff l frame f, fun c => execCheckpointValid_pending,
    fun c => execCheckpointValid_becomes, fun c => execUncorrectableError_rollsBack, execUncorrectableError_empties,
    execUncorrectableError_notReady, execReplayComplete_eq s⟩
  case waits =>
    refine (execCheckpointStart_eq hreplay).trans ?_
    rw [hstop, hdue]
    rfl
  case stopping =>
    refine (execCheckpointStart_eq hreplay).trans ?_
    rw [hstop, hall]
    rfl
  case replays => exact ⟨_, execCheckpointStart_replays hreplay, rfl, rfl, rfl, rfl, clearClocks_ctx s⟩

end Sys2Proof.Machine

/-! The words that observe, and the fragment words (09 R217; 10 R236; 11 R258-R261; 12 R278). -/

namespace Sys2Proof.Machine

-- One proof after the other: the check's memory limit counts the stack of every thread that elaborates a proof.
set_option Elab.async false

/-! Words that are summed up bit by bit. -/

/-- A bit is added where the word has none. -/
theorem getLsbD_ofNat_add_bit {w n k : Nat} (b : Bool) (hk : k < w) (h : (BitVec.ofNat w n).getLsbD k = false) (i : Nat) :
    (BitVec.ofNat w (n + bnat b * 2 ^ k)).getLsbD i = ((BitVec.ofNat w n).getLsbD i || (b && decide (i = k))) := by
  cases b with
  | false => simp [bnat]
  | true =>
    have hpow : BitVec.ofNat w (2 ^ k) = BitVec.twoPow w k := BitVec.eq_of_toNat_eq (by rw [BitVec.toNat_ofNat, BitVec.toNat_twoPow])
    have hdisj : BitVec.ofNat w n &&& BitVec.twoPow w k = 0#w := by
      refine BitVec.eq_of_getLsbD_eq fun j _ => ?_
      rw [BitVec.getLsbD_and, BitVec.getLsbD_twoPow, BitVec.getLsbD_zero]
      by_cases hj : k = j
      · rw [← hj, h, Bool.false_and]
      · rw [decide_eq_false hj, Bool.and_false, Bool.and_false]
    rw [bnat, if_pos rfl, Nat.one_mul, BitVec.ofNat_add, hpow, BitVec.add_eq_or_of_and_eq_zero _ _ hdisj, BitVec.getLsbD_or,
      BitVec.getLsbD_twoPow, decide_eq_true hk, Bool.true_and, Bool.true_and, decide_eq_decide.2 (eq_comm (a := k))]

/-- Bits with their places, one after the other: those of the sum. -/
theorem getLsbD_foldl_add_bit {w : Nat} (l : List (Bool × Nat)) (n : Nat) (hplaces : (l.map Prod.snd).Nodup) (hw : ∀ x ∈ l, x.2 < w)
    (hfree : ∀ x ∈ l, (BitVec.ofNat w n).getLsbD x.2 = false) (i : Nat) :
    (BitVec.ofNat w (l.foldl (fun n x => n + bnat x.1 * 2 ^ x.2) n)).getLsbD i
      = ((BitVec.ofNat w n).getLsbD i || l.any fun x => x.1 && decide (i = x.2)) := by
  induction l generalizing n with
  | nil => simp
  | cons x l ih =>
    obtain ⟨hnew, hplaces⟩ := List.nodup_cons.1 hplaces
    have hadd := getLsbD_ofNat_add_bit x.1 (hw x List.mem_cons_self) (hfree x List.mem_cons_self)
    have hrest : ∀ y ∈ l, (BitVec.ofNat w (n + bnat x.1 * 2 ^ x.2)).getLsbD y.2 = false := by
      intro y hy
      have hne : y.2 ≠ x.2 := fun h => hnew (h ▸ List.mem_map_of_mem hy)
      rw [hadd, hfree y (List.mem_cons_of_mem x hy), decide_eq_false hne, Bool.and_false, Bool.or_false]
    rw [List.foldl_cons, ih _ hplaces (fun y hy => hw y (List.mem_cons_of_mem x hy)) hrest, hadd, List.any_cons, Bool.or_assoc]

theorem getLsbD_foldl_add_bit_of_zero {w : Nat} (l : List (Bool × Nat)) (hplaces : (l.map Prod.snd).Nodup) (hw : ∀ x ∈ l, x.2 < w) (i : Nat) :
    (BitVec.ofNat w (l.foldl (fun n x => n + bnat x.1 * 2 ^ x.2) 0)).getLsbD i = l.any fun x => x.1 && decide (i = x.2) := by
  rw [getLsbD_foldl_add_bit l 0 hplaces hw (fun x _ => BitVec.getLsbD_zero) i, BitVec.getLsbD_zero, Bool.false_or]

/-! The set of tags that TGANY and TGFIRST look at (09 R217). -/

/-- A tag of the mask counts: it has failed, or nothing is outstanding under it. -/
def tagCounts (s : State) (cg : Nat) (err : Bool) (n : Nat) : Bool :=
  if err then decide ((tagOf s cg n).err ≠ 0) else decide ((tagOf s cg n).count = 0)

theorem tagSet_eq_filter (s : State) (cg : Nat) (err : Bool) (m : DWord) :
    tagSet s cg err m = (List.range 64).filter fun i => m.getLsbD i && tagCounts s cg err i := by
  rw [tagSet, tagsOf, List.filter_filter]
  exact List.filter_congr fun i _ => Bool.and_comm _ _

theorem maskOf_tagSet (s : State) (cg : Nat) (err : Bool) (m : DWord) :
    BitVec.ofNat 64 ((tagSet s cg err m).foldl (fun n i => n + 2 ^ i) 0)
      = BitVec.ofFnLE (n := 64) fun i => m.getLsbD i.val && tagCounts s cg err i.val := by
  rw [tagSet_eq_filter]
  set l := (List.range 64).filter fun i => m.getLsbD i && tagCounts s cg err i with hl
  have hmem {i : Nat} : i ∈ l ↔ i < 64 ∧ (m.getLsbD i && tagCounts s cg err i) = true := by rw [hl, List.mem_filter, List.mem_range]
  have hsum : l.foldl (fun n i => n + 2 ^ i) 0 = (l.map fun i => (true, i)).foldl (fun n x => n + bnat x.1 * 2 ^ x.2) 0 := by
    simp [List.foldl_map, bnat]
  have hplaces : ((l.map fun i => (true, i)).map Prod.snd).Nodup := by
    rw [List.map_map]
    exact (List.nodup_range.filter _).map fun _ _ h => h
  have hw : ∀ x ∈ l.map fun i => (true, i), x.2 < 64 := by
    rintro x hx
    obtain ⟨i, hi, rfl⟩ := List.mem_map.1 hx
    exact (hmem.1 hi).1
  refine BitVec.eq_of_getLsbD_eq fun i hi => ?_
  rw [hsum, getLsbD_foldl_add_bit_of_zero _ hplaces hw, BitVec.getLsbD_ofFnLE, dif_pos hi, List.any_map, Bool.eq_iff_iff, List.any_eq_true]
  simp only [Function.comp_apply, Bool.true_and, decide_eq_true_eq]
  exact ⟨fun ⟨j, hj, hij⟩ => hij ▸ (hmem.1 hj).2, fun h => ⟨i, hmem.2 ⟨hi, h⟩, rfl⟩⟩

theorem lowest_tagSet (s : State) (cg : Nat) (err : Bool) (m : DWord) :
    (tagSet s cg err m).headD 64 = ((List.range 64).find? fun i => m.getLsbD i && tagCounts s cg err i).getD 64 := by
  rw [tagSet_eq_filter, List.headD_eq_head?_getD, List.head?_filter]

theorem givesResults_tgany (w : Wd) (err : Bool) : givesResults (.tgany w err) w.ctl 6 false fun s ix t =>
    out2 (vNum w.a) (BitVec.ofFnLE (n := 64) fun i => (srcPair s t w.b).getLsbD i.val && tagCounts s ix.cg err i.val) 0 := by
  refine givesResults_of_laneWord _ _ 6 false _ fun s => ?_
  simp only [← maskOf_tagSet]
  rfl

theorem givesResults_tgfirst (w : Wd) (err : Bool) : givesResults (.tgfirst w err) w.ctl 6 false fun s ix t =>
    out1 (vNum w.a) (word (((List.range 64).find? fun i => (srcPair s t w.b).getLsbD i && tagCounts s ix.cg err i).getD 64)) 0 := by
  refine givesResults_of_laneWord _ _ 6 false _ fun s => ?_
  simp only [← lowest_tagSet]
  rfl

/-! Fragments (11 R259, R260). -/

/-- The sum of what is there, as a running sum that passes over the rest. -/
theorem sum_filterMap_eq_foldl {α : Type} (f : α → Option Int) (l : List α) :
    (l.filterMap f).sum = l.foldl (fun x a => x + (f a).getD 0) 0 := by
  suffices h : ∀ x : Int, x + (l.filterMap f).sum = l.foldl (fun x a => x + (f a).getD 0) x by rw [← h 0, zero_add]
  induction l with
  | nil => exact add_zero
  | cons a l ih =>
    intro x
    rw [List.foldl_cons, ← ih, List.filterMap_cons]
    cases f a with
    | none => exact congrArg (· + _) (add_zero x).symm
    | some y => exact (congrArg (x + ·) List.sum_cons).trans (add_assoc _ _ _).symm

/-- The unit that a fragment word keeps busy does not enter its results. -/
theorem givesResults_of_fragWord {i : Instr} {w : Wd} {f : State → Issue → ThreadRef → LaneOut} (h : ∀ s, exec i s = fragWord s w f)
    (hf : ∀ s ps ix t, f { s with w := { s.w with parts := ps } } ix t = f s ix t) : givesResults i w.ctl 16 false f :=
  givesResults_of_busy i w.ctl 16 f (fun s ix p => { p with fragFree := timeOf s ix.cg + 16 }) h hf

/-- Settles O8: what each word gives is the function of one lane in its meaning, but for the set that TGANY and TGFIRST look at and the terms
that VMMA and VMMAI leave out. -/
theorem observingAndFragmentWords : Obligations.ObservingAndFragmentWords := by
  refine ⟨fun w err d => ⟨?cvpos, givesResults_tgany w err, givesResults_tgfirst w err, ?qstat, ?barq, ?targ, ?asq, ?srd, ?clk, ?wtime,
    ?sigrd, ?ctxq⟩, fun w aty tr => ⟨?vmma, ?vmmai, ?vfrag, ?cadj⟩⟩
  case cvpos | qstat | barq | targ | asq | srd | clk | wtime | sigrd | ctxq | vfrag | cadj =>
    exact givesResults_of_laneWord _ _ _ _ _ fun _ => rfl
  case vmma =>
    refine givesResults_of_fragWord (fun s => congrArg (fragWord s w) ?_) fun _ _ _ _ => rfl
    funext s ix t
    refine congrArg (out8 (vNum w.a)) (funext fun m => ?_)
    dsimp only
    congr! 11
    rename_i n _
    generalize fragHalf s (activeOf s ix w.ctl) (vNum w.b) (laneOf t.tid % 16) n = x
    generalize fragHalf s (activeOf s ix w.ctl) (vNum w.c) (8 * (laneOf t.tid / 16) + m) n = y
    cases x with
    | none => rfl
    | some a => cases y <;> rfl
  case vmmai =>
    refine givesResults_of_fragWord (fun s => congrArg (fragWord s w) ?_) fun _ _ _ _ => rfl
    funext s ix t
    refine congrArg (out8 (vNum w.a)) (funext fun m => ?_)
    simp only [sum_filterMap_eq_foldl]
    congr! 3
    funext z n
    generalize fragByte s (activeOf s ix w.ctl) (vNum w.b) (laneOf t.tid % 16) n = x
    generalize fragByte s (activeOf s ix w.ctl) (vNum w.c) (8 * (laneOf t.tid / 16) + m) n = y
    cases x with
    | none => exact (add_zero z).symm
    | some a =>
      cases y with
      | none => exact (add_zero z).symm
      | some b => rfl

end Sys2Proof.Machine

/-! The messages that reach memory, and launch messages (24 R389-R395; 05 R91; 08 R180, R190, R191). -/

namespace Sys2Proof.Machine

-- One proof after the other: the check's memory limit counts the stack of every thread that elaborates a proof.
set_option Elab.async false

section

variable {s b d : State} {a n va : Nat} {bs : List Byte} {l : List (Nat × Nat × Target)} {c : BitVec 8}

/-! Host accesses, by the pieces that were reached and the failure that ended them. -/

/-- Lines of a host access, each with the bytes it takes, as its stamps name them. -/
def linesOfPieces (l : List (Nat × Nat × Target)) : List (Nat × Nat) := l.map fun p => (targetLine p.2.2, p.2.1)

/-- The bytes that the pieces of a host read have in a state. -/
def bytesOfPieces (s : State) (l : List (Nat × Nat × Target)) : List Byte := l.flatMap fun p => readTarget s p.2.2 p.2.1

theorem map_fst_ne_zero (hc : c ≠ 0) : (some (c, va)).map Prod.fst ≠ some 0 := fun h => hc (Option.some.inj h)

theorem hostWrite_of_pieces {done : State → Option (BitVec 8 × Nat) → State} {e : Option (BitVec 8 × Nat)}
    (hpieces : hostPieces s a bs.length .write = (b, l, e)) (he : e.map Prod.fst ≠ some 0)
    (hstamp : stampHost b (linesOfPieces l) = (d, true)) : hostWrite s a bs done = done (hostWritePieces d a l bs) e := by
  rw [linesOfPieces] at hstamp
  rw [hostWrite, hpieces]
  simp only [if_neg he, hstamp]

theorem hostRead_of_pieces {done : State → List Byte → Option (BitVec 8 × Nat) → State} {e : Option (BitVec 8 × Nat)}
    (hpieces : hostPieces s a n .read = (b, l, e)) (he : e.map Prod.fst ≠ some 0) : hostRead s a n done = done b (bytesOfPieces b l) e := by
  rw [hostRead, hpieces]
  simp only [if_neg he]
  rfl

/-! WRITE and READ. -/

theorem execWrite_malformed (h : admitted s false) (hbad : s.rx.addr.toNat % 8 ≠ 0 ∨ s.rx.payload = []) :
    execWrite s = .next (answered s 3 0 []) := by
  refine gate_of_malformed h ?_
  rcases hbad with halign | hempty
  · rw [decide_eq_false halign, Bool.false_and]
  · rw [hempty, List.isEmpty_nil, Bool.not_true, Bool.and_false]

theorem execWrite_eq (h : admitted s false) (halign : s.rx.addr.toNat % 8 = 0) (hne : s.rx.payload ≠ []) :
    execWrite s = .next (hostWrite s s.rx.addr.toNat s.rx.payload (accessDone [])) := by
  refine gate_of_admitted h ?_
  rw [decide_eq_true halign, List.isEmpty_eq_false_iff.2 hne]
  rfl

theorem payLen_of_length (hlen : s.rx.payload.length = n) : payLen s n = true := decide_eq_true hlen

theorem execRead_malformed (h : admitted s false) (hbad : s.rx.addr.toNat % 8 ≠ 0 ∨ s.rx.payload.length ≠ 8 ∨ payNat s 0 8 = 0
    ∨ payNat s 0 8 % 8 ≠ 0 ∨ 65536 < payNat s 0 8) : execRead s = .next (answered s 3 0 []) := by
  unfold execRead
  refine gate_of_malformed h (Bool.eq_false_iff.2 fun hok => ?_)
  simp only [payLen, Bool.and_eq_true, decide_eq_true_eq] at hok
  omega

theorem execRead_eq (h : admitted s false) (halign : s.rx.addr.toNat % 8 = 0) (hlen : s.rx.payload.length = 8) (hpos : 0 < payNat s 0 8)
    (hmul : payNat s 0 8 % 8 = 0) (hle : payNat s 0 8 ≤ 65536) :
    execRead s = .next (hostRead s s.rx.addr.toNat (payNat s 0 8) fun s bs e => accessDone bs s e) := by
  unfold execRead
  refine gate_of_admitted h ?_
  simp only [payLen, halign, hlen, hmul, hle, hpos.ne', ne_eq, not_false_eq_true, decide_true, Bool.and_true]

/-! Flushes. -/

theorem execFlushData_eq (h : admitted s false) (hlen : s.rx.payload.length = 8) :
    execFlushData s = .next (if sessionWaits s then holdMsg s else accessDone [] s (flushFails s)) :=
  gate_of_admitted h (payLen_of_length hlen)

theorem execFlushDataAndTlb_of_noSpace (h : admitted s false) (hlen : s.rx.payload.length = 8) (hspace : rxSpace s = none) :
    execFlushDataAndTlb s = .next (if sessionWaits s then holdMsg s else accessDone [] s (flushFails s)) := by
  rw [execFlushDataAndTlb, gate_of_admitted h (payLen_of_length hlen)]
  simp only [hspace]

theorem execFlushDataAndTlb_of_space {sp : Nat} (h : admitted s false) (hlen : s.rx.payload.length = 8) (hspace : rxSpace s = some sp)
    (hwaits : sessionWaits (dropTranslations (reclaimTraces s sp s.rx.addr.toNat (payNat s 0 8)) sp s.rx.addr.toNat (payNat s 0 8)) = false)
    (hbusy : rangeBusy (dropTranslations (reclaimTraces s sp s.rx.addr.toNat (payNat s 0 8)) sp s.rx.addr.toNat (payNat s 0 8)) sp
      s.rx.addr.toNat (payNat s 0 8) = false) :
    execFlushDataAndTlb s
      = .next (respond (dropTranslations (reclaimTraces s sp s.rx.addr.toNat (payNat s 0 8)) sp s.rx.addr.toNat (payNat s 0 8)) 0 0 []) := by
  rw [execFlushDataAndTlb, gate_of_admitted h (payLen_of_length hlen)]
  simp only [hspace, hwaits, hbusy, Bool.or_self, Bool.false_eq_true, if_false]

/-- A session's data flush, of either message, where nothing is before it. -/
theorem execFlush_of_idle {i : Instr} (h : admitted s false) (hi : i ∈ [Instr.flushData, .flushDataAndTlb])
    (hplain : i = .flushData ∨ rxSpace s = none) (hlen : s.rx.payload.length = 8) (hwaits : sessionWaits s = false) :
    exec i s = .next (accessDone [] s (flushFails s)) := by
  have hidle : (if sessionWaits s then holdMsg s else accessDone [] s (flushFails s)) = accessDone [] s (flushFails s) := by
    rw [hwaits, if_neg Bool.false_ne_true]
  fin_cases hi
  · exact (execFlushData_eq h hlen).trans (congrArg _ hidle)
  · have hspace := hplain.resolve_left (by rintro ⟨⟩)
    exact (execFlushDataAndTlb_of_noSpace h hlen hspace).trans (congrArg _ hidle)

theorem flushFails_of_fits (h : (rxSpace s).isSome = true
    ∨ (s.rx.addr.toNat < Config.dramTop ∧ s.rx.addr.toNat + payNat s 0 8 ≤ Config.dramTop)) : flushFails s = none := by
  refine if_neg fun hbad => ?_
  rw [Bool.and_eq_true, decide_eq_true_eq, Option.isNone_iff_eq_none] at hbad
  obtain ⟨hnone, hrange⟩ := hbad
  rw [hnone] at h
  simp only [Option.isSome_none, Bool.false_eq_true, false_or] at h
  omega

theorem flushFails_of_passes (hnone : rxSpace s = none)
    (h : Config.dramTop ≤ s.rx.addr.toNat ∨ Config.dramTop < s.rx.addr.toNat + payNat s 0 8) :
    flushFails s = some (0x06, Nat.max s.rx.addr.toNat Config.dramTop) := by
  refine if_pos ?_
  rw [hnone, decide_eq_true h]
  rfl

/-! The window (log 49). -/

/-- Stamping an access leaves the message in the receive register. -/
theorem homeWrite_rx (s : State) (own : Option Nat) (pa : Nat) (bs : List Byte) : (homeWrite s own pa bs).rx = s.rx := by
  unfold homeWrite
  dsimp only
  split <;> rfl

theorem appendLog_rx (s : State) (r : LogRec) : (appendLog s r).rx = s.rx := by
  rw [appendLog_eq]
  split
  · split <;> rfl
  · show (logWrite (metAgain s r) r).rx = s.rx
    rw [logWrite, homeWrite_rx]
    rfl

theorem stampHostOne_rx (s : State) (line n : Nat) : (stampHostOne s line n).1.rx = s.rx := by
  unfold stampHostOne
  split
  · rfl
  · extract_lets +onlyGivenNames c
    split
    · rfl
    · exact appendLog_rx s _

theorem stampHost_rx (s : State) (l : List (Nat × Nat)) : (stampHost s l).1.rx = s.rx := by
  unfold stampHost
  dsimp only
  split
  · refine foldl_keeps (g := fun r : State × Bool => r.1.rx) (fun r x => ?_) l (s, true)
    split
    · exact stampHostOne_rx r.1 x.1 x.2
    · rfl
  · rfl

theorem windowWord_malformed {k : State → Nat → Nat → State} (h : admitted s false) (hbad : connOrdered s.rx.conn = false
    ∨ s.rx.payload.length ≠ n ∨ s.rx.addr.toNat % 4 ≠ 0 ∨ Config.windowSize ≤ s.rx.addr.toNat) :
    windowWord s n k = .next (answered s 3 0 []) := by
  unfold windowWord
  refine gate_of_malformed h (Bool.eq_false_iff.2 fun hok => ?_)
  simp only [payLen, Bool.and_eq_true, decide_eq_true_eq] at hok
  obtain ⟨⟨⟨hordered, hlen⟩, halign⟩, hsize⟩ := hok
  rw [hordered] at hbad
  simp only [Bool.true_eq_false, false_or] at hbad
  omega

theorem windowWord_of_stamped {k : State → Nat → Nat → State} (h : admitted s false) (hordered : connOrdered s.rx.conn = true)
    (hlen : s.rx.payload.length = n) (halign : s.rx.addr.toNat % 4 = 0) (hsize : s.rx.addr.toNat < Config.windowSize)
    (hstamp : stampHost s [(clockLine true s.rx.addr.toNat, n)] = (b, true)) :
    windowWord s n k = .next (k b s.rx.addr.toNat (memNat b.w.window s.rx.addr.toNat 4)) := by
  rw [windowWord, gate_of_admitted h (by simp only [payLen, hordered, hlen, halign, hsize, decide_true, Bool.and_true])]
  simp only [hstamp]

/-- A window message that writes takes its number from the payload that came. -/
theorem payNat_of_stamped {x : List (Nat × Nat)} (hstamp : stampHost s x = (b, true)) (off k : Nat) : payNat b off k = payNat s off k := by
  have hrx := stampHost_rx s x
  rw [hstamp] at hrx
  rw [payNat, hrx, payNat]

/-- A window message: malformed it is refused, else it answers with the old value `old` and, if it has a payload, puts `v old` in its place. -/
theorem exec_of_windowWord {i : Instr} {k : State → Nat → Nat → State} (v : Nat → Nat) (h : admitted s false)
    (hexec : exec i s = windowWord s n k) (hk : ∀ b, stampHost s [(clockLine true s.rx.addr.toNat, n)] = (b, true) → ∀ old,
      k b s.rx.addr.toNat old
        = respond (if n = 0 then b else modWindow b fun m => memWriteN m s.rx.addr.toNat (bytesOfNat 4 (v old))) 0 old []) :
    (connOrdered s.rx.conn = false ∨ s.rx.payload.length ≠ n ∨ s.rx.addr.toNat % 4 ≠ 0 ∨ Config.windowSize ≤ s.rx.addr.toNat →
      exec i s = .next (answered s 3 0 []))
    ∧ (connOrdered s.rx.conn = true → s.rx.payload.length = n → s.rx.addr.toNat % 4 = 0 → s.rx.addr.toNat < Config.windowSize → ∀ b,
      stampHost s [(clockLine true s.rx.addr.toNat, n)] = (b, true) →
      let old := memNat b.w.window s.rx.addr.toNat 4
      exec i s = .next
        (respond (if n = 0 then b else modWindow b fun m => memWriteN m s.rx.addr.toNat (bytesOfNat 4 (v old))) 0 old [])) := by
  refine ⟨fun hbad => hexec.trans (windowWord_malformed h hbad), fun hordered hlen halign hsize b hstamp => ?_⟩
  exact (hexec.trans (windowWord_of_stamped h hordered hlen halign hsize hstamp)).trans (congrArg _ (hk b hstamp _))

theorem exec_windowRead (s : State) : exec .windowRead s = windowWord s 0 fun s _ old => respond s 0 old [] := rfl

theorem exec_windowWrite (s : State) : exec .windowWrite s
    = windowWord s 8 fun s off old => respond (windowPut s off (payNat s 0 4)) 0 old [] := rfl

theorem exec_windowFetchAdd (s : State) : exec .windowFetchAdd s
    = windowWord s 8 fun s off old => respond (windowPut s off ((old + payNat s 0 4) % 2 ^ 32)) 0 old [] := rfl

/-! Records for the launch engine. -/

/-- The record of the message, as the launch engine takes it. -/
def submitOfMessage (s : State) (sp : Nat) : Submit :=
  { record := s.rx.payload, space := sp, sess := ((rxSession s).map fun x => x.serial).getD 0, priv := rxManagement s, parent := none,
    parentSerial := 0, answer := .message s.rx.conn s.rx.tag }

theorem execLaunchMessage_malformed (h : admitted s false) (hlen : s.rx.payload.length ≠ 1024) :
    execLaunchMessage s = .next (answered s 3 0 []) :=
  gate_of_malformed h (decide_eq_false hlen)

theorem execLaunchMessage_of_space {sp : Nat} (h : admitted s false) (hlen : s.rx.payload.length = 1024) (hspace : rxSpace s = some sp) :
    execLaunchMessage s = .next { s with w := { s.w with submits := s.w.submits ++ [submitOfMessage s sp] } } := by
  rw [execLaunchMessage, gate_of_admitted h (payLen_of_length hlen)]
  simp only [hspace]
  rfl

/-! Peer access (log 65). -/

theorem execCopyToPeer_of_pieces (h : admitted s false) (hlen : s.rx.payload.length = 24)
    (hpieces : hostPieces s s.rx.addr.toNat (payNat s 16 8) .read = (b, l, none)) (hreplay : b.replay = none) (hne : bytesOfPieces b l ≠ []) :
    execCopyToPeer s
      = .next (respond { b with peerOut := b.peerOut ++ [(payNat b 0 8, payNat b 8 8, bytesOfPieces b l)] } 0 0 []) := by
  rw [execCopyToPeer, gate_of_admitted h (payLen_of_length hlen), hostRead_of_pieces hpieces (by rintro ⟨⟩), hreplay,
    List.isEmpty_eq_false_iff.2 hne]
  rfl

/-- The bytes that a peer's memory holds, free (log 7). -/
def peerBytes (s : State) : List Byte := (List.range (payNat s 16 8)).map fun i => Config.peerByte s.fresh i

theorem execCopyFromPeer_of_pieces (h : admitted s false) (hlen : s.rx.payload.length = 24)
    (hpieces : hostPieces { s with fresh := s.fresh + 1 } s.rx.addr.toNat (payNat s 16 8) .write = (b, l, none))
    (hstamp : stampHost b (linesOfPieces l) = (d, true)) :
    execCopyFromPeer s = .next (respond (hostWritePieces d s.rx.addr.toNat l (peerBytes s)) 0 0 []) := by
  have hbytes : (peerBytes s).length = payNat s 16 8 := by rw [peerBytes, List.length_map, List.length_range]
  rw [← hbytes] at hpieces
  rw [execCopyFromPeer, gate_of_admitted h (payLen_of_length hlen)]
  exact congrArg _ (hostWrite_of_pieces (done := accessDone []) hpieces (by rintro ⟨⟩) hstamp)

end

/-- Settles O51: each message by what is said of it, behind the gate that all of them pass. -/
theorem hostAccessMessages : Obligations.HostAccessMessages := by
  intro s h a n lines code window
  have hread : window .windowRead 0 (fun old => old) := exec_of_windowWord (fun old => old) h (exec_windowRead s) fun _ _ _ => rfl
  have hwrite : window .windowWrite 8 (fun _ => payNat s 0 4) :=
    exec_of_windowWord (fun _ => payNat s 0 4) h (exec_windowWrite s) fun b hstamp old => by
    rw [payNat_of_stamped hstamp]
    rfl
  have hadd : window .windowFetchAdd 8 (fun old => (old + payNat s 0 4) % 2 ^ 32) :=
    exec_of_windowWord (fun old => (old + payNat s 0 4) % 2 ^ 32) h (exec_windowFetchAdd s) fun b hstamp old => by
      rw [payNat_of_stamped hstamp]
      rfl
  refine ⟨execWrite_malformed h, fun b l halign hne hpieces d hstamp => ?write, fun b l c va halign hne hpieces hc d hstamp => ?writeFails,
    execRead_malformed h, fun halign hlen hpos hmul hle => ⟨fun b l hpieces => ?read, fun b l c va hpieces hc => ?readFails⟩,
    fun hlen hwaits i hi hplain => ⟨fun hfits => ?flush, fun hnone hpasses => ?flushFails⟩, fun hlen hwaits => ?flushWaits,
    fun sp hlen hspace hwaits => execFlushDataAndTlb_of_space h hlen hspace,
    hread, hwrite, hadd,
    execLaunchMessage_malformed h, fun sp hlen hspace =>
      ⟨submitOfMessage s sp, rfl, rfl, rfl, rfl, rfl, execLaunchMessage_of_space h hlen hspace⟩,
    fun b l hlen hpieces hreplay => execCopyToPeer_of_pieces h hlen hpieces hreplay,
    fun b l hlen hpieces d hstamp => execCopyFromPeer_of_pieces h hlen hpieces hstamp⟩
  case write => exact (execWrite_eq h halign hne).trans (congrArg _ (hostWrite_of_pieces hpieces (by rintro ⟨⟩) hstamp))
  case writeFails => exact (execWrite_eq h halign hne).trans (congrArg _ (hostWrite_of_pieces hpieces (map_fst_ne_zero hc) hstamp))
  case read => exact (execRead_eq h halign hlen hpos hmul hle).trans (congrArg _ (hostRead_of_pieces hpieces (by rintro ⟨⟩)))
  case readFails => exact (execRead_eq h halign hlen hpos hmul hle).trans (congrArg _ (hostRead_of_pieces hpieces (map_fst_ne_zero hc)))
  case flush =>
    rw [execFlush_of_idle h hi hplain hlen hwaits, flushFails_of_fits hfits]
    rfl
  case flushFails =>
    rw [execFlush_of_idle h hi hplain hlen hwaits, flushFails_of_passes hnone hpasses]
    rfl
  case flushWaits =>
    refine (execFlushData_eq h hlen).trans ?_
    rw [hwaits]
    rfl

end Sys2Proof.Machine

/-! The words of tasks, counters and launches (05 R98, R104-R108; 20 R353). -/

namespace Sys2Proof.Machine

-- One proof after the other: the check's memory limit counts the stack of every thread that elaborates a proof.
set_option Elab.async false

section

variable {s : State} {ix : Issue} {t : ThreadRef}

/-- A word made of lanes that make their step, in one state. -/
theorem exec_of_lanes {i : Instr} {c : Ctl} {f : Issue → State → ThreadRef → State × Option Trap} {lane : State → ThreadRef → State → Prop}
    {e : State} (h : exec i s = actWord s c f) (hix : s.issue = some ix)
    (hl : ∀ a t b, lane a t b → f ix a t = (b, none) ∨ ∃ a' x, f ix a t = (a', some x) ∧ x.again = none ∧ b = trapAt a' ix t.tid x)
    (hL : Lanes lane s (activeOf s ix c) e) : exec i s = .next (retire (acceptFlags s e ix c) ix c) := by
  rw [h, actWord, hix]
  simp only [actLanes_of_lanes ix (f ix) lane hl s e _ hL]

/-- A word whose lanes read their operands from the state in which it issues. -/
theorem actsByLane_of_actWord_fixed (i : Instr) (c : Ctl) (f : State → Issue → State → ThreadRef → State × Option Trap)
    (lane : State → Issue → State → ThreadRef → State → Prop) (h : ∀ s, exec i s = actWord s c (f s))
    (hl : ∀ s ix a t b, lane s ix a t b →
      f s ix a t = (b, none) ∨ ∃ a' x, f s ix a t = (a', some x) ∧ x.again = none ∧ b = trapAt a' ix t.tid x) : actsByLane i c lane :=
  fun s ix _ hix hL => exec_of_lanes (h s) hix (hl s ix) hL

/-! Counters (05 R98, R104, R107). -/

theorem counterOf_register (n : BitVec 8) (f g : Bool) : counterOf s ix t (.v n f g) =
    if (s.launch ix.lid).lr.dccnt ≤ (regOf s t n.toNat).toNat then .error (plainTrap 0x07 (regOf s t n.toNat).toNat)
    else .ok (regOf s t n.toNat).toNat := rfl

theorem dcGet_dcPut (s : State) (lid dg n : Nat) (x : Counter) : dcGet (dcPut s lid dg n x) lid dg n = x := by
  have hdie : (dcPut s lid dg n x).die ((s.launch lid).dies.getD dg 0) = { s.die ((s.launch lid).dies.getD dg 0) with
      counters := tput (s.die ((s.launch lid).dies.getD dg 0)).counters (dcSlot s lid dg n) x } := by
    rw [dcPut, die_modDie, if_pos rfl]
  calc dcGet (dcPut s lid dg n x) lid dg n
    _ = tget ((dcPut s lid dg n x).die ((s.launch lid).dies.getD dg 0)).counters (dcSlot s lid dg n) { value := 0, err := false } := rfl
    _ = x := by rw [hdie, tget_tput_same]

/-- A change of a launch read back through a function of the launch that the change leaves alone. -/
theorem launch_modLaunch_frame {β : Type} (g : Launch → β) (s : State) (lid l : Nat) {f : Launch → Launch} (h : ∀ x, g (f x) = g x) :
    g ((modLaunch s lid f).launch l) = g (s.launch l) := by
  simp only [State.launch, tget, modLaunch, tget?_tmod]
  split_ifs
  · cases tget? s.w.launches l with
    | none => rfl
    | some x => exact h x
  · rfl

theorem dcGet_dcRelease (s : State) (lid dg n : Nat) : dcGet (dcRelease s lid dg n) lid dg n = dcGet s lid dg n := by
  have hdies : ((dcRelease s lid dg n).launch lid).dies = (s.launch lid).dies :=
    launch_modLaunch_frame (·.dies) { s with w := { s.w with nextId := _ } } lid lid fun _ => rfl
  have hbase : ((dcRelease s lid dg n).launch lid).dcBase = (s.launch lid).dcBase :=
    launch_modLaunch_frame (·.dcBase) { s with w := { s.w with nextId := _ } } lid lid fun _ => rfl
  have hdie (d : Nat) : (dcRelease s lid dg n).die d = s.die d := rfl
  rw [dcGet, dcSlot, hdies, hbase, hdie]
  rfl

theorem dcGet_dcNew (s : State) (lid dg n v : Nat) : dcGet (dcNew s lid dg n v) lid dg n
    = if 65535 < v then { value := 65535, err := true } else { dcGet s lid dg n with value := v } := by
  have hrelease (a : State) : dcGet (if v = 0 then dcRelease a lid dg n else a) lid dg n = dcGet a lid dg n := by
    split_ifs
    · exact dcGet_dcRelease a lid dg n
    · rfl
  rw [dcNew, hrelease]
  split_ifs <;> exact dcGet_dcPut ..

theorem dcGet_dcDec (s : State) (lid dg n v : Nat) : dcGet (dcDec s lid dg n v) lid dg n
    = if v = 0 then dcGet s lid dg n else if (dcGet s lid dg n).value < v then { value := 0, err := true }
      else { dcGet s lid dg n with value := (dcGet s lid dg n).value - v } := by
  have hrelease (y : Counter) :
      dcGet (if y.value = 0 then dcRelease (dcPut s lid dg n y) lid dg n else dcPut s lid dg n y) lid dg n = y := by
    split_ifs
    · rw [dcGet_dcRelease, dcGet_dcPut]
    · exact dcGet_dcPut ..
  unfold dcDec
  by_cases hv : v = 0
  · rw [if_pos hv, if_pos hv]
  · rw [if_neg hv, if_neg hv]
    exact hrelease _

/-- A counter word: each of its lanes has a counter and gives its operation, or traps. -/
theorem actsByLane_of_counterWord {i : Instr} {w : Wd} {o : Opd} {lat : Nat} {dst : Option Nat} {op : Nat → Word → TaskOp}
    {lane : State → Issue → State → ThreadRef → State → Prop} (h : ∀ s, exec i s = counterWord s w o lat dst op)
    (hl : ∀ s ix a t b, lane s ix a t b →
      (∃ n, counterOf s ix t o = .ok n ∧ b = giveTask a ix w.ctl t (op n (srcWord s t w.b)) 0 lat dst)
      ∨ ∃ tr, counterOf s ix t o = .error tr ∧ tr.again = none ∧ b = trapAt a ix t.tid tr) : actsByLane i w.ctl lane := by
  refine actsByLane_of_actWord_fixed _ _ _ _ h fun s ix a t b hlane => ?_
  rcases hl s ix a t b hlane with ⟨n, hn, rfl⟩ | ⟨tr, htr, hagain, rfl⟩
  · exact .inl (by rw [hn])
  · exact .inr ⟨a, tr, by rw [htr], hagain, rfl⟩

end

/-- Settles O38: the words lane by lane, and what a counter holds once it is set and its tasks are released. -/
theorem taskWords : Obligations.TaskWords := by
  intro w q c ea reads counter
  have counts (i : Instr) (o : Opd) (lat : Nat) (dst : Option Nat) (op : Nat → Word → TaskOp)
      (hi : ∀ s, exec i s = counterWord s w o lat dst op) : counter i o lat dst op := by
    refine actsByLane_of_counterWord hi fun s ix a t b hlane => ?_
    cases o with
    | v r f g =>
      dsimp only at hlane
      rw [counterOf_register]
      by_cases hcount : (s.launch ix.lid).lr.dccnt ≤ (regOf s t r.toNat).toNat
      · rw [if_pos ⟨⟨r, f, g, rfl⟩, hcount⟩] at hlane
        exact .inr ⟨_, if_pos hcount, rfl, hlane⟩
      · rw [if_neg fun h => hcount h.2] at hlane
        exact .inl ⟨_, if_neg hcount, hlane⟩
    | _ =>
      dsimp only at hlane
      rw [if_neg fun ⟨⟨_, _, _, h⟩, _⟩ => nomatch h] at hlane
      exact .inl ⟨_, rfl, hlane⟩
  have hnew := counts (.dcnew w) w.a 0 none (fun n v => .dcnew n v.toNat) fun s => show execDcnew w s = _ from rfl
  have hdec := counts (.dcdec w) w.a 0 none (fun n v => .dcdec n v.toNat) fun s => show execDcdec w s = _ from rfl
  have hq := counts (.dcq w) w.b 32 (some (vNum w.a)) (fun n _ => .dcq n) fun s => show execDcq w s = _ from rfl
  refine ⟨?tenq, hnew, hdec, hq, ?launch, ?mutl, fun s t va n k h => ⟨if_pos h, if_pos h⟩,
    fun s lid dg n v _ => ⟨dcGet_dcNew s lid dg n v, dcGet_dcDec s lid dg n v⟩⟩
  case tenq =>
    refine actsByLane_of_actWord_fixed _ _ _ _ (fun _ => rfl) fun s ix a t b => ?_
    rw [show ea s t = effAddr s t w.b w.c from rfl]
    rcases readDesc a t (effAddr s t w.b w.c) 64 64 with ⟨x, tr | bs⟩
    · exact fun h => .inr ⟨x, tr, rfl, h⟩
    · exact fun h => .inl (congrArg (·, none) h.symm)
  case launch =>
    refine actsByLane_of_actWord_fixed _ _ _ _ (fun _ => rfl) fun s ix a t b => ?_
    rw [show ea s t = effAddr s t w.b w.c from rfl]
    rcases readDescAcq (acquireActions a ix.core .dev) t (effAddr s t w.b w.c) 128 1024 with ⟨x, tr | bs⟩
    · exact fun h => .inr ⟨x, tr, rfl, h⟩
    · exact fun h => .inl (congrArg (·, none) h.symm)
  case mutl =>
    refine actsByLane_of_actWord_fixed _ _ _ _ (fun _ => rfl) fun s ix a t b => ?_
    rw [show ea s t = effAddr s t w.b w.c from rfl]
    rcases readDescAcq (acquireActions a ix.core .dev) t (effAddr s t w.b w.c) 128 128 with ⟨x, tr | d⟩
    · exact fun h => .inr ⟨x, tr, rfl, h⟩
    · dsimp only [reads]
      split_ifs
      · exact fun h => .inl (congrArg (·, none) h.symm)
      · rcases readNowAcq x t (fieldAt d 24 8) 1024 with ⟨z, tr | r⟩
        · exact fun h => .inr ⟨z, tr, rfl, h⟩
        · exact fun h => .inl (congrArg (·, none) h.symm)

end Sys2Proof.Machine

/-! The launches' records, which no trap and no access of a thread changes (05 R94, R97). -/

namespace Sys2Proof.Machine

-- One proof after the other: the check's memory limit counts the stack of every thread that elaborates a proof.
set_option Elab.async false

/-- The record of each launch of a table. -/
def recordsOf (launches : Tab Launch) (l : Nat) : LaunchRec := (tget launches l Launch.none).lr

/-- The records that the launches have been made of, and the number of the next launch. -/
def bindings (s : State) : (Nat → LaunchRec) × Nat := (recordsOf s.w.launches, s.nextSerial)

theorem lr_of_bindings {s t : State} (h : bindings t = bindings s) (l : Nat) : (t.launch l).lr = (s.launch l).lr :=
  congrFun (congrArg Prod.fst h) l

section

variable (s : State)

theorem bindings_modDie (k : Nat) (f : Die → Die) : bindings (modDie s k f) = bindings s := rfl
theorem bindings_modThread (t : ThreadRef) (f : Thread → Thread) : bindings (modThread s t f) = bindings s := rfl
theorem bindings_modEng (k : Nat) (f : Engine → Engine) : bindings (modEng s k f) = bindings s := rfl
theorem bindings_modFrames (pa n : Nat) (f : Memory → Memory) : bindings (modFrames s pa n f) = bindings s := rfl
theorem bindings_modWindow (f : Memory → Memory) : bindings (modWindow s f) = bindings s := rfl

/-- A launch's other fields may change. -/
theorem bindings_modLaunch (lid : Nat) {f : Launch → Launch} (h : ∀ x, (f x).lr = x.lr) : bindings (modLaunch s lid f) = bindings s :=
  Prod.ext (funext fun l => launch_modLaunch_frame (·.lr) s lid l h) rfl

/-! Memory. -/

theorem bindings_homeWrite (own : Option Nat) (pa : Nat) (bs : List Byte) : bindings (homeWrite s own pa bs) = bindings s := by
  unfold homeWrite
  exact ite_keeps rfl rfl

theorem bindings_l2Fill (low : Bool) (die n : Nat) : bindings (l2Fill low s die n).1 = bindings s := by
  unfold l2Fill
  split <;> rfl

theorem bindings_l1Line (core n : Nat) : bindings (l1Line s core n).1 = bindings s := by
  unfold l1Line
  split
  · rfl
  · exact bindings_l2Fill ..

theorem bindings_cacheLoad (core pa n : Nat) (nc : Bool) : bindings (cacheLoad s core pa n nc).1 = bindings s := by
  grind [cacheLoad, bindings_l1Line]

theorem bindings_homeOpLines (core pa : Nat) : bindings (homeOpLines s core pa) = bindings s := rfl

theorem bindings_homeStore (core : Nat) (parts : List (Nat × List Byte)) : bindings (homeStore s core parts) = bindings s := by
  refine foldl_keeps (g := bindings) (fun a p => ?_) parts s
  exact (bindings_homeOpLines ..).trans (bindings_homeWrite ..)

theorem bindings_sendHome (die space lid va : Nat) (stamps : List ThreadRef) (parts : List (Nat × List Byte)) :
    bindings (sendHome s die space lid va stamps parts) = bindings s := by
  unfold sendHome
  split
  · rfl
  · refine ite_keeps (foldl_keeps (g := bindings) (fun a p => ?_) _ s) rfl
    exact bindings_homeWrite ..

theorem bindings_cacheStore (core space lid va : Nat) (low : Bool) (stamps : List ThreadRef) (parts : List (Nat × List Byte)) :
    bindings (cacheStore s core space lid va low stamps parts) = bindings s := by
  unfold cacheStore
  split
  · rfl
  · exact (bindings_sendHome ..).trans ((bindings_modDie ..).trans (bindings_l2Fill ..))

theorem bindings_countAccess (core va type lid : Nat) (win : Bool) : bindings (countAccess s core va type lid win) = bindings s := by
  unfold countAccess
  exact ite_keeps rfl rfl

theorem bindings_countLine (core va type lid : Nat) (win : Bool) : bindings (countLine s core va type lid win) = bindings s := by
  unfold countLine
  split
  · exact bindings_countAccess ..
  · exact ite_keeps rfl (bindings_countAccess ..)

/-! Walks and fills. -/

theorem bindings_countWalk (made : Option (Nat × Nat)) (va : Nat) : bindings (countWalk s made va) = bindings s := by
  unfold countWalk
  split
  · rfl
  · exact bindings_countAccess ..

theorem bindings_tableLine (die n : Nat) : bindings (tableLine s die n).1 = bindings s := by
  grind [tableLine, l2Line, bindings_l2Fill]

theorem bindings_walkFrom (levels : List (Nat × Nat × Bool × Bool × Bool × Nat × Nat)) (die : Nat) (made : Option (Nat × Nat))
    (table va : Nat) : bindings (walkFrom levels s die made table va).1 = bindings s := by
  induction levels generalizing s table with
  | nil => rfl
  | cons x levels ih =>
    unfold walkFrom
    grind [bindings_tableLine, bindings_countWalk]

theorem bindings_walkDie (die : Nat) (made : Option (Nat × Nat)) (space va : Nat) :
    bindings (walkDie s die made space va).1 = bindings s := by
  unfold walkDie
  split
  · rfl
  · exact bindings_walkFrom ..

theorem bindings_fillCoreTlb (core : Nat) (e : TlbEntry) : bindings (fillCoreTlb s core e) = bindings s := rfl

theorem bindings_fillDieTlb (die : Nat) (e : TlbEntry) : bindings (fillDieTlb s die e) = bindings s := rfl

theorem bindings_setAccessed (pte : Nat) : bindings (setAccessed s pte) = bindings s := bindings_homeWrite ..

theorem bindings_walkFill (core space va : Nat) (need : Need) : bindings (walkFill s core space va need).1 = bindings s := by
  unfold walkFill walk
  grind [bindings_walkDie, bindings_fillCoreTlb, bindings_fillDieTlb, bindings_setAccessed]

theorem bindings_translate (core space a : Nat) (need : Need) : bindings (translate s core space a need).1 = bindings s := by
  unfold translate
  grind [bindings_fillCoreTlb, bindings_walkFill]

theorem bindings_takeFrame (fuel die : Nat) : bindings (takeFrame fuel s die).1 = bindings s := by
  induction fuel generalizing s with
  | zero => rfl
  | succ k ih =>
    unfold takeFrame
    grind [bindings_modDie]

theorem bindings_fillLeaf (pte frame : Nat) (nc x w r : Bool) : bindings (fillLeaf s pte frame nc x w r) = bindings s :=
  bindings_homeWrite ..

theorem bindings_reportShortage (die : Nat) : bindings (reportShortage s die) = bindings s := by
  unfold reportShortage raiseEvent
  exact ite_keeps rfl ((bindings_modDie ..).trans (ite_keeps rfl rfl))

theorem bindings_walkerFill (die space va pte : Nat) (nc x w r busy : Bool) :
    bindings (walkerFill s die space va pte nc x w r busy).1 = bindings s := by
  unfold walkerFill
  grind [bindings_takeFrame, bindings_fillLeaf, bindings_reportShortage, bindings_homeWrite, bindings_modDie]

theorem bindings_demandFill (core space a : Nat) : bindings (demandFill s core space a).1 = bindings s := by
  unfold demandFill walk
  grind [bindings_walkDie, bindings_walkerFill]

theorem bindings_unitTranslate (die space a : Nat) (need : Need) : bindings (unitTranslate s die space a need).1 = bindings s := by
  unfold unitTranslate
  grind [bindings_walkDie, bindings_walkerFill, bindings_fillDieTlb, bindings_setAccessed]

/-! The accesses of a thread that a word makes at once. -/

theorem bindings_keepPage (va : Nat) (need : Need) (t : Target) : bindings (keepPage s va need t) = bindings s := rfl

theorem bindings_translateOnce (core space va : Nat) (need : Need) : bindings (translateOnce s core space va need).1 = bindings s := by
  unfold translateOnce
  grind [bindings_translate, bindings_keepPage]

theorem bindings_checkAccess (pg va n : Nat) (need : Need) (locked : Bool) :
    bindings (checkAccess s pg va n need locked).1 = bindings s := bindings_translateOnce ..

theorem bindings_fillOnce (core space va : Nat) (need : Need) : bindings (fillOnce s core space va need).1 = bindings s := by
  unfold fillOnce
  grind [bindings_demandFill, bindings_translate, bindings_keepPage]

theorem bindings_resolveNow (t : ThreadRef) (va n : Nat) (need : Need) (locked : Bool) :
    bindings (resolveNow s t va n need locked).1 = bindings s := by
  unfold resolveNow
  grind [bindings_checkAccess, bindings_fillOnce]

theorem bindings_appendLog (r : LogRec) : bindings (appendLog s r) = bindings s := by
  unfold appendLog
  dsimp only
  split_ifs
  · rfl
  · rfl
  · exact bindings_homeWrite (metAgain s r) none _ _

theorem bindings_stampOne (t : ThreadRef) (line : Nat) : bindings (stampOne s t line).1 = bindings s := by
  unfold stampOne
  dsimp only
  split_ifs
  · rfl
  · exact bindings_appendLog ..
  · rfl

theorem bindings_stampNow (t : ThreadRef) (acq : Bool) (tgt : Target) : bindings (stampNow s t acq tgt).1 = bindings s := by
  unfold stampNow
  grind [bindings_stampOne]

theorem bindings_readPiece (t : ThreadRef) (va n : Nat) (locked acq : Bool) {load : State → Nat → Nat → State × List Byte}
    (hload : ∀ a pa n, bindings (load a pa n).1 = bindings a) : bindings (readPiece s t va n locked acq load).1 = bindings s := by
  unfold readPiece
  grind [bindings_resolveNow, bindings_stampNow, bindings_countLine, bindings_homeOpLines]

theorem bindings_readLines (t : ThreadRef) (acq : Bool) (va n : Nat) : bindings (readLines s t acq va n).1 = bindings s := by
  refine foldl_keeps (g := fun r : State × Except Trap (List Byte) => bindings r.1) (fun r p => ?_) _ (s, .ok [])
  have hpiece (a : State) := bindings_readPiece a t p.1 p.2 true acq
    (load := fun s pa n => cacheLoad s (s.pg t.pg).core pa n false) fun a pa n => bindings_cacheLoad a _ pa n false
  grind

theorem bindings_writeTargetNow (t : ThreadRef) (va : Nat) (tgt : Target) (bs : List Byte) :
    bindings (writeTargetNow s t va tgt bs) = bindings s := by
  unfold writeTargetNow
  grind [bindings_countLine, bindings_modWindow, bindings_homeStore, bindings_cacheStore]

theorem bindings_writeNow (t : ThreadRef) (va : Nat) (bs : List Byte) : bindings (writeNow s t va bs).1 = bindings s := by
  unfold writeNow
  grind [bindings_resolveNow, bindings_stampNow, bindings_writeTargetNow]

/-! Choice records. -/

theorem bindings_cvCount (t : ThreadRef) : bindings (cvCount s t).1 = bindings s := by
  unfold cvCount readNow
  grind [bindings_readLines]

theorem bindings_cvClose (t : ThreadRef) : bindings (cvClose s t).1 = bindings s := by
  unfold cvClose
  grind [bindings_cvCount, bindings_writeNow]

theorem bindings_cvCloseTerm (t : ThreadRef) : bindings (cvCloseTerm s t).1 = bindings s := by
  unfold cvCloseTerm nextId
  grind [bindings, bindings_cvCount, bindings_checkAccess, bindings_countAccess]

/-! Barriers and the matrix engine's gangs. -/

theorem bindings_modBar (pg b : Nat) (f : Bar → Bar) : bindings (modBar s pg b f) = bindings s := by
  unfold modBar
  exact ite_keeps rfl (ite_keeps rfl (ite_keeps (bindings_modLaunch _ _ fun _ => rfl) (bindings_modLaunch _ _ fun _ => rfl)))

theorem bindings_resetRace (pg b : Nat) : bindings (resetRace s pg b) = bindings s := by
  unfold resetRace
  exact ite_keeps (foldl_keeps (g := bindings) (by intro _ _; rfl) _ s) rfl

theorem bindings_checkBar (pg b : Nat) : bindings (checkBar s pg b) = bindings s := by
  unfold checkBar
  extract_lets bar tier live l a due
  have ha : bindings a = bindings s := foldl_keeps (g := bindings) (by intro _ _; rfl) _ s
  split
  · split
    · rw [bindings_resetRace, bindings_modBar, ha]
    · rw [bindings_resetRace, bindings_modBar]
  · rfl

theorem bindings_leaveBars (t : ThreadRef) : bindings (leaveBars s t) = bindings s := by
  unfold leaveBars checkAllBars
  refine (foldl_keeps (g := bindings) (fun _ _ => bindings_checkBar ..) _ _).trans (ite_keeps ?_ rfl)
  exact foldl_keeps (g := bindings) (fun _ _ => ite_keeps rfl (bindings_modBar ..)) _ s

theorem bindings_of_besideWork {a b : State} (h : besideWork a = besideWork b) : bindings a = bindings b := by
  change bindings (besideWork a) = bindings (besideWork b)
  rw [h]

theorem bindings_closeLatch (fuel cg : Nat) (members : List Nat) : bindings (closeLatch fuel s cg members) = bindings s :=
  bindings_of_besideWork (besideWork_closeLatch ..)

theorem bindings_settleGangs (cg : Nat) : bindings (settleGangs s cg) = bindings s := by
  unfold settleGangs
  dsimp only
  split
  · rfl
  · split
    · exact ite_keeps (g := bindings) rfl rfl
    · rfl

theorem bindings_leaveGang (pg : Nat) : bindings (leaveGang s pg) = bindings s :=
  (bindings_settleGangs ..).trans (bindings_closeLatch ..)

/-! Threads that leave, end and trap. -/

theorem bindings_setPlace (t : ThreadRef) (pl : Place) : bindings (setPlace s t pl) = bindings s := by
  have hleft : bindings (leaveGroup s t) = bindings s := by
    unfold leaveGroup
    split <;> rfl
  unfold setPlace
  dsimp only
  split <;> exact hleft

theorem bindings_countTerm (lid : Nat) (cause : BitVec 8) : bindings (countTerm s lid cause) = bindings s := by
  refine (bindings_modLaunch (countCause s lid cause) lid ?_).trans (bindings_modLaunch s lid ?_) <;> exact fun _ => rfl

theorem bindings_endStream (pg q : Nat) : bindings (endStream s pg q) = bindings s := rfl

theorem bindings_settleStream (pg q : Nat) : bindings (settleStream s pg q) = bindings s := by
  unfold settleStream
  exact ite_keeps rfl rfl

theorem bindings_settleStreams (pg : Nat) (qs : List Nat) :
    bindings (qs.foldl (fun a q => settleStream a pg q) s) = bindings s := foldl_keeps (fun a q => bindings_settleStream a pg q) qs s

theorem bindings_endStreams (pg : Nat) (qs : List Nat) :
    bindings (qs.foldl (fun a q => endStream a pg q) s) = bindings s := foldl_keeps (fun a q => bindings_endStream a pg q) qs s

theorem bindings_endThread (t : ThreadRef) (term : Option (BitVec 8)) (counted : Bool) :
    bindings (endThread s t term counted) = bindings s := by
  unfold endThread
  split
  · rfl
  · extract_lets g lr
    split
    next a fault hclose =>
    have ha : bindings a = bindings s := by
      rw [show a = (if term.isSome then cvCloseTerm s t else cvClose s t).1 from congrArg Prod.fst hclose.symm]
      split
      · exact bindings_cvCloseTerm ..
      · exact bindings_cvClose ..
    extract_lets s1 s2 s3 s4 s5 s6 s7 s8
    have hcount : bindings s1 = bindings a := by
      unfold s1
      split
      · exact bindings_countTerm ..
      · exact ite_keeps rfl (bindings_countTerm ..)
      · rfl
    have hplace : bindings s3 = bindings s1 := bindings_setPlace s2 t _
    clear_value s3
    have hfreed : bindings s5 = bindings s3 := ite_keeps rfl rfl
    clear_value s5
    have hbars : bindings s6 = bindings s5 := ite_keeps rfl (bindings_leaveBars s5 t)
    clear_value s6
    have hstreams : bindings s7 = bindings s6 := bindings_settleStreams s6 t.pg _
    have hall : bindings s7 = bindings s := by rw [hstreams, hbars, hfreed, hplace, hcount, ha]
    clear_value s7
    split
    · rw [bindings_leaveGang]
      exact (bindings_endStreams s8 t.pg _).trans hall
    · split
      · exact (bindings_leaveGang ..).trans hall
      · exact hall

theorem bindings_killForRelaunch (cg : Nat) (cause : BitVec 8) : bindings (killForRelaunch s cg cause) = bindings s :=
  foldl_keeps (g := bindings) (fun _ _ => bindings_endThread ..) _ _

theorem bindings_containCore (t : ThreadRef) (cause : BitVec 8) : bindings (containCore s t cause) = bindings s := by
  unfold containCore
  exact ite_keeps ((bindings_killForRelaunch ..).trans (bindings_modLaunch _ _ fun _ => rfl)) (bindings_endThread ..)

theorem bindings_sendNotice (lid kind core part gtid cause tval pc : Nat) :
    bindings (sendNotice s lid kind core part gtid cause tval pc) = bindings s := by
  unfold sendNotice sendMsg
  split
  · rfl
  · exact ite_keeps rfl rfl

theorem bindings_trapCore (t : ThreadRef) (x : Trap) (w : WordAt) (defer : Bool) : bindings (trapCore s t x w defer) = bindings s := by
  unfold trapCore
  dsimp only
  split_ifs
  · rfl
  · exact (bindings_sendNotice ..).trans (bindings_setPlace ..)
  · exact bindings_containCore ..
  · exact bindings_setPlace ..

theorem bindings_settleJoins (pg : Nat) : bindings (settleJoins s pg) = bindings s := by
  refine foldl_keeps (g := bindings) (fun a team => ?_) _ s
  split
  · rfl
  · refine ite_keeps (foldl_keeps (g := bindings) (fun b i => ?_) _ a) (foldl_keeps (g := bindings) (fun b i => ?_) _ a)
    · exact (bindings_modThread ..).trans (bindings_setPlace ..)
    · exact (bindings_trapCore ..).trans (bindings_modThread ..)

theorem bindings_trapCall (t : ThreadRef) (x : Trap) (w : WordAt) (defer : Bool) : bindings (trapCall s t x w defer) = bindings s := by
  unfold trapCall leaveJoin
  exact ite_keeps ((ite_keeps rfl (bindings_settleJoins ..)).trans (bindings_trapCore ..)) rfl

theorem bindings_trapAt (ix : Issue) (i : Nat) (x : Trap) : bindings (trapAt s ix i x) = bindings s := bindings_trapCall ..

/-- What no operation of the matrix engine holds back any longer. -/
theorem bindings_fireArmed (core : Nat) : bindings (fireArmed s core) = bindings s := by
  unfold fireArmed
  refine (foldl_keeps (g := bindings) (fun a x => ite_keeps ?_ rfl) _ _).trans (bindings_modEng ..)
  unfold unitDec
  exact ite_keeps rfl rfl

end

end Sys2Proof.Machine

/-! The words of the matrix engine (11 R239, R249, R254-R256; 05 R104). -/

namespace Sys2Proof.Machine

-- One proof after the other: the check's memory limit counts the stack of every thread that elaborates a proof.
set_option Elab.async false

section

variable {s : State} {ix : Issue}

/-! Joint words (11 R239). -/

theorem jointWord_of_none {c : Ctl} {f : Issue → ThreadRef → MatKind × BitVec 16} (hix : s.issue = some ix) (h : activeOf s ix c = []) :
    jointWord s c f = .next (retire s ix c) := by
  simp only [jointWord, hix, h]

theorem jointWord_of_first {c : Ctl} {f : Issue → ThreadRef → MatKind × BitVec 16} {t : ThreadRef} {ts : List ThreadRef}
    (hix : s.issue = some ix) (h : activeOf s ix c = t :: ts) :
    let a := modPg s ix.pg fun g => { g with joints := g.joints + 1 }
    jointWord s c f = .next (holdAfter a (arriveLatch a ix.pg ix.pos t.tid (siteOf ix) (f ix t).1 (f ix t).2) ix c .joint) := by
  simp only [jointWord, hix, h]

/-! MWAIT (11 R255). -/

/-- What MWAIT gives of tiles without an error: `ts.nv` of tile q at bit q, `ts.of` at bit 16 + q. -/
def tileStatus (s : State) (core : Nat) (qs : List Nat) : Nat :=
  qs.foldl (fun n q => n + bnat (tileOf s core q).nv * 2 ^ q + bnat (tileOf s core q).ovf * 2 ^ (16 + q)) 0

theorem tilesOf_truncate (x : Word) : tilesOf (x.truncate 16) = (List.range 16).filter fun q => x.getLsbD q := by
  refine List.filter_congr fun q hq => ?_
  rw [BitVec.truncate_eq_setWidth, BitVec.getLsbD_setWidth, decide_eq_true (List.mem_range.1 hq), Bool.true_and]

/-- The bits of tiles, each with its place. -/
def tileBits (s : State) (core q : Nat) : List (Bool × Nat) := [((tileOf s core q).nv, q), ((tileOf s core q).ovf, 16 + q)]

theorem tileStatus_eq_foldl (s : State) (core : Nat) (qs : List Nat) :
    tileStatus s core qs = (qs.flatMap (tileBits s core)).foldl (fun n x => n + bnat x.1 * 2 ^ x.2) 0 := by
  rw [List.foldl_flatMap]
  rfl

theorem tileBits_places_nodup (core : Nat) {qs : List Nat} (hqs : qs.Nodup) (hlow : ∀ q ∈ qs, q < 16) :
    ((qs.flatMap (tileBits s core)).map Prod.snd).Nodup := by
  rw [List.map_flatMap, List.nodup_flatMap]
  refine ⟨fun q hq => ?_, hqs.imp_of_mem fun {p q} hp hq hpq x hx hx' => ?_⟩
  · have := hlow q hq
    simp only [tileBits, List.map_cons, List.map_nil, List.nodup_cons, List.mem_singleton, List.not_mem_nil, not_false_eq_true,
      List.nodup_nil, and_true]
    omega
  · have := hlow p hp
    have := hlow q hq
    simp only [tileBits, List.map_cons, List.map_nil, List.mem_cons, List.not_mem_nil, or_false] at hx hx'
    omega

theorem any_tileBits_iff (core k : Nat) (qs : List Nat) :
    ((qs.flatMap (tileBits s core)).any fun x => x.1 && decide (k = x.2)) = true
      ↔ ∃ q ∈ qs, (tileOf s core q).nv = true ∧ k = q ∨ (tileOf s core q).ovf = true ∧ k = 16 + q := by
  simp only [List.any_flatMap, tileBits, List.any_cons, List.any_nil, Bool.or_false, List.any_eq_true, Bool.or_eq_true, Bool.and_eq_true,
    decide_eq_true_eq]

theorem getLsbD_tileStatus (core : Nat) {qs : List Nat} (hqs : qs.Nodup) (hlow : ∀ q ∈ qs, q < 16) {q : Nat} (hq : q < 16) :
    (word (tileStatus s core qs)).getLsbD q = (decide (q ∈ qs) && (tileOf s core q).nv)
    ∧ (word (tileStatus s core qs)).getLsbD (16 + q) = (decide (q ∈ qs) && (tileOf s core q).ovf) := by
  have hw : ∀ x ∈ qs.flatMap (tileBits s core), x.2 < 32 := by
    intro x hx
    obtain ⟨p, hp, hx⟩ := List.mem_flatMap.1 hx
    have := hlow p hp
    rcases List.mem_pair.1 hx with rfl | rfl <;> dsimp only <;> omega
  have hbits := getLsbD_foldl_add_bit_of_zero (w := 32) _ (tileBits_places_nodup (s := s) core hqs hlow) hw
  rw [← tileStatus_eq_foldl] at hbits
  simp only [word, hbits]
  refine ⟨Bool.eq_iff_iff.2 ?_, Bool.eq_iff_iff.2 ?_⟩ <;> rw [any_tileBits_iff, Bool.and_eq_true, decide_eq_true_eq]
  · constructor
    · rintro ⟨p, hp, ⟨hnv, rfl⟩ | ⟨-, hplace⟩⟩
      · exact ⟨hp, hnv⟩
      · omega
    · exact fun ⟨hmem, hnv⟩ => ⟨q, hmem, .inl ⟨hnv, rfl⟩⟩
  · constructor
    · rintro ⟨p, hp, ⟨-, hplace⟩ | ⟨hovf, hplace⟩⟩
      · have := hlow p hp
        omega
      · obtain rfl : p = q := by omega
        exact ⟨hp, hovf⟩
    · exact fun ⟨hmem, hovf⟩ => ⟨q, hmem, .inr ⟨hovf, rfl⟩⟩

/-- The word is that of its bits. -/
theorem eq_tileStatus (core : Nat) {qs : List Nat} (hqs : qs.Nodup) (hlow : ∀ q ∈ qs, q < 16) {v : Word}
    (hv : ∀ q < 16, v.getLsbD q = (decide (q ∈ qs) && (tileOf s core q).nv)
      ∧ v.getLsbD (16 + q) = (decide (q ∈ qs) && (tileOf s core q).ovf)) : v = word (tileStatus s core qs) := by
  refine BitVec.eq_of_getLsbD_eq fun i hi => ?_
  by_cases hlow16 : i < 16
  · exact (hv i hlow16).1.trans (getLsbD_tileStatus core hqs hlow hlow16).1.symm
  · obtain ⟨q, rfl⟩ : ∃ q, i = 16 + q := ⟨i - 16, by omega⟩
    have hq : q < 16 := by omega
    exact (hv q hq).2.trans (getLsbD_tileStatus core hqs hlow hq).2.symm

/-! MDEP (11 R256). -/

/-- What MDEP does to the engine for one thread whose tile has room: the decrement is armed, and fires where nothing holds it. -/
def armDecrement (s : State) (ix : Issue) (q n : Nat) : State :=
  fireArmed (modEng s ix.core fun x => { x with armed := x.armed ++
    [{ tile := q, counter := n, cg := ix.cg,
       ops := ((engOf s ix.pg).ops.filter fun o => o.accepted && decide (o.tiles &&& tileMask q ≠ 0)).map fun o => o.id }] }) ix.core

theorem bindings_armDecrement (ix : Issue) (q n : Nat) : bindings (armDecrement s ix q n) = bindings s := bindings_fireArmed ..

/-- One thread of MDEP: its counter is no counter of the launch, or its tile has room. -/
def mdepStep (s : State) (ix : Issue) (w : Wd) (a : State) (t : ThreadRef) (b : State) : Prop :=
  match counterOf s ix t w.b with
  | .error tr => b = trapAt a ix t.tid tr
  | .ok n => armedOn a ix.core (resNum (s.launch ix.lid).lr w.a) < 4 ∧ b = armDecrement a ix (resNum (s.launch ix.lid).lr w.a) n

/-- The launch's record is that of the word's first state, for no thread changes one. -/
theorem mdepLane_of_step {w : Wd} {a b : State} {t : ThreadRef} (ha : bindings a = bindings s) (h : mdepStep s ix w a t b) :
    mdepLane s ix w a t = (b, true) ∧ bindings b = bindings s := by
  unfold mdepStep at h
  unfold mdepLane
  rw [lr_of_bindings ha]
  cases hc : counterOf s ix t w.b with
  | error tr =>
    obtain rfl : b = trapAt a ix t.tid tr := by rwa [hc] at h
    exact ⟨rfl, (bindings_trapAt ..).trans ha⟩
  | ok n =>
    rw [hc] at h
    obtain ⟨hroom, rfl⟩ := h
    exact ⟨if_neg (Nat.not_le.2 hroom), (bindings_armDecrement ..).trans ha⟩

theorem lanes_weaken {p q : State → ThreadRef → State → Prop} (hpq : ∀ a t b, p a t b → q a t b) {a e : State} {ts : List ThreadRef}
    (h : Lanes p a ts e) : Lanes q a ts e := by
  induction h with
  | nil a => exact .nil a
  | cons hstep _ ih => exact .cons (hpq _ _ _ hstep) ih

/-- A fold that notes the threads that have made their step, in case a later one has to wait: here none has. -/
theorem foldl_of_lanes {lane : State → ThreadRef → State → Prop} {inv : State → Prop}
    {f : State × List Nat × Bool → ThreadRef → State × List Nat × Bool}
    (hf : ∀ a t b did, inv a → lane a t b → f (a, did, false) t = (b, did ++ [t.tid], false) ∧ inv b) {a e : State} {ts : List ThreadRef}
    (h : Lanes lane a ts e) (ha : inv a) (did : List Nat) : ts.foldl f (a, did, false) = (e, did ++ ts.map (·.tid), false) := by
  induction h generalizing did with
  | nil a => rw [List.foldl_nil, List.map_nil, List.append_nil]
  | cons hstep _ ih =>
    obtain ⟨hfold, hb⟩ := hf _ _ _ did ha hstep
    rw [List.foldl_cons, hfold, ih hb, List.map_cons, List.append_assoc]
    rfl

theorem execMdep_of_lanes {w : Wd} {e : State} (hix : s.issue = some ix)
    (h : Lanes (mdepStep s ix w) s ((activeOf s ix w.ctl).filter fun t => !(s.group ix.part ix.pos).did.contains t.tid) e) :
    execMdep w s = .next (retire (acceptFlags s e ix w.ctl) ix w.ctl) := by
  unfold execMdep
  rw [hix]
  dsimp only
  rw [foldl_of_lanes (inv := fun a => bindings a = bindings s) (fun a t b did ha hstep => ?_) h rfl]
  · rfl
  · obtain ⟨hlane, hb⟩ := mdepLane_of_step ha hstep
    exact ⟨by rw [if_neg Bool.false_ne_true, hlane], hb⟩

end

/-- Settles O36: the joint words by the latch, MWAIT lane by lane, MDEP thread by thread. -/
theorem matrixWords : Obligations.MatrixWords := by
  intro w aty s ix hix c lr ea one joins
  have joined (i : Instr) (f : Issue → ThreadRef → MatKind × BitVec 16) (h : exec i s = jointWord s w.ctl f) : joins i (f ix) :=
    ⟨fun hnone => h.trans (jointWord_of_none hix hnone), fun t ts hfirst => h.trans (jointWord_of_first hix hfirst)⟩
  have hmma := joined (.mma w aty) _ (show execMma w aty s = _ from rfl)
  have hmmas := joined (.mmas w aty) _ (show execMmas w aty s = _ from rfl)
  have hmzero := joined (.mzero w) _ (show execMzero w s = _ from rfl)
  have hmdrain := joined (.mdrain w) _ (show execMdrain w s = _ from rfl)
  have hmfill := joined (.mfill w) _ (show execMfill w s = _ from rfl)
  refine ⟨hmma, hmmas, hmzero, hmdrain, hmfill, fun e hL => ?mwait, fun e hL => ?mdep, fun t n f g hb => ?counter⟩
  case mwait =>
    refine exec_of_lanes (show exec (.mwait w) s = execMwait w s from rfl) hix (fun a t b hstep => ?_) hL
    dsimp only at hstep ⊢
    rw [tilesOf_truncate]
    cases hfind : ((List.range 16).filter fun q => (srcWord s t w.b).getLsbD q).find? fun q => decide ((tileOf s ix.core q).cause ≠ 0) with
    | some q =>
      rw [hfind] at hstep
      exact .inr ⟨a, _, rfl, rfl, hstep⟩
    | none =>
      rw [hfind] at hstep
      obtain ⟨v, rfl, hv⟩ := hstep
      have hlow : ∀ q ∈ (List.range 16).filter fun q => (srcWord s t w.b).getLsbD q, q < 16 :=
        fun q hq => List.mem_range.1 (List.mem_of_mem_filter hq)
      rw [eq_tileStatus ix.core (List.nodup_range.filter _) hlow hv]
      exact .inl rfl
  case mdep =>
    refine (show exec (.mdep w) s = execMdep w s from rfl).trans (execMdep_of_lanes hix (lanes_weaken (fun a t b hstep => ?_) hL))
    unfold mdepStep
    cases hc : counterOf s ix t w.b with
    | error tr => rwa [hc] at hstep
    | ok n => rwa [hc] at hstep
  case counter =>
    rw [hb, counterOf_register]
    rfl

end Sys2Proof.Machine

/-! The events of a launch's life (05 R88, R91, R94, R97, R99; 06 R114, R128; 18 R329; 20 R349). -/

namespace Sys2Proof.Machine

-- One proof after the other: the check's memory limit counts the stack of every thread that elaborates a proof.
set_option Elab.async false

section

variable {s : State}

/-! Tables. -/

theorem mem_of_tget? {α : Type} {t : Tab α} {k : Nat} {v : α} (h : tget? t k = some v) : (k, v) ∈ t := by
  induction t with
  | nil => cases h
  | cons e t ih =>
    obtain ⟨j, u⟩ := e
    unfold tget? at h
    split at h
    next hj => exact List.mem_cons.2 (.inl (Prod.ext hj.symm (Option.some.inj h).symm))
    next => exact List.mem_cons_of_mem _ (ih h)

theorem tget?_eq_none_of_notMem {α : Type} {t : Tab α} {k : Nat} (h : ∀ e ∈ t, e.1 ≠ k) : tget? t k = none := by
  cases hk : tget? t k with
  | none => rfl
  | some v => exact absurd rfl (h _ (mem_of_tget? hk))

theorem tget?_tdel_self {α : Type} (t : Tab α) (k : Nat) : tget? (tdel t k) k = none :=
  tget?_eq_none_of_notMem fun e he => by simpa using List.of_mem_filter he

/-- Of more numbers than a table has entries, one is free. -/
theorem exists_firstFree {α : Type} (t : Tab α) {n : Nat} (h : t.length < n) :
    ∃ k, firstFree n (fun k => (tget? t k).isNone) = some k ∧ k < n ∧ tget? t k = none := by
  have hfree : ∃ k ∈ List.range n, (tget? t k).isNone = true := by
    by_contra hall
    push Not at hall
    have hsub : List.range n ⊆ t.map Prod.fst := by
      intro k hk
      cases hv : tget? t k with
      | none => exact absurd (by rw [hv]; rfl) (hall k hk)
      | some v => exact List.mem_map_of_mem (mem_of_tget? hv)
    have hlen := (List.nodup_range.subperm hsub).length_le
    rw [List.length_range, List.length_map] at hlen
    omega
  obtain ⟨k, hk⟩ := Option.isSome_iff_exists.1 (List.find?_isSome.2 hfree)
  refine ⟨k, hk, List.mem_range.1 (List.mem_of_find?_eq_some hk), ?_⟩
  have hnone := List.find?_some hk
  exact Option.isNone_iff_eq_none.1 hnone

/-! Acceptance (05 R88, R91, R92). -/

theorem launchAccept_nil (h : s.w.submits = []) : exec .launchAccept s = .next s := by
  rw [show exec .launchAccept s = execLaunchAccept s from rfl]
  unfold execLaunchAccept
  rw [h]

/-- A record whose answer `f` sends does not wait: it is refused, or made a launch. -/
theorem launchAccept_cons {x : Submit} {rest : List Submit} (h : s.w.submits = x :: rest) {f : State → Nat → State}
    (hf : ∀ a lid code, answerSubmit a x lid code = (f a (launchStatus lid code), true)) :
    let u : State := { s with w := { s.w with submits := rest } }
    let r := createLaunch u x
    exec .launchAccept s = .next (if launchCode u x.record = 0 then f r.1 (r.2 * 65536) else f u (launchCode u x.record)) := by
  intro u r
  rw [show exec .launchAccept s = execLaunchAccept s from rfl]
  by_cases hcode : launchCode u x.record = 0
  · rw [if_pos hcode]
    simp only [u] at hcode
    simp only [execLaunchAccept, h, hcode, if_true, hf]
    rfl
  · rw [if_neg hcode]
    simp only [u] at hcode
    simp only [execLaunchAccept, h, if_neg hcode, hf, launchStatus]
    rfl

/-- A record that no code refuses: there are fewer launches than identifiers. -/
theorem length_launches_of_launchCode {b : List Byte} (h : launchCode s b = 0) : s.w.launches.length < 4096 := by
  unfold launchCode at h
  by_contra hfull
  rw [not_lt] at hfull
  dsimp only at h
  split_ifs at h <;> omega

/-! What makes a launch keeps the other launches' records, and the number of the next. -/

variable (s)

theorem bindings_clearCounters (lid : Nat) : bindings (clearCounters s lid) = bindings s := by
  refine foldl_keeps (g := bindings) (fun a dg => ?_) _ s
  exact foldl_keeps (g := bindings) (by intro _ _; rfl) _ a

theorem bindings_homeWriteRange (pa : Nat) (bs : List Byte) : bindings (homeWriteRange s pa bs) = bindings s := by
  refine (foldl_keeps (g := bindings) (fun a n => ?_) _ _).trans (bindings_modFrames ..)
  rfl

theorem bindings_writeTarget (t : Target) (bs : List Byte) : bindings (writeTarget s t bs) = bindings s := by
  cases t with
  | dram pa nc => exact bindings_homeWriteRange ..
  | window | demand | fail => rfl

theorem bindings_unitWrite (die space a : Nat) (bs : List Byte) : bindings (unitWrite s die space a bs).1 = bindings s := by
  refine foldl_keeps (g := fun r : State × Option (BitVec 8 × Nat) => bindings r.1) (fun r p => ?_) _ (s, none)
  grind [bindings_unitTranslate, bindings_writeTarget]

theorem bindings_enqueue (lid dg q : Nat) (r : List Word) : bindings (enqueue s lid dg q r) = bindings s := by
  unfold enqueue modQueue
  dsimp only
  rw [bindings_modLaunch _ _ (by exact fun _ => rfl)]
  exact bindings_unitWrite (nextId s).2 ..

theorem bindings_fileThread (t : ThreadRef) (pc : Nat) (w : Wait) : bindings (fileThread s t pc w) = bindings s := by
  unfold fileThread
  dsimp only
  split <;> exact bindings_setPlace ..

theorem bindings_startThreads (pg : Nat) (lr : LaunchRec) : bindings (startThreads s pg lr) = bindings s := by
  unfold startThreads
  refine ite_keeps rfl (foldl_keeps (g := bindings) (fun a i => ?_) _ s)
  exact (bindings_fileThread ..).trans (bindings_modThread ..)

theorem bindings_applyCarve (core carve : Nat) : bindings (applyCarve s core carve) = bindings s := by
  unfold applyCarve
  exact ite_keeps rfl rfl

theorem bindings_acquireActions (core : Nat) (sc : Scope) : bindings (acquireActions s core sc) = bindings s := by
  unfold acquireActions
  cases sc <;> rfl

theorem bindings_clearCode (core : Nat) : bindings (clearCode s core) = bindings s :=
  foldl_keeps (g := bindings) (by intro _ _; rfl) _ s

theorem bindings_placeFresh (lid dgid cgid core : Nat) (places : List (Nat × Nat)) :
    bindings (placeFresh s lid dgid cgid core places) = bindings s := by
  unfold placeFresh
  extract_lets lr key slot a b c g d
  have ha : bindings a = bindings s := bindings_applyCarve ..
  clear_value a
  have hb : bindings b = bindings a := bindings_acquireActions a core .dev
  clear_value b
  have hc : bindings c = bindings b := ite_keeps (bindings_clearCode b core) rfl
  clear_value c
  rw [← ha, ← hb, ← hc]
  refine (foldl_keeps (g := bindings) (fun x p => ?_) _ _).trans rfl
  exact bindings_startThreads ..

theorem bindings_placeDsm (lid : Nat) {place : State → Nat → Nat → Nat → State}
    (h : ∀ a dg cgid core, bindings (place a dg cgid core) = bindings a) : bindings (placeDsm s lid place) = bindings s := by
  unfold placeDsm
  dsimp only
  rw [bindings_modLaunch _ _ (by exact fun _ => rfl)]
  exact foldl_keeps (g := bindings) (fun a dg => foldl_keeps (g := bindings) (fun b cgid => h b dg cgid _) _ a) _ s

/-- The launch has the lowest free identifier, and the next number is the one after its own. -/
theorem createLaunch_fresh {x : Submit} (h : launchCode s x.record = 0) :
    (createLaunch s x).2 < 65536 ∧ tget? s.w.launches (createLaunch s x).2 = none
      ∧ (createLaunch s x).1.nextSerial = s.nextSerial + 1 := by
  have hlen := length_launches_of_launchCode h
  obtain ⟨k, hk, hlow, hfree⟩ := exists_firstFree s.w.launches (n := 65536) (by omega)
  have hlid : (createLaunch s x).2 = (firstFree 65536 fun n => (tget? s.w.launches n).isNone).getD 0 := by simp only [createLaunch]
  rw [hk] at hlid
  rw [hlid]
  refine ⟨hlow, hfree, ?_⟩
  unfold createLaunch
  extract_lets lr lid dies version none l w a b c
  clear_value lid
  have hc : bindings c = bindings a := ite_keeps ((bindings_enqueue ..).trans (bindings_clearCounters ..)) (bindings_clearCounters ..)
  have hlast : bindings (if lr.dsm then placeDsm c lid fun s dg cgid core => placeFresh s lid dg cgid core (dsmPlaces lr) else c)
      = bindings a := ite_keeps ((bindings_placeDsm _ _ fun _ _ _ _ => bindings_placeFresh ..).trans hc) hc
  exact congrArg Prod.snd hlast

end

end Sys2Proof.Machine

/-! The events of a core group: its placement and its tasks' starts, its end and its relaunch (05 R97, R99; 06 R114, R128; 18 R329). -/

namespace Sys2Proof.Machine

-- One proof after the other: the check's memory limit counts the stack of every thread that elaborates a proof.
set_option Elab.async false

section

variable {s : State} {lid dgid cg : Nat}

/-! Placements and task starts. -/

theorem coreGroupPlacement_none (h : nextPlacement s lid dgid = none) : exec (.coreGroupPlacement lid dgid) s = .next s := by
  rw [show exec (.coreGroupPlacement lid dgid) s = execCoreGroupPlacement lid dgid s from rfl]
  unfold execCoreGroupPlacement
  rw [h]

theorem coreGroupPlacement_fresh {cgid core : Nat} {places : List (Nat × Nat)}
    (h : nextPlacement s lid dgid = some (cgid, some (core, places))) (himage : imageOf s lid = none) :
    exec (.coreGroupPlacement lid dgid) s = .next (modLaunch (placeFresh s lid dgid cgid core places) lid fun l =>
      { l with placed := l.placed.set dgid (cgid + 1) }) := by
  rw [show exec (.coreGroupPlacement lid dgid) s = execCoreGroupPlacement lid dgid s from rfl]
  unfold execCoreGroupPlacement
  rw [h, himage]
  rfl

theorem taskStart_none (h : startsTasks s lid = false ∨ nextTask s lid dgid = none) : exec (.taskStart lid dgid) s = .next s := by
  rw [show exec (.taskStart lid dgid) s = execTaskStart lid dgid s from rfl]
  unfold execTaskStart
  rcases h with h | h
  · rw [h]
    rfl
  · rw [h]
    exact ite_self _

theorem taskStart_some {e q : Nat} {r : QRec} {t : ThreadRef} {u a : State} {bs : List Byte} (hstarts : startsTasks s lid = true)
    (hnext : nextTask s lid dgid = some (e, q, r, t)) (hsettled : settleRecord s lid dgid q r = (u, true))
    (hread : unitRead u ((s.launch lid).dies.getD dgid 0) (s.launch lid).space (ringAddr (s.launch lid).lr dgid q r.slot) 64 = (a, .ok bs)) :
    let taken := modQueue a lid dgid q fun x => x.filter fun y => y.slot != r.slot
    exec (.taskStart lid dgid) s = .next (if taskCode (s.launch lid).lr (wordsOfBytes bs) = 0 then
        startTask taken (loggedSlot a lid dgid (wordsOfBytes bs) t) (wordsOfBytes bs) e
      else modLaunch taken lid fun l => { l with disc := Nat.min (l.disc + 1) 8191 }) := by
  rw [show exec (.taskStart lid dgid) s = execTaskStart lid dgid s from rfl]
  unfold execTaskStart
  simp only [hstarts, hnext, hsettled, hread, Bool.not_true, Bool.false_eq_true, if_false]
  exact congrArg Host.Outcome.next (ite_not ..)

/-! An engine that goes on. -/

/-- What an engine that goes on leaves alone: of the core groups all but the latches, of the cores the reservations and Ladle slots, and the
partition groups. -/
def besideEngine (s : State) : (Nat → CoreGroup) × (Nat → Tab Resv × Tab LadleSlot) × Tab PartGroup :=
  (fun k => { s.cg k with latch := [] }, fun c => ((s.core c).resv, (s.core c).ladle), s.w.pgs)

theorem besideEngine_modCore (s : State) (core : Nat) {f : Core → Core} (h : ∀ c, ((f c).resv, (f c).ladle) = (c.resv, c.ladle)) :
    besideEngine (modCore s core f) = besideEngine s := by
  refine Prod.ext rfl (Prod.ext (funext fun c => ?_) rfl)
  dsimp only [besideEngine]
  rw [core_modCore]
  split
  next hc => rw [h, hc]
  next => rfl

theorem besideEngine_modEng (s : State) (core : Nat) (f : Engine → Engine) : besideEngine (modEng s core f) = besideEngine s :=
  besideEngine_modCore s core fun _ => rfl

theorem besideEngine_latch (s : State) (cg : Nat) (f : List Latched → List Latched) :
    besideEngine (modCg s cg fun g => { g with latch := f g.latch }) = besideEngine s := by
  refine Prod.ext (funext fun k => ?_) rfl
  dsimp only [besideEngine]
  rw [cg_modCg]
  split
  next hk => rw [hk]
  next => rfl

theorem besideEngine_addLocks (s : State) (core : Nat) (ls : List RLock) : besideEngine (addLocks s core ls) = besideEngine s :=
  besideEngine_modCore s core fun _ => rfl

theorem besideEngine_acceptOps (s : State) (core : Nat) : besideEngine (acceptOps s core) = besideEngine s := by
  refine foldl_keeps (g := besideEngine) (fun a o => ite_keeps ?_ rfl) _ s
  exact (besideEngine_addLocks ..).trans (besideEngine_modEng ..)

theorem besideEngine_requestEngine (s : State) (pg : Nat) : besideEngine (requestEngine s pg) = besideEngine s := by
  unfold requestEngine
  exact ite_keeps rfl (besideEngine_modEng ..)

theorem besideEngine_offerOp (s : State) (pg : Nat) (kind : MatKind) (tiles : BitVec 16) (tid : Nat) (site : WordAt)
    (waiters : List (Nat × Nat)) : besideEngine (offerOp s pg kind tiles tid site waiters) = besideEngine s := by
  unfold offerOp
  dsimp only
  rw [besideEngine_acceptOps, besideEngine_modEng, besideEngine_requestEngine]
  rfl

/-- The loop on the fuel: the latch that has closed is taken out, then its operation is offered or its tiles fail. -/
theorem besideEngine_closeLatch (fuel : Nat) (s : State) (cg : Nat) (members : List Nat) :
    besideEngine (closeLatch fuel s cg members) = besideEngine s := by
  induction fuel generalizing s with
  | zero => rfl
  | succ k ih =>
    unfold closeLatch
    extract_lets g heads here xs a
    have ha : besideEngine a = besideEngine s := besideEngine_latch ..
    clear_value heads a
    obtain _ | ⟨⟨m0, _ | x0⟩, l⟩ := heads
    · rfl
    · rfl
    · dsimp only
      split
      · rw [ih, ← ha]
        refine ite_keeps (besideEngine_offerOp ..) (foldl_keeps (g := besideEngine) (fun b q => ?_) _ a)
        exact besideEngine_modEng ..
      · rfl

theorem besideEngine_thawed (s : State) (core : Nat) : besideEngine (thawed s core) = besideEngine s := by
  unfold thawed
  split
  · rfl
  · dsimp only
    rw [besideEngine_acceptOps]
    exact foldl_keeps (fun a k => foldl_keeps (fun b m => besideEngine_closeLatch _ b k m) _ a) _ s

/-- The fields of a core group that do not change where an engine goes on. -/
theorem cg_of_besideEngine {β : Type} {g : CoreGroup → β} (hg : ∀ x : CoreGroup, g { x with latch := [] } = g x) {a b : State}
    (h : besideEngine a = besideEngine b) (k : Nat) : g (a.cg k) = g (b.cg k) :=
  (hg _).symm.trans ((congrArg (fun x => g (x.1 k)) h).trans (hg _))

/-! The end of a core group (06 R128; 20 R349). -/

/-- What ends a core group: it is marked so, and its reservations and Ladle slots are free. -/
theorem releaseCg_ends (s : State) (cg : Nat) : ((releaseCg s cg).cg cg).ended = true
    ∧ (∀ r ∈ ((releaseCg s cg).core (s.cg cg).core).resv, r.2.cg ≠ cg) ∧ ∀ x ∈ ((releaseCg s cg).core (s.cg cg).core).ladle, x.2.cg ≠ cg := by
  unfold releaseCg
  extract_lets g core a b c
  have hthawed := besideEngine_thawed c core
  have hcore := congrFun (congrArg (fun x => x.2.1) hthawed) core
  have hc : ((c.core core).resv, (c.core core).ladle)
      = ((s.core core).resv.filter fun r => r.2.cg != cg, (s.core core).ladle.filter fun l => l.2.cg != cg) := by
    rw [show c.core core = b.core core from rfl]
    simp only [b, a, modEng, dropLocksWhere, core_modCore, if_true]
  have hended : (c.cg cg).ended = true := by
    unfold c
    rw [cg_modCg, if_pos rfl]
  obtain ⟨hresv, hladle⟩ := Prod.mk.inj (hcore.trans hc)
  refine ⟨(cg_of_besideEngine (g := (·.ended)) (fun _ => rfl) hthawed cg).trans hended, fun r hr => ?_, fun x hx => ?_⟩
  · exact bne_iff_ne.1 (List.of_mem_filter (p := fun r : Nat × Resv => r.2.cg != cg) (hresv ▸ hr))
  · exact bne_iff_ne.1 (List.of_mem_filter (p := fun l : Nat × LadleSlot => l.2.cg != cg) (hladle ▸ hx))

/-! A thread that is filed (06 R117, R119). -/

/-- Where a thread is that has been filed. -/
def Filed (pl : Place) : Prop := pl = .overflow ∨ ∃ n, pl = .bin n

theorem filed_binFor (p : Partition) (pg pc : Nat) : Filed (binFor p pg pc) := by
  unfold binFor
  split
  · exact .inr ⟨_, rfl⟩
  · split
    · exact .inr ⟨_, rfl⟩
    · exact .inl rfl

/-- All but the partitions. -/
def besideParts (s : State) : State := { s with w := { s.w with parts := [] } }

theorem besideParts_modThread {a b : State} (h : besideParts a = besideParts b) (t : ThreadRef) (f : Thread → Thread) :
    besideParts (modThread a t f) = besideParts (modThread b t f) := congrArg (fun x => modThread x t f) h

theorem besideParts_leaveGroup (s : State) (t : ThreadRef) : besideParts (leaveGroup s t) = besideParts s := by
  unfold leaveGroup
  split <;> rfl

theorem besideParts_setPlace (s : State) (t : ThreadRef) (pl : Place) :
    besideParts (setPlace s t pl) = besideParts (modThread s t fun x => { x with place := pl }) := by
  have h := besideParts_modThread (besideParts_leaveGroup s t) t fun x => { x with place := pl }
  unfold setPlace
  dsimp only
  split <;> exact h

/-- Filing a thread sets its place, beside the partitions where it is noted. -/
theorem besideParts_fileThread (s : State) (t : ThreadRef) (pc : Nat) (w : Wait) : ∃ pl, Filed pl ∧ besideParts (fileThread s t pc w)
    = besideParts (modThread (modThread s t fun x => { x with place := .parked }) t fun x =>
      { x with pc := pc, wait := w, place := pl, passed := false }) := by
  unfold fileThread
  extract_lets a part pl b
  have hb : besideParts b = besideParts a := by
    unfold b
    clear_value pl
    split <;> rfl
  exact ⟨pl, filed_binFor .., besideParts_modThread (hb.trans (besideParts_setPlace ..)) ..⟩

/-! The relaunch of a core group (18 R329). -/

/-- A partition group at its start, whose first `n` threads have been filed. -/
structure Begun (lr : LaunchRec) (n : Nat) (g : PartGroup) : Prop where
  length : g.threads.length = lr.nthr
  ended : g.ended = false
  trapq : g.trapq = []
  bars : g.bars = List.replicate 8 Bar.init
  thread : ∀ i < lr.nthr, let x := g.threads.getD i Thread.none
    x.pc = lr.entry ∧ x.rent = lr.entry ∧ x.wait = .ready ∧ x.handler = false ∧ x.trap = none
      ∧ x.ctx = (Thread.start (lr.regs8 * 8) lr.entry).ctx ∧ (i < n → Filed x.place)

/-- The fields of a partition group as it starts again. -/
def restarted (lr : LaunchRec) (p : PartGroup) : PartGroup :=
  { p with threads := List.replicate lr.nthr (Thread.start (lr.regs8 * 8) lr.entry), trapq := [], handling := false, joints := 0,
           bars := List.replicate 8 Bar.init, ended := false }

theorem begun_restarted (lr : LaunchRec) (p : PartGroup) : Begun lr 0 (restarted lr p) where
  length := List.length_replicate
  ended := rfl
  trapq := rfl
  bars := rfl
  thread i hi := by
    have hthread : (restarted lr p).threads.getD i Thread.none = Thread.start (lr.regs8 * 8) lr.entry := by
      simp [restarted, List.getD_eq_getElem?_getD, hi]
    intro x
    rw [show x = Thread.start (lr.regs8 * 8) lr.entry from hthread]
    exact ⟨rfl, rfl, rfl, rfl, rfl, rfl, fun h => absurd h (Nat.not_lt_zero i)⟩

/-- The next thread begins and is filed. -/
def filedThread (lr : LaunchRec) (born : Nat) (pl : Place) (x : Thread) : Thread :=
  { x with born := born, pc := lr.entry, wait := .ready, place := pl, passed := false }

theorem begun_filedThread {lr : LaunchRec} {n born : Nat} {g : PartGroup} {pl : Place} (h : Begun lr n g) (hpl : Filed pl) :
    Begun lr (n + 1) (g.modThread n (filedThread lr born pl)) where
  length := (List.length_modify ..).trans h.length
  ended := h.ended
  trapq := h.trapq
  bars := h.bars
  thread i hi := by
    obtain ⟨hpc, hrent, hwait, hhandler, htrap, hctx, hplace⟩ := h.thread i hi
    rw [getD_modThread]
    split
    next hin =>
      obtain ⟨rfl, -⟩ := hin
      exact ⟨rfl, hrent, rfl, hhandler, htrap, hctx, fun _ => hpl⟩
    next hin =>
      refine ⟨hpc, hrent, hwait, hhandler, htrap, hctx, fun hlt => hplace ?_⟩
      have hne : i ≠ n := fun hin' => hin ⟨hin', by rw [h.length]; omega⟩
      omega

/-- The other partition groups, the core groups and the launches. -/
def besidePg (k : Nat) (s : State) : (Nat → PartGroup) × Tab CoreGroup × Tab Launch :=
  (fun j => if j = k then PartGroup.none else s.pg j, s.w.cgs, s.w.launches)

theorem besidePg_modPg (k : Nat) (s : State) (f : PartGroup → PartGroup) : besidePg k (modPg s k f) = besidePg k s := by
  refine Prod.ext (funext fun j => ?_) rfl
  dsimp only [besidePg]
  split
  · rfl
  next hj => rw [pg_modPg, if_neg hj]

theorem besidePg_modThread (k : Nat) (s : State) (i : Nat) (f : Thread → Thread) :
    besidePg k (modThread s { pg := k, tid := i } f) = besidePg k s := besidePg_modPg ..

/-- One thread begins: it is filed at the launch's entry. -/
def beginThread (lr : LaunchRec) (k : Nat) (s : State) (i : Nat) : State :=
  fileThread (modThread s { pg := k, tid := i } fun x => { x with born := s.w.nextId }) { pg := k, tid := i } lr.entry .ready

theorem startThreads_eq (s : State) (k : Nat) (lr : LaunchRec) :
    startThreads s k lr = if lr.taskServer then s else (List.range lr.nthr).foldl (beginThread lr k) s := rfl

theorem beginThread_spec (lr : LaunchRec) (k : Nat) (s : State) (i : Nat) : besidePg k (beginThread lr k s i) = besidePg k s
    ∧ ∃ pl, Filed pl ∧ (beginThread lr k s i).pg k = (s.pg k).modThread i (filedThread lr s.w.nextId pl) := by
  unfold beginThread
  obtain ⟨pl, hpl, h⟩ := besideParts_fileThread (modThread s { pg := k, tid := i } fun x => { x with born := s.w.nextId })
    { pg := k, tid := i } lr.entry .ready
  refine ⟨?_, pl, hpl, ?_⟩
  · refine (congrArg (besidePg k) h).trans ?_
    change besidePg k (modThread _ _ _) = _
    rw [besidePg_modThread, besidePg_modThread, besidePg_modThread]
  · refine (congrArg (fun x : State => x.pg k) h).trans ?_
    change ((modThread _ _ _).pg k) = _
    simp only [modThread, pg_modPg, if_true, PartGroup.modThread, List.modify_modify_eq]
    rfl

theorem beginThreads_spec {lr : LaunchRec} {k : Nat} (hbegun : Begun lr 0 (s.pg k)) (n : Nat) :
    besidePg k ((List.range n).foldl (beginThread lr k) s) = besidePg k s
    ∧ Begun lr n (((List.range n).foldl (beginThread lr k) s).pg k) := by
  induction n with
  | zero => exact ⟨rfl, hbegun⟩
  | succ n ih =>
    rw [List.range_succ, List.foldl_append, List.foldl_cons, List.foldl_nil]
    obtain ⟨hbeside, pl, hpl, hpg⟩ := beginThread_spec lr k ((List.range n).foldl (beginThread lr k) s) n
    exact ⟨hbeside.trans ih.1, hpg ▸ begun_filedThread ih.2 hpl⟩

/-- One partition group starts again. -/
def restartPg (lr : LaunchRec) (s : State) (k : Nat) : State := startThreads (modPg s k (restarted lr)) k lr

theorem restartPg_spec (lr : LaunchRec) (s : State) (k : Nat) : besidePg k (restartPg lr s k) = besidePg k s
    ∧ Begun lr (if lr.taskServer then 0 else lr.nthr) ((restartPg lr s k).pg k) := by
  have hbegun : Begun lr 0 ((modPg s k (restarted lr)).pg k) := by
    rw [pg_modPg, if_pos rfl]
    exact begun_restarted ..
  unfold restartPg
  rw [startThreads_eq]
  split
  · exact ⟨besidePg_modPg .., hbegun⟩
  · obtain ⟨hbeside, hall⟩ := beginThreads_spec hbegun lr.nthr
    exact ⟨hbeside.trans (besidePg_modPg ..), hall⟩

theorem restartPgs_spec (lr : LaunchRec) (s : State) (ks : List Nat) :
    ((ks.foldl (restartPg lr) s).w.cgs, (ks.foldl (restartPg lr) s).w.launches) = (s.w.cgs, s.w.launches)
    ∧ ∀ k ∈ ks, Begun lr (if lr.taskServer then 0 else lr.nthr) ((ks.foldl (restartPg lr) s).pg k) := by
  refine ⟨foldl_keeps (g := fun a : State => (a.w.cgs, a.w.launches)) (fun a k => congrArg Prod.snd (restartPg_spec lr a k).1) ks s, ?_⟩
  induction ks using List.reverseRecOn with
  | nil => exact fun k hk => nomatch hk
  | append_singleton ks j ih =>
    intro k hk
    rw [List.foldl_append, List.foldl_cons, List.foldl_nil]
    obtain ⟨hbeside, hbegun⟩ := restartPg_spec lr (ks.foldl (restartPg lr) s) j
    by_cases hkj : k = j
    · exact hkj ▸ hbegun
    · have hother := congrFun (congrArg Prod.fst hbeside) k
      simp only [besidePg, if_neg hkj] at hother
      rw [hother]
      exact ih k ((List.mem_append.1 hk).resolve_right fun h => hkj (List.mem_singleton.1 h))

theorem coreGroupRelaunch_of_not (h : (s.cg cg).killed = false ∨ (s.cg cg).ended = true) :
    exec (.coreGroupRelaunch cg) s = .next s := by
  rw [show exec (.coreGroupRelaunch cg) s = execCoreGroupRelaunch cg s from rfl]
  unfold execCoreGroupRelaunch
  refine if_pos ?_
  rcases h with h | h
  · exact .inl (by rw [h]; rfl)
  · exact .inr (.inl h)

/-- The core group as it starts again, before its partition groups do. -/
def revived (s : State) (cg : Nat) : State :=
  modCg (modLaunch s (s.cg cg).lid fun l => { l with retries := l.retries + 1 }) cg fun x =>
    { x with killed := false, clk := 0, codebook := [], bars := List.replicate 8 Bar.init }

/-- The core group once its partition groups have started again and its engine goes on. -/
def relaunched (s : State) (cg : Nat) : State :=
  thawed (((pgsOfCg s cg).map Prod.fst).foldl (restartPg (s.launch (s.cg cg).lid).lr) (revived s cg)) (s.cg cg).core

theorem coreGroupRelaunch_of_killed (hkilled : (s.cg cg).killed = true) (hended : (s.cg cg).ended = false)
    (hruns : launchRuns s (s.cg cg).lid = true) : exec (.coreGroupRelaunch cg) s = .next (relaunched s cg) := by
  rw [show exec (.coreGroupRelaunch cg) s = execCoreGroupRelaunch cg s from rfl]
  unfold execCoreGroupRelaunch relaunched
  rw [List.foldl_map]
  refine if_neg ?_
  rw [hkilled, hended, hruns]
  decide

theorem mem_pgsOfCg {k : Nat} {g : PartGroup} (h : tget? s.w.pgs k = some g) (hcg : cgOfPg k = cg) :
    k ∈ (pgsOfCg s cg).map Prod.fst :=
  List.mem_map.2 ⟨(k, g), List.mem_filter.2 ⟨mem_of_tget? h, decide_eq_true hcg⟩, rfl⟩

theorem retries_revived (s : State) (cg : Nat) : ((revived s cg).launch (s.cg cg).lid).retries
    = if (tget? s.w.launches (s.cg cg).lid).isSome then (s.launch (s.cg cg).lid).retries + 1 else (s.launch (s.cg cg).lid).retries := by
  simp only [revived, State.launch, tget, modCg_w_launches, modLaunch_w_launches, tget?_tmod, if_true]
  cases tget? s.w.launches (s.cg cg).lid <;> rfl

theorem relaunched_cg (s : State) (cg : Nat) : ((relaunched s cg).cg cg).killed = false ∧ ((relaunched s cg).cg cg).codebook = []
    ∧ ((relaunched s cg).cg cg).bars = List.replicate 8 Bar.init := by
  obtain ⟨hkept, -⟩ := restartPgs_spec (s.launch (s.cg cg).lid).lr (revived s cg) ((pgsOfCg s cg).map Prod.fst)
  have hthawed : besideEngine (relaunched s cg) = besideEngine _ := besideEngine_thawed ..
  have hcg := congrArg (fun x => tget x.1 cg CoreGroup.none) hkept
  have hfields {β : Type} (g : CoreGroup → β) (hg : ∀ x : CoreGroup, g { x with latch := [] } = g x) :
      g ((relaunched s cg).cg cg) = g ((revived s cg).cg cg) := (cg_of_besideEngine hg hthawed cg).trans (congrArg g hcg)
  rw [hfields (·.killed) fun _ => rfl, hfields (·.codebook) fun _ => rfl, hfields (·.bars) fun _ => rfl, revived, cg_modCg, if_pos rfl]
  exact ⟨rfl, rfl, rfl⟩

theorem relaunched_launches (s : State) (cg : Nat) : (relaunched s cg).w.launches = (revived s cg).w.launches := by
  obtain ⟨hkept, -⟩ := restartPgs_spec (s.launch (s.cg cg).lid).lr (revived s cg) ((pgsOfCg s cg).map Prod.fst)
  obtain ⟨-, -, -, hthawed⟩ := eq_of_besideWork (besideWork_thawed
    (((pgsOfCg s cg).map Prod.fst).foldl (restartPg (s.launch (s.cg cg).lid).lr) (revived s cg)) (s.cg cg).core)
  exact hthawed.trans (congrArg Prod.snd hkept)

theorem begun_relaunched {k : Nat} {g : PartGroup} (h : tget? s.w.pgs k = some g) (hcg : cgOfPg k = cg) :
    Begun (s.launch (s.cg cg).lid).lr (if (s.launch (s.cg cg).lid).lr.taskServer then 0 else (s.launch (s.cg cg).lid).lr.nthr)
      ((relaunched s cg).pg k) := by
  obtain ⟨-, hall⟩ := restartPgs_spec (s.launch (s.cg cg).lid).lr (revived s cg) ((pgsOfCg s cg).map Prod.fst)
  have hthawed : besideEngine (relaunched s cg) = besideEngine _ := besideEngine_thawed ..
  have hpg := congrArg (fun x => tget x.2.2 k PartGroup.none) hthawed
  exact (show (relaunched s cg).pg k = _ from hpg) ▸ hall k (mem_pgsOfCg h hcg)

end

end Sys2Proof.Machine

/-! The end of a launch (05 R94, R101; 20 R349, R350), and all the events of a launch's life. -/

namespace Sys2Proof.Machine

-- One proof after the other: the check's memory limit counts the stack of every thread that elaborates a proof.
set_option Elab.async false

section

variable {s : State} {lid : Nat}

theorem mem_of_besideWork {a b : State} (h : besideWork a = besideWork b) : a.w.mem = b.w.mem := congrArg (fun x => x.w.mem) h

theorem mem_releaseCg (s : State) (cg : Nat) : (releaseCg s cg).w.mem = s.w.mem := mem_of_besideWork (besideWork_thawed ..)

theorem mem_releaseCgs (l : List (Nat × CoreGroup)) (s : State) : (l.foldl (fun a e => releaseCg a e.1) s).w.mem = s.w.mem := by
  refine foldl_keeps (g := fun a : State => a.w.mem) (fun a e => ?_) l s
  exact mem_releaseCg ..

/-- What takes a launch out of the device. -/
theorem removeLaunch_spec (s : State) (lid : Nat) : tget? (removeLaunch s lid).w.launches lid = none
    ∧ (∀ e ∈ (removeLaunch s lid).w.cgs, e.2.lid ≠ lid) ∧ (∀ e ∈ (removeLaunch s lid).w.pgs, e.2.lid ≠ lid)
    ∧ (removeLaunch s lid).w.mem = s.w.mem := by
  unfold removeLaunch
  refine ⟨tget?_tdel_self .., fun e he => ?_, fun e he => ?_, ?_⟩
  · exact bne_iff_ne.1 (List.of_mem_filter (p := fun e : Nat × CoreGroup => e.2.lid != lid) he)
  · exact bne_iff_ne.1 (List.of_mem_filter (p := fun e : Nat × PartGroup => e.2.lid != lid) he)
  · exact mem_releaseCgs _ s

theorem mem_answerAsk (s : State) (lid status result : Nat) : (answerAsk s lid status result).w.mem = s.w.mem := by
  refine foldl_keeps (g := fun a : State => a.w.mem) (fun a x => ?_) _ s
  unfold respondTo sendMsg
  exact ite_keeps (g := fun a : State => a.w.mem) rfl rfl

theorem mem_raiseEvent (s : State) (kind val : Nat) : (raiseEvent s kind val).w.mem = s.w.mem := by
  unfold raiseEvent
  exact ite_keeps (g := fun a : State => a.w.mem) rfl rfl

/-- The state once a launch's status word has been written, or has found no address to be written at. -/
def statusWritten (s : State) (lid : Nat) : State × Option (BitVec 8 × Nat) :=
  let l := s.launch lid
  if l.lr.status = 0 then (s, none) else unitWriteWhole s (l.dies.getD 0 0) l.space l.lr.status (bytesOfNat 8 (statusWord l))

theorem endLaunch_waits {va : Nat} (h : (statusWritten s lid).2 = some (0, va)) : endLaunch s lid = none := by
  refine if_pos ?_
  exact congrArg (Option.map Prod.fst) h

theorem endLaunch_goes (h : ∀ va, (statusWritten s lid).2 ≠ some (0, va)) : ∃ a, endLaunch s lid = some (removeLaunch a lid)
    ∧ ((s.launch lid).parent = none → a.w.mem = (statusWritten s lid).1.w.mem) := by
  have hgoes : ¬ (statusWritten s lid).2.map Prod.fst = some 0 := by
    rintro hzero
    obtain ⟨⟨c, va⟩, hr, rfl⟩ := Option.map_eq_some_iff.1 hzero
    exact h va hr
  refine ⟨_, if_neg hgoes, fun hparent => ?_⟩
  rw [mem_answerAsk, hparent]
  change (match (statusWritten s lid).2 with
    | some (_, va) => raiseEvent (statusWritten s lid).1 2 (lid * 2 ^ 56 + va)
    | none => (statusWritten s lid).1).w.mem = _
  rcases statusWritten s lid with ⟨a, _ | ⟨c, va⟩⟩
  · rfl
  · exact mem_raiseEvent ..

theorem launchEnd_of_not (h : launchOver s lid = false) : exec (.launchEnd lid) s = .next s := by
  rw [show exec (.launchEnd lid) s = execLaunchEnd lid s from rfl]
  unfold execLaunchEnd
  rw [h]
  rfl

theorem launchEnd_of_over (h : launchOver s lid = true) : exec (.launchEnd lid) s = .next ((endLaunch s lid).getD s) := by
  rw [show exec (.launchEnd lid) s = execLaunchEnd lid s from rfl]
  unfold execLaunchEnd
  rw [h]
  rfl

theorem coreGroupEnd_eq (s : State) (cg : Nat) : exec (.coreGroupEnd cg) s = .next (if mayEndCg s cg then releaseCg s cg else s) := rfl

end

/-- Settles O44, event by event: acceptance, placement and task starts, the end and the relaunch of a core group, the end of a launch. The
model has a function `launchEvents` already. -/
theorem launchEvents_hold : Obligations.LaunchEvents := by
  intro s lid dgid cg
  refine ⟨launchAccept_nil, fun x rest h => ⟨fun a t hx => ?thread, fun conn tag hx => ?message⟩, fun x => createLaunch_fresh s,
    coreGroupPlacement_none, fun cgid core places => coreGroupPlacement_fresh, taskStart_none, fun e q r t u a bs => taskStart_some,
    fun h => ?endNot, fun h => ?ends, coreGroupRelaunch_of_not, fun _ hkilled hended hruns => ?relaunch, launchEnd_of_not,
    fun hover => ⟨fun ⟨va, h⟩ => ?waits, fun h => ?goes⟩⟩
  case thread =>
    exact launchAccept_cons h (f := fun a n => readyPend a (some t) [word n]) fun a lid code => by rw [answerSubmit, hx]
  case message =>
    exact launchAccept_cons h (f := fun a n => respondTo a conn tag 0x01 0 0 n) fun a lid code => by rw [answerSubmit, hx]
  case endNot => rw [coreGroupEnd_eq, h]; rfl
  case ends => exact ⟨releaseCg s cg, by rw [coreGroupEnd_eq, h]; rfl, releaseCg_ends s cg⟩
  case relaunch =>
    obtain ⟨hkilled', hcodebook, hbars⟩ := relaunched_cg s cg
    refine ⟨relaunched s cg, coreGroupRelaunch_of_killed hkilled hended hruns, hkilled', hcodebook, hbars, ?_, fun k g hk hcg => ?_⟩
    · rw [← retries_revived, State.launch, relaunched_launches]
      rfl
    · obtain ⟨hlength, hended', htrapq, hpgBars, hthread⟩ := begun_relaunched hk hcg
      refine ⟨hlength, hended', htrapq, hpgBars, fun i hi => ?_⟩
      obtain ⟨hpc, hrent, hwait, hhandler, htrap, hctx, hplace⟩ := hthread i hi
      exact ⟨hpc, hrent, hwait, hhandler, htrap, hctx, fun hgrid => hplace (by rwa [hgrid])⟩
  case waits => rw [launchEnd_of_over hover, endLaunch_waits h]; rfl
  case goes =>
    obtain ⟨a, ha, hmem⟩ := endLaunch_goes h
    obtain ⟨hlaunch, hcgs, hpgs, hremoved⟩ := removeLaunch_spec a lid
    exact ⟨removeLaunch a lid, by rw [launchEnd_of_over hover, ha]; rfl, hlaunch, hcgs, hpgs, fun hparent => hremoved.trans (hmem hparent)⟩

end Sys2Proof.Machine

/-! Filing a thread (06 R117, R119): the bins left when the thread has been taken out, the bin it joins, and what stays. -/

namespace Sys2Proof.Machine

-- One proof after the other: the check's memory limit counts the stack of every thread that elaborates a proof.
set_option Elab.async false

section

variable {s : State} {t : ThreadRef} {pc : Nat}

/-! What two states share that differ in their partitions alone. -/

theorem pg_of_besideParts {a b : State} (h : besideParts a = besideParts b) (k : Nat) : a.pg k = b.pg k := by
  have hpg := congrArg (fun x : State => x.pg k) h
  exact hpg

theorem thread_of_besideParts {a b : State} (h : besideParts a = besideParts b) (r : ThreadRef) : a.thread r = b.thread r :=
  congrArg (fun g : PartGroup => g.threads.getD r.tid Thread.none) (pg_of_besideParts h r.pg)

/-- A state in which threads, and what stands in the partitions, have changed. -/
theorem frame_of_besideParts {a b : State} {f g : Thread → Thread}
    (h : besideParts a = besideParts (modThread (modThread b t f) t g)) :
    a = { b with w := { b.w with pgs := a.w.pgs, parts := a.w.parts } } := by
  have hframe := congrArg (fun x : State => { x with w := { x.w with pgs := a.w.pgs, parts := a.w.parts } }) h
  exact hframe

/-! The bins once a thread has left its place. -/

theorem bins_leaveGroup (s : State) (t : ThreadRef) (p : Nat) : ((leaveGroup s t).part p).bins = (s.part p).bins := by
  unfold leaveGroup
  split
  · rw [part_modPart]
    split
    next hp => rw [hp]
    next => rfl
  · rfl

theorem leaveGroup_of_bin {k : Nat} (h : (s.thread t).place = .bin k) : leaveGroup s t = s := by
  unfold leaveGroup
  rw [h]

theorem setPlace_of_not_bin (pl : Place) (h : ∀ k, (s.thread t).place ≠ .bin k) :
    setPlace s t pl = modThread (leaveGroup s t) t fun x => { x with place := pl } := by
  unfold setPlace
  dsimp only
  split
  next k hk => exact absurd hk (h k)
  next => rfl

theorem part_of_modThread (s : State) (t : ThreadRef) (f : Thread → Thread) (k : Nat) :
    ((modThread s t f).pg k).part = (s.pg k).part := by
  unfold modThread
  rw [pg_modPg]
  split
  next hk => rw [hk]; rfl
  next => rfl

theorem setPlace_of_bin (pl : Place) {k : Nat} (h : (s.thread t).place = .bin k) :
    setPlace s t pl = freeBins (modThread s t fun x => { x with place := pl }) (s.pg t.pg).part := by
  unfold setPlace
  simp only [h, leaveGroup_of_bin h, part_of_modThread]

theorem bins_freeBins (s : State) (p : Nat) : ((freeBins s p).part p).bins
    = (s.part p).bins.filter fun x => (s.pg x.2.pg).threads.any fun y => decide (y.place = .bin x.1) := by
  unfold freeBins
  dsimp only
  rw [part_modPart, if_pos rfl]

theorem pg_setPlace (s : State) (t : ThreadRef) (pl : Place) (k : Nat) :
    (setPlace s t pl).pg k = (modThread s t fun x => { x with place := pl }).pg k :=
  pg_of_besideParts (besideParts_setPlace s t pl) k

theorem bins_setPlace_of_not_bin (pl : Place) (p : Nat) (h : ∀ k, (s.thread t).place ≠ .bin k) :
    ((setPlace s t pl).part p).bins = (s.part p).bins := by
  rw [setPlace_of_not_bin pl h]
  exact bins_leaveGroup s t p

/-- The bins in which no thread is left are free. -/
theorem bins_setPlace_of_bin (pl : Place) (h : ∃ k, (s.thread t).place = .bin k) :
    ((setPlace s t pl).part (s.pg t.pg).part).bins = (s.part (s.pg t.pg).part).bins.filter fun x =>
      ((setPlace s t pl).pg x.2.pg).threads.any fun y => decide (y.place = .bin x.1) := by
  obtain ⟨k, hk⟩ := h
  rw [setPlace_of_bin pl hk]
  exact bins_freeBins ..

/-! The bin that a filed thread joins. -/

section

variable {p : Partition} {pg n : Nat}

/-- A bin of a partition group and a PC. -/
def keyedBin (pg pc : Nat) (x : Nat × Bin) : Bool := decide (x.2.pg = pg) && decide (x.2.pc = pc)

/-- The bin with the key, else the lowest free one, else the overflow path. -/
theorem binFor_eq (p : Partition) (pg pc : Nat) : binFor p pg pc = ((p.bins.find? (keyedBin pg pc)).map fun b => .bin b.1).getD
    (((firstFree Config.bins fun n => (tget? p.bins n).isNone).map .bin).getD .overflow) := by
  unfold binFor
  change (match p.bins.find? (keyedBin pg pc) with | some b => Place.bin b.1 | none => _) = _
  cases p.bins.find? (keyedBin pg pc) with
  | some b => rfl
  | none => cases firstFree Config.bins fun n => (tget? p.bins n).isNone <;> rfl

theorem firstFree_eq_some {m k : Nat} {f : Nat → Bool} (hk : k < m) (hf : f k = true) (hlow : ∀ j < k, f j = false) :
    firstFree m f = some k := by
  rw [firstFree, List.find?_range_eq_some]
  exact ⟨hf, List.mem_range.2 hk, fun j hj => by simp [hlow j hj]⟩

theorem firstFree_eq_none {m : Nat} {f : Nat → Bool} (h : ∀ j < m, f j = false) : firstFree m f = none := by
  rw [firstFree, List.find?_range_eq_none]
  exact fun j hj => by simp [h j hj]

theorem binFor_keyed {b : Bin} (h : p.bins.find? (keyedBin pg pc) = some (n, b)) : binFor p pg pc = .bin n := by
  rw [binFor_eq, h]
  rfl

theorem binFor_free (h : p.bins.find? (keyedBin pg pc) = none) (hn : n < Config.bins) (hfree : tget? p.bins n = none)
    (hlow : ∀ m < n, (tget? p.bins m).isSome = true) : binFor p pg pc = .bin n := by
  have hfirst := firstFree_eq_some (f := fun n => (tget? p.bins n).isNone) hn (Option.isNone_iff_eq_none.2 hfree) fun m hm =>
    Option.isNone_eq_false_iff.2 (hlow m hm)
  rw [binFor_eq, h, hfirst]
  rfl

theorem binFor_full (h : p.bins.find? (keyedBin pg pc) = none) (hfull : ∀ m < Config.bins, (tget? p.bins m).isSome = true) :
    binFor p pg pc = .overflow := by
  have hfirst := firstFree_eq_none (f := fun n => (tget? p.bins n).isNone) fun m hm => Option.isNone_eq_false_iff.2 (hfull m hm)
  rw [binFor_eq, h, hfirst]
  rfl

theorem isSome_tget?_of_mem {α : Type} {t : Tab α} {k : Nat} {v : α} (h : (k, v) ∈ t) : (tget? t k).isSome = true := by
  rw [Option.isSome_iff_ne_none]
  induction t with
  | nil => cases h
  | cons e r ih =>
    obtain ⟨j, u⟩ := e
    unfold tget?
    split
    next => exact Option.some_ne_none u
    next hj =>
      rcases List.mem_cons.1 h with heq | hmem
      · exact absurd (congrArg Prod.fst heq).symm hj
      · exact ih hmem

end

/-! The state after a thread has been filed. -/

/-- A thread's place is noted in its partition: a free bin that it joins gets the key. -/
def noteBin (a : State) (part : Nat) (b : Bin) (pl : Place) : State :=
  match pl with
  | .bin n => modPart a part fun p => if (tget? p.bins n).isSome then p else { p with bins := tput p.bins n b }
  | _ => a

/-- The place at which a thread is filed: it is chosen among the bins left when the thread has been taken out. -/
def filingPlace (s : State) (t : ThreadRef) (pc : Nat) : Place := binFor ((setPlace s t .parked).part (s.pg t.pg).part) t.pg pc

theorem fileThread_eq (s : State) (t : ThreadRef) (pc : Nat) (w : Wait) : fileThread s t pc w =
    modThread (noteBin (setPlace s t .parked) (s.pg t.pg).part { pg := t.pg, pc := pc, age := 0, aged := false } (filingPlace s t pc)) t
      fun x => { x with pc := pc, wait := w, place := filingPlace s t pc, passed := false } := by
  have hpart : ((setPlace s t .parked).pg t.pg).part = (s.pg t.pg).part := by rw [pg_setPlace, part_of_modThread]
  unfold fileThread
  dsimp only
  rw [hpart]
  rfl

theorem bins_noteBin_taken {a : State} {part n : Nat} (b : Bin) (h : (tget? (a.part part).bins n).isSome = true) :
    ((noteBin a part b (.bin n)).part part).bins = (a.part part).bins := by
  unfold noteBin
  dsimp only
  rw [part_modPart, if_pos rfl, if_pos h]

theorem bins_noteBin_free {a : State} {part n : Nat} (b : Bin) (h : tget? (a.part part).bins n = none) :
    ((noteBin a part b (.bin n)).part part).bins = tput (a.part part).bins n b := by
  unfold noteBin
  dsimp only
  rw [part_modPart, if_pos rfl, h]
  rfl

theorem bins_fileThread (s : State) (t : ThreadRef) (pc : Nat) (w : Wait) (p : Nat) :
    let b : Bin := { pg := t.pg, pc := pc, age := 0, aged := false }
    ((fileThread s t pc w).part p).bins
      = ((noteBin (setPlace s t .parked) (s.pg t.pg).part b (filingPlace s t pc)).part p).bins := by
  rw [fileThread_eq]
  rfl

theorem pg_noteBin (a : State) (part : Nat) (b : Bin) (pl : Place) (k : Nat) : (noteBin a part b pl).pg k = a.pg k := by
  unfold noteBin
  split <;> rfl

theorem place_fileThread (w : Wait) (h : t.tid < (s.pg t.pg).threads.length) :
    ((fileThread s t pc w).thread t).place = filingPlace s t pc := by
  rw [fileThread_eq, thread_modThread, if_pos]
  rw [pg_noteBin, pg_setPlace, length_modThread]
  exact ⟨rfl, h⟩

theorem thread_fileThread_self (w : Wait) (h : t.tid < (s.pg t.pg).threads.length) : (fileThread s t pc w).thread t
    = { s.thread t with pc := pc, wait := w, place := ((fileThread s t pc w).thread t).place, passed := false } := by
  obtain ⟨pl, -, hbeside⟩ := besideParts_fileThread s t pc w
  rw [thread_of_besideParts hbeside, thread_modThread, length_modThread, if_pos ⟨rfl, h⟩, thread_modThread, if_pos ⟨rfl, h⟩]

theorem thread_fileThread_other (w : Wait) {r : ThreadRef} (h : r ≠ t) : (fileThread s t pc w).thread r = s.thread r := by
  obtain ⟨pl, -, hbeside⟩ := besideParts_fileThread s t pc w
  rw [thread_of_besideParts hbeside, thread_modThread, if_neg fun hr => h hr.1, thread_modThread, if_neg fun hr => h hr.1]

/-- Filing changes partition groups and partitions only. -/
theorem fileThread_frame (s : State) (t : ThreadRef) (pc : Nat) (w : Wait) : fileThread s t pc w
    = { s with w := { s.w with pgs := (fileThread s t pc w).w.pgs, parts := (fileThread s t pc w).w.parts } } := by
  obtain ⟨pl, -, hbeside⟩ := besideParts_fileThread s t pc w
  exact frame_of_besideParts hbeside

end

/-- Settles O11: where the thread's place is chosen, then the three cases of the choice. -/
theorem filingFollowsTheNextPc : Obligations.FilingFollowsTheNextPc := by
  intro s t pc w hlen e p left bins keyed
  have hplace : (e.thread t).place = binFor (left.part p) t.pg pc := place_fileThread w hlen
  have hbins : ∀ pl, binFor (left.part p) t.pg pc = pl →
      (e.part p).bins = ((noteBin left p { pg := t.pg, pc := pc, age := 0, aged := false } pl).part p).bins := by
    rintro _ rfl
    exact bins_fileThread s t pc w p
  refine ⟨thread_fileThread_self w hlen, fun r => thread_fileThread_other w, bins_setPlace_of_not_bin _ p, bins_setPlace_of_bin _,
    fun n b hfind => ?keyed, fun hnone => ⟨fun n hn hfree hlow => ?free, fun hfull => ?full⟩, fileThread_frame s t pc w⟩
  case keyed =>
    have hbin := binFor_keyed (p := left.part p) hfind
    refine ⟨hplace.trans hbin, (hbins _ hbin).trans (bins_noteBin_taken _ (isSome_tget?_of_mem (List.mem_of_find?_eq_some hfind)))⟩
  case free =>
    have hbin := binFor_free (p := left.part p) hnone hn hfree hlow
    have hput := (hbins _ hbin).trans (bins_noteBin_free _ hfree)
    refine ⟨hplace.trans hbin, ?_, fun m hm => ?_⟩
    · rw [hput, tget?_tput, if_pos rfl]
    · rw [hput, tget?_tput, if_neg hm]
  case full =>
    have hbin := binFor_full (p := left.part p) hnone hfull
    exact ⟨hplace.trans hbin, hbins _ hbin⟩

end Sys2Proof.Machine

/-! The Ladle's acceptance and a core group's engine leave the slot and the clk as they are (06 R131; 11 R238-R242; 12 R276). -/

namespace Sys2Proof.Machine

-- One proof after the other: the check's memory limit counts the stack of every thread that elaborates a proof.
set_option Elab.async false

/-- The clk, and the deterministic schedule of every core group. -/
def timing (s : State) : Nat × (Nat → Dsm) := (s.clk, fun k => (s.cg k).dsm)

theorem clk_of_timing {a b : State} (h : timing a = timing b) : a.clk = b.clk := congrArg Prod.fst h

theorem dsm_of_timing {a b : State} (h : timing a = timing b) (k : Nat) : (a.cg k).dsm = (b.cg k).dsm :=
  congrFun (congrArg Prod.snd h) k

section

variable (s : State)

theorem timing_modCore (k : Nat) (f : Core → Core) : timing (modCore s k f) = timing s := rfl
theorem timing_modDie (k : Nat) (f : Die → Die) : timing (modDie s k f) = timing s := rfl
theorem timing_modWindow (f : Memory → Memory) : timing (modWindow s f) = timing s := rfl

theorem timing_modCg (k : Nat) {f : CoreGroup → CoreGroup} (h : ∀ g, (f g).dsm = g.dsm) : timing (modCg s k f) = timing s := by
  refine Prod.ext rfl (funext fun j => ?_)
  dsimp only [timing]
  rw [cg_modCg]
  split
  next hj => rw [h, hj]
  next => rfl

/-! Memory as an engine sees it (08). -/

theorem timing_homeWrite (own : Option Nat) (pa : Nat) (bs : List Byte) : timing (homeWrite s own pa bs) = timing s := by
  unfold homeWrite
  exact ite_keeps rfl rfl

theorem timing_l2Line (die n : Nat) : timing (l2Line s die n).1 = timing s := by
  unfold l2Line l2Fill
  split <;> rfl

theorem timing_sendHome (die space lid va : Nat) (stamps : List ThreadRef) (parts : List (Nat × List Byte)) :
    timing (sendHome s die space lid va stamps parts) = timing s := by
  unfold sendHome
  split
  · rfl
  · refine ite_keeps (foldl_keeps (g := timing) (fun a p => ?_) _ s) rfl
    exact timing_homeWrite ..

theorem timing_countAccess (core va type lid : Nat) (win : Bool) : timing (countAccess s core va type lid win) = timing s := by
  unfold countAccess
  exact ite_keeps rfl rfl

theorem timing_countRange (core va n type lid : Nat) (win : Bool) : timing (countRange s core va n type lid win) = timing s := by
  unfold countRange
  refine ite_keeps (foldl_keeps (g := timing) (fun a l => ?_) _ s) rfl
  exact timing_countAccess ..

theorem timing_countWalk (made : Option (Nat × Nat)) (va : Nat) : timing (countWalk s made va) = timing s := by
  unfold countWalk
  split
  · rfl
  · exact timing_countAccess ..

theorem timing_tableLine (die n : Nat) : timing (tableLine s die n).1 = timing s := by
  unfold tableLine
  exact ite_keeps (g := fun r : State × List Byte => timing r.1) (timing_l2Line ..) rfl

/-- One level after the other: its line is read, then the walk ends or goes on. -/
theorem timing_walkFrom (levels : List (Nat × Nat × Bool × Bool × Bool × Nat × Nat)) (die : Nat) (made : Option (Nat × Nat))
    (table va : Nat) : timing (walkFrom levels s die made table va).1 = timing s := by
  induction levels generalizing s table with
  | nil => rfl
  | cons x levels ih =>
    unfold walkFrom
    grind [timing_tableLine, timing_countWalk]

theorem timing_walk (core space va : Nat) : timing (walk s core space va).1 = timing s := by
  unfold walk walkDie
  split
  · rfl
  · exact timing_walkFrom ..

theorem timing_fillCoreTlb (core : Nat) (e : TlbEntry) : timing (fillCoreTlb s core e) = timing s := rfl

theorem timing_fillDieTlb (die : Nat) (e : TlbEntry) : timing (fillDieTlb s die e) = timing s := rfl

theorem timing_setAccessed (pte : Nat) : timing (setAccessed s pte) = timing s := timing_homeWrite ..

theorem timing_walkFill (core space va : Nat) (need : Need) : timing (walkFill s core space va need).1 = timing s := by
  unfold walkFill
  grind [timing_walk, timing_fillCoreTlb, timing_fillDieTlb, timing_setAccessed]

theorem timing_translate (core space a : Nat) (need : Need) : timing (translate s core space a need).1 = timing s := by
  unfold translate
  grind [timing_fillCoreTlb, timing_walkFill]

theorem timing_takeFrame (fuel die : Nat) : timing (takeFrame fuel s die).1 = timing s := by
  induction fuel generalizing s with
  | zero => rfl
  | succ k ih =>
    unfold takeFrame
    grind [timing_modDie]

theorem timing_fillLeaf (pte frame : Nat) (nc x w r : Bool) : timing (fillLeaf s pte frame nc x w r) = timing s :=
  timing_homeWrite ..

theorem timing_fillTranslate (core space a : Nat) (need : Need) : timing (fillTranslate s core space a need).1 = timing s := by
  unfold fillTranslate
  grind [timing_translate, timing_walk, timing_takeFrame, timing_fillLeaf, timing_modCore, timing_modDie]

theorem timing_pinTranslate (core owner space a : Nat) (need : Need) : timing (pinTranslate s core owner space a need).1 = timing s := by
  unfold pinTranslate
  grind [timing_fillTranslate, timing_modCore]

theorem timing_engineStore (core space lid va pa : Nat) (nc : Bool) (bs : List Byte) :
    timing (engineStore s core space lid va pa nc bs) = timing s := by
  refine (foldl_keeps (g := timing) (fun a p => ite_keeps ?_ ?_) _ _).trans (timing_modCore ..)
  · exact timing_homeWrite ..
  · exact (timing_sendHome ..).trans (timing_modDie ..)

theorem timing_engineLoad (core pa n : Nat) (nc : Bool) : timing (engineLoad s core pa n nc).1 = timing s := by
  refine ite_keeps (g := fun r : State × List Byte => timing r.1) rfl ?_
  refine foldl_keeps (g := fun r : State × List Byte => timing r.1) (fun r p => ?_) _ (s, [])
  exact timing_l2Line ..

theorem timing_engineRead (core owner space lid type a n : Nat) : timing (engineRead s core owner space lid type a n).1 = timing s := by
  refine foldl_keeps (g := fun r : State × Except (BitVec 8 × Nat) (List Byte) => timing r.1) (fun r p => ?_) _ (s, .ok [])
  grind [timing_pinTranslate, timing_countRange, timing_engineLoad]

theorem timing_engineWrite (core owner space lid a : Nat) (bs : List Byte) :
    timing (engineWrite s core owner space lid a bs).1 = timing s := by
  refine foldl_keeps (g := fun r : State × Option (BitVec 8 × Nat) => timing r.1) (fun r p => ?_) _ (s, none)
  grind [timing_pinTranslate, timing_countRange, timing_modWindow, timing_engineStore]

/-! What is attributed to an engine operation (09 R215; 20 R366; 22 R383). -/

theorem timing_raceRecord (die first second lid va : Nat) : timing (raceRecord s die first second lid va) = timing s := by
  unfold raceRecord
  extract_lets cap src v a src'
  have ha : timing a = timing s := timing_homeWrite ..
  clear_value src' a
  split
  · rfl
  · exact ha

theorem timing_countWriter (core lid id pa va : Nat) : timing (countWriter s core lid id pa va) = timing s := by
  unfold countWriter
  grind [timing_modDie, timing_raceRecord]

theorem timing_countEngine (o : EngOp) (va n : Nat) : timing (countEngine s o va n) = timing s := by
  refine ite_keeps (foldl_keeps (g := timing) (fun a l => ?_) _ s) rfl
  grind [timing_pinTranslate, timing_l2Line, timing_countWriter]

theorem timing_supersede (o : EngOp) (va : Nat) (bs : List Byte) : timing (supersede s o va bs) = timing s := rfl

theorem timing_deferWatch (th : ThreadRef) (site : WordAt) (va word : Nat) : timing (deferWatch s th site va word) = timing s := rfl

theorem timing_opWrite (o : EngOp) (va : Nat) (bs : List Byte) : timing (opWrite s o va bs).1 = timing s := by
  unfold opWrite
  grind [timing_engineWrite, timing_countEngine, timing_supersede, timing_deferWatch]

theorem timing_opRead (o : EngOp) (type va n : Nat) : timing (opRead s o type va n).1 = timing s := by
  unfold opRead
  grind [timing_engineRead]

/-! Operations that are accepted. -/

theorem timing_modTag (cg n : Nat) (f : TagState → TagState) : timing (modTag s cg n f) = timing s := timing_modCg _ _ fun _ => rfl

theorem timing_countOp (o : EngOp) : timing (countOp s o) = timing s := ite_keeps rfl (timing_modTag ..)

theorem timing_acceptCopies (core : Nat) : timing (acceptCopies s core) = timing s := by
  refine foldl_keeps (g := timing) (fun a o => ite_keeps (ite_keeps ?_ ?_) rfl) _ s <;> exact timing_countOp ..

theorem timing_acceptOps (core : Nat) : timing (acceptOps s core) = timing s :=
  foldl_keeps (g := timing) (by intro _ _; exact ite_keeps rfl rfl) _ s

/-! The Ladle (12 R270-R277). -/

/-- Where the Ladle has taken an operation, the clk and the schedules are those of the given state. -/
def LadleTiming (s : State) (e : LadleEnd) : Prop :=
  match e with
  | .done t _ => timing t = timing s
  | .full | .frame => True

variable {s}

theorem timing_commitTerm {o : EngOp} {k : Nat} {t : Term} {u : State} (h : commitTerm s o k t = some u) : timing u = timing s := by
  unfold commitTerm at h
  grind [timing_opWrite, putSlot, timing_modCore]

theorem timing_commitBuffered {o : EngOp} {k : Nat} {t : Term} {u : State} (h : commitBuffered s o k t = some u) :
    timing u = timing s := by
  unfold commitBuffered at h
  split at h
  · cases h; rfl
  next x _ => exact timing_commitTerm (s := putSlot s o.core k { x with terms := x.terms.erase t }) h

theorem ladleTiming_ofCommit {r : Option State} (h : ∀ u, r = some u → timing u = timing s) : LadleTiming s (.ofCommit r) := by
  cases r with
  | none => trivial
  | some u => exact h u rfl

theorem LadleTiming.of_timing {a : State} {e : LadleEnd} (h : LadleTiming a e) (ha : timing a = timing s) : LadleTiming s e := by
  cases e with
  | done t vals => exact Eq.trans h ha
  | full | frame => trivial

theorem ladleTiming_ite {c : Prop} [Decidable c] {d e : LadleEnd} (hd : LadleTiming s d) (he : LadleTiming s e) :
    LadleTiming s (if c then d else e) := by
  split
  · exact hd
  · exact he

/-- The loop on the fuel: an early commit makes room, then the term is offered again. -/
theorem ladleTiming_bufferTerm (fuel : Nat) (s : State) (o : EngOp) (k : Nat) (t : Term) : LadleTiming s (bufferTerm fuel s o k t) := by
  induction fuel generalizing s with
  | zero => rfl
  | succ n ih =>
    unfold bufferTerm
    split
    next => rfl
    next =>
      dsimp only
      refine ladleTiming_ite rfl (ladleTiming_ite trivial ?_)
      split
      next => rfl
      next =>
        refine ladleTiming_ite (ladleTiming_ofCommit fun u => timing_commitTerm) ?_
        split
        next => trivial
        next a ha =>
          have htiming := timing_commitBuffered ha
          exact ladleTiming_ite htiming ((ih a).of_timing htiming)

theorem ladleTiming_depositTerm (o : EngOp) (k : Nat) (x : LadleSlot) (t : Term) : LadleTiming s (depositTerm s o k x t) := by
  unfold depositTerm
  extract_lets a t
  refine ladleTiming_ite rfl (ladleTiming_ite rfl (ladleTiming_ite ?_ ?_))
  · exact ladleTiming_ofCommit fun u => timing_commitTerm
  · exact ladleTiming_bufferTerm ..

theorem ladleTiming_raiseMark (o : EngOp) (k : Nat) (x : LadleSlot) (key : Word) : LadleTiming s (raiseMark s o k x key) := by
  refine ladleTiming_ofCommit (List.foldlRecOn (motive := fun r : Option State => ∀ u, r = some u → timing u = timing s) _ _
    (by rintro _ ⟨⟩; rfl) fun r hr t _ => ?_)
  cases r with
  | none => exact hr
  | some a =>
    have ha : timing a = timing s := hr a rfl
    grind [timing_commitBuffered]

theorem ladleTiming_listEntry (o : EngOp) (x : LadleSlot) (p j : Nat) : LadleTiming s (listEntry s o x p j) := by
  unfold listEntry
  extract_lets n
  split
  · rfl
  · have hr := timing_opRead s o 6 (x.list + 4096 * p + 16 * (n - 1 - j)) 16
    split
    next e => rw [e] at hr; exact hr
    next e =>
      rw [e] at hr
      split
      · trivial
      · exact hr

variable (s)

theorem timing_releaseSlot (core k : Nat) : timing (releaseSlot s core k) = timing s := by
  unfold releaseSlot
  split
  · rfl
  · rw [timing_acceptOps, timing_acceptCopies]
    rfl

theorem timing_releaseFirst (core k : Nat) (kind : LadleKind) : timing (releaseFirst s core k kind) = timing s := by
  unfold releaseFirst
  split
  · exact timing_releaseSlot ..
  all_goals rfl

theorem ladleTiming_claimSlot (core k : Nat) (o : LadleOp) (d : List Byte) (owner : Nat) :
    LadleTiming s (claimSlot s core k o d owner) := by
  unfold claimSlot
  dsimp only
  split
  · trivial
  · exact timing_releaseSlot ..

theorem ladleTiming_applyLadle (core : Nat) (o : LadleOp) : LadleTiming s (applyLadle s core o) := by
  unfold applyLadle
  extract_lets +onlyGivenNames e
  split
  · exact ladleTiming_claimSlot ..
  · exact timing_releaseSlot ..
  all_goals
    split
    · rfl
    · split
      · exact ladleTiming_depositTerm ..
      · exact ladleTiming_raiseMark ..
      · rfl
      · exact ladleTiming_listEntry ..
      · rfl
      · rfl

theorem timing_readyPend (id : Option Nat) (vals : List Word) : timing (readyPend s id vals) = timing s := by
  unfold readyPend
  split <;> rfl

/-- Each operation in its turn: it stays, is taken, or waits. -/
theorem timing_acceptLadle (core now : Nat) : timing (acceptLadle s core now) = timing s := by
  refine foldl_keeps (g := fun r : State × List (LadleOp × Bool) => timing r.1) (fun r o => ?_) _ (s, [])
  dsimp only
  split
  · rfl
  · have hladle := ladleTiming_applyLadle r.1 core o
    split
    next a vals e =>
      rw [e] at hladle
      exact (timing_readyPend ..).trans hladle
    · exact timing_releaseFirst ..
    · rfl

end

end Sys2Proof.Machine

/-! The events of deterministic slots, barriers, timers and deferred watchpoints (06 R131, R133, R134; 14 R298, R310; 18 R335; 22 R383). -/

namespace Sys2Proof.Machine

-- One proof after the other: the check's memory limit counts the stack of every thread that elaborates a proof.
set_option Elab.async false

/-! What the events of an engine at a slot leave alone. -/

/-- The clk and the schedules, what waits before each core's Ladle, and memory. -/
def besideSlot (s : State) : (Nat × (Nat → Dsm)) × (Nat → List LadleOp) × Memory := (timing s, fun c => (s.core c).ladleQ, s.w.mem)

section

variable {a b : State} (h : besideSlot a = besideSlot b)

include h

theorem timing_of_besideSlot : timing a = timing b := congrArg Prod.fst h

theorem ladleQ_of_besideSlot (c : Nat) : (a.core c).ladleQ = (b.core c).ladleQ := congrFun (congrArg (fun x => x.2.1) h) c

theorem mem_of_besideSlot : a.w.mem = b.w.mem := congrArg (fun x => x.2.2) h

end

section

variable (s : State)

theorem besideSlot_modCore (k : Nat) {f : Core → Core} (h : ∀ c, (f c).ladleQ = c.ladleQ) :
    besideSlot (modCore s k f) = besideSlot s := by
  refine Prod.ext rfl (Prod.ext (funext fun c => ?_) rfl)
  dsimp only [besideSlot]
  rw [core_modCore]
  split
  next hc => rw [h, hc]
  next => rfl

theorem besideSlot_modEng (core : Nat) (f : Engine → Engine) : besideSlot (modEng s core f) = besideSlot s :=
  besideSlot_modCore s core fun _ => rfl

theorem besideSlot_modCg (k : Nat) {f : CoreGroup → CoreGroup} (h : ∀ g, (f g).dsm = g.dsm) :
    besideSlot (modCg s k f) = besideSlot s :=
  Prod.ext (timing_modCg s k h) rfl

theorem besideSlot_addLocks (core : Nat) (ls : List RLock) : besideSlot (addLocks s core ls) = besideSlot s :=
  besideSlot_modCore s core fun _ => rfl

theorem besideSlot_acceptOps (core : Nat) : besideSlot (acceptOps s core) = besideSlot s := by
  refine foldl_keeps (g := besideSlot) (fun a o => ite_keeps ?_ rfl) _ s
  exact (besideSlot_addLocks ..).trans (besideSlot_modEng ..)

theorem besideSlot_requestEngine (pg : Nat) : besideSlot (requestEngine s pg) = besideSlot s := by
  unfold requestEngine
  exact ite_keeps rfl (besideSlot_modEng ..)

theorem besideSlot_offerOp (pg : Nat) (kind : MatKind) (tiles : BitVec 16) (tid : Nat) (site : WordAt) (waiters : List (Nat × Nat)) :
    besideSlot (offerOp s pg kind tiles tid site waiters) = besideSlot s := by
  unfold offerOp
  dsimp only
  rw [besideSlot_acceptOps, besideSlot_modEng, besideSlot_requestEngine]
  rfl

/-- The loop on the fuel: the latch that has closed is taken out, then its operation is offered or its tiles fail. -/
theorem besideSlot_closeLatch (fuel cg : Nat) (members : List Nat) : besideSlot (closeLatch fuel s cg members) = besideSlot s := by
  induction fuel generalizing s with
  | zero => rfl
  | succ k ih =>
    unfold closeLatch
    extract_lets g heads here xs a
    have ha : besideSlot a = besideSlot s := besideSlot_modCg _ _ fun _ => rfl
    clear_value heads a
    obtain _ | ⟨⟨m0, _ | x0⟩, l⟩ := heads
    · rfl
    · rfl
    · refine ite_keeps ?_ rfl
      rw [ih, ← ha]
      refine ite_keeps (besideSlot_offerOp ..) (foldl_keeps (g := besideSlot) (fun b q => ?_) _ a)
      exact besideSlot_modEng ..

theorem besideSlot_settleGangs (cg : Nat) : besideSlot (settleGangs s cg) = besideSlot s := by
  unfold settleGangs
  extract_lets +onlyGivenNames g here formed
  clear_value formed
  split
  · exact besideSlot_modCg _ _ fun _ => rfl
  · extract_lets +onlyGivenNames gone
    clear_value gone
    split
    · refine (besideSlot_modCg _ _ (by exact fun _ => rfl)).trans ((besideSlot_modEng ..).trans ?_)
      exact ite_keeps (besideSlot_modEng ..) rfl
    · rfl

theorem besideSlot_slotEngine (cg : Nat) : besideSlot (slotEngine s cg) = besideSlot s := by
  unfold slotEngine
  dsimp only
  rw [besideSlot_acceptOps, foldl_keeps (g := besideSlot) fun a _ => besideSlot_settleGangs a cg]
  exact foldl_keeps (g := besideSlot) (fun a m => besideSlot_closeLatch a _ cg m) _ s

theorem besideSlot_advancePart (part : Nat) : besideSlot (advancePart s part) = besideSlot s := by
  unfold advancePart
  extract_lets +onlyGivenNames ov held a w b
  exact ite_keeps rfl rfl

end

/-! A slot passes, or a phase boundary (06 R131, R133). -/

section

variable {s : State} {cg : Nat}

theorem dsmSlotAdvance_of_not
    (h : dsmCg s cg = false ∨ (s.cg cg).dsm.advanced = true ∨ dsmFrozen s cg = true ∨ slotReady s cg = false) :
    exec (.dsmSlotAdvance cg) s = .next s := by
  rw [show exec (.dsmSlotAdvance cg) s = execDsmSlotAdvance cg s from rfl]
  unfold execDsmSlotAdvance
  refine if_pos ?_
  rcases h with h | h | h | h <;> simp [h]

/-- Every partition of the core group has passed the slot. -/
def partsPassed (s : State) (cg : Nat) : State :=
  (partsOfCore (s.cg cg).core).foldl (fun s p => if (tget? s.w.parts p).isSome then advancePart s p else s)
    ((partsOfCore (s.cg cg).core).foldl (fun a p => askFetches a p (s.cg cg).dsm.slot) s)

/-- The core group has passed it too. -/
def slotPassed (s : State) (cg : Nat) : State :=
  modCg (partsPassed s cg) cg fun x => { x with dsm := { x.dsm with slot := x.dsm.slot + 1, advanced := true, phaseDone := false } }

/-- The state after the slot: then the engine's events of the new slot, and what the Ladle accepts in it. -/
def slotAdvanced (s : State) (cg : Nat) : State :=
  acceptLadle (slotEngine (slotPassed s cg) cg) (s.cg cg).core ((s.cg cg).dsm.slot + 1)

theorem dsmSlotAdvance_goes (hdsm : dsmCg s cg = true) (hnot : (s.cg cg).dsm.advanced = false) (hruns : dsmFrozen s cg = false)
    (hready : slotReady s cg = true) : exec (.dsmSlotAdvance cg) s = .next (slotAdvanced s cg) := by
  rw [show exec (.dsmSlotAdvance cg) s = execDsmSlotAdvance cg s from rfl]
  unfold execDsmSlotAdvance
  refine if_neg ?_
  simp [hdsm, hnot, hruns, hready]

theorem besideSlot_partsPassed (s : State) (cg : Nat) : besideSlot (partsPassed s cg) = besideSlot s := by
  have hasked := foldl_keeps (g := besideSlot) (f := fun a p => askFetches a p (s.cg cg).dsm.slot) (by intro _ _; rfl)
    (partsOfCore (s.cg cg).core) s
  refine (foldl_keeps (g := besideSlot) (fun a p => ite_keeps ?_ rfl) _ _).trans hasked
  exact besideSlot_advancePart ..

theorem timing_slotAdvanced (s : State) (cg : Nat) : timing (slotAdvanced s cg) = timing (slotPassed s cg) :=
  (timing_acceptLadle ..).trans (timing_of_besideSlot (besideSlot_slotEngine ..))

/-- Only the core group itself passes to the next slot: clk, memory and what waits before the Ladles are as they were. -/
theorem slotPassed_spec (s : State) (cg : Nat) : ((slotPassed s cg).cg cg).dsm
      = { (s.cg cg).dsm with slot := (s.cg cg).dsm.slot + 1, advanced := true, phaseDone := false }
    ∧ (slotPassed s cg).clk = s.clk ∧ (slotPassed s cg).w.mem = s.w.mem
    ∧ ∀ c, ((slotPassed s cg).core c).ladleQ = (s.core c).ladleQ := by
  have hbeside := besideSlot_partsPassed s cg
  unfold slotPassed
  generalize partsPassed s cg = a at hbeside ⊢
  have htiming := timing_of_besideSlot hbeside
  have hclk := clk_of_timing htiming
  have hmem := mem_of_besideSlot hbeside
  have hladleQ := ladleQ_of_besideSlot hbeside
  rw [cg_modCg, if_pos rfl, dsm_of_timing htiming]
  exact ⟨rfl, hclk, hmem, hladleQ⟩

theorem dsm_slotAdvanced (s : State) (cg : Nat) : ((slotAdvanced s cg).cg cg).dsm
    = { (s.cg cg).dsm with slot := (s.cg cg).dsm.slot + 1, advanced := true, phaseDone := false } :=
  (dsm_of_timing (timing_slotAdvanced s cg) cg).trans (slotPassed_spec s cg).1

theorem clk_slotAdvanced (s : State) (cg : Nat) : (slotAdvanced s cg).clk = s.clk :=
  (clk_of_timing (timing_slotAdvanced s cg)).trans (slotPassed_spec s cg).2.1

theorem acceptLadle_of_nil {core : Nat} (now : Nat) (h : (s.core core).ladleQ = []) : acceptLadle s core now = s := by
  unfold acceptLadle
  rw [h]
  rfl

/-- Where nothing waits before the Ladle, a slot leaves memory as it is. -/
theorem mem_slotAdvanced (h : (s.core (s.cg cg).core).ladleQ = []) : (slotAdvanced s cg).w.mem = s.w.mem := by
  have hengine := besideSlot_slotEngine (slotPassed s cg) cg
  obtain ⟨-, -, hmem, hladleQ⟩ := slotPassed_spec s cg
  have hqueue : ((slotEngine (slotPassed s cg) cg).core (s.cg cg).core).ladleQ = [] := by
    rw [ladleQ_of_besideSlot hengine, hladleQ, h]
  unfold slotAdvanced
  rw [acceptLadle_of_nil _ hqueue, mem_of_besideSlot hengine, hmem]

theorem dsmPhaseBoundary_of_not (h : phaseHeld s cg = false ∨ slotReady s cg = false ∨ unaccepted s cg = true) :
    exec (.dsmPhaseBoundary cg) s = .next s := by
  rw [show exec (.dsmPhaseBoundary cg) s = execDsmPhaseBoundary cg s from rfl]
  unfold execDsmPhaseBoundary
  refine if_neg ?_
  rcases h with h | h | h <;> simp [h]

theorem dsmPhaseBoundary_goes (hdsm : dsmCg s cg = true) (hheld : phaseHeld s cg = true) (hready : slotReady s cg = true)
    (haccepted : unaccepted s cg = false) (hahead : ∀ e ∈ s.w.cgs, neighbours (s.cg cg) e.2 = true → e.2.ended = false →
      (s.cg cg).dsm.slot / Config.phaseSlots ≤ e.2.dsm.slot / Config.phaseSlots + 1) :
    exec (.dsmPhaseBoundary cg) s = .next (modCg s cg fun x =>
      { x with dsm := { x.dsm with phaseDone := true, limit := (s.cg cg).dsm.slot / Config.phaseSlots + 1 } }) := by
  rw [show exec (.dsmPhaseBoundary cg) s = execDsmPhaseBoundary cg s from rfl]
  unfold execDsmPhaseBoundary
  extract_lets g p ahead
  have hall : ahead = true := by
    refine List.all_eq_true.2 fun e he => ?_
    unfold phaseOf
    cases hnear : neighbours g e.2 with
    | false => rfl
    | true =>
      cases hended : e.2.ended with
      | true => rfl
      | false => exact decide_eq_true (hahead e he hnear hended)
  rw [hdsm, hheld, hready, haccepted, hall]
  rfl

end

/-! What is delivered at a slot (06 R134). -/

section

variable {s : State} {cg id : Nat}

/-- The event whose slot has come is no longer due. -/
def eventTaken (s : State) (cg : Nat) (d : Nat × Nat) : State :=
  modCg s cg fun x => { x with dsm := { x.dsm with due := x.dsm.due.filter fun y => y != d } }

theorem dsmEventDelivery_of_not (h : ∀ d ∈ (s.cg cg).dsm.due, d.1 = id → (s.cg cg).dsm.slot < d.2) :
    exec (.dsmEventDelivery cg id) s = .next s := by
  have hnone : ((s.cg cg).dsm.due.find? fun d => decide (d.1 = id) && decide (d.2 ≤ (s.cg cg).dsm.slot)) = none :=
    List.find?_eq_none.2 fun d hd => by simpa using h d hd
  rw [show exec (.dsmEventDelivery cg id) s = execDsmEventDelivery cg id s from rfl]
  unfold execDsmEventDelivery
  simp only [hnone]

section

variable {d : Nat × Nat} (h : ((s.cg cg).dsm.due.find? fun d => decide (d.1 = id) && decide (d.2 ≤ (s.cg cg).dsm.slot)) = some d)

include h

theorem dsmEventDelivery_release (hid : id < 2 ^ 60) :
    let a := eventTaken s cg d
    exec (.dsmEventDelivery cg id) s
      = .next (releaseWaiters a (pgKeysOf a cg) ((id - 2 ^ 40) / 65536) (BitVec.ofNat 16 (id % 65536))) := by
  intro a
  rw [show exec (.dsmEventDelivery cg id) s = execDsmEventDelivery cg id s from rfl]
  unfold execDsmEventDelivery
  simp only [h]
  exact if_neg (Nat.not_le.2 hid)

theorem dsmEventDelivery_start (hid : 2 ^ 60 ≤ id) (hout : (s.launch (s.cg cg).lid).out ≠ 3) :
    let t : ThreadRef := { pg := (id - 2 ^ 60) / 1024, tid := (id - 2 ^ 60) % 1024 }
    exec (.dsmEventDelivery cg id) s = .next (beginTask (eventTaken s cg d) t ((eventTaken s cg d).thread t).task) := by
  intro t
  rw [show exec (.dsmEventDelivery cg id) s = execDsmEventDelivery cg id s from rfl]
  unfold execDsmEventDelivery
  simp only [h]
  refine (if_pos hid).trans (congrArg Host.Outcome.next (if_neg ?_))
  exact hout

end

end

/-! The commit of a closed phase (14 R310). -/

section

variable {s : State} {lid : Nat}

theorem nextCommit_mem {a : Acc} (h : nextCommit s lid = some a) : a ∈ s.w.accs := by
  unfold nextCommit at h
  extract_lets closed at h
  suffices hmem : a ∈ s.w.accs.filter fun a => decide (a.lid = lid) && a.key.isSome && closed a from (List.mem_filter.1 hmem).1
  refine List.foldlRecOn (motive := fun best => ∀ y, best = some y → y ∈ s.w.accs.filter fun a =>
    decide (a.lid = lid) && a.key.isSome && closed a) _ _ (by rintro _ ⟨⟩) (fun best hbest x hx y hy => ?_) a h
  cases best with
  | none => cases hy; exact hx
  | some b =>
    dsimp only at hy
    split at hy
    · cases hy; exact hx
    · exact hbest y hy

theorem dsmPhaseCommit_none (h : nextCommit s lid = none) : exec (.dsmPhaseCommit lid) s = .next s := by
  rw [show exec (.dsmPhaseCommit lid) s = .next (commitPhase s.w.accs.length s lid) from rfl]
  cases s.w.accs.length with
  | zero => rfl
  | succ k =>
    unfold commitPhase
    rw [h]

/-- The lowest access is performed, and the others follow. -/
theorem dsmPhaseCommit_some {a : Acc} {u : State} (h : nextCommit s lid = some a) (hframe : a.stage ≠ .frame)
    (hfirst : acquireFirst s a = false) (hstarts : startsBefore s lid (a.key.getD (0, 0)).1 = false) (hdone : performAcc s a = (u, true)) :
    exec (.dsmPhaseCommit lid) s = .next (commitPhase (s.w.accs.length - 1) u lid) := by
  rw [show exec (.dsmPhaseCommit lid) s = .next (commitPhase s.w.accs.length s lid) from rfl]
  obtain ⟨k, hk⟩ := Nat.exists_eq_succ_of_ne_zero (List.length_pos_of_mem (nextCommit_mem h)).ne'
  rw [hk, commitPhase, h]
  simp only [hframe, hfirst, hstarts, hdone, decide_false, Bool.or_self, Bool.false_eq_true, if_false]
  rfl

end

/-! Releases, timers and deferred watchpoints (14 R298; 18 R335; 22 R383). -/

section

variable {s : State} {lid bar pg tid id : Nat}

theorem barrierRelease_of_not (h : (s.pg (bar / 24)).lid ≠ lid ∨ releaseDue s (bar / 24) (bar % 24) = none) :
    exec (.barrierRelease lid bar) s = .next s := by
  rw [show exec (.barrierRelease lid bar) s = execBarrierRelease lid bar s from rfl]
  unfold execBarrierRelease
  rcases h with h | h
  · exact if_pos h
  · simp only [h]
    exact ite_self _

theorem barrierRelease_due {gen : BitVec 16} (hlid : (s.pg (bar / 24)).lid = lid) (hdue : releaseDue s (bar / 24) (bar % 24) = some gen) :
    let a := modBar s (bar / 24) (bar % 24) fun x => { x with rels := x.rels.filter fun r => r.1 != gen }
    exec (.barrierRelease lid bar) s = .next (releaseWaiters a (tierPgs a (bar / 24) (bar % 24)) (bar % 24) gen) := by
  rw [show exec (.barrierRelease lid bar) s = execBarrierRelease lid bar s from rfl]
  unfold execBarrierRelease
  simp only [hdue]
  exact if_neg (not_not_intro hlid)

theorem watchpointDeferred_none (h : ∀ d ∈ s.w.deferred, d.id ≠ id) : exec (.watchpointDeferred id) s = .next s := by
  have hnone : (s.w.deferred.find? fun d => d.id = id) = none := List.find?_eq_none.2 fun d hd => by simpa using h d hd
  rw [show exec (.watchpointDeferred id) s = execWatchpointDeferred id s from rfl]
  unfold execWatchpointDeferred
  rw [hnone]

/-- A deferred watchpoint is no longer kept. -/
def watchTaken (s : State) (id : Nat) : State := { s with w := { s.w with deferred := s.w.deferred.filter fun x => x.id != id } }

theorem watchpointDeferred_owed {d : Deferred} (h : (s.w.deferred.find? fun d => d.id = id) = some d) (hlive : (s.thread d.th).live = true)
    (hborn : (s.thread d.th).born ≤ d.word) (hfree : (s.thread d.th).pendTrap = none) : exec (.watchpointDeferred id) s
      = .next (watchTaken (oweTrap s d.th (trapEntry s d.th (memTrap 0x15 d.va) d.site true)) id) := by
  rw [show exec (.watchpointDeferred id) s = execWatchpointDeferred id s from rfl]
  unfold execWatchpointDeferred
  rw [h]
  simp only [hlive, hborn, hfree, decide_true, Bool.and_self, if_true, Option.isSome_none, Bool.false_eq_true, if_false]
  rfl

/-- A thread that owes no trap comes to owe one, and nothing else changes. -/
theorem oweTrap_of_none {t : ThreadRef} (e : TqEntry) (h : (s.thread t).pendTrap = none) :
    oweTrap s t e = modThread s t fun x => { x with pendTrap := some e } := by
  unfold oweTrap
  rw [h]

theorem pendTrap_watchTaken {t : ThreadRef} (e : TqEntry) (h : (s.thread t).pendTrap = none)
    (hlen : t.tid < (s.pg t.pg).threads.length) : ((watchTaken (oweTrap s t e) id).thread t).pendTrap = some e := by
  rw [oweTrap_of_none e h]
  change ((modThread s t _).thread t).pendTrap = some e
  rw [thread_modThread, if_pos ⟨rfl, hlen⟩]

theorem deferred_watchTaken {t : ThreadRef} (e : TqEntry) (h : (s.thread t).pendTrap = none) :
    (watchTaken (oweTrap s t e) id).w.deferred = s.w.deferred.filter fun x => x.id != id := by
  rw [oweTrap_of_none e h]
  rfl

end

/-- Settles O46, event by event: slots and phase boundaries, deliveries, commits, releases, timers, deferred watchpoints. -/
theorem slotBarrierAndTimerEvents : Obligations.SlotBarrierAndTimerEvents := by
  intro s cg lid id bar pg tid g t
  refine ⟨dsmSlotAdvance_of_not, fun hdsm hnot hruns hready => ?slot, dsmPhaseBoundary_of_not, dsmPhaseBoundary_goes,
    dsmEventDelivery_of_not, fun d hd => ⟨dsmEventDelivery_release hd, dsmEventDelivery_start hd⟩, dsmPhaseCommit_none,
    fun a u => dsmPhaseCommit_some, barrierRelease_of_not, fun gen => barrierRelease_due, rfl, watchpointDeferred_none,
    fun d hd hlive hborn hfree hlen => ?watch⟩
  case slot =>
    refine ⟨slotAdvanced s cg, dsmSlotAdvance_goes hdsm hnot hruns hready, ?_, ?_, clk_slotAdvanced s cg, mem_slotAdvanced⟩ <;>
      rw [dsm_slotAdvanced]
  case watch =>
    exact ⟨_, watchpointDeferred_owed hd hlive hborn hfree, deferred_watchTaken _ hfree, _, pendTrap_watchTaken _ hfree hlen,
      rfl, rfl, rfl, rfl, rfl⟩

end Sys2Proof.Machine

/-! The integer words (07 R148, R149). -/

namespace Sys2Proof.Machine

-- One proof after the other: the check's memory limit counts the stack of every thread that elaborates a proof.
set_option Elab.async false

section

variable {i : Instr} {w : Wd} {ty : Ty} {sat : Bool} {b c : Int}

/-- The model's step after exact arithmetic gives the result that the statements name. -/
theorem outTy_intStep (ty : Ty) (sat : Bool) (d : Nat) (x : Int) :
    outTy ty d (intStep ty sat x).1 (intStep ty sat x).2 = intResult ty sat d x := by
  unfold intResult intStep
  cases sat with
  | false => simp
  | true => by_cases hx : satInt ty x = x <;> simp [hx]

theorem givesResults_of_intWord {lat : Nat} {f : Int → Int → Int} (h : ∀ s, exec i s = intWord s w lat ty sat f) :
    givesResults i w.ctl lat false fun s _ t => intResult ty sat (vNum w.a) (f (srcInt s t ty w.b) (srcInt s t ty w.c)) :=
  givesResults_of_laneWord _ _ _ _ _ fun s => by simp only [h, intWord, outTy_intStep]

/-- IMAD (07 R148): A is the addend. -/
theorem givesResults_imad (w : Wd) (ty : Ty) (sat : Bool) : givesResults (.imad w ty sat) w.ctl 6 false fun s _ t =>
    intResult ty sat (vNum w.a) (srcInt s t ty w.b * srcInt s t ty w.c + srcInt s t ty w.a) :=
  givesResults_of_laneWord _ _ _ _ _ fun s => by
    simp only [← outTy_intStep]
    rfl

/-- In 64 bits the residue of an unsigned type is the whole word. -/
theorem wrapBits_n64 (x : Int) : wrapBits .n64 x = BitVec.ofInt 64 x :=
  BitVec.eq_of_toNat_eq (by simp [wrapBits, Ty.isSigned, Ty.bits, BitVec.toNat_ofInt])

/-- LEA (07 R148): the shifted index on the 64-bit base. -/
theorem givesResults_lea (w : Wd) (ty : Ty) (sh : BitVec 3) : givesResults (.lea w ty sh) w.ctl 4 false fun s _ t =>
    out2 (vNum w.a) (srcPair s t w.b + BitVec.ofInt 64 (srcInt s t ty w.c * 2 ^ sh.toNat)) 0 := by
  have hsum (x : DWord) (y : Int) : wrapBits .n64 (x.toNat + y) = x + BitVec.ofInt 64 y := by
    rw [wrapBits_n64, BitVec.ofInt_add, BitVec.ofInt_natCast, BitVec.ofNat_toNat, BitVec.setWidth_eq]
  refine givesResults_of_laneWord _ _ _ _ _ fun s => ?_
  simp only [← hsum]
  rfl

/-- Settles O1: what each word gives is the model's step on its exact value; IMAD and LEA read a third source. -/
theorem integerWordsGiveTheirExactValue : Obligations.IntegerWordsGiveTheirExactValue := by
  intro w ty sat sh
  refine ⟨⟨givesResults_of_intWord (f := (· + ·)) fun _ => rfl, givesResults_of_intWord (f := (· - ·)) fun _ => rfl,
    givesResults_of_intWord (f := (· * ·)) fun _ => rfl, givesResults_of_intWord (f := fun b c => b * c / 2 ^ 32) fun _ => rfl,
    givesResults_imad w ty sat, ?imin, ?imax, givesResults_of_intWord (f := (· + ·)) fun _ => rfl,
    givesResults_of_intWord (f := (· * ·)) fun _ => rfl⟩, ?iabs, givesResults_lea w ty sh⟩
  case imin =>
    simp only [← min_def]
    exact givesResults_of_intWord (f := min) fun _ => rfl
  case imax =>
    simp only [← max_def]
    exact givesResults_of_intWord (f := max) fun _ => rfl
  case iabs =>
    simp only [Int.abs_eq_natAbs]
    exact givesResults_of_intWord (f := fun b _ => b.natAbs) fun _ => rfl

/-! Quotient and remainder (07 R149): a zero divisor, the quotient that overflows, and every other pair. -/

/-- The quotient that no signed type holds: its least value by -1. -/
abbrev overflows (ty : Ty) (b c : Int) : Prop := ty.isSigned = true ∧ b = -(2 ^ (ty.bits - 1)) ∧ c = -1

theorem divide_zero : divide ty sat b 0 = (if ty.isSigned then -1 else 2 ^ ty.bits - 1, b, 0) := by simp [divide]

theorem divide_of_overflows (h : overflows ty b c) : divide ty sat b c
    = (if sat then 2 ^ (ty.bits - 1) - 1 else -(2 ^ (ty.bits - 1)), 0, flagIf sat flSat) := by
  obtain ⟨hs, rfl, rfl⟩ := h
  simp [divide, hs]

theorem divide_of_holds (hc : c ≠ 0) (h : ¬ overflows ty b c) : divide ty sat b c = (b.tdiv c, b.tmod c, 0) := by
  have hmod : b - b.tdiv c * c = b.tmod c := by rw [Int.tmod_def, Int.mul_comm]
  have h' : ¬ (ty.isSigned && decide (b = -(2 ^ (ty.bits - 1))) && decide (c = -1)) = true := by
    simpa [overflows, and_assoc] using h
  rw [divide, if_neg hc, if_neg h', hmod]

theorem wrapBits_congr {x y : Int} (h : x % 2 ^ ty.bits = y % 2 ^ ty.bits) : wrapBits ty x = wrapBits ty y := by
  simp only [wrapBits, h]

/-- The quotient by zero (07 R149): the greatest unsigned value is the pattern of -1. -/
theorem wrapBits_zero_quotient : wrapBits ty (if ty.isSigned then -1 else 2 ^ ty.bits - 1) = wrapBits ty (-1) := by
  refine wrapBits_congr ?_
  split
  · rfl
  · rw [Int.sub_eq_add_neg, Int.add_emod_left]

/-- The result of a division by the table of R149, its corners in the order zero divisor, overflow. -/
theorem outTy_divide (ty : Ty) (sat rem : Bool) (d : Nat) (b c : Int) :
    outTy ty d (wrapBits ty (if rem then (divide ty sat b c).2.1 else (divide ty sat b c).1)) (divide ty sat b c).2.2
      = outTy ty d (wrapBits ty (if rem then (if c = 0 then b else b.tmod c) else if c = 0 then -1
          else if overflows ty b c then (if sat then -(-(2 ^ (ty.bits - 1))) - 1 else -(2 ^ (ty.bits - 1))) else b.tdiv c))
        (if overflows ty b c ∧ sat then flSat else 0) := by
  by_cases hc : c = 0
  · subst hc
    have h : ¬ overflows ty b 0 := fun h => absurd h.2.2 (by decide)
    cases rem <;> simp [divide_zero, wrapBits_zero_quotient, h]
  · by_cases h : overflows ty b c
    · have hmod : b.tmod c = 0 := by rw [h.2.2, Int.tmod_neg, Int.tmod_one]
      have hflag : (if overflows ty b c ∧ sat then flSat else 0) = flagIf sat flSat := if_congr (and_iff_right h) rfl rfl
      rw [divide_of_overflows h, if_neg hc, if_neg hc, if_pos h, hmod, hflag, neg_neg]
    · rw [divide_of_holds hc h]
      simp only [if_neg hc, h, false_and, if_false]

/-- Settles O3: the divider's reservation goes before one result per lane, which is the table of R149. -/
theorem divideGivesQuotientOrRemainder : Obligations.DivideGivesQuotientOrRemainder := by
  intro w ty sat rem
  have h := givesResults_of_busy (.idivn w ty sat rem) w.ctl (if ty.is64 then 68 else 36)
    (fun s _ t =>
      let r := divide ty sat (srcInt s t ty w.b) (srcInt s t ty w.c)
      outTy ty (vNum w.a) (wrapBits ty (if rem then r.2.1 else r.1)) r.2.2)
    (fun s ix p => { p with divFree := timeOf s ix.cg + if ty.is64 then 68 else 36 }) (fun _ => rfl) fun _ _ _ _ => rfl
  simp only [outTy_divide] at h
  exact h

end

end Sys2Proof.Machine

/-! Bits, shifts and moves (07 R151, R154): words that are summed up bit by bit. -/

namespace Sys2Proof.Machine

-- One proof after the other: the check's memory limit counts the stack of every thread that elaborates a proof.
set_option Elab.async false

/-! Shifts by 32 and more. -/

theorem shiftLeft_clamped (b : Word) (n : Nat) : b <<< n = if 31 < n then 0 else b <<< n := by
  split
  · exact BitVec.shiftLeft_eq_zero (by omega)
  · rfl

theorem ushiftRight_clamped (b : Word) (n : Nat) : b >>> n = if 31 < n then 0 else b >>> n := by
  split
  · exact BitVec.ushiftRight_eq_zero (by omega)
  · rfl

theorem sshiftRight_clamped (b : Word) (n : Nat) : b.sshiftRight n = b.sshiftRight (Nat.min n 31) := by
  by_cases hn : n ≤ 31
  · rw [show Nat.min n 31 = n from Nat.min_eq_left hn]
  · rw [show Nat.min n 31 = 31 from Nat.min_eq_right (by omega)]
    refine BitVec.eq_of_getLsbD_eq fun i hi => ?_
    rw [BitVec.getLsbD_sshiftRight, BitVec.getLsbD_sshiftRight, if_neg (by omega)]
    split
    · next h =>
      obtain rfl : i = 0 := by omega
      rw [BitVec.msb_eq_getLsbD_last]
    · rfl

/-! Words by their bits. -/

/-- The count of the elements that have a property is the sum of its truth values. -/
theorem length_filter_eq_sum {α : Type} (p : α → Bool) (l : List α) : (l.filter p).length = (l.map fun a => bnat (p a)).sum := by
  induction l with
  | nil => rfl
  | cons a l ih =>
    rw [List.map_cons, List.sum_cons, ← ih]
    cases h : p a <;> simp [h, bnat, Nat.add_comm]

theorem popCount_eq_sum (x : Word) : popCount x = ((List.range 32).map fun i => bnat (x.getLsbD i)).sum := length_filter_eq_sum _ _

/-- A sum that puts each bit of a list of numbers below 32 at a place of its own is the word with these bits. -/
theorem word_foldl_bits {n : Nat} (p : Nat → Bool) (place : Nat → Nat) (hplace : ∀ j < n, place j < 32)
    (hinj : ∀ j < n, ∀ k < n, place j = place k → j = k) (i : Nat) :
    (word ((List.range n).foldl (fun m j => m + bnat (p j) * 2 ^ place j) 0)).getLsbD i
      = (List.range n).any fun j => p j && decide (i = place j) := by
  have hfold := getLsbD_foldl_add_bit_of_zero (w := 32) ((List.range n).map fun j => (p j, place j)) ?_ ?_ i
  · simpa [List.foldl_map, List.any_map, Function.comp_def, word] using hfold
  · rw [List.map_map]
    exact List.nodup_range.map_on fun j hj k hk h => hinj j (List.mem_range.1 hj) k (List.mem_range.1 hk) h
  · simpa using hplace

/-- Four numbers at the places of the powers of `b ^ 8`. The base is a variable: its powers as numerals are deep to check. -/
theorem sum_of_four (f : Nat → Nat) (b : Nat) :
    ((List.range 4).map fun k => f k * (b ^ 8) ^ k).sum = f 0 + f 1 * b ^ 8 + f 2 * b ^ 16 + f 3 * b ^ 24 := by
  simp [List.range_succ, Nat.add_assoc, ← pow_mul]

/-- BREV (07 R151): each bit at its mirrored place. -/
theorem word_reversed (b : Word) : word ((List.range 32).foldl (fun n i => n + if b.getLsbD i then 2 ^ (31 - i) else 0) 0)
    = BitVec.ofFnLE (n := 32) fun i => b.getLsbD (31 - i.val) := by
  have hbit (i : Nat) : (if b.getLsbD i then 2 ^ (31 - i) else 0) = bnat (b.getLsbD i) * 2 ^ (31 - i) := by
    cases b.getLsbD i <;> simp [bnat]
  simp only [hbit]
  refine BitVec.eq_of_getLsbD_eq fun i hi => ?_
  rw [word_foldl_bits _ _ (fun j _ => by omega) (fun j _ k _ h => by omega), BitVec.getLsbD_ofFnLE, dif_pos hi, Bool.eq_iff_iff,
    List.any_eq_true]
  constructor
  · rintro ⟨j, hj, h⟩
    simp only [Bool.and_eq_true, decide_eq_true_eq, List.mem_range] at hj h
    rw [show 31 - i = j by omega]
    exact h.1
  · exact fun h => ⟨31 - i, List.mem_range.2 (by omega), by rw [h, Bool.true_and, decide_eq_true_eq]; omega⟩

/-- P2V (07 R154): the seven predicates in the low bits. -/
theorem word_lowBits (p : Nat → Bool) : word ((List.range 7).foldl (fun n i => n + bnat (p i) * 2 ^ i) 0)
    = BitVec.ofFnLE (n := 32) fun i => decide (i.val < 7) && p i.val := by
  refine BitVec.eq_of_getLsbD_eq fun i hi => ?_
  rw [word_foldl_bits p (fun j => j) (fun j _ => by omega) (fun j _ k _ h => h), BitVec.getLsbD_ofFnLE, dif_pos hi, Bool.eq_iff_iff,
    List.any_eq_true]
  simp

/-! BFN3 (07 R151): two truth tables of two inputs. -/

theorem getLsbD_tableFn (fn : Nat) (x y : Word) {i : Nat} (hi : i < 32) :
    (tableFn fn x y).getLsbD i = bitAt fn (2 * bnat (y.getLsbD i) + bnat (x.getLsbD i)) := by
  have hif (p : Bool) (z : Word) : (if p then z else 0).getLsbD i = (p && z.getLsbD i) := by cases p <;> simp
  simp only [tableFn, BitVec.getLsbD_or, hif, BitVec.getLsbD_and, BitVec.getLsbD_not, hi, decide_true, Bool.true_and]
  cases x.getLsbD i <;> cases y.getLsbD i <;> simp [bnat]

theorem bitAt_div_sixteen (fn k : Nat) : bitAt (fn / 16) k = bitAt fn (4 + k) := by
  rw [bitAt, bitAt, Nat.shiftRight_add, Nat.shiftRight_eq_div_pow fn 4]

theorem bfn3_bits (fn : Nat) (p : DWord) (z : Word) :
    (tableFn fn (p.extractLsb' 0 32) (p.extractLsb' 32 32) &&& ~~~z)
        ||| (tableFn (fn / 16) (p.extractLsb' 0 32) (p.extractLsb' 32 32) &&& z)
      = BitVec.ofFnLE (n := 32) fun i =>
          bitAt fn (4 * bnat (z.getLsbD i.val) + 2 * bnat (p.getLsbD (32 + i.val)) + bnat (p.getLsbD i.val)) := by
  refine BitVec.eq_of_getLsbD_eq fun i hi => ?_
  rw [BitVec.getLsbD_ofFnLE, dif_pos hi, BitVec.getLsbD_or, BitVec.getLsbD_and, BitVec.getLsbD_and, getLsbD_tableFn _ _ _ hi,
    getLsbD_tableFn _ _ _ hi, bitAt_div_sixteen, BitVec.getLsbD_not, BitVec.getLsbD_extractLsb', BitVec.getLsbD_extractLsb']
  cases z.getLsbD i <;> simp [hi, bnat, Nat.add_assoc]

/-! The meanings in the words of R151. -/

section

variable (w : Wd) (s : State)

theorem execShl_eq : execShl w s = bitWord s w fun b c => if 31 < c.toNat then 0 else b <<< c.toNat := by
  simp only [execShl, ← shiftLeft_clamped]

theorem execShr_eq (arith : Bool) : execShr w arith s = bitWord s w fun b c =>
    if arith then b.sshiftRight (Nat.min c.toNat 31) else if 31 < c.toNat then 0 else b >>> c.toNat := by
  simp only [execShr, ← sshiftRight_clamped, ← ushiftRight_clamped]

theorem execPopc_eq : execPopc w s = bitWord1 s w fun b => word ((List.range 32).map fun i => bnat (b.getLsbD i)).sum := by
  simp only [execPopc, popCount_eq_sum]

theorem execBrev_eq : execBrev w s = bitWord1 s w fun b => BitVec.ofFnLE (n := 32) fun i => b.getLsbD (31 - i.val) := by
  simp only [execBrev, word_reversed]

theorem execBfn3_eq : execBfn3 w s = laneWord s w.ctl 4 false fun s _ t =>
    out1 (vNum w.a) (BitVec.ofFnLE (n := 32) fun i => bitAt (immNat w.c) (4 * bnat ((srcWord s t w.a).getLsbD i.val)
      + 2 * bnat ((srcPair s t w.b).getLsbD (32 + i.val)) + bnat ((srcPair s t w.b).getLsbD i.val))) 0 := by
  simp only [execBfn3, bfn3_bits]

theorem execBsel_eq : execBsel w s = laneWord s w.ctl 4 false fun s _ t =>
    let bytes := (srcWord s t w.b).toNat + (srcWord s t w.a).toNat * 2 ^ 32
    out1 (vNum w.a) (word ((List.range 4).map fun k => bselByte bytes (srcWord s t w.c).toNat k * 256 ^ k).sum) 0 := by
  have hsum (f : Nat → Nat) : ((List.range 4).map fun k => f k * 256 ^ k).sum = f 0 + f 1 * 2 ^ 8 + f 2 * 2 ^ 16 + f 3 * 2 ^ 24 :=
    sum_of_four f 2
  simp only [execBsel, hsum]

end

/-- Settles O4: each word is its function of the operands in one lane. -/
theorem bitWordsGiveTheirValue : Obligations.BitWordsGiveTheirValue := by
  intro w arith ty
  refine ⟨⟨?and, ?or, ?xor, ?andn, ?shl, ?shr, ?rotr, ?bfe, ?bfi, ?popc, ?clz⟩, ?brev, ?bfn3, ?bsel⟩
  case and | or | xor | andn | rotr | bfe | bfi | clz => exact givesResults_of_laneWord _ _ _ _ _ fun _ => rfl
  case shl => exact givesResults_of_laneWord _ _ _ _ _ fun s => execShl_eq w s
  case shr => exact givesResults_of_laneWord _ _ _ _ _ fun s => execShr_eq w s arith
  case popc => exact givesResults_of_laneWord _ _ _ _ _ fun s => execPopc_eq w s
  case brev => exact givesResults_of_laneWord _ _ _ _ _ fun s => execBrev_eq w s
  case bfn3 => exact givesResults_of_laneWord _ _ _ _ _ fun s => execBfn3_eq w s
  case bsel => exact givesResults_of_laneWord _ _ _ _ _ fun s => execBsel_eq w s

end Sys2Proof.Machine

/-! Comparisons, moves, lane exchange and votes (07 R153-R157). -/

namespace Sys2Proof.Machine

-- One proof after the other: the check's memory limit counts the stack of every thread that elaborates a proof.
set_option Elab.async false

/-! XLANE (07 R155). -/

/-- What XLANE gives a thread that reads the source `src`, if there is one. -/
def xlaneOut (s : State) (w : Wd) (ty : Ty) (pn : BitVec 3) (src : Option ThreadRef) : LaneOut :=
  let ok := if pn = 7 then [] else [(pn.toNat, src.isSome)]
  match src with
  | some u => { regs := if ty.is64 then [vNum w.a, vNum w.a + 1] else [vNum w.a],
                vals := if ty.is64 then wordsOf (srcPair s u w.b) else [srcWord s u w.b], preds := ok, raise := 0 }
  | none => { regs := [], vals := [], preds := ok, raise := 0 }

theorem givesResults_xlane (w : Wd) (ty : Ty) (pn : BitVec 3) (mode : LaneMode) (lane : Nat → Nat → Option Nat)
    (hlane : ∀ l d, sourceLane mode l d = lane l d) : givesResults (.xlane w ty pn mode) w.ctl 6 false fun s ix t =>
      xlaneOut s w ty pn ((lane (laneOf t.tid) (srcWord s t w.c).toNat).bind fun m =>
        (activeOf s ix w.ctl).find? fun u => laneOf u.tid = m) := by
  refine givesResults_of_laneWord _ _ _ _ _ fun s => ?_
  show execXlane w ty pn mode s = _
  unfold execXlane
  congr 1
  funext s ix t
  rw [hlane]
  cases lane (laneOf t.tid) (srcWord s t w.c).toNat with
  | none => rfl
  | some m =>
    dsimp only [Option.bind_some]
    cases (activeOf s ix w.ctl).find? fun u => decide (laneOf u.tid = m) with
    | none => rfl
    | some u => cases h : ty.is64 <;> simp [xlaneOut, h, out1, out2]

/-! VOTE and TEAMID (07 R156, R157). -/

theorem foldl_add_eq_sum {α : Type} (f : α → Nat) (l : List α) : l.foldl (fun n a => n + f a) 0 = (l.map f).sum := by
  rw [List.sum_eq_foldl, List.foldl_map]

theorem minBy?_cons_cons {α : Type} (key : α → Nat) (x y : α) (l : List α) :
    minBy? key (x :: y :: l) = minBy? key ((if key y < key x then y else x) :: l) := by
  by_cases h : key y < key x <;> simp [minBy?, h]

/-- The least element by its own value is the least element. -/
theorem minBy?_id (l : List Nat) : minBy? id l = l.min? := by
  cases l with
  | nil => rfl
  | cons x l =>
    rw [List.min?_cons']
    induction l generalizing x with
    | nil => rfl
    | cons y l ih =>
      have hmin : (if id y < id x then y else x) = min x y := by
        dsimp only [id]
        split <;> omega
      rw [minBy?_cons_cons, ih, hmin, List.foldl_cons]

/-- Settles O5: what each word gives is the function of one lane in its meaning; XLANE by its modes, VOTE by its forms. -/
theorem compareMoveAndLaneWords : Obligations.CompareMoveAndLaneWords := by
  refine ⟨fun w wi ty cmp comb inv pn => ⟨?icmp, ?pset, ?sel, ?mov, ?movi, ?p2v, ?v2p⟩,
    fun w ty pn mode => ⟨?xlane, ?any, ?all, ?ballot, ?teamid⟩⟩
  case icmp | pset | mov | movi | v2p => exact givesResults_of_laneWord _ _ _ _ _ fun _ => rfl
  case sel =>
    refine givesResults_of_laneWord _ _ _ _ _ fun s => ?_
    have hpick (p : Bool) : (if (p != inv) = true then w.b else w.c) = if p = inv then w.c else w.b := by
      cases p <;> cases inv <;> rfl
    simp only [← hpick]
    rfl
  case p2v =>
    refine givesResults_of_laneWord _ _ _ _ _ fun s => ?_
    simp only [← word_lowBits]
    rfl
  case xlane =>
    have hlt (n : Nat) : n ≤ 31 ↔ n < 32 := Nat.lt_succ_iff.symm
    cases mode with
    | idx => exact givesResults_xlane w ty pn .idx (fun _ d => if d < 32 then some d else none) fun _ _ => by simp only [sourceLane, hlt]
    | up => exact givesResults_xlane w ty pn .up _ fun _ _ => rfl
    | down => exact givesResults_xlane w ty pn .down (fun l d => if l + d < 32 then some (l + d) else none) fun _ _ => by simp only [sourceLane, hlt]
    | xor => exact givesResults_xlane w ty pn .xor (fun l d => if l ^^^ d < 32 then some (l ^^^ d) else none) fun l d =>
        show (if Nat.xor l d ≤ 31 then _ else _) = _ from if_congr (hlt _) rfl rfl
  case any =>
    refine givesResults_of_laneWord _ _ _ _ _ fun s => ?_
    simp only [← List.any_eq]
    rfl
  case all =>
    refine givesResults_of_laneWord _ _ _ _ _ fun s => ?_
    simp only [← List.all_eq]
    rfl
  case ballot =>
    have hbit (b : Bool) (n : Nat) : (if b = true then 2 ^ n else 0) = bnat b * 2 ^ n := by cases b <;> simp [bnat]
    refine givesResults_of_laneWord _ _ _ _ _ fun s => ?_
    simp only [hbit, ← foldl_add_eq_sum]
    rfl
  case teamid =>
    refine givesResults_of_laneWord _ _ _ _ _ fun s => ?_
    simp only [← minBy?_id]
    rfl

end Sys2Proof.Machine

/-! The f32 and f64 words (07 R159-R162). -/

namespace Sys2Proof.Machine

-- One proof after the other: the check's memory limit counts the stack of every thread that elaborates a proof.
set_option Elab.async false

/-- A word of the f64 pipe (02 R43) gives its results, where they are read from the threads and not from the partitions. -/
theorem givesResults_of_f64Lanes {i : Instr} {w : Wd} {f : State → Issue → ThreadRef → LaneOut} (h : ∀ s, exec i s = f64Lanes s w f)
    (hf : ∀ s ps ix t, f { s with w := { s.w with parts := ps } } ix t = f s ix t) : givesResults i w.ctl 8 false f :=
  givesResults_of_busy _ _ 8 _ (fun s ix p => { p with f64Free := timeOf s ix.cg + 2 }) h hf

/-- Settles O6: what each word gives is the function of one lane in its meaning, the f64 words after the reservation of their pipe. -/
theorem floatWordsRoundOnce : Obligations.FloatWordsRoundOnce := by
  refine fun w cmp comb rm => ⟨⟨?fadd, ?fsub, ?fmul, ?ffma⟩, ⟨?dadd, ?dmul, ?dfma⟩, ?fmin, ?fmax, ?dmin, ?dmax, ?fcmp, ?dcmp, ?frnd, ?drnd⟩
  case fadd | fsub | fmul | ffma | fmin | fmax | fcmp | frnd => exact givesResults_of_laneWord _ _ _ _ _ fun _ => rfl
  case dadd | dmul | dfma | dmin | dmax | dcmp | drnd => exact givesResults_of_f64Lanes (fun _ => rfl) fun _ _ _ _ => rfl

end Sys2Proof.Machine

/-! The words of the flags and of the special registers (07 R163; 18 R341; 10 R236), and EXIT (07 R145). -/

namespace Sys2Proof.Machine

-- One proof after the other: the check's memory limit counts the stack of every thread that elaborates a proof.
set_option Elab.async false

theorem plainTrap_again (cause : BitVec 8) (val : Nat) : (plainTrap cause val).again = none := rfl

/-- Lanes whose step is a function of the state run to what they leave one after the other. -/
theorem lanes_foldl (g : State → ThreadRef → State) (ts : List ThreadRef) (s : State) :
    Lanes (fun a t b => b = g a t) s ts (ts.foldl g s) := by
  induction ts generalizing s with
  | nil => exact .nil s
  | cons t ts ih => exact .cons rfl (ih (g s t))

/-- The flags of FCHK's mask that a thread has set (07 R163). -/
def checkedFlags (w : Wd) (s : State) (t : ThreadRef) : BitVec 6 := (s.thread t).ctx.fflags &&& BitVec.ofNat 6 (immNat w.c)

theorem execFchk_eq (w : Wd) (s : State) : execFchk w s = actWord s w.ctl fun _ a t =>
    (a, if checkedFlags w a t = 0 then none else some (plainTrap 0x0A (checkedFlags w a t).toNat)) := rfl

/-- FCHK (07 R163): a lane traps where one of its flags is set, and never waits. -/
theorem actsAs_fchk (w : Wd) : actsAs (.fchk w) w.ctl fun ix s => (activeOf s ix w.ctl).foldl (fun a t =>
    if checkedFlags w a t = 0 then a else trapAt a ix t.tid (plainTrap 0x0A (checkedFlags w a t).toNat)) s := by
  intro s ix hix
  refine exec_of_lanes (execFchk_eq w s) hix (fun a t b hb => ?_) (lanes_foldl _ _ s)
  by_cases h : checkedFlags w a t = 0
  · rw [if_pos h] at hb
    exact .inl (by rw [if_pos h, hb])
  · rw [if_neg h] at hb
    exact .inr ⟨a, plainTrap 0x0A (checkedFlags w a t).toNat, by rw [if_neg h], plainTrap_again _ _, hb⟩

theorem canon32_eq (x : Nat) : canon32 x = if fmt32.value x = .nan then fmt32.nan else x := by
  unfold canon32
  cases fmt32.value x <;> rfl

/-- Settles O20: FCHK lane by lane; the others act on the state as a whole by what their lanes read before. -/
theorem flagAndSpecialRegisterWrites : Obligations.FlagAndSpecialRegisterWrites := by
  refine fun w => ⟨actsAs_fchk w, ?fflags, actsAs_of_stateWord _ _ _ fun _ => rfl, ?cvscore⟩
  case fflags =>
    refine actsAs_of_stateWord _ _ _ fun s => ?_
    simp only [List.foldl_map]
    show execFflags w s = _
    simp only [execFflags, List.foldl_map]
    rfl
  case cvscore =>
    refine actsAs_of_stateWord _ _ _ fun s => ?_
    simp only [← apply_ite word, ← canon32_eq]
    rfl

/-! EXIT (07 R145). -/

/-- Where no close has to wait, every thread ends. -/
theorem exitLanes_of_lanes {s e : State} {ix : Issue} {ts : List ThreadRef}
    (h : Lanes (fun a t b => (∀ x, (cvClose a t).2 = some x → x.again = none) ∧ b = exitLane a ix t) s ts e) :
    exitLanes s ix ts = (e, none) := by
  induction h with
  | nil s => rfl
  | cons hstep _ ih =>
    obtain ⟨hclose, rfl⟩ := hstep
    rw [exitLanes, Option.bind_eq_none_iff.2 hclose]
    exact ih

/-- Settles O14: where no close has to wait, EXIT ends its guard-true threads and files the others. -/
theorem exitEndsGuardTrueThreads : Obligations.ExitEndsGuardTrueThreads := by
  intro w s ix e hix hL
  show execExit w s = _
  rw [execExit, hix]
  simp only [exitLanes_of_lanes hL]
  rfl

end Sys2Proof.Machine

/-! The lanes of an access and their checks (08 R181, R185; 09 R196, R199). -/

namespace Sys2Proof.Machine

-- One proof after the other: the check's memory limit counts the stack of every thread that elaborates a proof.
set_option Elab.async false

/-! The model's sort. -/

theorem insertBy_sorted {α : Type} {key : α → Nat} (x : α) {l : List α} (h : l.Pairwise fun a b => key a ≤ key b) :
    (insertBy key x l).Pairwise fun a b => key a ≤ key b := by
  induction l with
  | nil => exact List.pairwise_singleton _ _
  | cons y r ih =>
    obtain ⟨hy, hr⟩ := List.pairwise_cons.1 h
    unfold insertBy
    split
    next hxy =>
      refine List.pairwise_cons.2 ⟨fun z hz => ?_, h⟩
      rcases List.mem_cons.1 hz with rfl | hz
      · exact hxy.le
      · exact hxy.le.trans (hy z hz)
    next hxy =>
      refine List.pairwise_cons.2 ⟨fun z hz => ?_, ih hr⟩
      rcases List.mem_cons.1 ((insertBy_perm key x r).mem_iff.1 hz) with rfl | hz
      · exact not_lt.1 hxy
      · exact hy z hz

theorem sortBy_sorted {α : Type} (key : α → Nat) (l : List α) : (sortBy key l).Pairwise fun a b => key a ≤ key b :=
  List.foldlRecOn (motive := List.Pairwise fun a b => key a ≤ key b) l _ List.Pairwise.nil fun _ h x _ => insertBy_sorted x h

/-! The pages of a word's addresses, each translated once (08 R185). -/

section

variable (s : State) (core space : Nat) (need : Need)

/-- One more address: its page is translated where it is not yet. -/
def addPage (acc : State × List (Nat × Target)) (va : Nat) : State × List (Nat × Target) :=
  if acc.2.any fun p => decide (p.1 / 0x10000 = va / 0x10000) then acc
  else ((translate acc.1 core space va need).1, acc.2 ++ [(va, (translate acc.1 core space va need).2)])

theorem pageTargets_eq (vas : List Nat) :
    pageTargets s core space need vas = vas.foldl (addPage core space need) (s, []) := rfl

theorem mem_addPage_of_mem {acc : State × List (Nat × Target)} {p : Nat × Target} (h : p ∈ acc.2) (va : Nat) :
    p ∈ (addPage core space need acc va).2 := by
  unfold addPage
  split
  · exact h
  · exact List.mem_append_left _ h

theorem exists_mem_addPage (acc : State × List (Nat × Target)) (va : Nat) :
    ∃ p ∈ (addPage core space need acc va).2, p.1 / 0x10000 = va / 0x10000 := by
  unfold addPage
  split
  next h =>
    obtain ⟨p, hp, hpage⟩ := List.any_eq_true.1 h
    exact ⟨p, hp, of_decide_eq_true hpage⟩
  next => exact ⟨_, List.mem_append_right _ (List.mem_singleton_self _), rfl⟩

/-- Every address has a target of its page. -/
theorem exists_mem_pageTargets {vas : List Nat} {va : Nat} (h : va ∈ vas) :
    ∃ p ∈ (pageTargets s core space need vas).2, p.1 / 0x10000 = va / 0x10000 := by
  obtain ⟨before, after, rfl⟩ := List.append_of_mem h
  rw [pageTargets_eq, List.foldl_append, List.foldl_cons]
  obtain ⟨p, hp, hpage⟩ := exists_mem_addPage core space need (before.foldl (addPage core space need) (s, [])) va
  refine ⟨p, List.foldlRecOn (motive := fun acc : State × List (Nat × Target) => p ∈ acc.2) after _ hp
    fun _ h va _ => ?_, hpage⟩
  exact mem_addPage_of_mem core space need h va

theorem translate_of_beyond {va : Nat} (h : 2 ^ 56 ≤ va) : translate s core space va need = (s, .fail 0x06) := if_pos h

/-- An address beyond 56 bits comes to a failure (08 R174). -/
theorem pageTargets_of_beyond {vas : List Nat} :
    ∀ p ∈ (pageTargets s core space need vas).2, 2 ^ 56 ≤ p.1 → p.2 = .fail 0x06 := by
  rw [pageTargets_eq]
  refine List.foldlRecOn (motive := fun acc : State × List (Nat × Target) => ∀ p ∈ acc.2, 2 ^ 56 ≤ p.1 → p.2 = .fail 0x06) vas _
    (by rintro p ⟨⟩) fun acc hacc va _ p hp hbig => ?_
  unfold addPage at hp
  split at hp
  · exact hacc p hp hbig
  · rcases List.mem_append.1 hp with hp | hp
    · exact hacc p hp hbig
    · obtain rfl := List.mem_singleton.1 hp
      dsimp only at hbig ⊢
      rw [translate_of_beyond _ _ _ _ hbig]

/-- The page of an address beyond 56 bits lies beyond them as a whole. -/
theorem laneTarget_of_beyond {vas : List Nat} {va : Nat} (h : va ∈ vas) (hbig : 2 ^ 56 ≤ va) :
    laneTarget (pageTargets s core space need vas).2 va = .fail 0x06 := by
  obtain ⟨q, hq, hqpage⟩ := exists_mem_pageTargets s core space need h
  unfold laneTarget
  split
  next p hp =>
    have hpage : p.1 / 0x10000 = va / 0x10000 := by simpa using List.find?_some hp
    rw [pageTargets_of_beyond s core space need p (List.mem_of_find?_eq_some hp) (by omega), Target.move]
  next => rfl

end

/-! The checks of the lanes. -/

/-- Some lanes, those that pass a check apart from those that trap. -/
def sortLanes (ea : ThreadRef → Nat) (check : ThreadRef → Except Trap Target) (ts : List ThreadRef) : Checked :=
  { ok := ts.filterMap fun t => match check t with
      | .ok x => some (t, ea t, x)
      | .error _ => none,
    traps := ts.filterMap fun t => match check t with
      | .ok _ => none
      | .error e => some (t, e) }

/-- Whether a lane passes. -/
def passes (check : ThreadRef → Except Trap Target) (t : ThreadRef) : Bool := match check t with
  | .ok _ => true
  | .error _ => false

section

variable {ea : ThreadRef → Nat} {check : ThreadRef → Except Trap Target} {ts : List ThreadRef}

/-- One more lane. -/
def addCheck (ea : ThreadRef → Nat) (check : ThreadRef → Except Trap Target) (acc : Checked) (t : ThreadRef) :
    Checked :=
  match check t with
  | .ok x => { acc with ok := acc.ok ++ [(t, ea t, x)] }
  | .error e => { acc with traps := acc.traps ++ [(t, e)] }

theorem foldl_addCheck (acc : Checked) : ts.foldl (addCheck ea check) acc
    = { ok := acc.ok ++ (sortLanes ea check ts).ok, traps := acc.traps ++ (sortLanes ea check ts).traps } := by
  induction ts generalizing acc with
  | nil => simp [sortLanes]
  | cons t ts ih =>
    rw [List.foldl_cons, ih]
    cases h : check t <;> simp [addCheck, sortLanes, h]

theorem sortLanes_ok_threads : (sortLanes ea check ts).ok.map (·.1) = ts.filter (passes check) := by
  induction ts with
  | nil => rfl
  | cons t ts ih => cases h : check t <;> simpa [sortLanes, passes, h] using ih

theorem sortLanes_traps_threads : (sortLanes ea check ts).traps.map (·.1) = ts.filter (!passes check ·) := by
  induction ts with
  | nil => rfl
  | cons t ts ih => cases h : check t <;> simpa [sortLanes, passes, h] using ih

/-- A lane that passes goes on to its address. -/
theorem of_mem_sortLanes_ok {x : ThreadRef × Nat × Target} (h : x ∈ (sortLanes ea check ts).ok) :
    x.1 ∈ ts ∧ x.2.1 = ea x.1 ∧ check x.1 = .ok x.2.2 := by
  obtain ⟨t, ht, hx⟩ := List.mem_filterMap.1 h
  cases hc : check t with
  | error e => simp [hc] at hx
  | ok y =>
    obtain rfl : (t, ea t, y) = x := by simpa [hc] using hx
    exact ⟨ht, rfl, hc⟩

theorem mem_sortLanes_traps {t : ThreadRef} {e : Trap} (ht : t ∈ ts) (h : check t = .error e) :
    (t, e) ∈ (sortLanes ea check ts).traps :=
  List.mem_filterMap.2 ⟨t, ht, by rw [h]⟩

end

/-- The pages of an access's aligned lanes. -/
def lanePages (s : State) (pg : Nat) (ts : List ThreadRef) (ea : ThreadRef → Nat) (n : Nat) (need : Need) :
    State × List (Nat × Target) :=
  pageTargets s (s.pg pg).core (s.launch (s.pg pg).lid).space need (((byLane ts).map ea).filter fun va => decide (va % n = 0))

/-- The check of one lane of an access (09 R196, R199). -/
def laneCheck (s : State) (pg : Nat) (ts : List ThreadRef) (ea : ThreadRef → Nat) (n : Nat) (need : Need) (t : ThreadRef) :
    Except Trap Target :=
  if ea t % n ≠ 0 then .error (plainTrap 0x05 (ea t))
  else checkTarget (lanePages s pg ts ea n need).1 pg (ea t) n need true (laneTarget (lanePages s pg ts ea n need).2 (ea t))

section

variable {s : State} {pg : Nat} {ts : List ThreadRef} {ea : ThreadRef → Nat} {n : Nat} {need : Need} {t : ThreadRef}

theorem checkLanes_eq : (checkLanes s pg ts ea n need).2 = sortLanes ea (laneCheck s pg ts ea n need) (byLane ts) := by
  have hfold : (checkLanes s pg ts ea n need).2
      = (byLane ts).foldl (addCheck ea (laneCheck s pg ts ea n need)) { ok := [], traps := [] } := rfl
  rw [hfold, foldl_addCheck]
  simp only [List.nil_append]

theorem byLane_perm (ts : List ThreadRef) : (byLane ts).Perm ts := sortBy_perm _ ts

theorem byLane_lanes_rise (ts : List ThreadRef) : ((byLane ts).map fun t => laneOf t.tid).Pairwise (· ≤ ·) :=
  List.pairwise_map.2 (sortBy_sorted _ ts)

theorem laneCheck_of_misaligned (h : ea t % n ≠ 0) :
    laneCheck s pg ts ea n need t = .error (plainTrap 0x05 (ea t)) := if_pos h

theorem laneCheck_of_beyond (ht : t ∈ ts) (h : ea t % n = 0) (hbig : 2 ^ 56 ≤ ea t) :
    laneCheck s pg ts ea n need t = .error (memTrap 0x06 (ea t)) := by
  have hmem : ea t ∈ ((byLane ts).map ea).filter fun va => decide (va % n = 0) :=
    List.mem_filter.2 ⟨List.mem_map_of_mem ((byLane_perm ts).mem_iff.2 ht), decide_eq_true h⟩
  rw [laneCheck, if_neg (not_not.2 h), lanePages, laneTarget_of_beyond _ _ _ _ hmem hbig, checkTarget]

/-- A lane that passes is aligned and lies within 56 bits. -/
theorem of_laneCheck_ok {x : Target} (ht : t ∈ ts) (h : laneCheck s pg ts ea n need t = .ok x) :
    ea t % n = 0 ∧ ea t < 2 ^ 56 := by
  by_cases hmod : ea t % n = 0
  · refine ⟨hmod, not_le.1 fun hbig => ?_⟩
    rw [laneCheck_of_beyond ht hmod hbig] at h
    cases h
  · rw [laneCheck_of_misaligned hmod] at h
    cases h

end

/-- Settles O22: the checks split the lanes, sorted by lane position, into those that pass and those that trap. -/
theorem everyLaneIsCheckedOnce : Obligations.EveryLaneIsCheckedOnce := by
  intro s pg ts ea n need r
  have hr : r = sortLanes ea (laneCheck s pg ts ea n need) (byLane ts) := checkLanes_eq
  have hmem (t : ThreadRef) : t ∈ byLane ts ↔ t ∈ ts := (byLane_perm ts).mem_iff
  clear_value r
  subst hr
  refine ⟨byLane_lanes_rise ts, byLane_perm ts, ?ok, ?traps, ?once, fun x hx => ?passes, fun t ht hmod => ?misaligned,
    fun t ht hmod hbig => ?beyond⟩
  case ok =>
    rw [sortLanes_ok_threads]
    exact List.filter_sublist
  case traps =>
    rw [sortLanes_traps_threads]
    exact List.filter_sublist
  case once =>
    rw [sortLanes_ok_threads, sortLanes_traps_threads]
    exact (List.filter_append_perm _ _).trans (byLane_perm ts)
  case passes =>
    obtain ⟨ht, hva, hok⟩ := of_mem_sortLanes_ok hx
    exact ⟨hva, of_laneCheck_ok ((hmem x.1).1 ht) hok⟩
  case misaligned => exact mem_sortLanes_traps ((hmem t).2 ht) (laneCheck_of_misaligned hmod)
  case beyond => exact mem_sortLanes_traps ((hmem t).2 ht) (laneCheck_of_beyond ht hmod hbig)

end Sys2Proof.Machine

/-! The accesses that a word sends (08 R185; 09 R199; 14 R306). -/

namespace Sys2Proof.Machine

-- One proof after the other: the check's memory limit counts the stack of every thread that elaborates a proof.
set_option Elab.async false

/-! What the sending of accesses leaves alone. -/

/-- The state without its cores and the word being executed, in which lines are counted (08 R194). -/
def uncounted (s : State) : State := { s with w := { s.w with cores := [] }, cur := none }

theorem uncounted_countAccess (s : State) (core va type lid : Nat) (win : Bool) :
    uncounted (countAccess s core va type lid win) = uncounted s := by
  unfold countAccess
  exact ite_keeps rfl rfl

theorem uncounted_countLine (s : State) (core va type lid : Nat) (win : Bool) :
    uncounted (countLine s core va type lid win) = uncounted s := by
  unfold countLine
  split
  · exact uncounted_countAccess ..
  · exact ite_keeps rfl (uncounted_countAccess ..)

/-- The accesses in flight, memory, the window, and the registers and predicates of every thread. -/
def sendingView (s : State) : List Acc × Memory × Memory × (ThreadRef → List Word × List Bool) :=
  (s.w.accs, s.w.mem, s.w.window, fun r => ((s.thread r).ctx.regs, (s.thread r).ctx.preds))

section

variable {s : State}

theorem sendingView_uncounted (s : State) : sendingView (uncounted s) = sendingView s := rfl

theorem sendingView_of_uncounted {a b : State} (h : uncounted a = uncounted b) : sendingView a = sendingView b := by
  rw [← sendingView_uncounted a, h, sendingView_uncounted]

theorem accs_of_sendingView {x : List Acc × Memory × Memory × (ThreadRef → List Word × List Bool)} (h : sendingView s = x) :
    s.w.accs = x.1 := congrArg Prod.fst h

theorem sendingView_raiseFlags (s : State) (t : ThreadRef) (fl : List Nat) :
    sendingView (raiseFlags s t fl) = sendingView s := by
  refine congrArg (fun f => (s.w.accs, s.w.mem, s.w.window, f)) (funext fun r => ?_)
  rw [thread_raiseFlags]
  split
  next h => rw [h.1]
  next => rfl

theorem sendingView_pushPending (s : State) (ix : Issue) (c : Ctl) (key : Option (Nat × Nat)) (holds : Bool) (t : ThreadRef)
    (o : LaneOut) : sendingView (pushPending s ix c key holds t o) = sendingView s := by
  show sendingView (pushResult s ix c 0 true false t o) = _
  exact sendingView_raiseFlags ..

theorem sendingView_nextKey (s : State) (ix : Issue) (k : AccKind) (t : Target) :
    sendingView (nextKey s ix k t).1 = sendingView s := by
  unfold nextKey
  exact ite_keeps (g := fun r : State × Option (Nat × Nat) => sendingView r.1) rfl rfl

theorem sendingView_pushWindow (s : State) (ix : Issue) (ts : List (ThreadRef × Nat)) (owes acq : Bool) :
    sendingView (pushWindow s ix ts owes acq) = sendingView s := by
  refine foldl_keeps (g := sendingView) (fun _ _ => ?_) ts s
  rfl

/-! One access. -/

/-- A lane of an access without the result it owes. -/
def laneValues (l : Lane) : Nat × Nat × DWord × DWord := (l.tid, l.va, l.val, l.val2)

/-- An access of a word for lanes with these values, the first one's address given. -/
def Acc.carries (a : Acc) (ix : Issue) (sh : AccShape) (va : Nat) (lanes : List (Nat × Nat × DWord × DWord)) : Prop :=
  a.va = va ∧ a.kind = sh.kind ∧ a.bytes = sh.bytes ∧ a.scope = sh.scope ∧ a.ord = sh.ord ∧ a.pg = ix.pg ∧ a.lid = ix.lid
    ∧ a.lanes.map laneValues = lanes

/-- One more lane of an access, with the result that it will give. -/
def addLane (ix : Issue) (c : Ctl) (key : Option (Nat × Nat)) (val val2 : ThreadRef → DWord) (out : ThreadRef → Option LaneOut)
    (acc : State × List Lane) (x : ThreadRef × Nat) : State × List Lane :=
  let lane (p : Option Nat) : Lane := { tid := x.1.tid, va := x.2, val := val x.1, val2 := val2 x.1, pend := p, cflags := [] }
  match out x.1 with
  | none => (acc.1, acc.2 ++ [lane none])
  | some o => (pushPending acc.1 ix c key (decide (o.regs = [])) x.1 o, acc.2 ++ [lane (some acc.1.w.nextId)])

end

section

variable (s : State) (ix : Issue) (c : Ctl) (sh : AccShape) (val val2 : ThreadRef → DWord) (out : ThreadRef → Option LaneOut)

theorem addLane_spec (key : Option (Nat × Nat)) (acc : State × List Lane) (x : ThreadRef × Nat) :
    sendingView (addLane ix c key val val2 out acc x).1 = sendingView acc.1
    ∧ (addLane ix c key val val2 out acc x).2.map laneValues = acc.2.map laneValues ++ [(x.1.tid, x.2, val x.1, val2 x.1)] := by
  unfold addLane
  dsimp only
  split
  · exact ⟨rfl, List.map_append⟩
  · exact ⟨sendingView_pushPending .., List.map_append⟩

theorem foldl_addLane_spec (key : Option (Nat × Nat)) (ts : List (ThreadRef × Nat)) (acc : State × List Lane) :
    sendingView (ts.foldl (addLane ix c key val val2 out) acc).1 = sendingView acc.1
    ∧ (ts.foldl (addLane ix c key val val2 out) acc).2.map laneValues
      = acc.2.map laneValues ++ ts.map fun x => (x.1.tid, x.2, val x.1, val2 x.1) := by
  induction ts generalizing acc with
  | nil => exact ⟨rfl, (List.append_nil _).symm⟩
  | cons x ts ih =>
    obtain ⟨hview, hlanes⟩ := addLane_spec ix c val val2 out key acc x
    obtain ⟨hview', hlanes'⟩ := ih (addLane ix c key val val2 out acc x)
    exact ⟨hview'.trans hview, hlanes'.trans (by rw [hlanes, List.append_assoc]; rfl)⟩

/-- The lanes of an access, and the state in which their results are in flight. -/
def sentLanes (tgt : Target) (ts : List (ThreadRef × Nat)) : State × List Lane :=
  ts.foldl (addLane ix c (nextKey s ix sh.kind tgt).2 val val2 out) ((nextKey s ix sh.kind tgt).1, [])

theorem sentLanes_spec (tgt : Target) (ts : List (ThreadRef × Nat)) :
    sendingView (sentLanes s ix c sh val val2 out tgt ts).1 = sendingView s
    ∧ (sentLanes s ix c sh val val2 out tgt ts).2.map laneValues = ts.map fun x => (x.1.tid, x.2, val x.1, val2 x.1) := by
  obtain ⟨hview, hlanes⟩ := foldl_addLane_spec ix c val val2 out (nextKey s ix sh.kind tgt).2 ts ((nextKey s ix sh.kind tgt).1, [])
  exact ⟨hview.trans (sendingView_nextKey ..), hlanes⟩

/-- The access stands behind those that are in flight. -/
theorem pushAcc_eq (tgt : Target) (va : Nat) (ts : List (ThreadRef × Nat)) :
    ∃ a : Acc, (a.va = va ∧ a.kind = sh.kind ∧ a.bytes = sh.bytes ∧ a.scope = sh.scope ∧ a.ord = sh.ord ∧ a.pg = ix.pg ∧ a.lid = ix.lid
        ∧ a.lanes = (sentLanes s ix c sh val val2 out tgt ts).2)
      ∧ sendingView (pushAcc s ix c sh va tgt ts val val2 out)
        = ((sentLanes s ix c sh val val2 out tgt ts).1.w.accs ++ [a], (sendingView (sentLanes s ix c sh val val2 out tgt ts).1).2) :=
  ⟨_, ⟨rfl, rfl, rfl, rfl, rfl, rfl, rfl, rfl⟩, ite_keeps ((sendingView_pushWindow ..).trans rfl) rfl⟩

theorem pushAcc_spec (tgt : Target) (va : Nat) (ts : List (ThreadRef × Nat)) :
    ∃ a : Acc, a.carries ix sh va (ts.map fun x => (x.1.tid, x.2, val x.1, val2 x.1))
      ∧ sendingView (pushAcc s ix c sh va tgt ts val val2 out) = (s.w.accs ++ [a], (sendingView s).2) := by
  obtain ⟨hview, hlanes⟩ := sentLanes_spec s ix c sh val val2 out tgt ts
  obtain ⟨a, ⟨hva, hkind, hbytes, hscope, hord, hpg, hlid, halanes⟩, hpush⟩ := pushAcc_eq s ix c sh val val2 out tgt va ts
  refine ⟨a, ⟨hva, hkind, hbytes, hscope, hord, hpg, hlid, halanes ▸ hlanes⟩, hpush.trans ?_⟩
  rw [accs_of_sendingView hview, hview]
  rfl

end

/-! The lanes that share an access. -/

/-- What an access of a word is made for: loads and stores a line, everything else an address. -/
def accUnit (k : AccKind) : Nat := match k with
  | .load _ | .store => 128
  | .atom .. | .red .. | .cas _ | .fred _ | .roInit .. | .roFold _ | .node _ | .record .. | .task _ => 1

/-- The line or the address of a lane. -/
def accLine (k : AccKind) (va : Nat) : Nat := match k with
  | .load _ | .store => va / 128
  | .atom .. | .red .. | .cas _ | .fred _ | .roInit .. | .roFold _ | .node _ | .record .. | .task _ => va

theorem accLine_eq (k : AccKind) (va : Nat) : accLine k va = va / accUnit k := by
  cases k with
  | load | store => rfl
  | atom | red | cas | fred | roInit | roFold | node | record | task => exact (Nat.div_one va).symm

/-- What tells the accesses of a word apart: the line or address, and the thread where it has to wait first. -/
def accPlace (s : State) (sh : AccShape) (x : ThreadRef × Nat × Target) : Nat × Nat :=
  (accLine sh.kind x.2.1, if !(s.lrOfPg x.1.pg).dsm && waitsAlone s sh x.1 then x.1.tid + 1 else 0)

theorem accGroups_eq (s : State) (sh : AccShape) (ok : List (ThreadRef × Nat × Target)) :
    accGroups s sh ok = (dedup (ok.map (accPlace s sh))).map fun n => ok.filter fun x => decide (accPlace s sh x = n) := rfl

/-- A thread waits first, where its release waits for an earlier access or traversal of it, or any access for an earlier acquire. -/
theorem waitsAlone_iff (s : State) (sh : AccShape) (t : ThreadRef) : waitsAlone s sh t = true ↔
    (∃ b ∈ s.w.accs, b.pg = t.pg ∧ b.key = none ∧ ((ordRel sh.ord = true ∧ sh.scope ≠ .th) ∨ ordAcq b.ord = true)
      ∧ ∃ l ∈ b.lanes, l.tid = t.tid)
    ∨ ((ordRel sh.ord = true ∧ sh.scope ≠ .th) ∧ ∃ x ∈ s.w.travs, x.th = t) := by
  simp [waitsAlone, List.any_eq_true, and_assoc]

section

variable (s : State) (ix : Issue) (c : Ctl) (sh : AccShape) (val val2 : ThreadRef → DWord) (out : ThreadRef → Option LaneOut)

/-- A group of lanes makes its access. -/
def sendGroup (s : State) (g : List (ThreadRef × Nat × Target)) : State :=
  match g with
  | [] => s
  | x :: _ => pushAcc s ix c sh x.2.1 x.2.2 (g.map fun y => (y.1, y.2.1)) val val2 out

/-- Each group of lanes makes one access, in their order. -/
theorem foldl_sendGroup_spec {groups : List (List (ThreadRef × Nat × Target))} (hne : ∀ g ∈ groups, g ≠ []) :
    ∃ news : List Acc, sendingView (groups.foldl (sendGroup ix c sh val val2 out) s) = (s.w.accs ++ news, (sendingView s).2)
      ∧ List.Forall₂ (fun g a => ∃ x ∈ g, a.carries ix sh x.2.1 (g.map fun x => (x.1.tid, x.2.1, val x.1, val2 x.1)))
          groups news := by
  induction groups generalizing s with
  | nil => exact ⟨[], by rw [List.append_nil]; rfl, .nil⟩
  | cons g groups ih =>
    obtain ⟨hg, hgroups⟩ := List.forall_mem_cons.1 hne
    obtain ⟨x, rest, rfl⟩ := List.exists_cons_of_ne_nil hg
    obtain ⟨a, hcarries, hview⟩ := pushAcc_spec s ix c sh val val2 out x.2.2 x.2.1 ((x :: rest).map fun y => (y.1, y.2.1))
    obtain ⟨news, hnews, hall⟩ := ih (sendGroup ix c sh val val2 out s (x :: rest)) hgroups
    refine ⟨a :: news, hnews.trans ?_, .cons ⟨x, List.mem_cons_self, ?_⟩ hall⟩
    · rw [sendGroup, congrArg Prod.snd hview, accs_of_sendingView hview, List.append_assoc, List.singleton_append]
    · rwa [List.map_map] at hcarries

/-- The state in which the lines that a word requests have been counted. -/
def linesCounted (s : State) (ix : Issue) (sh : AccShape) (ok : List (ThreadRef × Nat × Target)) : State :=
  (dedup (ok.map fun x => (x.2.1 / 128, x.2.2.isWindow))).foldl
    (fun s l => countLine s ix.core (l.1 * 128) sh.kind.hotType ix.lid l.2) s

theorem uncounted_linesCounted (s : State) (ix : Issue) (sh : AccShape) (ok : List (ThreadRef × Nat × Target)) :
    uncounted (linesCounted s ix sh ok) = uncounted s :=
  foldl_keeps (g := uncounted) (fun _ _ => uncounted_countLine ..) _ s

theorem accPlace_linesCounted (s : State) (ix : Issue) (sh sh' : AccShape) (ok : List (ThreadRef × Nat × Target)) :
    accPlace (linesCounted s ix sh' ok) sh = accPlace s sh :=
  calc accPlace (linesCounted s ix sh' ok) sh
    _ = accPlace (uncounted (linesCounted s ix sh' ok)) sh := rfl
    _ = accPlace s sh := by rw [uncounted_linesCounted]; rfl

theorem pushAccs_eq (ok : List (ThreadRef × Nat × Target)) : pushAccs s ix c sh ok val val2 out
    = (accGroups (linesCounted s ix sh ok) sh ok).foldl (sendGroup ix c sh val val2 out) (linesCounted s ix sh ok) := rfl

theorem mem_of_mem_dedup {α : Type} [DecidableEq α] {l : List α} {x : α} (h : x ∈ dedup l) : x ∈ l := by
  refine List.foldlRecOn (motive := fun acc => ∀ x ∈ acc, x ∈ l) l _ (by rintro x ⟨⟩) (fun acc hacc y hy z hz => ?_) x
    (List.mem_reverse.1 h)
  split at hz
  · exact hacc z hz
  · rcases List.mem_cons.1 hz with rfl | hz
    · exact hy
    · exact hacc z hz

/-- No group is empty: each stands for the place of one of its lanes. -/
theorem accGroups_ne_nil (s : State) (sh : AccShape) (ok : List (ThreadRef × Nat × Target)) :
    ∀ g ∈ accGroups s sh ok, g ≠ [] := by
  rw [accGroups_eq]
  intro g hg
  obtain ⟨n, hn, rfl⟩ := List.mem_map.1 hg
  obtain ⟨x, hx, hplace⟩ := List.mem_map.1 (mem_of_mem_dedup hn)
  exact List.ne_nil_of_mem (List.mem_filter.2 ⟨hx, decide_eq_true hplace⟩)

/-- The accesses that a word sends, one for each place. -/
theorem pushAccs_spec (ok : List (ThreadRef × Nat × Target)) :
    ∃ news : List Acc, sendingView (pushAccs s ix c sh ok val val2 out) = (s.w.accs ++ news, (sendingView s).2)
      ∧ List.Forall₂ (fun n (a : Acc) => a.va / accUnit sh.kind = n.1 ∧ a.carries ix sh a.va
          ((ok.filter fun x => decide (accPlace s sh x = n)).map fun x => (x.1.tid, x.2.1, val x.1, val2 x.1)))
        (dedup (ok.map (accPlace s sh))) news := by
  obtain ⟨news, hview, hall⟩ := foldl_sendGroup_spec (linesCounted s ix sh ok) ix c sh val val2 out
    (accGroups_ne_nil (linesCounted s ix sh ok) sh ok)
  have hcounted := sendingView_of_uncounted (uncounted_linesCounted s ix sh ok)
  rw [accGroups_eq, accPlace_linesCounted, List.forall₂_map_left_iff] at hall
  refine ⟨news, ?_, hall.imp fun n a ⟨x, hx, hcarries⟩ => ?_⟩
  · rw [pushAccs_eq, hview, accs_of_sendingView hcounted, hcounted]
    rfl
  · obtain ⟨hva, hrest⟩ := hcarries
    have hplace : accPlace s sh x = n := of_decide_eq_true (List.mem_filter.1 hx).2
    refine ⟨?_, rfl, hrest⟩
    rw [hva, ← accLine_eq, ← hplace, accPlace]

end

/-- Settles O24: each place of `accPlace` makes one access, and sending them changes nothing else that a thread or memory shows. -/
theorem oneAccessPerAddress : Obligations.OneAccessPerAddress := by
  intro s ix c sh ok v v2 out e unit release first
  have hunit : unit = accUnit sh.kind := by cases h : sh.kind <;> simp only [unit, h, accUnit]
  have hfirst (t : ThreadRef) : first t ↔ (!(s.lrOfPg t.pg).dsm && waitsAlone s sh t) = true := by
    rw [Bool.and_eq_true, Bool.not_eq_true', waitsAlone_iff]
  obtain ⟨news, hview, hall⟩ := pushAccs_spec s ix c sh v v2 out ok
  obtain ⟨hmem, hwindow, hthreads⟩ : e.w.mem = s.w.mem ∧ e.w.window = s.w.window
      ∧ (fun r => ((e.thread r).ctx.regs, (e.thread r).ctx.preds)) = fun r => ((s.thread r).ctx.regs, (s.thread r).ctx.preds) := by
    simpa only [sendingView, Prod.mk.injEq] using congrArg Prod.snd hview
  refine ⟨news, accPlace s sh, accs_of_sendingView hview, fun x => ⟨?line, fun h => ?alone, fun h => ?shared⟩, ?accesses,
    hmem, hwindow,
    fun r => Prod.mk.inj (congrFun hthreads r)⟩
  case line => rw [hunit, ← accLine_eq, accPlace]
  case alone => exact if_pos ((hfirst x.1).1 h)
  case shared => exact if_neg fun h' => h ((hfirst x.1).2 h')
  case accesses =>
    rw [hunit]
    exact hall.imp fun n a ⟨hline, _, hkind, hbytes, hscope, hord, hpg, hlid, hlanes⟩ =>
      ⟨hline, hkind, hbytes, hscope, hord, hpg, hlid, hlanes⟩

end Sys2Proof.Machine

/-! CFLUSH, CINV, HWSIG and LDK (08 R181, R185; 09 R201, R208, R209). -/

namespace Sys2Proof.Machine

-- One proof after the other: the check's memory limit counts the stack of every thread that elaborates a proof.
set_option Elab.async false

/-! Lanes that act in ascending lane position, their traps kept for the end. -/

/-- One more lane. -/
def addLaneAct (f : State → ThreadRef → State × Option Trap) (acc : Except Again (State × List (ThreadRef × Trap))) (t : ThreadRef) :
    Except Again (State × List (ThreadRef × Trap)) :=
  match acc with
  | .error why => .error why
  | .ok (s, traps) =>
    match f s t with
    | (s, none) => .ok (s, traps)
    | (s, some x) => match x.again with
      | some why => .error why
      | none => .ok (s, traps ++ [(t, x)])

theorem laneActs_eq (s : State) (ts : List ThreadRef) (f : State → ThreadRef → State × Option Trap) :
    laneActs s ts f = (byLane ts).foldl (addLaneAct f) (.ok (s, [])) := rfl

section

variable {f : State → ThreadRef → State × Option Trap} {s e : State} {ts : List ThreadRef} {l : List (ThreadRef × Trap)}

/-- Lanes of which none waits leave what the last one leaves, and their traps in order. -/
theorem foldl_addLaneAct_of_trapLanes (h : TrapLanes f s ts e l) (traps : List (ThreadRef × Trap)) :
    ts.foldl (addLaneAct f) (.ok (s, traps)) = .ok (e, traps ++ l) := by
  induction h generalizing traps with
  | nil s => rw [List.append_nil]; rfl
  | acts hlane _ ih =>
    rw [List.foldl_cons, addLaneAct, hlane]
    exact ih traps
  | traps hlane hagain _ ih =>
    rw [List.foldl_cons, addLaneAct, hlane]
    dsimp only
    rw [hagain]
    exact (ih _).trans (by rw [List.append_assoc]; rfl)

/-- A memory word that acts in the step that issues it does so where no lane waits. -/
theorem actsInLaneOrder_of_laneActWord {i : Instr} {c : Ctl} {lane : State → Issue → State → ThreadRef → State × Option Trap}
    (h : ∀ s, exec i s = laneActWord s c (lane s)) : actsInLaneOrder i c lane := by
  intro s ix e l hix hlanes
  rw [h, laneActWord, hix]
  dsimp only
  rw [laneActs_eq, foldl_addLaneAct_of_trapLanes hlanes]
  rfl

end

/-! Misaligned lanes, and lanes of HWSIG outside the window. -/

section

variable {ix : Issue} {a : State} {t : ThreadRef} {va : Nat}

theorem controlTarget_of_misaligned (h : va % 4 ≠ 0) :
    controlTarget a ix va = (a, .error (plainTrap 0x05 va)) := if_pos h

theorem hwsigLane_of_misaligned (v : Word) (h : va % 4 ≠ 0) :
    hwsigLane a ix t va v = (a, some (plainTrap 0x05 va)) := if_pos h

theorem hwsigLane_of_outside (v : Word) (h : va % 4 = 0) (hout : va < Config.windowBase ∨ Config.windowBase + Config.windowSize ≤ va) :
    hwsigLane a ix t va v = (a, some (memTrap 0x07 va)) := by
  rw [hwsigLane, if_neg (not_not.2 h), if_pos hout]

theorem ldkLane_of_misaligned (w : Wd) (ty : Ty) (s : State) (h : effAddr s t w.b w.c % ty.bytes ≠ 0) :
    ldkLane w ty s ix a t = (a, some (plainTrap 0x05 (effAddr s t w.b w.c))) := if_pos h

end

/-- Settles O31: the lanes are those of the words' meanings, whose first checks are the alignment and, of HWSIG, the window. -/
theorem cacheControlAndSignalWords : Obligations.CacheControlAndSignalWords := by
  intro w icache ty ea wrong flush inval signal constant
  refine ⟨?cflush, ?cinv, ?hwsig, ?ldk, fun s ix a t => ⟨fun h => ?_, fun h => ?_, fun h => ?_, fun h => ?_⟩,
    fun s ix a t h hout => ?outside⟩
  case cflush | cinv | ldk => exact actsInLaneOrder_of_laneActWord fun _ => rfl
  case hwsig => exact actsByLane_of_actWord_fixed _ _ signal _ (fun _ => rfl) fun _ _ _ _ _ h => h
  · simp only [flush, controlTarget_of_misaligned h]
    rfl
  · simp only [inval, controlTarget_of_misaligned h]
    rfl
  · exact hwsigLane_of_misaligned _ h
  · exact ldkLane_of_misaligned w ty s h
  case outside => exact hwsigLane_of_outside _ h hout

end Sys2Proof.Machine

/-! Walks, fills, window accesses, samples, trial windows and signals (08 R178, R179, R182, R191, R194,
R195; 09 R209; 22 R373-R377). -/

namespace Sys2Proof.Machine

-- One proof after the other: the check's memory limit counts the stack of every thread that elaborates a proof.
set_option Elab.async false

section

variable {s : State} {core space va id part : Nat} {need : Need}

/-! Walks and fills, accesses at the window. -/

/-- A walk runs ahead of its access for a space on the core, at an address of its own pages that no TLB holds. -/
theorem translationWalkComplete_eq : exec (.translationWalkComplete core space va need) s = .next (
    if spaceOnCore s core space = true ∧ va < 2 ^ 56 ∧ (va < Config.windowBase ∨ Config.windowBase + Config.windowSize ≤ va)
      ∧ tlbMiss s core space va = true
    then (walkFill s core space va need).1 else s) := by
  show execTranslationWalkComplete core space va need s = _
  unfold execTranslationWalkComplete
  simp only [Bool.and_eq_true, decide_eq_true_eq, Bool.not_eq_true', Bool.and_eq_false_iff, decide_eq_false_iff_not, not_le, not_lt,
    and_assoc]

theorem windowAccess_none (h : accNow s id .window = none) : exec (.windowAccess id) s = .next s := by
  show execWindowAccess id s = _
  rw [execWindowAccess, h]

theorem windowAccess_some {a : Acc} (h : accNow s id .window = some a) :
    exec (.windowAccess id) s = .next (performAcc s a).1 := by
  show execWindowAccess id s = _
  rw [execWindowAccess, h]

/-! Hotness samples. -/

theorem ringSlot_of_full {base lsize : Nat} {wr rd : Word} (h : (wr - rd).toNat = 2 ^ lsize / 16) :
    ringSlot base lsize wr rd = none := if_pos h

theorem ringSlot_of_room {base lsize : Nat} {wr rd : Word} (h : (wr - rd).toNat ≠ 2 ^ lsize / 16) :
    ringSlot base lsize wr rd = some (base + 16 * (wr.toNat % (2 ^ lsize / 16))) := if_neg h

theorem hotnessSample_nil (h : (s.core core).hsDue = []) : exec (.hotnessSample core) s = .next s := by
  show execHotnessSample core s = _
  rw [execHotnessSample, h]

section

variable {x : Nat × Nat × Nat × Bool} {rest : List (Nat × Nat × Nat × Bool)} (h : (s.core core).hsDue = x :: rest)

/-- The state in which the oldest sample that a core owes is taken from it. -/
def hotTaken (s : State) (core : Nat) (rest : List (Nat × Nat × Nat × Bool)) :
    State := modCore s core fun c => { c with hsDue := rest }

include h

theorem hotnessSample_of_full (hfull : ((s.die (dieOfCore core)).mcb.hsWr - (s.die (dieOfCore core)).mcb.hsRd).toNat
    = 2 ^ (s.die (dieOfCore core)).mcb.hsLsize / 16) :
    exec (.hotnessSample core) s = .next (modDie (hotTaken s core rest) (dieOfCore core) fun d =>
      { d with mcb := { d.mcb with hsLost := satInc d.mcb.hsLost } }) := by
  show execHotnessSample core s = _
  simp only [execHotnessSample, h, ringSlot_of_full hfull]
  rfl

theorem hotnessSample_of_room (hroom : ((s.die (dieOfCore core)).mcb.hsWr - (s.die (dieOfCore core)).mcb.hsRd).toNat
    ≠ 2 ^ (s.die (dieOfCore core)).mcb.hsLsize / 16) :
    exec (.hotnessSample core) s = .next (modDie (homeWrite (hotTaken s core rest) none
      ((s.die (dieOfCore core)).mcb.hsBase
        + 16 * ((s.die (dieOfCore core)).mcb.hsWr.toNat % (2 ^ (s.die (dieOfCore core)).mcb.hsLsize / 16)))
      (bytesOfNat 16 (hotRecord (hotTaken s core rest) core x))) (dieOfCore core) fun d =>
      { d with mcb := { d.mcb with hsWr := d.mcb.hsWr + 1 } }) := by
  show execHotnessSample core s = _
  simp only [execHotnessSample, h, ringSlot_of_room hroom]
  rfl

end

/-! Stall samples. -/

/-- The state in which a partition's sample is taken. -/
def stallTaken (s : State) (part : Nat) : State :=
  { s with w := { s.w with dies := s.w.dies.map fun d =>
    (d.1, { d.2 with sm := { d.2.sm with sampled := tput d.2.sm.sampled (sampleKey s part) (sampleCount s part) } }) } }

/-- The sample's record (22 R374). -/
def stallRecord (s : State) (part : Nat) : Nat :=
  let x := sampleSubject s part
  x.pc * 2 ^ 72 + x.why * 2 ^ 68 + coreOfPart part * 2 ^ 58 + part % 6 * 2 ^ 55 + x.n * 2 ^ 49 + x.lid * 2 ^ 33 + sampleTime s

theorem stallSample_of_not (h : sampleNow s part = false) : exec (.stallSample part) s = .next s := by
  show execStallSample part s = _
  rw [execStallSample, h]
  rfl

theorem stallSample_of_due (h : sampleNow s part = true) :
    let m := (s.die (dieOfCore (coreOfPart part))).sm
    exec (.stallSample part) s = .next (if (m.wr - m.rd).toNat = 2 ^ m.lsize / 16 then
        modDie (stallTaken s part) (dieOfCore (coreOfPart part)) fun d => { d with sm := { d.sm with lost := satInc d.sm.lost } }
      else modDie (homeWrite (stallTaken s part) none (m.base + 16 * (m.wr.toNat % (2 ^ m.lsize / 16)))
          (bytesOfNat 16 (stallRecord s part)))
        (dieOfCore (coreOfPart part)) fun d => { d with sm := { d.sm with wr := d.sm.wr + 1 } }) := by
  intro m
  show execStallSample part s = _
  rw [execStallSample, if_pos h]
  by_cases hfull : (m.wr - m.rd).toNat = 2 ^ m.lsize / 16
  · have hslot := ringSlot_of_full (base := m.base) hfull
    dsimp only [m] at hslot
    simp only [if_pos hfull, hslot]
    rfl
  · have hslot := ringSlot_of_room (base := m.base) hfull
    dsimp only [m] at hslot
    simp only [if_neg hfull, hslot]
    rfl

/-! Trial windows. -/

theorem trialWindowEnd_of_not (h : s.trial.en = false ∨ s.trial.left ≠ 0) : exec .trialWindowEnd s = .next s := by
  show execTrialWindowEnd s = _
  refine if_neg ?_
  rw [Bool.and_eq_true, decide_eq_true_eq]
  rintro ⟨hen, hleft⟩
  rcases h with h | h
  · rw [h] at hen
    cases hen
  · exact h hleft

/-- The report of a window that has ended takes the place of the earlier one of its kind. -/
def trialReport (t : Trial) : Trial :=
  { (if t.inTrial then { t with trial := t.counters } else { t with base := t.counters }) with nwin := t.nwin + 1 }

/-- What follows a window: the end, where it has been asked for, else a window of the other kind. -/
def trialNext (t : Trial) : Trial :=
  if t.stopReq then { trialReport t with en := false, stopReq := false, inTrial := false }
  else trialWindow (trialReport t) (!t.inTrial)

theorem trialWindowEnd_of_over (hen : s.trial.en = true) (hleft : s.trial.left = 0) :
    exec .trialWindowEnd s = .next { s with trial := trialNext s.trial } := by
  show execTrialWindowEnd s = _
  have hdue : (s.trial.en && decide (s.trial.left = 0)) = true := by rw [hen, decide_eq_true hleft]; rfl
  refine (if_pos hdue).trans ?_
  cases h : s.trial.inTrial <;> simp only [trialNext, trialReport, h] <;> rfl

theorem trialReport_spec (t : Trial) :
    (trialReport t).nwin = t.nwin + 1 ∧ (trialReport t).en = t.en ∧ (trialReport t).win = t.win
    ∧ if t.inTrial then (trialReport t).trial = t.counters ∧ (trialReport t).base = t.base
      else (trialReport t).base = t.counters ∧ (trialReport t).trial = t.trial := by
  cases h : t.inTrial <;> simp [trialReport, h]

theorem trialNext_reports (t : Trial) :
    (trialNext t).nwin = (trialReport t).nwin ∧ (trialNext t).trial = (trialReport t).trial
    ∧ (trialNext t).base = (trialReport t).base := by
  cases h : t.stopReq <;> simp [trialNext, trialWindow, h]

theorem trialNext_en {t : Trial} (hen : t.en = true) : (trialNext t).en = !t.stopReq := by
  have hreport : (trialReport t).en = true := (trialReport_spec t).2.1.trans hen
  cases h : t.stopReq <;> simp [trialNext, trialWindow, h, hreport]

theorem trialNext_window {t : Trial} (h : t.stopReq = false) : (trialNext t).inTrial = !t.inTrial
    ∧ (trialNext t).left = t.win * Config.clkPerUs ∧ (trialNext t).counters = List.replicate 12 0 := by
  have hwin : (trialReport t).win = t.win := (trialReport_spec t).2.2.1
  simp [trialNext, trialWindow, trialClk, h, hwin]

/-! Signals. -/

/-- No element comes before the least one. -/
theorem minBy?_cons_le {α : Type} {key : α → Nat} {l : List α} {x z : α} (h : minBy? key (x :: l) = some z) :
    ∀ y ∈ x :: l, key z ≤ key y := by
  induction l generalizing x with
  | nil =>
    cases h
    simp
  | cons b l ih =>
    rw [minBy?_cons_cons] at h
    obtain ⟨hfirst, hrest⟩ := List.forall_mem_cons.1 (ih h)
    refine List.forall_mem_cons.2 ⟨?_, List.forall_mem_cons.2 ⟨?_, hrest⟩⟩ <;> split at hfirst <;> omega

theorem exists_minBy?_cons {α : Type} (key : α → Nat) (x : α) (l : List α) : ∃ z, minBy? key (x :: l) = some z := by
  induction l generalizing x with
  | nil => exact ⟨x, rfl⟩
  | cons b l ih =>
    rw [minBy?_cons_cons]
    exact ih _

/-- An element that no other comes before is the least one, where no two have the same key. -/
theorem minBy?_of_least {α : Type} {key : α → Nat} {l : List α} {x : α} (hx : x ∈ l) (hleast : ∀ y ∈ l, key x ≤ key y)
    (hnodup : (l.map key).Nodup) : minBy? key l = some x := by
  cases l with
  | nil => cases hx
  | cons a l =>
    obtain ⟨z, hz⟩ := exists_minBy?_cons key a l
    have hmem := minBy?_mem hz
    have hkey : key z = key x := le_antisymm (minBy?_cons_le hz x hx) (hleast z hmem)
    rw [hz, List.inj_on_of_nodup_map hnodup hmem hx hkey]

section

variable {m : Signal} {rest : List Signal} (h : s.signals = m :: rest)

include h

theorem signalSend_of_conn {conn : Nat} (hconn : signalConn { s with signals := rest } m = some conn) :
    exec .signalSend s = .next { s with signals := rest, outbox := s.outbox ++ [signalMsg conn m] } := by
  show execSignalSend s = _
  simp only [execSignalSend, h, hconn]

theorem signalSend_dropped (hconn : signalConn { s with signals := rest } m = none) : exec .signalSend s
    = .next { s with signals := rest, counts := { s.counts with droppedSignals := s.counts.droppedSignals + 1 } } := by
  show execSignalSend s = _
  simp only [execSignalSend, h, hconn]

end

theorem signalSend_nil (h : s.signals = []) : exec .signalSend s = .next s := by
  show execSignalSend s = _
  rw [execSignalSend, h]

/-- The submitter's session takes its signal. -/
theorem signalConn_own {m : Signal} {rest : List Signal} {e : Nat × Session} (hown : s.sessions.find? (fun e => decide (e.2.serial = m.sess)) = some e) :
    signalConn { s with signals := rest } m = some e.1 := by
  rw [signalConn, hown]

/-- Else the lowest-numbered session of the space does. -/
theorem signalConn_bound {m : Signal} {rest : List Signal} (hown : s.sessions.find? (fun e => decide (e.2.serial = m.sess)) = none) :
    signalConn { s with signals := rest } m
      = (minBy? (fun e : Nat × Session => e.2.number) (s.sessions.filter fun e => decide (e.2.space = some m.space))).map (·.1) := by
  rw [signalConn, hown]

end

/-- Settles O48: what each event does where it is due, and nothing where it is not. -/
theorem memoryAndSampleEvents : Obligations.MemoryAndSampleEvents := by
  intro s core space va id part need walks
  refine ⟨translationWalkComplete_eq, rfl, windowAccess_none, fun a => windowAccess_some, ?window, hotnessSample_nil,
    fun x rest h => ⟨hotnessSample_of_full h, hotnessSample_of_room h⟩, stallSample_of_not, stallSample_of_due,
    trialWindowEnd_of_not, ?trial, signalSend_nil, fun m rest h => ⟨?own, ?bound, ?dropped⟩⟩
  case window =>
    rintro a off bs hwf rfl
    exact ⟨memReadN_memWriteN _ _ _ hwf, rfl, fun k hk => memRead_memWriteN_other _ _ _ _ hwf hk⟩
  case trial =>
    intro hen hleft
    obtain ⟨hnwin, -, -, hkinds⟩ := trialReport_spec s.trial
    obtain ⟨hnwin', htrial, hbase⟩ := trialNext_reports s.trial
    exact ⟨_, trialWindowEnd_of_over hen hleft, rfl, hnwin'.trans hnwin, trialNext_en hen, by rw [htrial, hbase]; exact hkinds,
      trialNext_window⟩
  case own => exact fun e hown => signalSend_of_conn h (signalConn_own hown)
  case bound =>
    intro e he hown hnodup hleast
    refine signalSend_of_conn h ((signalConn_bound hown).trans ?_)
    rw [show minBy? _ _ = some e from minBy?_of_least he hleast hnodup]
    rfl
  case dropped =>
    intro hown hbound
    refine signalSend_dropped h ((signalConn_bound hown).trans ?_)
    rw [show List.filter _ _ = [] from hbound]
    rfl

end Sys2Proof.Machine

/-! What an access leaves when it is performed at its home (08 R187-R190; 20 R363, R364). -/

namespace Sys2Proof.Machine

-- One proof after the other: the check's memory limit counts the stack of every thread that elaborates a proof.
set_option Elab.async false

/-! Memory: writes over memories that agree, and parts of what is read. -/

section

variable {m m' : Memory} {k : Nat}

theorem memRead_memWrite_congr (a : Nat) (x : Byte) (hm : m.wf = true) (hm' : m'.wf = true) (h : memRead m k = memRead m' k) :
    memRead (memWrite m a x) k = memRead (memWrite m' a x) k := by
  by_cases hk : k = a
  · rw [hk, memRead_memWrite_same m a x hm, memRead_memWrite_same m' a x hm']
  · rw [memRead_memWrite_other m a k x hm hk, memRead_memWrite_other m' a k x hm' hk, h]

theorem memRead_memWriteN_congr (a : Nat) (bs : List Byte) (hm : m.wf = true) (hm' : m'.wf = true) (h : memRead m k = memRead m' k) :
    memRead (memWriteN m a bs) k = memRead (memWriteN m' a bs) k := by
  induction bs generalizing m m' a with
  | nil => exact h
  | cons b bs ih => exact ih (a + 1) (memWrite_wf m a b hm) (memWrite_wf m' a b hm') (memRead_memWrite_congr a b hm hm' h)

/-- The writes of the parts of a store, one after the other. -/
def writeParts (m : Memory) (parts : List (Nat × List Byte)) : Memory := parts.foldl (fun m p => memWriteN m p.1 p.2) m

theorem writeParts_cons (m : Memory) (p : Nat × List Byte) (parts : List (Nat × List Byte)) :
    writeParts m (p :: parts) = writeParts (memWriteN m p.1 p.2) parts := rfl

theorem memRead_writeParts_congr (parts : List (Nat × List Byte)) (hm : m.wf = true) (hm' : m'.wf = true) (h : memRead m k = memRead m' k) :
    memRead (writeParts m parts) k = memRead (writeParts m' parts) k := by
  induction parts generalizing m m' with
  | nil => exact h
  | cons p parts ih => exact ih (memWriteN_wf m p.1 p.2 hm) (memWriteN_wf m' p.1 p.2 hm') (memRead_memWriteN_congr p.1 p.2 hm hm' h)

theorem memRead_writeParts_other {parts : List (Nat × List Byte)} (hm : m.wf = true) (h : ∀ p ∈ parts, k < p.1 ∨ p.1 + p.2.length ≤ k) :
    memRead (writeParts m parts) k = memRead m k := by
  induction parts generalizing m with
  | nil => rfl
  | cons p parts ih =>
    obtain ⟨hp, hparts⟩ := List.forall_mem_cons.1 h
    rw [writeParts_cons, ih (memWriteN_wf m p.1 p.2 hm) hparts, memRead_memWriteN_other m p.1 k p.2 hm hp]

theorem memReadN_congr {a n : Nat} (h : ∀ k, a ≤ k → k < a + n → memRead m k = memRead m' k) :
    memReadN m a n = memReadN m' a n := by
  induction n generalizing a with
  | zero => rfl
  | succ n ih =>
    rw [memReadN, memReadN, h a le_rfl (by omega), ih fun k hk hk' => h k (by omega) (by omega)]

/-- A part of what is read is what its own place holds. -/
theorem memReadN_part {a i j n : Nat} (h : i + j ≤ n) : ((memReadN m a n).drop i).take j = memReadN m (a + i) j := by
  induction n generalizing a i j with
  | zero =>
    obtain ⟨rfl, rfl⟩ : i = 0 ∧ j = 0 := by omega
    rfl
  | succ n ih =>
    rw [memReadN]
    cases i with
    | succ i => rw [List.drop_succ_cons, ih (by omega), show a + 1 + i = a + (i + 1) by omega]
    | zero =>
      cases j with
      | zero => rfl
      | succ j =>
        have hrest := ih (a := a + 1) (i := 0) (j := j) (by omega)
        rw [List.drop_zero] at hrest ⊢
        rw [List.take_succ_cons, hrest]
        rfl

end

/-- The home of a line's bytes is one die (08 R186). -/
theorem homeDie_of_line {a b : Nat} (h : a / 128 = b / 128) : homeDie a = homeDie b := by
  have hshift : a >>> 30 = b >>> 30 := by
    rw [Nat.shiftRight_eq_div_pow, Nat.shiftRight_eq_div_pow]
    omega
  rw [homeDie, homeDie, channelOf, channelOf, bitsOf, bitsOf, hshift]

/-! What homes, caches and write queues show. -/

/-- Memory, the remote write queues, the accesses and results in flight, the threads' contexts, the place of the order log's ring, whether
races are recorded, and the launches' records. -/
structure HomeView where
  mem : Memory
  wq : Nat → List QWrite
  accs : List Acc
  pends : List Pend
  ctx : ThreadRef → ThreadCtx
  ring : Nat × Nat
  races : Bool
  records : Nat → LaunchRec

def homeView (s : State) : HomeView :=
  { mem := s.w.mem, wq := fun d => (s.die d).wq, accs := s.w.accs, pends := s.w.pends, ctx := fun r => (s.thread r).ctx,
    ring := (s.rb.olBase, s.rb.olLsize), races := s.rb.rcEn, records := recordsOf s.w.launches }

def HomeView.withMem (v : HomeView) (m : Memory) : HomeView := { v with mem := m }

theorem HomeView.withMem_withMem (v : HomeView) (m m' : Memory) : (v.withMem m).withMem m' = v.withMem m' := rfl

section

variable (s : State)

theorem homeView_modCore (k : Nat) (f : Core → Core) : homeView (modCore s k f) = homeView s := rfl

theorem wq_modDie (k d : Nat) {f : Die → Die} (h : ∀ x, (f x).wq = x.wq) :
    ((modDie s k f).die d).wq = (s.die d).wq := by
  rw [die_modDie]
  split
  next hd => rw [h, hd]
  next => rfl

theorem homeView_modDie (k : Nat) {f : Die → Die} (h : ∀ x, (f x).wq = x.wq) : homeView (modDie s k f) = homeView s :=
  congrArg (fun q => { homeView s with wq := q }) (funext fun d => wq_modDie s k d h)

theorem homeView_modThread (t : ThreadRef) {f : Thread → Thread} (h : ∀ x, (f x).ctx = x.ctx) :
    homeView (modThread s t f) = homeView s := by
  refine congrArg (fun c => { homeView s with ctx := c }) (funext fun r => ?_)
  rw [thread_modThread]
  split
  next hr => rw [h, hr.1]
  next => rfl

theorem homeView_homeWrite (own : Option Nat) (pa : Nat) (bs : List Byte) :
    homeView (homeWrite s own pa bs) = (homeView s).withMem (memWriteN s.w.mem pa bs) := by
  unfold homeWrite
  exact ite_keeps rfl ((homeView_modDie _ _ (by intro; rfl)).trans rfl)

theorem homeView_homeOpLines (core pa : Nat) : homeView (homeOpLines s core pa) = homeView s :=
  (homeView_modDie _ _ (by intro; rfl)).trans (homeView_modCore ..)

theorem homeView_l2Fill (low : Bool) (die n : Nat) : homeView (l2Fill low s die n).1 = homeView s := by
  unfold l2Fill
  split
  · rfl
  · exact homeView_modDie _ _ (by intro; rfl)

theorem homeView_l1Line (core n : Nat) : homeView (l1Line s core n).1 = homeView s := by
  unfold l1Line
  split
  · rfl
  · exact homeView_l2Fill ..

theorem homeView_acquireActions (core : Nat) (sc : Scope) : homeView (acquireActions s core sc) = homeView s := by
  cases sc with
  | th | pg | cg => rfl
  | dg => exact homeView_modCore ..
  | dev | sys => exact (homeView_modDie _ _ (by intro; rfl)).trans (homeView_modCore ..)

/-- Writes that leave alone what `homeView` shows but for memory write all their parts there. -/
theorem homeView_foldl_writes {f : State → Nat × List Byte → State} (h : ∀ s p, homeView (f s p) = (homeView s).withMem (memWriteN s.w.mem p.1 p.2))
    (parts : List (Nat × List Byte)) : homeView (parts.foldl f s) = (homeView s).withMem (writeParts s.w.mem parts) := by
  induction parts generalizing s with
  | nil => rfl
  | cons p parts ih =>
    have hmem : (f s p).w.mem = memWriteN s.w.mem p.1 p.2 := congrArg HomeView.mem (h s p)
    rw [List.foldl_cons, ih, h, HomeView.withMem_withMem, hmem, writeParts_cons]

theorem homeView_homeStore (core : Nat) (parts : List (Nat × List Byte)) :
    homeView (homeStore s core parts) = (homeView s).withMem (writeParts s.w.mem parts) :=
  homeView_foldl_writes s (fun _ _ => (homeView_homeOpLines ..).trans (homeView_homeWrite ..)) parts

/-- A write queue of a die with one more write. -/
def HomeView.withWrite (v : HomeView) (die : Nat) (q : QWrite) : HomeView :=
  { v with wq := fun d => if d = die then v.wq die ++ [q] else v.wq d }

section

variable (die space lid va : Nat) (stamps : List ThreadRef) {p : Nat × List Byte} {parts : List (Nat × List Byte)}

/-- What the L2 has taken for a home of its own die, or for a deterministic launch, is written there. -/
theorem homeView_sendHome_own (h : homeDie p.1 = die ∨ (s.launch lid).lr.dsm = true) :
    homeView (sendHome s die space lid va stamps (p :: parts)) = (homeView s).withMem (writeParts s.w.mem (p :: parts)) := by
  rw [sendHome, if_pos h]
  exact homeView_foldl_writes s (fun _ _ => homeView_homeWrite ..) _

/-- What it has taken for another die's home waits in its write queue (08 R188). -/
theorem homeView_sendHome_other (h : ¬ (homeDie p.1 = die ∨ (s.launch lid).lr.dsm = true)) :
    homeView (sendHome s die space lid va stamps (p :: parts)) = (homeView s).withWrite die
      { id := s.w.nextId, space := space, lid := lid, va := va, line := p.1 / 128, parts := p :: parts, stamps := stamps } := by
  rw [sendHome, if_neg h]
  refine congrArg (fun q => { homeView s with wq := q }) (funext fun d => ?_)
  dsimp only [nextId]
  rw [die_modDie]
  split <;> rfl

/-- The caches that a store goes through. -/
def storeCached (s : State) (core : Nat) (low : Bool) (p : Nat × List Byte) (parts : List (Nat × List Byte)) : State :=
  let s := modCore s core fun c => { c with l1 := (p :: parts).foldl (fun l q => patchLine l q.1 q.2) c.l1 }
  let s := (l2Fill low s (dieOfCore core) (p.1 / 128)).1
  modDie s (dieOfCore core) fun d => { d with l2 := (p :: parts).foldl (fun l q => patchLine l q.1 q.2) d.l2 }

theorem cacheStore_cons (core : Nat) (low : Bool) : cacheStore s core space lid va low stamps (p :: parts)
    = sendHome (storeCached s core low p parts) (dieOfCore core) space lid va stamps (p :: parts) := rfl

theorem homeView_storeCached (core : Nat) (low : Bool) : homeView (storeCached s core low p parts) = homeView s :=
  (homeView_modDie _ _ (by intro; rfl)).trans ((homeView_l2Fill ..).trans (homeView_modCore ..))

end

end

end Sys2Proof.Machine

/-! The stamps of ordering accesses (20 R363, R364) beside what an access does at its home. -/

namespace Sys2Proof.Machine

-- One proof after the other: the check's memory limit counts the stack of every thread that elaborates a proof.
set_option Elab.async false

/-- An address outside the order log's ring of a state. -/
def offRing (s : State) (k : Nat) : Prop := k < s.rb.olBase ∨ s.rb.olBase + 2 ^ s.rb.olLsize ≤ k

/-- What stamps leave of a state: what its home shows, but for the bytes of the order log's ring, every core, and no line more in an L2. -/
structure Stamped (s u : State) : Prop where
  view : homeView u = (homeView s).withMem u.w.mem
  wf : s.w.mem.wf = true → u.w.mem.wf = true
  read : s.w.mem.wf = true → ∀ k, offRing s k → memRead u.w.mem k = memRead s.w.mem k
  cores : u.w.cores = s.w.cores
  l2 : ∀ d n, findLine (s.die d).l2 n = none → findLine (u.die d).l2 n = none

section

variable {s u v : State}

theorem offRing_of_view {m : Memory} (h : homeView u = (homeView s).withMem m) (k : Nat) :
    offRing u k ↔ offRing s k := by
  have hring : (u.rb.olBase, u.rb.olLsize) = (s.rb.olBase, s.rb.olLsize) := congrArg HomeView.ring h
  rw [offRing, offRing, (Prod.mk.inj hring).1, (Prod.mk.inj hring).2]

theorem Stamped.refl (s : State) : Stamped s s := ⟨rfl, id, fun _ _ _ => rfl, rfl, fun _ _ => id⟩

theorem Stamped.trans (h : Stamped s u) (h' : Stamped u v) : Stamped s v where
  view := by rw [h'.view, h.view, HomeView.withMem_withMem]
  wf hs := h'.wf (h.wf hs)
  read hs k hk := (h'.read (h.wf hs) k ((offRing_of_view h.view k).2 hk)).trans (h.read hs k hk)
  cores := h'.cores.trans h.cores
  l2 d n hn := h'.l2 d n (h.l2 d n hn)

/-- A change of nothing that a home, a core or a die shows. -/
theorem Stamped.of_eq (hview : homeView u = homeView s) (hcores : u.w.cores = s.w.cores) (hdies : u.w.dies = s.w.dies) :
    Stamped s u where
  view := by
    have hmem : u.w.mem = s.w.mem := congrArg HomeView.mem hview
    rw [hview, hmem]
    rfl
  wf hs := by rwa [show u.w.mem = s.w.mem from congrArg HomeView.mem hview]
  read _ k _ := by rw [show u.w.mem = s.w.mem from congrArg HomeView.mem hview]
  cores := hcores
  l2 d n hn := by rwa [State.die, hdies]

theorem findLine_dropLine {c : List Line} {n : Nat} (h : findLine c n = none) (k : Nat) :
    findLine (dropLine c k) n = none := by
  rw [findLine, List.find?_eq_none] at h ⊢
  exact fun x hx => h x (List.mem_filter.1 hx).1

theorem l2_homeWrite (own : Option Nat) (pa : Nat) (bs : List Byte) {d n : Nat} (h : findLine (s.die d).l2 n = none) :
    findLine ((homeWrite s own pa bs).die d).l2 n = none := by
  unfold homeWrite
  dsimp only
  split
  · exact h
  · rw [die_modDie]
    split
    next hd => exact findLine_dropLine (by rw [← hd]; exact h) _
    next => exact h

theorem cores_homeWrite (s : State) (own : Option Nat) (pa : Nat) (bs : List Byte) :
    (homeWrite s own pa bs).w.cores = s.w.cores := by
  unfold homeWrite
  exact ite_keeps (g := fun s : State => s.w.cores) rfl rfl

theorem view_appendLog (s : State) (r : LogRec) :
    homeView (appendLog s r) = (homeView s).withMem (appendLog s r).w.mem := by
  rw [appendLog_eq]
  split
  · split <;> rfl
  · show homeView (logWrite (metAgain s r) r) = (homeView s).withMem (logWrite (metAgain s r) r).w.mem
    rw [logWrite, homeView_homeWrite, homeWrite_mem]
    rfl

/-- A record of the order log goes into its ring. -/
theorem stamped_appendLog (s : State) (r : LogRec) : Stamped s (appendLog s r) where
  view := view_appendLog s r
  wf hs := (ringOnly_appendLog hs r).1
  read hs := (ringOnly_appendLog hs r).2
  cores := by
    rw [appendLog_eq]
    split
    · split <;> rfl
    · show (logWrite (metAgain s r) r).w.cores = s.w.cores
      rw [logWrite, cores_homeWrite]
      rfl
  l2 d n hn := by
    rw [appendLog_eq]
    split
    · split <;> exact hn
    · show findLine ((logWrite (metAgain s r) r).die d).l2 n = none
      exact l2_homeWrite (s := metAgain s r) _ _ _ hn

theorem stamped_modThread (t : ThreadRef) {f : Thread → Thread} (h : ∀ x, (f x).ctx = x.ctx) :
    Stamped s (modThread s t f) :=
  .of_eq (homeView_modThread s t h) rfl rfl

/-- The thread and the line that a stamp takes to the clock. -/
def clocked (s : State) (t : ThreadRef) (line c : Nat) : State :=
  let s := modThread s t fun x => { x with clock := c, ords := x.ords + 1 }
  { s with w := { s.w with lineClocks := tput s.w.lineClocks line c } }

theorem stamped_clocked (s : State) (t : ThreadRef) (line c : Nat) : Stamped s (clocked s t line c) :=
  (stamped_modThread t (by intro; rfl)).trans (.of_eq rfl rfl rfl)

theorem stamped_stampOne (s : State) (t : ThreadRef) (line : Nat) : Stamped s (stampOne s t line).1 := by
  unfold stampOne
  dsimp only
  split
  · exact .of_eq rfl rfl rfl
  · refine Stamped.trans ?_ (stamped_clocked ..)
    split
    · exact stamped_appendLog ..
    · exact .refl s

theorem stamped_stampAll (s : State) (l : List (ThreadRef × Nat)) : Stamped s (stampAll s l).1 := by
  have hfold : Stamped s (l.foldl (fun acc x => if acc.2 then stampOne acc.1 x.1 x.2 else acc) (s, true)).1 := by
    refine List.foldlRecOn (motive := fun acc : State × Bool => Stamped s acc.1) l _ (.refl s) fun acc hacc x _ => ?_
    split
    · exact hacc.trans (stamped_stampOne ..)
    · exact hacc
  unfold stampAll
  dsimp only
  split
  · exact hfold
  · exact .of_eq rfl rfl rfl

end

/-! The performing of a load or store (20 R363; 08 R189). -/

/-- An access has been performed: it is no longer in flight, and its acquire is made. -/
def accDone (s : State) (a : Acc) : State :=
  let s := readyWindow { s with w := { s.w with accs := s.w.accs.filter fun b => b.id != a.id } } a
  if ordAcq a.ord then acquireActions s a.core a.scope else s

/-- The threads whose access an ordering one is, outside deterministic launches. -/
def stampThreads (s : State) (a : Acc) :
    List ThreadRef := if a.ordering && !(s.launch a.lid).lr.dsm then a.threads else []

/-- The stamps of an access that are made as it is performed, and not when its write leaves the queue. -/
def stampsNow (s : State) (a : Acc) : List (ThreadRef × Nat) :=
  if a.queued s then [] else (stampThreads s a).map fun t => (t, clockLine (decide (a.stage = .window)) a.pa)

/-- The state in which an access has been stamped. -/
def stampedFor (s : State) (a : Acc) : State := (stampAll s (stampsNow s a)).1

section

variable {s : State} {a : Acc}

theorem homeView_accDone (h : a.stage = .home) :
    homeView (accDone s a) = { homeView s with accs := s.w.accs.filter fun b => b.id != a.id } := by
  have hready (u : State) : readyWindow u a = u := if_neg (by rw [h]; decide)
  rw [accDone, hready]
  exact ite_keeps (homeView_acquireActions ..) rfl

/-- A load or a store that does not wait has been stamped and takes its effect. -/
theorem performAcc_of_goes (hkind : a.kind = .store ∨ ∃ ty, a.kind = .load ty) (hgoes : (performAcc s a).2 = true) :
    (performAcc s a).1 = accDone (performEffect (stampedFor s a) a (if a.queued s then stampThreads s a else [])) a := by
  have hplain : performAcc s a = if nodeBusy s a || frameHeld s a then (s, false) else
      match stampAll s (stampsNow s a) with
      | (s, false) => (s, false)
      | (u, true) => (accDone (performEffect u a (if a.queued s then stampThreads s a else [])) a, true) := by
    rcases hkind with h | ⟨ty, h⟩ <;> rw [performAcc, h] <;> rfl
  rw [hplain] at hgoes ⊢
  split at hgoes
  · cases hgoes
  next hfree =>
    rw [if_neg hfree, stampedFor]
    rcases h : stampAll s (stampsNow s a) with ⟨u, b⟩
    rw [h] at hgoes
    cases b
    · cases hgoes
    · rfl

end

end Sys2Proof.Machine

/-! Loads performed at their home (08 R187, R188; 09 R197, R199). -/

namespace Sys2Proof.Machine

-- One proof after the other: the check's memory limit counts the stack of every thread that elaborates a proof.
set_option Elab.async false

/-! Results that become ready. -/

section

variable {s : State} {p : Pend}

/-- The result of a lane with its value. -/
def Pend.given (p : Pend) (vals : List Word) : Pend := { p with ready := true, vals := vals }

theorem homeView_readyPend (s : State) (id : Option Nat) (vals : List Word) :
    homeView (readyPend s id vals) = { homeView s with pends := (readyPend s id vals).w.pends } := by
  unfold readyPend
  split <;> rfl

theorem mem_readyPend_same (vals : List Word) (hp : p ∈ s.w.pends) :
    p.given vals ∈ (readyPend s (some p.id) vals).w.pends :=
  List.mem_map.2 ⟨p, hp, if_pos rfl⟩

theorem mem_readyPend_other {id : Option Nat} (vals : List Word) (hp : p ∈ s.w.pends) (h : id ≠ some p.id) :
    p ∈ (readyPend s id vals).w.pends := by
  cases id with
  | none => exact hp
  | some i => exact List.mem_map.2 ⟨p, hp, if_neg fun hi => h (congrArg some hi.symm)⟩

/-- The results that the lanes of an access owe become ready, one after the other. -/
def readyLanes (s : State) (lanes : List Lane) (vals : Lane → List Word) :
    State := lanes.foldl (fun s l => readyPend s l.pend (vals l)) s

variable {lanes : List Lane} {vals : Lane → List Word}

theorem homeView_readyLanes (s : State) (lanes : List Lane) (vals : Lane → List Word) :
    homeView (readyLanes s lanes vals) = { homeView s with pends := (readyLanes s lanes vals).w.pends } := by
  have hkept : { homeView (readyLanes s lanes vals) with pends := [] } = { homeView s with pends := [] } := by
    refine foldl_keeps (g := fun s => { homeView s with pends := [] }) (fun a l => ?_) lanes s
    dsimp only
    rw [homeView_readyPend]
  exact congrArg (fun v : HomeView => { v with pends := (readyLanes s lanes vals).w.pends }) hkept

theorem mem_readyLanes_other (hp : p ∈ s.w.pends) (h : p.id ∉ lanes.filterMap (·.pend)) :
    p ∈ (readyLanes s lanes vals).w.pends := by
  induction lanes generalizing s with
  | nil => exact hp
  | cons l lanes ih =>
    rw [List.mem_filterMap] at h
    refine ih (mem_readyPend_other _ hp fun hl => h ⟨l, List.mem_cons_self, hl⟩) fun hmem => h ?_
    obtain ⟨l', hl', hid⟩ := List.mem_filterMap.1 hmem
    exact ⟨l', List.mem_cons_of_mem _ hl', hid⟩

/-- No two lanes owe one result, so that each result keeps the value of its lane. -/
theorem mem_readyLanes {l : Lane} (hp : p ∈ s.w.pends) (hl : l ∈ lanes) (hid : l.pend = some p.id) (hnodup : (lanes.filterMap (·.pend)).Nodup) :
    p.given (vals l) ∈ (readyLanes s lanes vals).w.pends := by
  induction lanes generalizing s with
  | nil => cases hl
  | cons x lanes ih =>
    rcases List.mem_cons.1 hl with rfl | hrest
    · rw [List.filterMap_cons, hid, List.nodup_cons] at hnodup
      have hready := mem_readyPend_same (vals l) hp
      rw [← hid] at hready
      show p.given (vals l) ∈ (readyLanes (readyPend s l.pend (vals l)) lanes vals).w.pends
      exact mem_readyLanes_other hready hnodup.1
    · have hnodup' : (lanes.filterMap (·.pend)).Nodup := hnodup.sublist ((List.sublist_cons_self x lanes).filterMap _)
      refine ih (mem_readyPend_other _ hp fun hx => ?_) hrest hnodup'
      rw [List.filterMap_cons, hx, List.nodup_cons] at hnodup
      exact hnodup.1 (List.mem_filterMap.2 ⟨l, hrest, hid⟩)

end

/-! The line that serves a load. -/

/-- No cache that a load of a core goes through holds a copy of a line, and no write to it waits in the queue of the core's die. -/
structure Uncached (s : State) (core n : Nat) : Prop where
  l1 : findLine (s.core core).l1 n = none
  l2 : findLine (s.die (dieOfCore core)).l2 n = none
  queue : queuedLine s (dieOfCore core) n = false

section

variable {s u : State} {a : Acc}

theorem Uncached.of_stamped {core n : Nat} (h : Uncached s core n) (hu : Stamped s u) : Uncached u core n where
  l1 := by
    rw [State.core, hu.cores]
    exact h.l1
  l2 := hu.l2 _ _ h.l2
  queue := by
    have hwq : (u.die (dieOfCore core)).wq = (s.die (dieOfCore core)).wq := congrFun (congrArg HomeView.wq hu.view) _
    rw [queuedLine, hwq]
    exact h.queue

theorem overQueue_of_not_queued {die n : Nat} (h : queuedLine s die n = false) (bs : List Byte) :
    overQueue s die n bs = bs := by
  have hnone : ((s.die die).wq.filter fun q => decide (q.line = n)) = [] :=
    List.filter_eq_nil_iff.2 fun q hq hline => by
      rw [queuedLine, List.any_eq_false] at h
      exact h q hq hline
  rw [overQueue, hnone]
  rfl

theorem l2Fill_of_uncached {core n : Nat} (h : Uncached s core n) (low : Bool) :
    (l2Fill low s (dieOfCore core) n).2 = lineBytes s n := by
  rw [l2Fill, h.l2]
  exact overQueue_of_not_queued h.queue _

theorem l1Line_of_uncached {core n : Nat} (h : Uncached s core n) : (l1Line s core n).2 = lineBytes s n := by
  rw [l1Line, h.l1]
  exact l2Fill_of_uncached h false

/-- A load of a page without caching, or of a line of which there is no copy, is served by memory. -/
theorem loadLine_bytes (hstage : a.stage = .home) (h : a.nc = true ∨ Uncached s a.core (a.pa / 128)) :
    (loadLine s a).2 = lineBytes s (a.pa / 128) := by
  have hwindow : ¬ a.stage = .window := by rw [hstage]; decide
  unfold loadLine
  dsimp only
  rw [if_neg hwindow]
  split
  · rfl
  next hcached =>
    have hun : Uncached s a.core (a.pa / 128) := h.resolve_left fun hnc => hcached (by rw [hnc]; rfl)
    split
    · exact l2Fill_of_uncached hun _
    · split
      · rw [hun.l1]
        exact l2Fill_of_uncached hun _
      · exact l1Line_of_uncached hun

theorem homeView_loadLine (s : State) (a : Acc) : homeView (loadLine s a).1 = homeView s := by
  unfold loadLine
  dsimp only
  split
  · rfl
  · split
    · rfl
    · split
      · exact homeView_l2Fill ..
      · split
        · split
          · rfl
          · exact homeView_l2Fill ..
        · exact homeView_l1Line ..

/-- The state in which a load has its line. -/
def loadServed (s : State) (a : Acc) : State :=
  if decide (a.stage = .home) && (a.key.isSome || a.servedHome) then homeOpLines (loadLine s a).1 a.core a.pa else (loadLine s a).1

theorem homeView_loadServed (s : State) (a : Acc) : homeView (loadServed s a) = homeView s :=
  ite_keeps ((homeView_homeOpLines ..).trans (homeView_loadLine ..)) (homeView_loadLine ..)

theorem performEffect_load {ty : Ty} (h : a.kind = .load ty) (stamps : List ThreadRef) : performEffect s a stamps
    = readyLanes (loadServed s a) a.lanes fun l => loadWords ty (natOfBytes (((loadLine s a).2.drop (a.lanePa l % 128)).take a.bytes)) := by
  rw [performEffect, h]
  rfl

/-- The value of a lane of a load that memory serves. -/
def laneWords (s : State) (a : Acc) (ty : Ty) (l : Lane) : List Word :=
  loadWords ty (natOfBytes (((lineBytes s (a.pa / 128)).drop (a.lanePa l % 128)).take a.bytes))

/-- The value is that of the bytes at the lane's place, where they lie in the line. -/
theorem laneWords_eq {l : Lane} (ty : Ty) (hline : a.lanePa l / 128 = a.pa / 128) (hfits : a.lanePa l % 128 + a.bytes ≤ 128) :
    laneWords s a ty l = loadWords ty (memNat s.w.mem (a.lanePa l) a.bytes) := by
  rw [laneWords, lineBytes, memReadN_part hfits, ← hline, Nat.div_add_mod', memNat]

/-- The state in which the lanes of a load have their values. -/
def loaded (s : State) (a : Acc) (ty : Ty) : State := readyLanes (loadServed s a) a.lanes (laneWords s a ty)

theorem performEffect_load_of_uncached {ty : Ty} (hkind : a.kind = .load ty) (stamps : List ThreadRef) (hstage : a.stage = .home)
    (h : a.nc = true ∨ Uncached s a.core (a.pa / 128)) : performEffect s a stamps = loaded s a ty := by
  rw [performEffect_load hkind, loadLine_bytes hstage h]
  rfl

theorem homeView_loaded (s : State) (a : Acc) (ty : Ty) :
    homeView (loaded s a ty) = { homeView s with pends := (loaded s a ty).w.pends } := by
  rw [loaded, homeView_readyLanes, homeView_loadServed]

theorem mem_loaded {ty : Ty} {l : Lane} {p : Pend} (hp : p ∈ s.w.pends) (hl : l ∈ a.lanes) (hid : l.pend = some p.id)
    (hnodup : (a.lanes.filterMap (·.pend)).Nodup) : p.given (laneWords s a ty l) ∈ (loaded s a ty).w.pends := by
  have hserved : p ∈ (loadServed s a).w.pends := by
    rw [show (loadServed s a).w.pends = s.w.pends from congrArg HomeView.pends (homeView_loadServed s a)]
    exact hp
  exact mem_readyLanes hserved hl hid hnodup

end

/-! The event. -/

section

variable {s : State} {a : Acc}

theorem of_accNow {id : Nat} {st : Stage} (h : accNow s id st = some a) : a.stage = st ∧ a.key = none := by
  have hall := List.find?_some h
  simp only [Bool.and_eq_true, decide_eq_true_eq, Option.isNone_iff_eq_none] at hall
  exact ⟨hall.1.1.2, hall.1.2⟩

theorem homeAccessPerform_acc (h : accNow s a.id .home = some a) :
    exec (.homeAccessPerform a.id) s = .next (performAcc s a).1 := by
  show execHomeAccessPerform a.id s = _
  rw [execHomeAccessPerform, h]

end

/-- Settles O26: the stamps write into the ring alone, memory serves the line, and each result gets the bytes of its lane. -/
theorem loadGivesTheBytesOfMemory : Obligations.LoadGivesTheBytesOfMemory := by
  intro s a ty hnow hkind hgoes hwf hnodup hlanes hcopies
  obtain ⟨hstage, -⟩ := of_accNow hnow
  have hstamped : Stamped s (stampedFor s a) := stamped_stampAll s _
  set u := stampedFor s a with hu
  have hserved : a.nc = true ∨ Uncached u a.core (a.pa / 128) :=
    hcopies.imp_right fun ⟨hl1, hl2, hqueue⟩ => Uncached.of_stamped ⟨hl1, hl2, hqueue⟩ hstamped
  have hview : homeView (loaded u a ty) = { (homeView s).withMem u.w.mem with pends := (loaded u a ty).w.pends } := by
    rw [homeView_loaded, hstamped.view]
  have haccs : (loaded u a ty).w.accs = s.w.accs := congrArg HomeView.accs hview
  have hdone : (performAcc s a).1 = accDone (loaded u a ty) a := by
    rw [performAcc_of_goes (.inr ⟨ty, hkind⟩) hgoes, ← hu, performEffect_load_of_uncached hkind _ hstage hserved]
  have hfinal : homeView (performAcc s a).1 = { (homeView s).withMem u.w.mem with
      pends := (loaded u a ty).w.pends, accs := s.w.accs.filter fun b => b.id != a.id } := by
    rw [hdone, homeView_accDone hstage, hview, haccs]
  refine ⟨_, homeAccessPerform_acc hnow, fun k hk => ?mem, fun l hl p hp hid => ?result, congrArg HomeView.accs hfinal,
    fun r => congrFun (congrArg HomeView.ctx hfinal) r⟩
  case mem =>
    rw [show (performAcc s a).1.w.mem = u.w.mem from congrArg HomeView.mem hfinal]
    exact hstamped.read hwf k hk
  case result =>
    obtain ⟨hline, hfits, hoff⟩ := hlanes l hl
    have hbytes : memReadN u.w.mem (a.lanePa l) a.bytes = memReadN s.w.mem (a.lanePa l) a.bytes := by
      refine memReadN_congr fun k hk hk' => hstamped.read hwf k ?_
      rw [Acc.lanePa] at hk hk'
      exact hoff.imp (by omega) (by omega)
    have hpend : p ∈ u.w.pends := by
      rw [show u.w.pends = s.w.pends from congrArg HomeView.pends hstamped.view]
      exact hp
    have hmem := mem_loaded (ty := ty) hpend hl hid hnodup
    rw [laneWords_eq ty hline hfits, memNat, hbytes] at hmem
    rw [show (performAcc s a).1.w.pends = (loaded u a ty).w.pends from congrArg HomeView.pends hfinal]
    exact hmem

end Sys2Proof.Machine

/-! Stores performed at their home, and the remote write queues (08 R188, R190; 09 R199, R200). -/

namespace Sys2Proof.Machine

-- One proof after the other: the check's memory limit counts the stack of every thread that elaborates a proof.
set_option Elab.async false

/-! A store. -/

/-- The bytes of a store, at the place of each lane. -/
def storedParts (a : Acc) : List (Nat × List Byte) := a.lanes.map fun l => (a.lanePa l, bytesOfNat a.bytes l.val.toNat)

/-- A store reaches memory as it is performed: its page is uncached, its home is the die's own, or the launch is deterministic. -/
def storesNow (s : State) (a : Acc) :
    Prop := a.nc = true ∨ homeDie a.pa = dieOfCore a.core ∨ (s.launch a.lid).lr.dsm = true

section

variable {s : State} {a : Acc}

theorem queued_iff (hkind : a.kind = .store) (hstage : a.stage = .home) (hkey : a.key = none) :
    a.queued s = true ↔ ¬ storesNow s a := by
  have hserved : a.servedHome = a.nc := by
    rw [Acc.servedHome, hkind]
    simp [AccKind.isAtomic, AccKind.isLoad]
  rw [Acc.queued, hserved, hkind, hstage, hkey, storesNow]
  simp [AccKind.isStore, and_assoc]

theorem countStore_of_no_races (h : s.rb.rcEn = false) : countStore s a = s := by
  unfold countStore countWriter
  rw [h]
  exact ite_self s

variable {p : Nat × List Byte} {parts : List (Nat × List Byte)}

/-- A store that does not wait in a queue writes all its parts. -/
theorem homeView_storeParts_now (hstage : a.stage = .home) (hkey : a.key = none) (hp : p.1 / 128 = a.pa / 128) (h : storesNow s a)
    (stamps : List ThreadRef) : homeView (storeParts s a stamps (p :: parts)) = (homeView s).withMem (writeParts s.w.mem (p :: parts)) := by
  have hcached := homeView_storeCached s (p := p) (parts := parts) a.core a.nt
  have hdsm : ((storeCached s a.core a.nt p parts).launch a.lid).lr = (s.launch a.lid).lr := congrFun (congrArg HomeView.records hcached) _
  have hmem : (storeCached s a.core a.nt p parts).w.mem = s.w.mem := congrArg HomeView.mem hcached
  rw [storeParts, if_neg (by rw [hstage]; decide), hkey]
  by_cases hnc : a.nc = true
  · rw [if_pos (by rw [hnc]; rfl)]
    exact homeView_homeStore ..
  · have hown : homeDie p.1 = dieOfCore a.core ∨ ((storeCached s a.core a.nt p parts).launch a.lid).lr.dsm = true := by
      rw [homeDie_of_line hp, hdsm]
      exact h.resolve_left hnc
    rw [if_neg (by simpa using hnc), cacheStore_cons, homeView_sendHome_own _ _ _ _ _ _ hown, hcached, hmem]

/-- Any other store waits in the queue of its die, whole. -/
theorem homeView_storeParts_queued (hstage : a.stage = .home) (hkey : a.key = none) (hp : p.1 / 128 = a.pa / 128) (h : ¬ storesNow s a)
    (stamps : List ThreadRef) : ∃ q : QWrite, q.line = a.pa / 128 ∧ q.parts = p :: parts
      ∧ homeView (storeParts s a stamps (p :: parts)) = (homeView s).withWrite (dieOfCore a.core) q := by
  have hcached := homeView_storeCached s (p := p) (parts := parts) a.core a.nt
  have hdsm : ((storeCached s a.core a.nt p parts).launch a.lid).lr = (s.launch a.lid).lr := congrFun (congrArg HomeView.records hcached) _
  obtain ⟨hnc, hremote⟩ := not_or.1 h
  have hother : ¬ (homeDie p.1 = dieOfCore a.core ∨ ((storeCached s a.core a.nt p parts).launch a.lid).lr.dsm = true) := by
    rw [homeDie_of_line hp, hdsm]
    exact hremote
  rw [storeParts, if_neg (by rw [hstage]; decide), hkey, if_neg (by simpa using hnc), cacheStore_cons, homeView_sendHome_other _ _ _ _ _ _ hother,
    hcached]
  exact ⟨_, hp, rfl, rfl⟩

theorem performEffect_store (hkind : a.kind = .store) (stamps : List ThreadRef) :
    performEffect s a stamps = countStore (storeParts s a stamps (storedParts a)) a := by
  rw [performEffect, hkind]
  rfl

/-- The first part of a store of one line lies in the line. -/
theorem storedParts_eq_cons (hne : a.lanes ≠ []) (hline : ∀ l ∈ a.lanes, a.lanePa l / 128 = a.pa / 128) :
    ∃ p parts, storedParts a = p :: parts ∧ p.1 / 128 = a.pa / 128 := by
  obtain ⟨l, lanes, hlanes⟩ := List.exists_cons_of_ne_nil hne
  exact ⟨_, _, by rw [storedParts, hlanes, List.map_cons], hline l (by rw [hlanes]; exact List.mem_cons_self)⟩

end

section

variable {s : State} {a : Acc} (hkind : a.kind = .store) (hstage : a.stage = .home) (hkey : a.key = none)
  (hgoes : (performAcc s a).2 = true) (hraces : s.rb.rcEn = false) (hne : a.lanes ≠ [])
  (hline : ∀ l ∈ a.lanes, a.lanePa l / 128 = a.pa / 128)

include hkind hstage hkey hgoes hraces hne hline

/-- What a store that reaches memory leaves: the stamps' writes and its own. -/
theorem homeView_performStore_now (h : storesNow s a) : ∃ u, Stamped s u ∧ homeView (performAcc s a).1
    = { (homeView s).withMem (writeParts u.w.mem (storedParts a)) with accs := s.w.accs.filter fun b => b.id != a.id } := by
  have hstamped : Stamped s (stampedFor s a) := stamped_stampAll s _
  refine ⟨stampedFor s a, hstamped, ?_⟩
  rw [performAcc_of_goes (.inl hkind) hgoes, homeView_accDone hstage, performEffect_store hkind]
  set u := stampedFor s a
  obtain ⟨p, parts, hparts, hp⟩ := storedParts_eq_cons hne hline
  have hnow : storesNow u a := by
    rw [storesNow, show (u.launch a.lid).lr = (s.launch a.lid).lr from congrFun (congrArg HomeView.records hstamped.view) _]
    exact h
  generalize (if a.queued s then stampThreads s a else []) = stamps
  have hview := homeView_storeParts_now (parts := parts) hstage hkey hp hnow stamps
  rw [hstamped.view, HomeView.withMem_withMem] at hview
  have hcount : (storeParts u a stamps (p :: parts)).rb.rcEn = false := (congrArg HomeView.races hview).trans hraces
  rw [hparts, countStore_of_no_races hcount, hview,
    show (storeParts u a stamps (p :: parts)).w.accs = s.w.accs from congrArg HomeView.accs hview]

/-- What a store that waits in a queue leaves: its write there, and no stamp. -/
theorem homeView_performStore_queued (h : ¬ storesNow s a) : ∃ q : QWrite, q.line = a.pa / 128 ∧ q.parts = storedParts a
    ∧ homeView (performAcc s a).1
      = { (homeView s).withWrite (dieOfCore a.core) q with accs := s.w.accs.filter fun b => b.id != a.id } := by
  have hqueued : a.queued s = true := (queued_iff hkind hstage hkey).2 h
  have hunstamped : stampedFor s a = s := by
    rw [stampedFor, stampsNow, if_pos hqueued]
    rfl
  obtain ⟨p, parts, hparts, hp⟩ := storedParts_eq_cons hne hline
  obtain ⟨q, hqline, hqparts, hview⟩ := homeView_storeParts_queued (parts := parts) hstage hkey hp h (stampThreads s a)
  refine ⟨q, hqline, hqparts.trans hparts.symm, ?_⟩
  have hcount : (storeParts s a (stampThreads s a) (p :: parts)).rb.rcEn = false := (congrArg HomeView.races hview).trans hraces
  rw [performAcc_of_goes (.inl hkind) hgoes, homeView_accDone hstage, performEffect_store hkind, hunstamped, if_pos hqueued, hparts,
    countStore_of_no_races hcount, hview,
    show (storeParts s a (stampThreads s a) (p :: parts)).w.accs = s.w.accs from congrArg HomeView.accs hview]

end

/-! The write at the head of a queue. -/

/-- What the home shows but for the accesses in flight. -/
def besideAccs (s : State) : HomeView := { homeView s with accs := [] }

section

variable {s : State} {die : Nat} {q : QWrite} {rest : List QWrite}

theorem besideAccs_unitDec (s : State) (th : ThreadRef) (c : Nat) : besideAccs (unitDec s th c) = besideAccs s := by
  unfold unitDec
  exact ite_keeps rfl (congrArg (fun v : HomeView => { v with accs := [] }) (homeView_modDie _ _ (by intro; rfl)))

theorem besideAccs_fireArmed (s : State) (core : Nat) : besideAccs (fireArmed s core) = besideAccs s := by
  unfold fireArmed
  refine (foldl_keeps (g := besideAccs) (fun a x => ite_keeps ?_ rfl) _ _).trans rfl
  exact besideAccs_unitDec ..

/-- The queue of a die without the write at its head, which is then made at its home. -/
def headWritten (s : State) (die : Nat) (q : QWrite) (rest : List QWrite) : State :=
  q.parts.foldl (fun s p => homeWrite s none p.1 p.2) (modDie s die fun d => { d with wq := rest })

theorem homeView_headWritten (s : State) (die : Nat) (q : QWrite) (rest : List QWrite) :
    homeView (headWritten s die q rest)
    = { (homeView s).withMem (writeParts s.w.mem q.parts) with wq := fun d => if d = die then rest else (s.die d).wq } := by
  have hqueue : homeView (modDie s die fun d => { d with wq := rest }) = { homeView s with wq := fun d => if d = die then rest else (s.die d).wq } := by
    refine congrArg (fun w => { homeView s with wq := w }) (funext fun d => ?_)
    rw [die_modDie]
    split <;> rfl
  rw [headWritten, homeView_foldl_writes _ fun _ _ => homeView_homeWrite .., hqueue]
  rfl

/-- The stamps of a write that waits in a queue. -/
def headStamps (q : QWrite) : List (ThreadRef × Nat) := q.stamps.map fun t => (t, clockLine false (q.line * 128))

/-- The write at the head goes where no checkpoint has its frame and its stamps can be made. -/
theorem performQueued_of_goes (hqueue : (s.die die).wq = q :: rest) (hframe : framePending s (q.line * 128) = false)
    (hstamps : (stampAll s (headStamps q)).2 = true) :
    besideAccs (performQueued s die) = besideAccs (headWritten (stampAll s (headStamps q)).1 die q rest) := by
  have hall : stampAll s (q.stamps.map fun t => (t, clockLine false (q.line * 128))) = ((stampAll s (headStamps q)).1, true) :=
    Prod.ext rfl hstamps
  unfold performQueued
  simp only [hqueue, hframe, hall, Bool.false_eq_true, if_false]
  refine ite_keeps (foldl_keeps (g := besideAccs) (fun a c => ite_keeps ?_ rfl) _ _) rfl
  exact besideAccs_fireArmed ..

theorem homeAccessPerform_queue {id : Nat} (hnone : accNow s id .home = none) (hhead : queueHead s id = some die) :
    exec (.homeAccessPerform id) s = .next (performQueued s die) := by
  show execHomeAccessPerform id s = _
  rw [execHomeAccessPerform, hnone, hhead]

end

/-- Settles O25: a store writes its parts, or its die's queue takes them, and the queue's head writes them later. -/
theorem storeWritesItsBytes : Obligations.StoreWritesItsBytes := by
  refine ⟨?store, ?queue⟩
  case store =>
    intro s a hnow hkind hgoes hraces hwf hne hline ring parts die
    obtain ⟨hstage, hkey⟩ := of_accNow hnow
    have hoff (k : Nat) (hk : ¬ ring k) : offRing s k := by
      dsimp only [ring] at hk
      rw [offRing]
      omega
    refine ⟨_, homeAccessPerform_acc hnow, ?_⟩
    by_cases h : storesNow s a
    · obtain ⟨u, hstamped, hview⟩ := homeView_performStore_now hkind hstage hkey hgoes hraces hne hline h
      have hmem : (performAcc s a).1.w.mem = writeParts u.w.mem parts := congrArg HomeView.mem hview
      have hread (k : Nat) (hk : ¬ ring k) : memRead (performAcc s a).1.w.mem k = memRead (writeParts s.w.mem parts) k := by
        rw [hmem]
        exact memRead_writeParts_congr parts (hstamped.wf hwf) hwf (hstamped.read hwf k (hoff k hk))
      refine ⟨congrArg HomeView.accs hview, congrArg HomeView.pends hview, fun r => congrFun (congrArg HomeView.ctx hview) r, ?_⟩
      rw [if_pos (show a.nc = true ∨ homeDie a.pa = die ∨ _ from h)]
      refine ⟨hread, fun k hk hout => (hread k hk).trans (memRead_writeParts_other hwf fun p hp => ?_)⟩
      obtain ⟨l, -, rfl⟩ := List.mem_map.1 hp
      rw [length_bytesOfNat]
      exact hout _ hp
    · obtain ⟨q, hqline, hqparts, hview⟩ := homeView_performStore_queued hkind hstage hkey hgoes hraces hne hline h
      refine ⟨congrArg HomeView.accs hview, congrArg HomeView.pends hview, fun r => congrFun (congrArg HomeView.ctx hview) r, ?_⟩
      rw [if_neg (show ¬ (a.nc = true ∨ homeDie a.pa = die ∨ _) from h)]
      exact ⟨congrArg HomeView.mem hview, q, (congrFun (congrArg HomeView.wq hview) die).trans (if_pos rfl), hqline, hqparts⟩
  case queue =>
    intro s die q rest hnone hhead hqueue hframe hstamps hwf
    have hstamped : Stamped s (stampAll s (headStamps q)).1 := stamped_stampAll s _
    have hview := performQueued_of_goes hqueue hframe hstamps
    rw [besideAccs, besideAccs, homeView_headWritten, hstamped.view] at hview
    set u := (stampAll s (headStamps q)).1
    have hmem : (performQueued s die).w.mem = writeParts u.w.mem q.parts := congrArg HomeView.mem hview
    refine ⟨_, homeAccessPerform_queue hnone hhead, (congrFun (congrArg HomeView.wq hview) die).trans (if_pos rfl), fun k hk => ?_,
      fun r => congrFun (congrArg HomeView.ctx hview) r⟩
    rw [hmem]
    exact memRead_writeParts_congr q.parts (hstamped.wf hwf) hwf (hstamped.read hwf k hk)

end Sys2Proof.Machine

/-! The ownership of the matrix engine, its gangs and its reservations (11 R238, R241, R242, R244, R246, R247). -/

namespace Sys2Proof.Machine

-- One proof after the other: the check's memory limit counts the stack of every thread that elaborates a proof.
set_option Elab.async false

section

variable {s : State} {ix : Issue} {w : Wd}

/-! Owning the engine (11 R241, R242). -/

theorem execMacq_of_none (hix : s.issue = some ix) (h : activeOf s ix w.ctl = []) : execMacq w s = .next (retire s ix w.ctl) := by
  simp only [execMacq, hix, h, List.isEmpty_nil, if_true]

theorem execMacq_of_active (hix : s.issue = some ix) (h : activeOf s ix w.ctl ≠ []) :
    let r := requestEngine s ix.pg
    execMacq w s = .next (if ownsEngine r ix.pg = true ∧ (engOf r ix.pg).readyAt ≤ timeOf r ix.cg then
      retire (acceptFlags r r ix w.ctl) ix w.ctl else holdAfter r r ix w.ctl .own) := by
  simp only [execMacq, hix, List.isEmpty_iff, h, if_false, Bool.and_eq_true, decide_eq_true_eq]
  exact (apply_ite Host.Outcome.next _ _ _).symm

theorem execMrel_of_none (hix : s.issue = some ix) (h : activeOf s ix w.ctl = []) :
    execMrel w s = .next (retire (acceptFlags s s ix w.ctl) ix w.ctl) := by
  simp only [execMrel, stateWord, hix, h, List.isEmpty_nil, if_true]

theorem execMrel_of_active (hix : s.issue = some ix) (h : activeOf s ix w.ctl ≠ []) :
    execMrel w s = .next (retire (acceptFlags s (letGo s ix.pg) ix w.ctl) ix w.ctl) := by
  simp only [execMrel, stateWord, hix, List.isEmpty_iff, h, if_false]

/-! What GANG does with a mask (11 R238). -/

variable {m : Word}

/-- The partition groups, by `pgid`, that a mask names. -/
def maskBits (m : Word) : List Nat := (List.range 6).filter fun i => m.getLsbD i

/-- The gang of the issuing partition group, in order. -/
def ownGang (s : State) (ix : Issue) : List Nat := sortBy id (gangMembers (s.cg ix.cg) (s.pg ix.pg).pgid)

/-- A mask other than 0 that names fewer than two partition groups, one that its core group does not have, or not the issuing one. -/
def MaskMalformed (s : State) (ix : Issue) (m : Word) : Prop :=
  m ≠ 0 ∧ (64 ≤ m.toNat ∨ (maskBits m).length < 2 ∨ (∃ b ∈ maskBits m, (s.launch ix.lid).lr.npg ≤ b) ∨ (s.pg ix.pg).pgid ∉ maskBits m)

/-- The mask would change a gang that owns or awaits the engine. -/
def GangEngaged (s : State) (ix : Issue) (m : Word) : Prop :=
  m ≠ 0 ∧ ownGang s ix ≠ maskBits m ∧ (ownsEngine s ix.pg = true ∨ waitsEngine s ix.pg = true)

/-- The mask would change the gang, and a pending one disagrees with it: a different mask that shares a partition group with it. -/
def MaskDisputed (s : State) (ix : Issue) (m : Word) : Prop :=
  ¬ (m ≠ 0 ∧ ownGang s ix = maskBits m) ∧ ∃ a ∈ (s.cg ix.cg).gangAsk, a.2 ≠ m ∧ a.2 &&& m ≠ 0

theorem gangBad_iff : gangBad s ix m = true ↔ MaskMalformed s ix m := by
  simp only [gangBad, MaskMalformed, maskBits, Bool.and_eq_true, Bool.or_eq_true, decide_eq_true_eq, List.any_eq_true,
    Bool.not_eq_true', List.contains_eq_mem, decide_eq_false_iff_not, or_assoc]

theorem gangAsk_disputes_iff : ((s.cg ix.cg).gangAsk.any fun a => decide (a.2 ≠ m) && decide (a.2 &&& m ≠ 0)) = true
    ↔ ∃ a ∈ (s.cg ix.cg).gangAsk, a.2 ≠ m ∧ a.2 &&& m ≠ 0 := by
  simp only [List.any_eq_true, Bool.and_eq_true, decide_eq_true_eq]

theorem not_maskMalformed_zero : ¬ MaskMalformed s ix 0 := fun h => h.1 rfl

/-- A mask is answered in the order of its checks. -/
theorem gangStep_eq [Decidable (MaskMalformed s ix m)] [Decidable (∃ a ∈ (s.cg ix.cg).gangAsk, a.2 ≠ m ∧ a.2 &&& m ≠ 0)] :
    gangStep s ix m = if MaskMalformed s ix m then .trap else if m ≠ 0 ∧ ownGang s ix = maskBits m then .nothing
      else if m ≠ 0 ∧ (ownsEngine s ix.pg = true ∨ waitsEngine s ix.pg = true) then .trap
      else if ∃ a ∈ (s.cg ix.cg).gangAsk, a.2 ≠ m ∧ a.2 &&& m ≠ 0 then .trap
      else if m = 0 ∧ (ownGang s ix).length < 2 then .alone else .ask := by
  simp only [gangStep, gangBad_iff, gangAsk_disputes_iff, Bool.or_eq_true]
  rfl

theorem gangStep_of_refused (h : MaskMalformed s ix m ∨ GangEngaged s ix m ∨ MaskDisputed s ix m) : gangStep s ix m = .trap := by
  classical
  rw [gangStep_eq]
  by_cases hbad : MaskMalformed s ix m
  · exact if_pos hbad
  rw [if_neg hbad]
  rcases h with h | ⟨hm, hdiff, hengine⟩ | ⟨hdiff, hask⟩
  · exact absurd h hbad
  · rw [if_neg fun h => hdiff h.2, if_pos ⟨hm, hengine⟩]
  · rw [if_neg hdiff, if_pos hask, ite_self]

theorem gangStep_of_same (hbad : ¬ MaskMalformed s ix m) (hm : m ≠ 0) (h : ownGang s ix = maskBits m) : gangStep s ix m = .nothing := by
  classical
  rw [gangStep_eq, if_neg hbad, if_pos ⟨hm, h⟩]

theorem gangStep_of_alone (hask : ¬ MaskDisputed s ix m) (hm : m = 0) (h : (ownGang s ix).length < 2) : gangStep s ix m = .alone := by
  classical
  subst hm
  have hzero {p : Prop} : ¬ ((0 : Word) ≠ 0 ∧ p) := fun h => h.1 rfl
  rw [gangStep_eq, if_neg not_maskMalformed_zero, if_neg hzero, if_neg hzero, if_neg fun h => hask ⟨hzero, h⟩, if_pos ⟨rfl, h⟩]

/-- A mask that changes the gang, and that nothing refuses, joins those that are pending. -/
theorem gangStep_of_change (hbad : ¬ MaskMalformed s ix m) (hengine : ¬ GangEngaged s ix m) (hask : ¬ MaskDisputed s ix m)
    (h : m ≠ 0 ∧ ownGang s ix ≠ maskBits m ∨ m = 0 ∧ 2 ≤ (ownGang s ix).length) : gangStep s ix m = .ask := by
  classical
  have hdiff : ¬ (m ≠ 0 ∧ ownGang s ix = maskBits m) := by
    rintro ⟨hm, hsame⟩
    rcases h with ⟨-, hne⟩ | ⟨hzero, -⟩
    · exact hne hsame
    · exact hm hzero
  have hfree : ¬ (m ≠ 0 ∧ (ownsEngine s ix.pg = true ∨ waitsEngine s ix.pg = true)) := fun ⟨hm, he⟩ =>
    hengine ⟨hm, fun hsame => hdiff ⟨hm, hsame⟩, he⟩
  have hgang : ¬ (m = 0 ∧ (ownGang s ix).length < 2) := by
    rintro ⟨hzero, hlt⟩
    rcases h with ⟨hm, -⟩ | ⟨-, hlen⟩
    · exact hm hzero
    · exact absurd hlt (Nat.not_lt.2 hlen)
  rw [gangStep_eq, if_neg hbad, if_neg hdiff, if_neg hfree, if_neg fun h => hask ⟨hdiff, h⟩, if_neg hgang]

/-! GANG itself, by what it does with the mask of its lowest guard-true thread. -/

variable {t : ThreadRef} {ts : List ThreadRef}

theorem execGang_of_none (hix : s.issue = some ix) (h : activeOf s ix w.ctl = []) : execGang w s = .next (retire s ix w.ctl) := by
  simp only [execGang, hix, h]

/-- The state in which a partition group has asked for a mask, and gangs have formed or dissolved. -/
def gangAsked (s : State) (ix : Issue) (m : Word) : State :=
  settleGangs (modCg s ix.cg fun g =>
    { g with gangAsk := g.gangAsk.filter (fun a => a.1 != (s.pg ix.pg).pgid) ++ [((s.pg ix.pg).pgid, m)],
             gangAt := tput g.gangAt (s.pg ix.pg).pgid (timeOf s ix.cg) }) ix.cg

theorem execGang_of_trap (hix : s.issue = some ix) (hactive : activeOf s ix w.ctl = t :: ts)
    (hstep : gangStep s ix (srcWord s t w.b) = .trap) :
    execGang w s = .next (retire ((t :: ts).foldl
      (fun a u => trapAt a ix u.tid { cause := 0x10, val := srcWord s t w.b, vahi := 0 }) s) ix w.ctl) := by
  simp only [execGang, hix, hactive, hstep]

theorem execGang_of_nothing (hix : s.issue = some ix) (hactive : activeOf s ix w.ctl = t :: ts)
    (hstep : gangStep s ix (srcWord s t w.b) = .nothing) :
    execGang w s = .next (retire (acceptFlags s s ix w.ctl) ix w.ctl) := by
  simp only [execGang, hix, hactive, hstep]

theorem execGang_of_alone (hix : s.issue = some ix) (hactive : activeOf s ix w.ctl = t :: ts)
    (hstep : gangStep s ix (srcWord s t w.b) = .alone) :
    execGang w s = .next (retire (acceptFlags s (letGo s ix.pg) ix w.ctl) ix w.ctl) := by
  simp only [execGang, hix, hactive, hstep]

theorem execGang_of_ask (hix : s.issue = some ix) (hactive : activeOf s ix w.ctl = t :: ts)
    (hstep : gangStep s ix (srcWord s t w.b) = .ask) :
    let r := gangAsked s ix (srcWord s t w.b)
    execGang w s = .next (if ∃ a ∈ (r.cg ix.cg).gangAsk, a.1 = (s.pg ix.pg).pgid then holdAfter r r ix w.ctl .gang
      else retire (acceptFlags r r ix w.ctl) ix w.ctl) := by
  simp only [execGang, hix, hactive, hstep, gangAsked, List.any_eq_true, decide_eq_true_eq]
  exact (apply_ite Host.Outcome.next _ _ _).symm

/-! Reservations (11 R244, R246). -/

/-- Of two ranges with a byte in the first, none lies in both only where the second is empty or they follow each other. -/
theorem disjoint_of_not_rangesMeet {a n b k : Nat} (hn : 0 < n) (h : rangesMeet a n b k = false) : k = 0 ∨ a + n ≤ b ∨ b + k ≤ a := by
  simp only [rangesMeet, Bool.and_eq_false_iff, decide_eq_false_iff_not] at h
  omega

/-- A descriptor that gets a number has passed every check, and its range is free of those reserved. -/
theorem free_of_resvCode {x : Core} {r : Resv} {bad : Bool} {n : Nat} (h : resvCode x r bad = (0, n)) :
    n < 16 ∧ tget? x.resv n = none ∧ bad = false ∧ r.off % 4096 = 0 ∧ r.len % 4096 = 0 ∧ 0 < r.len ∧ r.off + r.len ≤ Config.wbufSize
      ∧ ∀ y ∈ x.resv, y.2.len = 0 ∨ r.off + r.len ≤ y.2.off ∨ y.2.off + y.2.len ≤ r.off := by
  unfold resvCode at h
  dsimp only at h
  split_ifs at h with hformat hrange hpanels hmeets
  · cases h
  · cases h
  · cases h
  · cases h
  split at h
  next k hfind =>
    obtain rfl : k = n := congrArg Prod.snd h
    obtain ⟨hfree, hmem, -⟩ := List.find?_range_eq_some.1 hfind
    have hlen : 0 < r.len := by omega
    have hbad : bad = false := by
      cases bad with
      | false => rfl
      | true => exact absurd rfl hformat
    refine ⟨List.mem_range.1 hmem, Option.isNone_iff_eq_none.1 hfree, hbad, by omega, by omega, hlen, by omega, fun y hy => ?_⟩
    refine disjoint_of_not_rangesMeet hlen (Bool.eq_false_iff.2 fun hmeet => hmeets ?_)
    exact List.any_eq_true.2 ⟨y, hy, hmeet⟩
  next => cases h

end

/-- Settles O35: MACQ and MREL by whether a thread is active, GANG by what it does with its mask, RESV and RFREE lane by lane. -/
theorem engineOwnershipWords : Obligations.EngineOwnershipWords := by
  intro w s ix hix c goesOn waits drops
  refine ⟨fun hnone => ⟨execMacq_of_none hix hnone, execGang_of_none hix hnone, execMrel_of_none hix hnone⟩,
    fun hactive => ⟨execMacq_of_active hix hactive, execMrel_of_active hix hactive⟩, fun t ts hactive => ?gang, fun e hL => ?resv,
    fun x r bad n => free_of_resvCode, fun e hL => ?rfree⟩
  case gang =>
    intro m bits mine malformed busy clash
    refine ⟨fun h => execGang_of_trap hix hactive (gangStep_of_refused h),
      fun hbad hm hsame => execGang_of_nothing hix hactive (gangStep_of_same hbad hm hsame), fun hask hm hlen => ?_,
      fun hbad hengine hask h => execGang_of_ask hix hactive (gangStep_of_change hbad hengine hask h)⟩
    exact execGang_of_alone hix hactive (gangStep_of_alone hask hm hlen)
  case resv =>
    refine exec_of_lanes (show exec (.resv w) s = execResv w s from rfl) hix (fun a t b hstep => ?_) hL
    revert hstep
    rw [show (srcPair s t w.b + srcPair s t w.c).toNat = effAddr s t w.b w.c from rfl]
    rcases readDescAcq a t (effAddr s t w.b w.c) 32 32 with ⟨x, tr | d⟩
    · exact fun h => .inr ⟨x, tr, rfl, h⟩
    · exact fun h => .inl (congrArg (·, none) h.symm)
  case rfree =>
    refine exec_of_lanes (show exec (.rfree w) s = execRfree w s from rfl) hix (fun a t b hstep => ?_) hL
    dsimp only at hstep ⊢
    cases hresv : tget? (a.core ix.core).resv ((srcWord s t w.b).toNat % 16) with
    | none =>
      rw [hresv] at hstep
      exact .inr ⟨a, _, rfl, rfl, hstep⟩
    | some r =>
      rw [hresv, Option.any_some] at hstep
      by_cases hown : r.cg = ix.cg
      · rw [if_pos (decide_eq_true hown)] at hstep
        exact .inl (by rw [hstep]; exact if_pos hown)
      · rw [if_neg (by rw [decide_eq_false hown]; exact Bool.false_ne_true)] at hstep
        exact .inr ⟨a, _, if_neg hown, rfl, hstep⟩

end Sys2Proof.Machine

/-! The words of the system and of observation (18 R326, R330, R336, R344; 22 R378, R380, R381). -/

namespace Sys2Proof.Machine

-- One proof after the other: the check's memory limit counts the stack of every thread that elaborates a proof.
set_option Elab.async false

section

variable {s : State} {ix : Issue}

/-- Two outcomes of a lane, chosen by one condition, each of which is a step or a trap. -/
theorem stepsOrTraps_ite {p : Prop} [Decidable p] {t : ThreadRef} {r r' : State × Option Trap} {b b' : State}
    (h : stepsOrTraps r ix t b) (h' : stepsOrTraps r' ix t b') :
    stepsOrTraps (if p then r else r') ix t (if p then b else b') := by
  split
  · exact h
  · exact h'

theorem stepsOrTraps_step (t : ThreadRef) (b : State) : stepsOrTraps (b, none) ix t b := .inl rfl

/-- A trap that is no wait is taken. -/
theorem stepsOrTraps_trap (a : State) (t : ThreadRef) {x : Trap} (hx : x.again = none) :
    stepsOrTraps (a, some x) ix t (trapAt a ix t.tid x) := .inr ⟨a, x, rfl, hx, rfl⟩

/-! Words that are a lane's one check, or a chain of them, before its step. -/

/-- A control address lies outside the rows where it passes the last row's end, or the bytes of its row. -/
theorem controlOk_eq_false_iff {a n : Nat} : controlOk a n = false ↔ 0x200 < a + n ∨ 0x30 < a % 0x40 + n := by
  simp only [controlOk, Bool.and_eq_false_iff, decide_eq_false_iff_not, Nat.not_le]

/-- The privileged half of MFRZ and MFRZ.thaw: the freeze, or PRIVILEGE. -/
theorem stepsOrTraps_freezeLane (a : State) (t : ThreadRef) (f : State → State) :
    stepsOrTraps (freezeLane a ix t f) ix t
      (if (a.thread t).handler = true ∧ (ownsEngine a ix.pg = true ∨ lastOwner a ix.pg = true) then f a
        else trapAt a ix t.tid (privilegeTrap ix)) := by
  simp only [freezeLane, Bool.and_eq_true, Bool.or_eq_true]
  exact stepsOrTraps_ite (stepsOrTraps_step t _) (stepsOrTraps_trap a t rfl)

/-! PROGRESS (22 R378). -/

/-- A progress counter that counts once for each of the threads. -/
def countProgress (i : Nat) (ts : List ThreadRef) (l : List Word) : List Word := ts.foldl (fun l _ => l.modify i satInc) l

theorem foldl_countProgress (i : Nat) (ts : List ThreadRef) (s : State) :
    ts.foldl (fun a _ => { a with trial := { a.trial with counters := a.trial.counters.modify i satInc } }) s
      = { s with trial := { s.trial with counters := countProgress i ts s.trial.counters } } := by
  induction ts generalizing s with
  | nil => rfl
  | cons t ts ih => exact ih _

/-! STOPP (22 R381). -/

variable {w : Wd}

/-- A word that no thread issues, or of a launch that no debugger has claimed, only retires. -/
theorem execStopp_of_unclaimed (hix : s.issue = some ix) (h : activeOf s ix w.ctl = [] ∨ tget? s.w.claims ix.lid = none) :
    execStopp w s = .next (retire (acceptFlags s s ix w.ctl) ix w.ctl) := by
  rw [execStopp, hix]
  dsimp only
  cases hactive : activeOf s ix w.ctl with
  | nil => rfl
  | cons t ts =>
    have hnone := h.resolve_left (by simp [hactive])
    simp only [hnone, Option.isSome_none, Bool.false_eq_true, if_false]

theorem execStopp_of_claimed {t : ThreadRef} {ts : List ThreadRef} (hix : s.issue = some ix) (hactive : activeOf s ix w.ctl = t :: ts)
    (h : tget? s.w.claims ix.lid ≠ none) :
    execStopp w s = .next (sendNotice (stopPart (retire (acceptFlags s s ix w.ctl) ix w.ctl) ix.lid ix.part) ix.lid 0 ix.core (ix.part % 6)
      (gtidOf s t) 0 0 ix.pc) := by
  rw [execStopp, hix]
  simp only [hactive, Option.isSome_iff_ne_none.2 h, if_true]

end

/-- Settles O41: the words lane by lane, or by what they do to the state as a whole; STOPP by whether its launch is claimed. -/
theorem systemWords : Obligations.SystemWords := by
  intro w scope d c denied freezes
  refine ⟨?tqrd, ?killg, ?privw, ?mfrz, ?thaw, ?progress, actsAs_of_stateWord _ _ _ fun _ => rfl, ?stopp⟩
  case tqrd =>
    refine actsByLane_of_actWord_fixed _ _ _ _ (fun s => show exec (.tqrd w) s = execTqrd w s from rfl) fun s ix a t b hlane => ?_
    rw [hlane]
    exact stepsOrTraps_ite (stepsOrTraps_step t _) (stepsOrTraps_trap a t rfl)
  case killg =>
    intro s ix hix
    show execKillg w scope s = _
    simp only [execKillg, hix, List.isEmpty_iff]
    exact (apply_ite Host.Outcome.next _ _ _).symm
  case privw =>
    refine actsByLane_of_actWord_fixed _ _ _ _ (fun s => show exec (.privw w d) s = execPrivw w d s from rfl) fun s ix a t b hlane => ?_
    rw [hlane]
    simp only [Bool.not_eq_true', controlOk_eq_false_iff]
    exact stepsOrTraps_ite (stepsOrTraps_trap a t rfl) (stepsOrTraps_ite (stepsOrTraps_trap a t rfl)
      (stepsOrTraps_ite (stepsOrTraps_trap a t rfl) (stepsOrTraps_step t _)))
  case mfrz =>
    refine actsByLane_of_actWord _ _ _ _ (fun s => show exec (.mfrz w) s = execMfrz w s from rfl) fun s ix a t b _ hlane => ?_
    rw [hlane]
    exact stepsOrTraps_freezeLane a t _
  case thaw =>
    refine actsByLane_of_actWord _ _ _ _ (fun s => show exec (.mfrzThaw w) s = execMfrzThaw w s from rfl) fun s ix a t b _ hlane => ?_
    rw [hlane]
    exact stepsOrTraps_freezeLane a t _
  case progress =>
    intro s ix hix
    show execProgress w s = _
    rw [execProgress, stateWord, hix]
    dsimp only
    rw [foldl_countProgress]
    split <;> rfl
  case stopp =>
    intro s ix hix a u
    refine ⟨execStopp_of_unclaimed hix, fun t ts cl hactive hclaims hcl => ?_⟩
    refine (execStopp_of_claimed hix hactive hclaims).trans (congrArg _ ?_)
    rw [sendNotice, show tget? (stopPart a ix.lid ix.part).w.claims ix.lid = some cl from hcl]
    rfl

end Sys2Proof.Machine

/-! The clear of a reservation's range (11 R246), in a weight buffer that is not in canonical form. -/

namespace Sys2Proof.Machine

/-- A reservation of the second 4 KiB of the weight buffer, whose range is being cleared. -/
def clearingResv : Resv := { cg := 0, off := 4096, len := 4096, fmt := 11, blk := 0, sfmt := 0, scale := 0, npan := 1, clearing := true }

/-- Core 0 with that reservation under the number 0. Its weight buffer lists byte 4096 before byte 0, so a read of byte 0 stops at the
first entry and gives the default; once the range has been cleared, the same read meets the entry of byte 0. -/
def unsortedWbuf : State :=
  { State.reset with w := { World.init with cores := [(0, { Core.init with wbuf := [(4096, 1), (0, 1)], resv := [(0, clearingResv)] })] } }

/-- The clear changes what byte 0 reads as, which lies outside the reservation. -/
theorem clear_changes_byte_below : ∃ u, exec (.reservationClearComplete 0 0) unsortedWbuf = .next u
    ∧ memRead (u.core 0).wbuf 0 = 1 ∧ memRead (unsortedWbuf.core 0).wbuf 0 = 0 := ⟨_, rfl, by decide, by decide⟩

/-- Refutes O49: nothing in the statement says that the weight buffer is in canonical form, and the clear of bytes 4096 to 8191 of a buffer
that lists byte 4096 before byte 0 changes what byte 0 reads as. -/
theorem not_matrixEngineEvents : ¬ Obligations.MatrixEngineEvents := by
  intro h
  obtain ⟨hclear, -⟩ := h unsortedWbuf 0 0 0
  obtain ⟨u, hexec, -, -, houtside⟩ := hclear clearingResv rfl rfl rfl
  obtain ⟨v, hexec', hafter, hbefore⟩ := clear_changes_byte_below
  obtain rfl : u = v := Host.Outcome.next.inj (hexec.symm.trans hexec')
  have hsame := houtside 0 (.inl (by decide))
  rw [hafter, hbefore] at hsame
  exact absurd hsame (by decide)

end Sys2Proof.Machine

/-! The words of the projection, sort and compositing units (12 R265-R277). -/

namespace Sys2Proof.Machine

-- One proof after the other: the check's memory limit counts the stack of every thread that elaborates a proof.
set_option Elab.async false

section

variable {s : State} {ix : Issue} {t : ThreadRef}

/-- A trap whose value is a register's word. -/
theorem plainTrap_toNat (cause : BitVec 8) (v : Word) : plainTrap cause v.toNat = { cause := cause, val := v, vahi := 0 } := by
  rw [plainTrap, word, BitVec.ofNat_toNat, BitVec.setWidth_eq]

/-! Words of an engine, lane by lane (09 R211). -/

/-- A word of an engine whose lanes read their operands from the state in which it issues. -/
theorem actsOnEngine_of_engineWord_fixed {i : Instr} {c : Ctl} {f : State → Issue → State → ThreadRef → State × Option Trap}
    {lane : State → Issue → State → ThreadRef → State → Prop} (h : ∀ s, exec i s = engineWord s c (f s))
    (hl : ∀ s ix a t b, lane s ix a t b → stepsOrTraps (f s ix a t) ix t b) : actsOnEngine i c lane := by
  intro s ix e hix hL
  rw [h, engineWord, hix]
  simp only [actLanes_of_lanes ix (f s ix) (lane s ix) (hl s ix) s e _ hL]

/-! Words of the Ladle, lane by lane (12 R275). -/

/-- A lane of a Ladle word is done: it has trapped, has asked for nothing, or the Ladle has its request. -/
inductive AskDone (ix : Issue) (c : Ctl) (t : ThreadRef) (b : State) : State × Except Trap (Option LadleReq) → Prop where
  | trapped {a : State} {x : Trap} (hx : x.again = none) (hb : b = trapAt a ix t.tid x) : AskDone ix c t b (a, .error x)
  | nothing : AskDone ix c t b (b, .ok none)
  | sent {a : State} {q : LadleReq} (hq : sendLadle a ix c t q = (b, none)) : AskDone ix c t b (a, .ok (some q))

/-- Where every lane is done, none makes the word wait. -/
theorem ladleLanes_of_lanes {c : Ctl} {f : State → ThreadRef → State × Except Trap (Option LadleReq)}
    {lane : State → ThreadRef → State → Prop} (hl : ∀ a t b, lane a t b → AskDone ix c t b (f a t)) {e : State} {ts : List ThreadRef}
    (h : Lanes lane s ts e) (did : List Nat) : ∃ all, ladleLanes ts s ix c f did = (e, all, none) := by
  induction h generalizing did with
  | nil s => exact ⟨did, rfl⟩
  | @cons a b e t ts hstep _ ih =>
    have hdone := hl a t b hstep
    unfold ladleLanes
    generalize f a t = r at hdone ⊢
    cases hdone with
    | trapped hx hb =>
      subst hb
      simp only [hx]
      exact ih did
    | nothing => exact ih _
    | sent hq =>
      simp only [hq]
      exact ih _

/-- A Ladle word whose lanes ask for what `ask` says. -/
theorem asksLadle_of_ladleWord {i : Instr} {c : Ctl} {stall : Nat}
    {f ask : State → Issue → State → ThreadRef → State × Except Trap (Option LadleReq)}
    (h : ∀ s, exec i s = ladleWord s c stall (f s)) (hask : ∀ s ix a t, f s ix a t = ask s ix a t) : asksLadle i c stall ask := by
  intro s ix e hix hL
  obtain ⟨all, hlanes⟩ := ladleLanes_of_lanes (ix := ix) (c := c) (f := f s ix) (fun a t b => by
    rw [hask s ix a t]
    rcases ask s ix a t with ⟨x, tr | _ | q⟩
    · exact fun ⟨hx, hb⟩ => .trapped hx hb
    · rintro rfl
      exact .nothing
    · exact .sent) hL (s.group ix.part ix.pos).did
  rw [h, ladleWord, hix]
  dsimp only
  rw [hlanes]
  refine congrArg Host.Outcome.next (if_congr ?_ rfl rfl)
  simp only [Bool.or_eq_true, List.isEmpty_iff, Bool.and_eq_true, decide_eq_true_eq, Bool.not_eq_true']

/-! Slots (12 R265, R270). -/

/-- A slot that the core group does not hold is BUFFER_ACCESS with its number. -/
theorem atSlot_of_notHeld {v : Word} (q : Nat → Except Trap LadleReq)
    (h : v.toNat < 8 → ∀ x, slotAfter s ix.core v.toNat = some x → x.1 ≠ ix.cg) :
    atSlot s ix v q = (s, .error { cause := 0x09, val := v, vahi := 0 }) := by
  have hheld : heldSlot s ix v = .error { cause := 0x09, val := v, vahi := 0 } := by
    rw [heldSlot, plainTrap_toNat]
    split
    next x hx => exact if_neg fun ⟨hlt, hown⟩ => h hlt x hx hown
    next => rfl
  rw [atSlot, hheld]

theorem atSlot_of_held {v : Word} (q : Nat → Except Trap LadleReq) {x : Nat × Bool} (hlt : v.toNat < 8)
    (hx : slotAfter s ix.core v.toNat = some x) (hown : x.1 = ix.cg) : atSlot s ix v q = (s, (q v.toNat).map some) := by
  have hheld : heldSlot s ix v = .ok v.toNat := by
    rw [heldSlot, hx]
    exact if_pos ⟨hlt, hown⟩
  rw [atSlot, hheld]
  dsimp only
  cases q v.toNat <;> rfl

/-- CRST checks its slot first. -/
theorem crstLane_of_badSlot {v : Word} (va : Nat) (h : 8 ≤ v.toNat ∨ ∃ x, slotAfter s ix.core v.toNat = some x ∧ x.1 ≠ ix.cg) :
    crstLane s ix t v va = (s, .error { cause := 0x09, val := v, vahi := 0 }) := by
  unfold crstLane
  rw [plainTrap_toNat]
  refine if_pos (Bool.or_eq_true_iff.2 (h.imp decide_eq_true ?_))
  rintro ⟨x, hx, hother⟩
  rw [hx]
  exact decide_eq_true hother

/-- CRST.rel asks for nothing where the slot is free (log 39). -/
theorem crstRelLane_of_free {v : Word} (h : slotAfter s ix.core v.toNat = none) :
    crstRelLane s ix v = (s, if 8 ≤ v.toNat then .error { cause := 0x09, val := v, vahi := 0 } else .ok none) := by
  rw [crstRelLane, h, plainTrap_toNat]

/-- CRST.rel asks for the release of a slot that the core group holds. -/
theorem crstRelLane_of_claimed {v : Word} {x : Nat × Bool} (h : slotAfter s ix.core v.toNat = some x) :
    crstRelLane s ix v = (s, if x.1 = ix.cg then .ok (some { slot := v.toNat, kind := .release, regs := [] })
      else .error { cause := 0x09, val := v, vahi := 0 }) := by
  rw [crstRelLane, h, plainTrap_toNat]
  exact (apply_ite (Prod.mk s) (x.1 = ix.cg) _ _).symm

/-! Requests (06 R131; 12 R276). -/

theorem sendLadle_of_dsm {c : Ctl} (q : LadleReq) (h : (s.launch ix.lid).lr.dsm = true) :
    sendLadle s ix c t q = (modCore (pushResult s ix c 0 true false t { regs := q.regs, vals := [], preds := [], raise := 0 }) ix.core
      fun x => { x with ladleQ := x.ladleQ ++ [ladleOp s ix t q (some s.w.nextId)] }, none) := by
  rw [sendLadle]
  exact if_pos h

theorem sendLadle_of_done {c : Ctl} {q : LadleReq} {x : State} {vals : List Word} (h : (s.launch ix.lid).lr.dsm = false)
    (hdone : applyLadle s ix.core (ladleOp s ix t q none) = .done x vals) :
    let y := modCore x ix.core fun z => { z with ladleAt := (x.clk + 1, ix.part) }
    sendLadle s ix c t q = (if q.regs = [] then y
      else pushResult y ix c 0 true true t { regs := q.regs, vals := vals, preds := [], raise := 0 }, none) := by
  simp only [sendLadle, h, hdone, List.isEmpty_iff, Bool.false_eq_true, if_false]

/-! What the Ladle does with a read or a release (12 R270, R277). -/

section

variable {core : Nat} {o : LadleOp} {x : LadleSlot}

theorem applyLadle_pixel {p : Nat} (hx : slotOf s core o.slot = some x) (ho : o.kind = .pixel p) :
    applyLadle s core o = .done s (wordsOfBytes (pxBytes s core x p)) := by
  simp only [applyLadle, ho, hx]

/-- An entry beyond the list, or of a slot that spills nothing, reads as `noEntry`. -/
theorem applyLadle_noEntry {p j : Nat} (hx : slotOf s core o.slot = some x) (ho : o.kind = .entry p j)
    (hnone : Nat.min (pxN s core x p) 255 ≤ j ∨ x.list = 0) : applyLadle s core o = .done s noEntry := by
  simp only [applyLadle, ho, hx]
  exact if_pos hnone

theorem applyLadle_release (ho : o.kind = .release) : applyLadle s core o = .done (releaseSlot s core o.slot) [] := by
  simp only [applyLadle, ho]

end

/-- The slots of the Ladles of all cores. -/
def ladles (s : State) : Nat → Tab LadleSlot := fun c => (s.core c).ladle

theorem ladles_modCore (s : State) (core : Nat) {f : Core → Core} (h : ∀ c, (f c).ladle = c.ladle) :
    ladles (modCore s core f) = ladles s := by
  funext c
  rw [ladles, core_modCore]
  split
  next hc => rw [h, hc, ladles]
  next => rfl

theorem ladles_addLocks (s : State) (core : Nat) (ls : List RLock) : ladles (addLocks s core ls) = ladles s :=
  ladles_modCore _ _ fun _ => rfl

theorem ladles_dropPins (s : State) (core owner : Nat) : ladles (dropPins s core owner) = ladles s := ladles_modCore _ _ fun _ => rfl

theorem ladles_dropLocksWhere (s : State) (core : Nat) (f : RLock → Bool) : ladles (dropLocksWhere s core f) = ladles s :=
  ladles_modCore _ _ fun _ => rfl

theorem ladles_acceptCopies (s : State) (core : Nat) : ladles (acceptCopies s core) = ladles s := by
  refine foldl_keeps (g := ladles) (fun a o => ?_) _ s
  have hcount : ladles (countOp a o) = ladles a := ite_keeps rfl rfl
  exact ite_keeps (ite_keeps ((ladles_addLocks ..).trans hcount) hcount) rfl

theorem ladles_acceptOps (s : State) (core : Nat) : ladles (acceptOps s core) = ladles s :=
  congrArg (fun x c => (x.2.1 c).2) (besideEngine_acceptOps s core)

/-- A released slot is free: what goes with it, and what is then accepted, leaves the slots as they are. -/
theorem slotOf_releaseSlot (s : State) (core k : Nat) : slotOf (releaseSlot s core k) core k = none := by
  unfold releaseSlot
  split
  next h => exact h
  next x _ =>
    rw [slotOf, ← ladles]
    dsimp only
    rw [ladles_acceptOps, ladles_acceptCopies, ladles_dropPins, ladles_dropLocksWhere, ladles, core_modCore, if_pos rfl]
    exact tget?_tdel_self ..

end

/-- Settles O39: the engines' words and SFETCH lane by lane, the Ladle's words by what each lane asks for, and what the Ladle answers. -/
theorem splatWords : Obligations.SplatWords := by
  intro w kn c ea slotTrap tagged
  have tags (i : Instr) (k : EngKind) (n : Nat) (bad : List Byte → Nat → Option (BitVec 8 × Nat))
      (locks : EngOp → Nat → List RLock) (hi : ∀ s, exec i s = tagOpWord s w k n bad fun s ix o => locks o (s.cg ix.cg).slot) :
      tagged i k n bad locks := by
    refine actsOnEngine_of_engineWord_fixed hi fun s ix a t b => ?_
    dsimp only
    rw [show ea s t = effAddr s t w.b w.c from rfl]
    rcases readDescAcq a t (effAddr s t w.b w.c) n n with ⟨x, tr | d⟩
    · exact fun h => .inr ⟨x, tr, rfl, h⟩
    · dsimp only
      cases bad d (effAddr s t w.b w.c) with
      | none | some r => exact fun h => .inl (congrArg (·, none) h.symm)
  -- With its body gone, `tagged` gives its arguments to `tags`.
  clear_value tagged
  refine ⟨tags _ _ _ _ _ fun _ => rfl, tags _ _ _ _ _ fun _ => rfl,
    actsByLane_of_actWord_fixed _ _ (fun s ix a t => sfetchLane a ix w kn s t) _ (fun _ => rfl) fun _ _ _ _ _ h => h, ?sfetch, ?cdep,
    asksLadle_of_ladleWord (fun _ => rfl) fun _ _ _ _ => rfl, asksLadle_of_ladleWord (fun _ => rfl) fun _ _ _ _ => rfl,
    asksLadle_of_ladleWord (fun _ => rfl) fun _ _ _ _ => rfl, asksLadle_of_ladleWord (fun _ => rfl) fun _ _ _ _ => rfl, ?crstRel,
    fun s ix v q h => atSlot_of_notHeld q h, fun s ix v q x hlt hx hown => atSlot_of_held q hlt hx hown,
    fun s ix t v va h => crstLane_of_badSlot va h, fun s ix t q h => sendLadle_of_dsm q h,
    fun s ix t q x vals h hdone => sendLadle_of_done h hdone, fun s core o x hx => ⟨fun p ho => applyLadle_pixel hx ho,
      fun p j ho hnone => applyLadle_noEntry hx ho hnone, fun ho => ⟨_, applyLadle_release ho, slotOf_releaseSlot ..⟩⟩⟩
  case sfetch =>
    intro s ix s0 t h
    have hread : readDesc s t (ea s0 t) 8 8 = (s, .error (plainTrap 0x05 (ea s0 t))) := if_pos h
    rw [sfetchLane, show effAddr s0 t w.b w.c = ea s0 t from rfl, hread]
    rfl
  case cdep =>
    refine asksLadle_of_ladleWord (fun _ => rfl) fun s ix a t => congrArg (atSlot a ix (srcWord s t w.a)) (funext fun k => ?_)
    dsimp only [termOf]
    rw [plainTrap_toNat]
  case crstRel =>
    refine asksLadle_of_ladleWord (fun _ => rfl) fun s ix a t => ?_
    dsimp only
    cases h : slotAfter a ix.core (srcWord s t w.a).toNat with
    | none => exact crstRelLane_of_free h
    | some x => exact crstRelLane_of_claimed h

end Sys2Proof.Machine

/-! Trap calls, delivery and the return from a handler (18 R319-R327; 22 R384). -/

namespace Sys2Proof.Machine

-- One proof after the other: the check's memory limit counts the stack of every thread that elaborates a proof.
set_option Elab.async false

section

variable {s : State} {t : ThreadRef} {x : Trap} {w : WordAt} {defer : Bool} {e : TqEntry}

/-! What a change of a partition group beside its threads, and a change of a thread's place, leave. -/

theorem thread_modPg_of_threads (s : State) (k : Nat) {f : PartGroup → PartGroup} (h : ∀ g, (f g).threads = g.threads) (r : ThreadRef) :
    (modPg s k f).thread r = s.thread r := by
  rw [State.thread, pg_modPg]
  split
  next hr => rw [h, ← hr, State.thread]
  next => rfl

theorem thread_setPlace_self (pl : Place) (h : t.tid < (s.pg t.pg).threads.length) :
    (setPlace s t pl).thread t = { s.thread t with place := pl } := by
  rw [thread_of_besideParts (besideParts_setPlace s t pl), thread_modThread, if_pos ⟨rfl, h⟩]

theorem thread_setPlace_other (pl : Place) {r : ThreadRef} (h : r ≠ t) : (setPlace s t pl).thread r = s.thread r := by
  rw [thread_of_besideParts (besideParts_setPlace s t pl), thread_modThread, if_neg fun hr => h hr.1]

theorem length_setPlace (s : State) (t : ThreadRef) (pl : Place) (k : Nat) :
    ((setPlace s t pl).pg k).threads.length = (s.pg k).threads.length := by
  rw [pg_setPlace, length_modThread]

/-- What of a partition group does not depend on its threads stays when a thread of it changes, or is filed. -/
theorem pg_modThread_beside {β : Type} {g : PartGroup → β} (hg : ∀ x l, g { x with threads := l } = g x) (s : State) (t : ThreadRef)
    (f : Thread → Thread) (k : Nat) : g ((modThread s t f).pg k) = g (s.pg k) := by
  rw [modThread, pg_modPg]
  split
  next hk => rw [hk, PartGroup.modThread, hg]
  next => rfl

theorem pg_setPlace_beside {β : Type} {g : PartGroup → β} (hg : ∀ x l, g { x with threads := l } = g x) (s : State) (t : ThreadRef)
    (pl : Place) (k : Nat) : g ((setPlace s t pl).pg k) = g (s.pg k) := by
  rw [pg_setPlace, pg_modThread_beside hg]

theorem pg_fileThread_beside {β : Type} {g : PartGroup → β} (hg : ∀ x l, g { x with threads := l } = g x) (s : State) (t : ThreadRef)
    (pc : Nat) (w : Wait) (k : Nat) : g ((fileThread s t pc w).pg k) = g (s.pg k) := by
  obtain ⟨pl, -, hbeside⟩ := besideParts_fileThread s t pc w
  rw [pg_of_besideParts hbeside, pg_modThread_beside hg, pg_modThread_beside hg]

theorem filed_fileThread (pc : Nat) (w : Wait) (h : t.tid < (s.pg t.pg).threads.length) : Filed ((fileThread s t pc w).thread t).place := by
  rw [place_fileThread w h]
  exact filed_binFor ..

/-! A trap call, by what the thread is and who catches it (18 R319, R320, R323; 22 R384). -/

/-- The state after a thread has been parked at a word, its trap remembered in it or not. -/
def parkedAt (s : State) (t : ThreadRef) (f : Thread → Thread) : State := modThread (setPlace s t .parked) t f

theorem thread_parkedAt_self {f : Thread → Thread} (h : t.tid < (s.pg t.pg).threads.length) :
    (parkedAt s t f).thread t = f { s.thread t with place := .parked } := by
  rw [parkedAt, thread_modThread, length_setPlace, if_pos ⟨rfl, h⟩, thread_setPlace_self _ h]

theorem thread_parkedAt_other {f : Thread → Thread} {r : ThreadRef} (h : r ≠ t) : (parkedAt s t f).thread r = s.thread r := by
  rw [parkedAt, thread_modThread, if_neg fun hr => h hr.1, thread_setPlace_other _ h]

theorem trapq_parkedAt (f : Thread → Thread) (k : Nat) : ((parkedAt s t f).pg k).trapq = (s.pg k).trapq := by
  rw [parkedAt, pg_modThread_beside (g := PartGroup.trapq) fun _ _ => rfl, pg_setPlace_beside (g := PartGroup.trapq) fun _ _ => rfl]

theorem parkedAt_frame (s : State) (t : ThreadRef) (f : Thread → Thread) :
    parkedAt s t f = { s with w := { s.w with pgs := (parkedAt s t f).w.pgs, parts := (parkedAt s t f).w.parts } } :=
  frame_of_besideParts (besideParts_modThread (besideParts_setPlace s t .parked) t f)

/-- The thread parks at the trapping word and its entry joins the queue. -/
def queuedTrap (s : State) (t : ThreadRef) (w : WordAt) (e : TqEntry) : State :=
  modPg (parkedAt s t fun th => { th with trap := some e, pc := w.pc }) t.pg fun g => { g with trapq := g.trapq ++ [e] }

theorem thread_queuedTrap_self (h : t.tid < (s.pg t.pg).threads.length) :
    (queuedTrap s t w e).thread t = { s.thread t with place := .parked, trap := some e, pc := w.pc } := by
  rw [queuedTrap, thread_modPg_of_threads, thread_parkedAt_self h]
  exact fun _ => rfl

theorem thread_queuedTrap_other {r : ThreadRef} (h : r ≠ t) : (queuedTrap s t w e).thread r = s.thread r := by
  rw [queuedTrap, thread_modPg_of_threads, thread_parkedAt_other h]
  exact fun _ => rfl

theorem trapq_queuedTrap (k : Nat) :
    ((queuedTrap s t w e).pg k).trapq = if k = t.pg then (s.pg k).trapq ++ [e] else (s.pg k).trapq := by
  rw [queuedTrap, pg_modPg]
  split
  next hk => rw [hk, trapq_parkedAt]
  next => rw [trapq_parkedAt]

theorem queuedTrap_frame (s : State) (t : ThreadRef) (w : WordAt) (e : TqEntry) : queuedTrap s t w e
    = { s with w := { s.w with pgs := (queuedTrap s t w e).w.pgs, parts := (queuedTrap s t w e).w.parts } } :=
  congrArg (fun a => modPg a t.pg fun g => { g with trapq := g.trapq ++ [e] }) (parkedAt_frame s t _)

theorem sendMsg_w (s : State) (m : OutMsg) : (sendMsg s m).w = s.w := ite_keeps (g := State.w) rfl rfl

theorem sendNotice_w (s : State) (lid kind core part gtid cause tval pc : Nat) :
    (sendNotice s lid kind core part gtid cause tval pc).w = s.w := by
  unfold sendNotice
  split
  · rfl
  · exact sendMsg_w ..

/-- The thread parks at the trapping word, its partition stops, and the debugger is told. -/
def caughtTrap (s : State) (t : ThreadRef) (x : Trap) (w : WordAt) (e : TqEntry) : State :=
  let g := s.pg t.pg
  let a := modPart (stopPart (parkedAt s t fun th => { th with pc := w.pc }) g.lid g.part) g.part
    fun p => { p with caught := p.caught ++ [(t, e)] }
  sendNotice a g.lid 1 g.core (g.part % 6) (gtidOf a t) x.cause.toNat x.val.toNat w.pc

theorem caughtTrap_w (e : TqEntry) : (caughtTrap s t x w e).w
    = (modPart (stopPart (parkedAt s t fun th => { th with pc := w.pc }) (s.pg t.pg).lid (s.pg t.pg).part) (s.pg t.pg).part
      fun p => { p with caught := p.caught ++ [(t, e)] }).w := sendNotice_w ..

theorem thread_congr {a b : State} (h : a.w.pgs = b.w.pgs) (r : ThreadRef) : a.thread r = b.thread r := by
  rw [State.thread, State.pg, h, State.thread, State.pg]

theorem caughtTrap_spec (e : TqEntry) (h : t.tid < (s.pg t.pg).threads.length) :
    ((caughtTrap s t x w e).part (s.pg t.pg).part).stopped = true ∧ ((caughtTrap s t x w e).thread t).place = .parked
    ∧ ((caughtTrap s t x w e).pg t.pg).trapq = (s.pg t.pg).trapq := by
  refine ⟨?_, ?_, ?_⟩
  · rw [State.part, caughtTrap_w, ← State.part, part_modPart, if_pos rfl, stopPart, part_modPart, if_pos rfl]
  · have hpgs : (caughtTrap s t x w e).w.pgs = (parkedAt s t fun th => { th with pc := w.pc }).w.pgs := by
      rw [caughtTrap_w]
      rfl
    rw [thread_congr hpgs, thread_parkedAt_self h]
  · rw [State.pg, caughtTrap_w]
    exact trapq_parkedAt ..

theorem trapCore_of_queued (hlive : (s.thread t).live = true) (hcaught : caught s (s.pg t.pg).lid x.cause = false)
    (hvec : (s.lrOfPg t.pg).trapvec ≠ 0) (hout : (s.thread t).handler = false) :
    trapCore s t x w defer = queuedTrap s t w (trapEntry s t x w defer) := by
  have hgo : ¬ ((s.launch (s.pg t.pg).lid).lr.trapvec = 0 ∨ (s.thread t).handler = true) :=
    not_or_intro hvec (by rw [hout]; exact Bool.false_ne_true)
  unfold trapCore
  simp only [hlive, hcaught, if_neg hgo]
  rfl

theorem trapCore_of_caught (hlive : (s.thread t).live = true) (hcaught : caught s (s.pg t.pg).lid x.cause = true) :
    trapCore s t x w defer = caughtTrap s t x w (trapEntry s t x w defer) := by
  unfold trapCore
  simp only [hlive, hcaught]
  rfl

theorem trapCore_of_contained (hlive : (s.thread t).live = true) (hcaught : caught s (s.pg t.pg).lid x.cause = false)
    (hgo : (s.thread t).handler = true ∨ (s.lrOfPg t.pg).trapvec = 0) : trapCore s t x w defer = containCore s t x.cause := by
  unfold trapCore
  simp only [hlive, hcaught, if_pos (show (s.launch (s.pg t.pg).lid).lr.trapvec = 0 ∨ (s.thread t).handler = true from hgo.symm)]
  rfl

theorem caught_of_unclaimed {lid : Nat} (h : tget? s.w.claims lid = none) (cause : BitVec 8) : caught s lid cause = false := by
  unfold caught
  rw [h]

theorem trapCall_of_live (hlive : (s.thread t).live = true) : trapCall s t x w defer = leaveJoin (trapCore s t x w defer) t := if_pos hlive

theorem leaveJoin_of_parked {a : State} (h : (a.thread t).place = .parked) : leaveJoin a t = a := by
  unfold leaveJoin Thread.live
  rw [h]
  rfl

theorem trapCall_of_queued (hlen : t.tid < (s.pg t.pg).threads.length) (hlive : (s.thread t).live = true)
    (hcaught : caught s (s.pg t.pg).lid x.cause = false) (hvec : (s.lrOfPg t.pg).trapvec ≠ 0) (hout : (s.thread t).handler = false) :
    trapCall s t x w defer = queuedTrap s t w (trapEntry s t x w defer) := by
  rw [trapCall_of_live hlive, trapCore_of_queued hlive hcaught hvec hout, leaveJoin_of_parked]
  rw [thread_queuedTrap_self hlen]

theorem trapCall_of_caught (hlen : t.tid < (s.pg t.pg).threads.length) (hlive : (s.thread t).live = true)
    (hcaught : caught s (s.pg t.pg).lid x.cause = true) : trapCall s t x w defer = caughtTrap s t x w (trapEntry s t x w defer) := by
  rw [trapCall_of_live hlive, trapCore_of_caught hlive hcaught, leaveJoin_of_parked (caughtTrap_spec _ hlen).2.1]

/-! Delivery (18 R321, R322). -/

theorem traceRecord_of_unclaimed (kind pc val id : Nat) (h : tget? s.w.claims (s.pg t.pg).lid = none) :
    traceRecord s t kind pc val id = s := by
  unfold traceRecord
  dsimp only
  rw [h]

/-- The thread of the head entry is in handler mode, and still parked. -/
def handled (s : State) (pg : Nat) (e : TqEntry) : State :=
  let t : ThreadRef := { pg := pg, tid := e.tid }
  modThread (modCtx (modPg s pg fun g => { g with handling := true }) t fun c => { c with tcause := word e.cause.toNat, tval := e.val }) t
    fun x => { x with handler := true, trap := some e }

theorem pg_handled (s : State) (pg : Nat) (e : TqEntry) :
    (handled s pg e).pg pg = { s.pg pg with handling := true, threads := ((handled s pg e).pg pg).threads } := by
  unfold handled modCtx modThread
  simp only [pg_modPg, if_true, PartGroup.modThread]

theorem length_handled (s : State) (pg : Nat) (e : TqEntry) : ((handled s pg e).pg pg).threads.length = (s.pg pg).threads.length := by
  unfold handled modCtx
  rw [length_modThread, length_modThread, pg_modPg, if_pos rfl]

theorem lrOfPg_handled (s : State) (pg : Nat) (e : TqEntry) : (handled s pg e).lrOfPg pg = s.lrOfPg pg := by
  unfold State.lrOfPg
  rw [pg_handled]
  rfl

theorem thread_handled_self {pg : Nat} (h : e.tid < (s.pg pg).threads.length) : (handled s pg e).thread { pg := pg, tid := e.tid }
    = { s.thread { pg := pg, tid := e.tid } with
        ctx := { (s.thread { pg := pg, tid := e.tid }).ctx with tcause := word e.cause.toNat, tval := e.val }, handler := true,
        trap := some e } := by
  have hlen : e.tid < ((modPg s pg fun g => { g with handling := true }).pg pg).threads.length := by
    rw [pg_modPg, if_pos rfl]
    exact h
  unfold handled modCtx
  rw [thread_modThread, length_modThread, if_pos ⟨rfl, hlen⟩, thread_modThread, if_pos ⟨rfl, hlen⟩, thread_modPg_of_threads]
  exact fun _ => rfl

theorem thread_handled_other {pg : Nat} {r : ThreadRef} (h : r ≠ { pg := pg, tid := e.tid }) :
    (handled s pg e).thread r = s.thread r := by
  unfold handled modCtx
  rw [thread_modThread, if_neg fun hr => h hr.1, thread_modThread, if_neg fun hr => h hr.1, thread_modPg_of_threads]
  exact fun _ => rfl

theorem deliver_of_head {pg : Nat} {rest : List TqEntry} (hq : (s.pg pg).trapq = e :: rest) (hclaim : tget? s.w.claims (s.pg pg).lid = none) :
    deliver s pg = fileThread (handled s pg e) { pg := pg, tid := e.tid } (s.lrOfPg pg).trapvec .ready := by
  have hlid : ((handled s pg e).pg pg).lid = (s.pg pg).lid := by rw [pg_handled]
  have hclaim' : tget? (handled s pg e).w.claims ((handled s pg e).pg pg).lid = none := by
    rw [hlid]
    exact hclaim
  unfold deliver
  rw [hq]
  dsimp only
  rw [← handled, traceRecord_of_unclaimed _ _ _ _ hclaim', lrOfPg_handled]

theorem mayDeliver_of_head {pg : Nat} {rest : List TqEntry} (hq : (s.pg pg).trapq = e :: rest) (hidle : (s.pg pg).handling = false)
    (hpends : ∀ p ∈ s.w.pends, p.th ≠ { pg := pg, tid := e.tid })
    (hflags : ∀ n ∈ (s.thread { pg := pg, tid := e.tid }).ctx.flags, n = 0)
    (hredo : (s.thread { pg := pg, tid := e.tid }).redo = none) : mayDeliver s pg = true := by
  have hnone : (s.w.pends.any fun p => decide (p.th = { pg := pg, tid := e.tid }) && !p.win) = false :=
    List.any_eq_false.2 fun p hp => by simp [hpends p hp]
  have hzero : (s.thread { pg := pg, tid := e.tid }).ctx.flags.all (· == 0) = true :=
    List.all_eq_true.2 fun n hn => beq_iff_eq.2 (hflags n hn)
  unfold mayDeliver
  dsimp only
  rw [hq]
  dsimp only
  rw [hidle, hnone, hzero, hredo]
  rfl

theorem trapDelivery_goes {pg : Nat} (hpg : (tget? s.w.pgs pg).isSome = true) (hruns : launchRuns s (s.pg pg).lid = true)
    (hmay : mayDeliver s pg = true) : exec (.trapDelivery pg) s = .next (deliver s pg) := by
  change execTrapDelivery pg s = _
  unfold execTrapDelivery
  rw [hpg, hruns, hmay]
  rfl

/-! The return (18 R325, R327). -/

theorem pg_endHandler (s : State) (t : ThreadRef) : (endHandler s t).pg t.pg = { s.pg t.pg with
    handling := false, trapq := (s.pg t.pg).trapq.filter (fun e => e.tid != t.tid), threads := ((endHandler s t).pg t.pg).threads } := by
  unfold endHandler modThread
  simp only [pg_modPg, if_true, PartGroup.modThread]

theorem length_endHandler (s : State) (t : ThreadRef) :
    ((endHandler s t).pg t.pg).threads.length = (s.pg t.pg).threads.length := by
  unfold endHandler
  dsimp only
  rw [length_modThread, pg_modPg, if_pos rfl]

theorem thread_endHandler (h : t.tid < (s.pg t.pg).threads.length) : (endHandler s t).thread t
    = { s.thread t with handler := false, trap := none, hdr := ((s.thread t).trap.map (·.hdr)).getD (s.thread t).hdr } := by
  unfold endHandler
  dsimp only
  rw [thread_modThread, if_pos, thread_modPg_of_threads]
  · exact fun _ => rfl
  · rw [pg_modPg, if_pos rfl]
    exact ⟨rfl, h⟩

/-- The resume word is a header: that of the trap's clause, or the next one's. -/
def resumesAtHeader (e : TqEntry) : Prop := resumeWord e = e.hdr ∨ resumeWord e = e.hdr + 12 * (e.len + 1) ∨ e.len = 0

theorem resumeAt_of_header (h : resumesAtHeader e) : resumeAt s t e = fileThread s t (resumeWord e) .ready := if_pos h

theorem resumeAt_of_inside (h : ¬ resumesAtHeader e) :
    resumeAt s t e = modThread (setPlace s t .alone) t fun x => { x with pc := resumeWord e, hdr := e.hdr, wait := .ready } := if_neg h

theorem thread_resumeAt_inside (hlen : t.tid < (s.pg t.pg).threads.length) (h : ¬ resumesAtHeader e) :
    (resumeAt s t e).thread t = { s.thread t with pc := resumeWord e, hdr := e.hdr, wait := .ready, place := .alone } := by
  rw [resumeAt_of_inside h, thread_modThread, length_setPlace, if_pos ⟨rfl, hlen⟩, thread_setPlace_self _ hlen]

/-- A resumption sets a thread's PC and wait, and with them its place and header. -/
theorem thread_resumeAt (e : TqEntry) (hlen : t.tid < (s.pg t.pg).threads.length) : ∃ hdr pl passed, (resumeAt s t e).thread t
    = { s.thread t with pc := resumeWord e, wait := .ready, hdr := hdr, place := pl, passed := passed } := by
  by_cases h : resumesAtHeader e
  · exact ⟨_, _, _, by rw [resumeAt_of_header h, thread_fileThread_self _ hlen]⟩
  · exact ⟨_, _, _, thread_resumeAt_inside hlen h⟩

theorem pg_resumeAt_beside {β : Type} {g : PartGroup → β} (hg : ∀ x l, g { x with threads := l } = g x) (s : State) (t : ThreadRef)
    (e : TqEntry) (k : Nat) : g ((resumeAt s t e).pg k) = g (s.pg k) := by
  by_cases h : resumesAtHeader e
  · rw [resumeAt_of_header h, pg_fileThread_beside hg]
  · rw [resumeAt_of_inside h, pg_modThread_beside hg, pg_setPlace_beside hg]

/-- A thread's region is as at its entry: its count and snapshots, and no entry of it in a stream. -/
def rewound (s : State) (t : ThreadRef) (e : TqEntry) : State :=
  modPg (modThread s t fun x =>
      { x with ctx := { x.ctx with rgn := if e.rgn = 0 then 0 else e.rgn - 1, cv := x.cvSnap }, pos := x.posSnap }) t.pg
    fun g => { g with streams := (g.streams.map fun st => { st with entries := st.entries.filter fun x => x.tid != t.tid }) }

theorem length_rewound (s : State) (t : ThreadRef) (e : TqEntry) :
    ((rewound s t e).pg t.pg).threads.length = (s.pg t.pg).threads.length := by
  unfold rewound
  rw [pg_modPg, if_pos rfl]
  exact length_modThread ..

theorem thread_rewound_self (e : TqEntry) (h : t.tid < (s.pg t.pg).threads.length) : (rewound s t e).thread t = { s.thread t with
    ctx := { (s.thread t).ctx with rgn := if e.rgn = 0 then 0 else e.rgn - 1, cv := (s.thread t).cvSnap }, pos := (s.thread t).posSnap } := by
  unfold rewound
  rw [thread_modPg_of_threads, thread_modThread, if_pos ⟨rfl, h⟩]
  exact fun _ => rfl

theorem thread_rewound_other (e : TqEntry) {r : ThreadRef} (h : r ≠ t) : (rewound s t e).thread r = s.thread r := by
  unfold rewound
  rw [thread_modPg_of_threads, thread_modThread, if_neg fun hr => h hr.1]
  exact fun _ => rfl

end

/-- Settles O16: the queue, the containment, or the debugger, by what the thread is and who catches the cause. -/
theorem trapCallsQueueOrContain : Obligations.TrapCallsQueueOrContain := by
  refine ⟨?queued, fun s t x w defer => ⟨fun hdead => ?_,
    fun hlive hcaught hgo => ?contained, fun hlive hcaught hlen => ?caught⟩⟩
  case queued =>
    intro s t x w defer hlen hlive hout hvec hclaim e entry
    have he : e = queuedTrap s t w entry := trapCall_of_queued hlen hlive (caught_of_unclaimed hclaim _) hvec hout
    rw [he]
    refine ⟨?_, thread_queuedTrap_self hlen, fun r hr => thread_queuedTrap_other hr, fun k hk => ?_, queuedTrap_frame s t w entry⟩
    · rw [trapq_queuedTrap, if_pos rfl]
    · rw [trapq_queuedTrap, if_neg hk]
  case contained => rw [trapCall_of_live hlive, trapCore_of_contained hlive hcaught hgo, contain]
  case caught =>
    rw [trapCall_of_caught hlen hlive hcaught]
    exact caughtTrap_spec _ hlen
  · exact if_neg (by rw [hdead]; exact Bool.false_ne_true)

/-- Settles O17: what delivery makes of the thread, then where it is filed. -/
theorem deliveryEntersTheHandler : Obligations.DeliveryEntersTheHandler := by
  intro s pg e rest hpg hruns hq hidle hlen hpends hflags hredo hclaim t
  have hlen' : t.tid < ((handled s pg e).pg t.pg).threads.length := by
    rw [length_handled]
    exact hlen
  refine ⟨_, trapDelivery_goes hpg hruns (mayDeliver_of_head hq hidle hpends hflags hredo), ?_⟩
  rw [deliver_of_head hq hclaim]
  refine ⟨?_, filed_fileThread _ _ hlen', ?_, ?_, fun r hr => ?_⟩
  · rw [thread_fileThread_self _ hlen', thread_handled_self hlen]
  · rw [pg_fileThread_beside (g := PartGroup.handling) fun _ _ => rfl, pg_handled]
  · rw [pg_fileThread_beside (g := PartGroup.trapq) fun _ _ => rfl, pg_handled]
  · rw [thread_fileThread_other _ hr, thread_handled_other hr]

/-- Settles O18: each TRET word is one step for each guard-true thread, by its mode. -/
theorem returnLeavesTheHandler : Obligations.ReturnLeavesTheHandler := by
  intro w tret
  exact ⟨actsAs_of_stateWord _ _ _ fun _ => rfl, actsAs_of_stateWord _ _ _ fun _ => rfl, actsAs_of_stateWord _ _ _ fun _ => rfl⟩

/-- Settles O19: a resumption by whether its word is a header, and a restart by what it rewinds before it files. -/
theorem resumeAndRestart : Obligations.ResumeAndRestart := by
  refine ⟨fun s t e hlen htrap => ?resume, fun s t e hlen => ?restart⟩
  case resume =>
    intro u r
    have hlen' : t.tid < ((endHandler s t).pg t.pg).threads.length := by
      rw [length_endHandler]
      exact hlen
    have hu : ∃ hdr pl passed, u.thread t = { (endHandler s t).thread t with
        pc := r, wait := .ready, hdr := hdr, place := pl, passed := passed } := thread_resumeAt e hlen'
    obtain ⟨hdr, pl, passed, hu⟩ := hu
    refine ⟨?_, ?_, ?_, ?_, ?_, ?_, ?_, fun h => ?_, fun hhdr hnext hlen0 => ?_⟩
    · rw [hu, thread_endHandler hlen]
    · rw [hu, thread_endHandler hlen]
    · rw [hu]
    · rw [hu]
    · rw [hu, thread_endHandler hlen]
    · rw [pg_resumeAt_beside (g := PartGroup.handling) fun _ _ => rfl, pg_endHandler]
    · rw [pg_resumeAt_beside (g := PartGroup.trapq) fun _ _ => rfl, pg_endHandler]
    · have hfiled : u = fileThread (endHandler s t) t r .ready := resumeAt_of_header h
      rw [hfiled]
      exact filed_fileThread _ _ hlen'
    · have hin : ¬ resumesAtHeader e := not_or_intro hhdr (not_or_intro hnext hlen0)
      rw [thread_resumeAt_inside hlen' hin]
      exact ⟨rfl, rfl⟩
  case restart =>
    intro u
    have he : u = fileThread (rewound s t e) t e.rent .ready := rfl
    have hlen' : t.tid < ((rewound s t e).pg t.pg).threads.length := by
      rw [length_rewound]
      exact hlen
    have hu : u.thread t = { (rewound s t e).thread t with pc := e.rent, wait := .ready, place := (u.thread t).place, passed := false } :=
      thread_fileThread_self _ hlen'
    refine ⟨?_, ?_, filed_fileThread _ _ hlen', ?_, ?_, fun r hr => ?_⟩
    · rw [hu]
    · rw [hu]
    · rw [hu, thread_rewound_self e hlen]
    · rw [hu, thread_rewound_self e hlen]
    · rw [he, thread_fileThread_other _ hr, thread_rewound_other e hr]

end Sys2Proof.Machine

/-! Debug messages, sessions and address spaces (22 R379-R386; 24 R388-R394). -/

namespace Sys2Proof.Machine

-- One proof after the other: the check's memory limit counts the stack of every thread that elaborates a proof.
set_option Elab.async false

section

variable {s : State} {conn lid : Nat}

/-! The messages' meanings. -/

theorem exec_debugRelease (s : State) : exec .debugRelease s = claimWord s false true fun s lid _ => respond (endClaim s lid) 0 0 [] := rfl
theorem exec_stopPartition (s : State) : exec .stopPartition s = execStopPartition s := rfl
theorem exec_setWatchpoint (s : State) : exec .setWatchpoint s = execSetWatchpoint s := rfl
theorem exec_resume (s : State) : exec .resume s = execResume s := rfl
theorem exec_readDump (s : State) : exec .readDump s = execReadDump s := rfl
theorem exec_armTrace (s : State) : exec .armTrace s = execArmTrace s := rfl
theorem exec_sessionClose (s : State) : exec .sessionClose s
    = gate s false true fun s => endSession (respond s 0 0 []) (connHome s.rx.conn) := rfl
theorem exec_malformedMessage (s : State) : exec .malformedMessage s = gate s false false fun s => s := rfl

theorem exec_eq_gate {i : Instr} (hi : i ∈ [Instr.malformedMessage, .write, .read, .sessionOpen, .kill]) (s : State) :
    ∃ need ok k, exec i s = gate s need ok k := by
  unfold exec
  fin_cases hi <;> simp only [execMalformedMessage, execWrite, execRead, execSessionOpen, execKill] <;> exact ⟨_, _, _, rfl⟩

/-! What an answer leaves, and what it says. -/

/-- What does not look at the messages to be sent is as it was before an answer. -/
theorem respond_keeps {β : Type} {g : State → β} (hg : ∀ a l, g { a with outbox := l } = g a) (s : State) (status result : Nat)
    (payload : List Byte) : g (respond s status result payload) = g s := ite_keeps rfl (hg ..)

/-- An answer depends on the message, the messages before it, and whether a replay runs. -/
theorem respond_outbox_congr {a : State} (hrx : a.rx = s.rx) (hout : a.outbox = s.outbox) (hreplay : a.replay = s.replay)
    (status result : Nat) (payload : List Byte) : (respond a status result payload).outbox = (answered s status result payload).outbox := by
  unfold respond sendMsg answered
  rw [hrx, hout, hreplay]
  split
  · exact hout
  · rfl

/-! Messages that need the claim (22 R385). -/

section

variable {need ok : Bool} {k : State → Nat → Claim → State} {c : Claim}

theorem claimWord_of_unclaimed (h : admitted s need) (hlid : s.rx.addr.toNat < 65536) (hok : ok = true) (hc : rxClaim s = none) :
    claimWord s need ok k = .next (answered s 7 0 []) := by
  rw [claimWord, gate_of_admitted h (by rw [decide_eq_true hlid, hok]; rfl), hc]
  rfl

theorem claimWord_of_claimed (h : admitted s need) (hlid : s.rx.addr.toNat < 65536) (hok : ok = true) (hc : rxClaim s = some c) :
    claimWord s need ok k = .next (k s s.rx.addr.toNat c) := by
  rw [claimWord, gate_of_admitted h (by rw [decide_eq_true hlid, hok]; rfl), hc]
  rfl

theorem claim_of_rxClaim (hc : rxClaim s = some c) : tget? s.w.claims s.rx.addr.toNat = some c := by
  unfold rxClaim debugLid at hc
  cases hget : tget? s.w.claims s.rx.addr.toNat with
  | none => rw [hget] at hc; cases hc
  | some d =>
    rw [hget] at hc
    exact (Option.ite_none_right_eq_some.1 hc).2

theorem tget?_modClaim (f : Claim → Claim) (h : tget? s.w.claims lid = some c) : tget? (modClaim s lid f).w.claims lid = some (f c) := by
  unfold modClaim
  rw [tget?_tmod, if_pos rfl, h]
  rfl

/-- The watchpoints of a claim after SET_WATCHPOINT with the control word `v` (22 R383). -/
def watchesSet (l : Tab Watch) (v : Nat) (x : Watch) : Tab Watch := if bitAt v 16 then tput l (v % 8) x else tdel l (v % 8)

theorem tget?_watchesSet_off {l : Tab Watch} {v : Nat} {x : Watch} (h : bitAt v 16 = false) : tget? (watchesSet l v x) (v % 8) = none := by
  rw [watchesSet, if_neg (by rw [h]; exact Bool.false_ne_true)]
  exact tget?_tdel_self ..

theorem tget?_watchesSet_on {l : Tab Watch} {v : Nat} {x : Watch} (h : bitAt v 16 = true) : tget? (watchesSet l v x) (v % 8) = some x := by
  rw [watchesSet, if_pos h, tget?_tput, if_pos rfl]

theorem execSetWatchpoint_eq (s : State) : execSetWatchpoint s = claimWord s false (payLen s 24) fun s lid _ =>
    let x : Watch := { lo := payNat s 8 7, hi := payNat s 16 7, mask := BitVec.ofNat 4 (payNat s 0 8 / 256) }
    respond (modClaim s lid fun c => { c with watches := watchesSet c.watches (payNat s 0 8) x }) 0 0 [] := rfl

end

/-! A claim is made (22 R384, R385). -/

/-- The named launch is claimed by the message's connection. -/
def claimMade (s : State) : State :=
  let c : Claim := { conn := s.rx.conn, mask := BitVec.ofNat 3 (payNat s 0 8), watches := [], trace := none, reclaimed := 0, lost := 0 }
  { s with w := { s.w with claims := tput s.w.claims s.rx.addr.toNat c } }

section

variable (h : admitted s false) (hlid : s.rx.addr.toNat < 65536) (hlen : s.rx.payload.length = 8) (hmask : payNat s 0 8 < 8)

include h hlid hlen hmask

theorem execDebugClaim_of_noLaunch (hl : tget? s.w.launches s.rx.addr.toNat = none) :
    execDebugClaim s = .next (answered s 7 0 []) := by
  rw [execDebugClaim, gate_of_admitted h (by rw [decide_eq_true hlid, payLen_of_length hlen, decide_eq_true hmask]; rfl), debugLid, hl]
  rfl

theorem execDebugClaim_of_claimed {l : Launch} (hl : tget? s.w.launches s.rx.addr.toNat = some l) (hsees : sessionSees s l = true)
    (hc : (tget? s.w.claims s.rx.addr.toNat).isSome = true) : execDebugClaim s = .next (answered s 3 0 []) := by
  rw [execDebugClaim, gate_of_admitted h (by rw [decide_eq_true hlid, payLen_of_length hlen, decide_eq_true hmask]; rfl), debugLid, hl]
  dsimp only
  rw [hsees, hc]
  rfl

theorem execDebugClaim_of_free {l : Launch} (hl : tget? s.w.launches s.rx.addr.toNat = some l) (hsees : sessionSees s l = true)
    (hc : tget? s.w.claims s.rx.addr.toNat = none) : execDebugClaim s = .next (respond (claimMade s) 0 0 []) := by
  rw [execDebugClaim, gate_of_admitted h (by rw [decide_eq_true hlid, payLen_of_length hlen, decide_eq_true hmask]; rfl), debugLid, hl]
  dsimp only
  rw [hsees, hc]
  rfl

end

/-! Trace buffers (22 R379). -/

theorem armTrace_wellFormed (hlen : s.rx.payload.length = 16) (halign : payNat s 0 7 % 4096 = 0) (hlo : 12 ≤ payNat s 8 8 % 32)
    (hhi : payNat s 8 8 % 32 ≤ 30) (hfits : payNat s 0 7 + 2 ^ (payNat s 8 8 % 32) ≤ 2 ^ 56) :
    (payLen s 16 && decide (payNat s 0 7 % 4096 = 0) && decide (12 ≤ payNat s 8 8 % 32) && decide (payNat s 8 8 % 32 ≤ 30)
      && decide (payNat s 0 7 + 2 ^ (payNat s 8 8 % 32) ≤ 2 ^ 56)) = true := by
  rw [payLen_of_length hlen, decide_eq_true halign, decide_eq_true hlo, decide_eq_true hhi, decide_eq_true hfits]
  rfl

/-! Sessions (24 R393). -/

section

variable {ok : Bool} {k : State → State} (hpower : s.mgmt.powered = true) (hport : s.mgmt.ports.getLsbD (connPort s.rx.conn) = true)

include hpower hport

/-- The gate lets an open pass on an ordered connection of a device that is not in the safe talkative state. -/
theorem gate_of_open (hsafe : s.mgmt.safe = false) (hcls : s.rx.cls = 12) (hop : s.rx.op = 0) (hordered : connOrdered s.rx.conn = true)
    (hok : ok = true) : gate s false ok k = .next (k s) := by
  have hread : isStatusRead s = false := by
    unfold isStatusRead
    rw [hcls]
    simp
  have hopen : isOpen s = true := by
    unfold isOpen
    rw [hcls, hop]
    rfl
  simp only [gate, hpower, hport, hsafe, hread, hopen, hordered, hok, Bool.not_true, Bool.false_and, Bool.and_false, Bool.false_or,
    Bool.and_true, Bool.not_false, Bool.false_eq_true, if_false]

/-- In the safe talkative state everything but class 0x09 and an open is answered with status 0x01. -/
theorem gate_of_safe (hsafe : s.mgmt.safe = true) (honly : s.mgmt.statusOnly = false) (h9 : s.rx.cls ≠ 9) (h12 : s.rx.cls ≠ 12) :
    gate s false ok k = .next (answered s 1 0 []) := by
  simp only [gate, isStatusRead, isOpen, hpower, hport, hsafe, honly, decide_eq_false h9, decide_eq_false h12, Bool.not_true,
    Bool.false_and, Bool.and_false, Bool.not_false, Bool.true_and, Bool.or_false, Bool.false_eq_true, if_false, if_true]
  rfl

end

theorem gate_of_unpowered {need ok : Bool} {k : State → State} (h : s.mgmt.powered = false) : gate s need ok k = .next s := by
  simp only [gate, h, Bool.not_false, Bool.true_or, if_true]

/-- What an accepted open makes of the device, but for the answer. -/
def sessionMade (s : State) (n : Nat) : State :=
  let x : Session := { number := n, serial := s.nextSession, management := openAsksMgmt s && Config.credentialManagement s.rx.payload,
                       space := some (openSpace s), clock := 0, ords := 0 }
  { s with mgmt := { s.mgmt with authFails := 0 }, sessions := tput s.sessions s.rx.conn x, nextSession := s.nextSession + 1 }

section

variable (hpower : s.mgmt.powered = true) (hport : s.mgmt.ports.getLsbD (connPort s.rx.conn) = true) (hsafe : s.mgmt.safe = false)
  (hcls : s.rx.cls = 12) (hop : s.rx.op = 0) (hordered : connOrdered s.rx.conn = true) (hlen : 8 ≤ s.rx.payload.length)
  (hnone : rxSession s = none)

include hpower hport hsafe hcls hop hordered hlen hnone

theorem execSessionOpen_badCredential (hbad : Config.credentialOk s.rx.payload = false) : execSessionOpen s = .next (authFail s) := by
  rw [execSessionOpen, gate_of_open hpower hport hsafe hcls hop hordered (by rw [hordered, decide_eq_true hlen, hnone]; rfl)]
  dsimp only
  rw [hbad]
  rfl

theorem execSessionOpen_accepted {n : Nat} (hgood : Config.credentialOk s.rx.payload = true) (hspace : openSpace s ≠ 0xFF)
    (hgrants : spaceGrants s (openSpace s) = true) (hfree : freeSession s = some n) :
    execSessionOpen s = .next { respond (sessionMade s n) 0 (n + bnat (openAsksMgmt s && Config.credentialManagement s.rx.payload) * 1024)
      (openAnswer s) with fresh := s.fresh + 1 } := by
  have hlisted : (tget? s.spaces (openSpace s)).isNone = false := by
    unfold spaceGrants at hgrants
    cases hget : tget? s.spaces (openSpace s) with
    | none => rw [hget] at hgrants; cases hgrants
    | some x => rfl
  have hthere : ¬ (openSpace s ≠ 0xFF ∧ (tget? s.spaces (openSpace s)).isNone = true) := fun h => by
    rw [hlisted] at h
    exact Bool.false_ne_true h.2
  rw [execSessionOpen, gate_of_open hpower hport hsafe hcls hop hordered (by rw [hordered, decide_eq_true hlen, hnone]; rfl)]
  have hcredential : ¬ (!Config.credentialOk s.rx.payload || (s.mgmt.safe && !Config.credentialManagement s.rx.payload)) = true := by
    rw [hgood, hsafe]
    exact Bool.false_ne_true
  have hgranted : ¬ (!(openAsksMgmt s && Config.credentialManagement s.rx.payload)
      && !spaceGrants { s with mgmt := { s.mgmt with authFails := 0 } } (openSpace s)) = true := by
    rw [show spaceGrants { s with mgmt := { s.mgmt with authFails := 0 } } (openSpace s) = true from hgrants, Bool.not_true, Bool.and_false]
    exact Bool.false_ne_true
  have hfree' : freeSession { s with mgmt := { s.mgmt with authFails := 0 } } = some n := hfree
  dsimp only
  rw [if_neg hcredential, if_neg hgranted, if_neg hthere, hfree', if_neg hspace]
  rfl

end

theorem endSession_of_unclaimed (h : ∀ c ∈ s.w.claims, connHome c.2.conn ≠ conn) :
    endSession s conn = { s with sessions := tdel s.sessions conn } := by
  have hnil : (s.w.claims.filter fun c => decide (connHome c.2.conn = conn)) = [] :=
    List.filter_eq_nil_iff.2 fun c hc => by rw [decide_eq_false (h c hc)]; exact Bool.false_ne_true
  unfold endSession
  dsimp only
  rw [hnil]
  rfl

/-! Address spaces (24 R394). -/

theorem firstFree_spec {n k : Nat} {f : Nat → Bool} (h : firstFree n f = some k) : k < n ∧ f k = true := by
  rw [firstFree, List.find?_range_eq_some] at h
  exact ⟨List.mem_range.1 h.2.1, h.1⟩

theorem execCreateAddressSpace_free {k : Nat} (h : admitted s true) (halign : s.rx.addr.toNat % 0x8000 = 0)
    (hdram : s.rx.addr.toNat < Config.dramTop) (hlen : s.rx.payload.length ≤ 128)
    (hfree : firstFree 64 (fun n => (tget? s.spaces n).isNone) = some k) : ∃ access, execCreateAddressSpace s
      = .next (respond { s with spaces := tput s.spaces k { root := s.rx.addr.toNat, access := access } } 0 k []) := by
  unfold execCreateAddressSpace
  dsimp only
  rw [gate_of_admitted h (by rw [decide_eq_true halign, decide_eq_true hdram, decide_eq_true hlen]; rfl), hfree]
  exact ⟨_, rfl⟩

/-- An address space is in use: a launch of it is live, or a session bound to it. -/
def spaceInUse (s : State) (n : Nat) : Prop := (∃ l ∈ s.w.launches, l.2.space = n) ∨ ∃ x ∈ s.sessions, x.2.space = some n

theorem spaceInUse_iff (n : Nat) : ((s.w.launches.any fun l => decide (l.2.space = n))
    || s.sessions.any fun x => decide (x.2.space = some n)) = true ↔ spaceInUse s n := by
  simp only [Bool.or_eq_true, List.any_eq_true, decide_eq_true_eq, spaceInUse]

theorem execDestroyAddressSpace_refused (h : admitted s false)
    (hbad : (tget? s.spaces (s.rx.addr.toNat % 64)).isNone = true ∨ spaceInUse s (s.rx.addr.toNat % 64)) :
    execDestroyAddressSpace s = .next (answered s 3 0 []) := by
  unfold execDestroyAddressSpace
  dsimp only
  rw [gate_of_admitted h rfl, if_pos]
  · rfl
  · rw [Bool.or_assoc, Bool.or_eq_true, spaceInUse_iff]
    exact hbad

theorem execDestroyAddressSpace_done (h : admitted s false) (hthere : (tget? s.spaces (s.rx.addr.toNat % 64)).isSome = true)
    (hidle : ¬ spaceInUse s (s.rx.addr.toNat % 64)) : execDestroyAddressSpace s
      = .next (respond { dropTranslations s (s.rx.addr.toNat % 64) 0 (2 ^ 56) with spaces := tdel s.spaces (s.rx.addr.toNat % 64) } 0 0 []) := by
  unfold execDestroyAddressSpace
  dsimp only
  rw [gate_of_admitted h rfl, if_neg]
  rw [Bool.or_assoc, Bool.or_eq_true, spaceInUse_iff]
  rintro (hnone | huse)
  · rw [Option.isNone_iff_eq_none] at hnone
    rw [hnone] at hthere
    cases hthere
  · exact hidle huse

end

/-- Settles O53: the claim, what needs it, sessions and spaces, each by the checks of its message. -/
theorem debugAndSessionMessages : Obligations.DebugAndSessionMessages := by
  intro s conn hdr lid pay
  refine ⟨fun h hlid hc => ⟨?unclaimedRelease, fun hlen => ?unclaimedStop, fun hlen => ?unclaimedWatch⟩,
    fun h hlid hlen hmask => ⟨fun hl => execDebugClaim_of_noLaunch h hlid hlen hmask hl, fun l hl hsees =>
      ⟨fun hc => execDebugClaim_of_claimed h hlid hlen hmask hl hsees hc, fun hc =>
        ⟨_, execDebugClaim_of_free h hlid hlen hmask hl hsees hc, ?claim⟩⟩⟩,
    fun c h hlid hc => ⟨?release, fun hlen hp => ?noPart, fun p hlen hp => ?stop, fun p hlen hfate hp => ?resume,
      fun p hlen hn hp => ?dump, fun hlen => ?watch⟩,
    fun c b h hlid hc hlen halign hlo hhi hfits => ⟨fun e x hpin => ?refusedTrace, fun hpin => ?armed⟩,
    fun hpower hport hsafe hcls hop hordered hlen hnone => ⟨fun hbad =>
        ⟨_, execSessionOpen_badCredential hpower hport hsafe hcls hop hordered hlen hnone hbad, ?authFail⟩,
      fun k hgood hspace hgrants hfree =>
        ⟨_, execSessionOpen_accepted hpower hport hsafe hcls hop hordered hlen hnone hgood hspace hgrants hfree, ?opened⟩⟩,
    fun h => ?closed, fun h => ⟨endSession_of_unclaimed h, ?ended⟩, fun k h halign hdram hlen hfree => ?created,
    fun h hbad => execDestroyAddressSpace_refused h hbad,
    fun h hthere hlaunch hsess => ⟨_, execDestroyAddressSpace_done h hthere ?idle, ?destroyed⟩,
    rfl, fun hpower hport => ?refusedMode, fun h => ?malformed, fun hpower i hi => ?unpowered,
    fun hpower hport hsafe honly h9 h12 => ?safeState⟩
  case unclaimedRelease => rw [exec_debugRelease, claimWord_of_unclaimed h hlid rfl hc]
  case unclaimedStop => rw [exec_stopPartition, execStopPartition, claimWord_of_unclaimed h hlid (payLen_of_length hlen) hc]
  case unclaimedWatch => rw [exec_setWatchpoint, execSetWatchpoint, claimWord_of_unclaimed h hlid (payLen_of_length hlen) hc]
  case release => rw [exec_debugRelease, claimWord_of_claimed h hlid rfl hc]
  case closed =>
    rw [exec_sessionClose, gate_of_admitted h rfl]
    rfl
  case malformed => rw [exec_malformedMessage, gate_of_malformed h rfl]
  case safeState => rw [exec_malformedMessage, gate_of_safe hpower hport hsafe honly h9 h12]
  case claim =>
    refine ⟨respond_outbox_congr (by rfl) (by rfl) (by rfl) .., ?_⟩
    rw [respond_keeps (g := fun a => a.w.claims) fun _ _ => rfl]
    exact ⟨_, (tget?_tput ..).trans (if_pos rfl), rfl, rfl, rfl, rfl⟩
  case noPart =>
    rw [exec_stopPartition, execStopPartition, claimWord_of_claimed h hlid (payLen_of_length hlen) hc,
      show namedPart s s.rx.addr.toNat = none from hp]
    rfl
  case stop =>
    refine ⟨_, (exec_stopPartition s).trans (claimWord_of_claimed h hlid (payLen_of_length hlen) hc), ?_⟩
    rw [show namedPart s s.rx.addr.toNat = some p from hp]
    dsimp only
    rw [respond_keeps (g := State.w) fun _ _ => rfl, sendNotice_w]
  case resume =>
    rw [exec_resume, execResume, claimWord_of_claimed h hlid (by rw [payLen_of_length hlen, decide_eq_true hfate]; rfl) hc,
      show namedPart s s.rx.addr.toNat = some p from hp]
  case dump =>
    intro bs
    rw [exec_readDump, execReadDump, claimWord_of_claimed h hlid (by rw [payLen_of_length hlen, decide_eq_true hn]; rfl) hc,
      show namedPart s s.rx.addr.toNat = some p from hp]
    rfl
  case watch =>
    refine ⟨_, ((exec_setWatchpoint s).trans (execSetWatchpoint_eq s)).trans (claimWord_of_claimed h hlid (payLen_of_length hlen) hc),
      respond_outbox_congr (by rfl) (by rfl) (by rfl) .., ?_⟩
    rw [respond_keeps (g := fun a => a.w.claims) fun _ _ => rfl]
    exact ⟨_, tget?_modClaim _ (claim_of_rxClaim hc), fun hoff => tget?_watchesSet_off hoff, fun hon => tget?_watchesSet_on hon⟩
  case refusedTrace =>
    rw [exec_armTrace, execArmTrace, claimWord_of_claimed h hlid (armTrace_wellFormed hlen halign hlo hhi hfits) hc]
    dsimp only
    rw [show pinBuffer s (s.launch s.rx.addr.toNat).space (payNat s 0 7) (2 ^ (payNat s 8 8 % 32)) = (b, some (e, x)) from hpin]
    rfl
  case armed =>
    intro buf
    rw [exec_armTrace, execArmTrace, claimWord_of_claimed h hlid (armTrace_wellFormed hlen halign hlo hhi hfits) hc]
    dsimp only
    rw [show pinBuffer s (s.launch s.rx.addr.toNat).space (payNat s 0 7) (2 ^ (payNat s 8 8 % 32)) = (b, none) from hpin]
  case authFail =>
    refine ⟨?_, ?_, respond_outbox_withMgmt ..⟩
    · exact respond_keeps (g := State.sessions) (fun _ _ => rfl) ..
    · rw [authFail, respond_mgmt]
  case opened =>
    refine ⟨?_, ?_⟩
    · dsimp only
      rw [respond_mgmt, sessionMade]
    · dsimp only
      rw [respond_keeps (g := State.sessions) fun _ _ => rfl]
      exact ⟨_, (tget?_tput ..).trans (if_pos rfl), rfl, rfl, rfl⟩
  case ended =>
    rw [endSession_of_unclaimed h]
    exact tget?_tdel_self ..
  case created =>
    obtain ⟨access, hexec⟩ := execCreateAddressSpace_free h halign hdram hlen hfree
    obtain ⟨hlt, hnone⟩ := firstFree_spec hfree
    refine ⟨_, hexec, respond_outbox_congr (by rfl) (by rfl) (by rfl) .., hlt, Option.isNone_iff_eq_none.1 hnone, ?_⟩
    rw [respond_keeps (g := State.spaces) fun _ _ => rfl]
    exact ⟨_, (tget?_tput ..).trans (if_pos rfl), rfl⟩
  case idle =>
    rintro (⟨l, hl, heq⟩ | ⟨x, hx, heq⟩)
    · exact hlaunch l hl heq
    · exact hsess x hx heq
  case destroyed =>
    refine ⟨respond_outbox_congr (by rfl) (by rfl) (by rfl) .., ?_⟩
    rw [respond_keeps (g := State.spaces) fun _ _ => rfl]
    exact tget?_tdel_self ..
  case refusedMode =>
    refine ⟨_, _, if_pos (by rw [hpower, hport]; rfl), rfl, rfl, rfl, rfl, rfl, rfl, rfl, rfl⟩
  case unpowered =>
    obtain ⟨need, ok, k, hgate⟩ := exec_eq_gate hi s
    rw [hgate, gate_of_unpowered hpower]

end Sys2Proof.Machine

/-! Barriers (14 R296-R303): an arrival and a wait thread by thread, and the release of the threads that wait. -/

namespace Sys2Proof.Machine

-- One proof after the other: the check's memory limit counts the stack of every thread that elaborates a proof.
set_option Elab.async false

section

variable {s : State} {ix : Issue} {b : Nat}

/-! Misuse, and whether a word of an arrival goes (14 R297, R300). -/

theorem misuses_eq_match (s : State) (ix : Issue) (b : Nat) (t : ThreadRef) : misuses s ix b t
    = ((arrOf (s.thread t) b).pend && (match (arrOf (s.thread t) b).gen with
        | some n => if (s.launch ix.lid).lr.dsm then !barReleased s ix.pg b n else decide (n = (barOf s ix.pg b).gen)
        | none => false)) := by
  unfold misuses
  dsimp only
  cases (arrOf (s.thread t) b).gen <;> rfl

theorem arrivalHeld_eq_false_iff (ts : List ThreadRef) : arrivalHeld s ix b ts = false
    ↔ (∀ t ∈ ts, misuses s ix b t = false) ∨ releaseWait s ix (ts.filter fun t => !misuses s ix b t) (barScope b) = false := by
  rw [arrivalHeld, Bool.and_eq_false_iff, List.any_eq_false]
  simp only [Bool.not_eq_true]

theorem arrivalWord_of_goes {c : Ctl} (run : State) (h : arrivalHeld s ix b (activeOf s ix c) = false) :
    arrivalWord s ix c b run = run := if_neg (by rw [h]; exact Bool.false_ne_true)

theorem arrivalWord_of_held {c : Ctl} (run : State) (h : ¬ arrivalHeld s ix b (activeOf s ix c) = false) :
    arrivalWord s ix c b run
      = holdWord (((activeOf s ix c).filter (misuses s ix b)).foldl (fun a t => misuseAt a ix t) s) ix .order :=
  if_pos (Bool.eq_true_of_not_eq_false h)

theorem baraLane_of_misuse {t : ThreadRef} (h : misuses s ix b t = true) : baraLane s ix b t = (misuseAt s ix t, false) := if_pos h

theorem baraLane_of_counted {t : ThreadRef} (h : ¬ misuses s ix b t = true) : baraLane s ix b t = (arriveBar s t b, true) := if_neg h

theorem fst_baraLane (s : State) (ix : Issue) (b : Nat) (t : ThreadRef) :
    (baraLane s ix b t).1 = if misuses s ix b t then misuseAt s ix t else arriveBar s t b := by
  by_cases h : misuses s ix b t = true
  · rw [baraLane_of_misuse h, if_pos h]
  · rw [baraLane_of_counted h, if_neg h]

/-- One arrival of BARAW: those that are counted are remembered for their wait. -/
def arrival (ix : Issue) (b : Nat) (acc : State × List ThreadRef) (t : ThreadRef) : State × List ThreadRef :=
  (if misuses acc.1 ix b t then misuseAt acc.1 ix t else arriveBar acc.1 t b, if misuses acc.1 ix b t then acc.2 else acc.2 ++ [t])

theorem arrival_eq_match (ix : Issue) (b : Nat) (acc : State × List ThreadRef) (t : ThreadRef) :
    (match baraLane acc.1 ix b t with
      | (s, true) => (s, acc.2 ++ [t])
      | (s, false) => (s, acc.2)) = arrival ix b acc t := by
  rw [arrival]
  by_cases h : misuses acc.1 ix b t = true
  · rw [baraLane_of_misuse h, if_pos h, if_pos h]
  · rw [baraLane_of_counted h, if_neg h, if_neg h]

/-! What the acquire action of a scope leaves. -/

theorem pgs_acquireActions (s : State) (core : Nat) (sc : Scope) : (acquireActions s core sc).w.pgs = s.w.pgs := by
  cases sc <;> rfl

theorem acquireActions_nextId (s : State) (core : Nat) (sc : Scope) : (acquireActions s core sc).w.nextId = s.w.nextId := by
  cases sc <;> rfl

theorem pg_acquireActions (s : State) (core : Nat) (sc : Scope) (k : Nat) : (acquireActions s core sc).pg k = s.pg k := by
  rw [State.pg, pgs_acquireActions, State.pg]

theorem barwLane_eq (s : State) (ix : Issue) (b : Nat) (t : ThreadRef) : barwLane s ix b t
    = if (arrOf (s.thread t) b).pend = false then misuseAt s ix t
      else if barReleased s ix.pg b ((arrOf (s.thread t) b).gen.getD 0) then
        fileThread (modThread (acquireActions s ix.core (barScope b)) t fun x =>
          ({ x with arr := x.arr.set b { arrOf (s.thread t) b with pend := false } }).seeStores b s.w.nextId) t (ix.pc + 12) .ready
      else fileThread s t (ix.pc + 12) (.barrier b ((arrOf (s.thread t) b).gen.getD 0)) := by
  unfold barwLane
  dsimp only
  rw [acquireActions_nextId]
  cases (arrOf (s.thread t) b).pend <;> rfl

theorem fileFalse_eq (s0 s : State) (ix : Issue) (c : Ctl) : fileFalse s0 s ix c
    = (ix.tids.filter fun i => !guardOf s0 c ⟨ix.pg, i⟩).foldl (fun a i => fileThread a ⟨ix.pg, i⟩ (ix.pc + 12) .ready) s := by
  rw [fileFalse, List.foldl_filter]
  refine congrArg (fun f => ix.tids.foldl f s) (funext fun a => funext fun i => ?_)
  dsimp only
  cases guardOf s0 c ⟨ix.pg, i⟩ <;> rfl

/-! A barrier's count, its completion and the release leave the threads of the partition groups but for the arrival records. -/

/-- The threads of every partition group. -/
def threadLists (s : State) : Nat → List Thread := fun k => (s.pg k).threads

theorem threadLists_modPg (k : Nat) {f : PartGroup → PartGroup} (h : ∀ g, (f g).threads = g.threads) :
    threadLists (modPg s k f) = threadLists s := by
  funext j
  rw [threadLists, pg_modPg]
  split
  next hj => rw [h, hj, threadLists]
  next => rfl

theorem threadLists_modBar (pg b : Nat) (f : Bar → Bar) : threadLists (modBar s pg b f) = threadLists s := by
  unfold modBar
  exact ite_keeps (threadLists_modPg pg fun _ => rfl) (ite_keeps rfl (ite_keeps rfl rfl))

theorem threadLists_resetRace (pg b : Nat) : threadLists (resetRace s pg b) = threadLists s := by
  unfold resetRace
  refine ite_keeps ?_ rfl
  refine foldl_keeps (g := threadLists) ?_ _ s
  exact fun _ _ => rfl

theorem threadLists_checkBar (pg b : Nat) : threadLists (checkBar s pg b) = threadLists s := by
  unfold checkBar
  refine ite_keeps (ite_keeps ?_ ?_) rfl
  · rw [threadLists_resetRace, threadLists_modBar]
    refine foldl_keeps (g := threadLists) ?_ _ s
    exact fun _ _ => rfl
  · rw [threadLists_resetRace, threadLists_modBar]

theorem thread_of_threadLists {a b : State} (h : threadLists a = threadLists b) (t : ThreadRef) : a.thread t = b.thread t :=
  congrArg (fun l : Nat → List Thread => (l t.pg).getD t.tid Thread.none) h

theorem thread_arriveBar_self {t : ThreadRef} (h : t.tid < (s.pg t.pg).threads.length) : (arriveBar s t b).thread t
    = { s.thread t with arr := (s.thread t).arr.set b { pend := true, gen := some (barOf s t.pg b).gen } } := by
  have hlists : threadLists (arriveBar s t b) = threadLists (modThread s t fun x =>
      { x with arr := x.arr.set b { pend := true, gen := some (barOf s t.pg b).gen } }) :=
    (threadLists_checkBar ..).trans (threadLists_modBar ..)
  rw [thread_of_threadLists hlists, thread_modThread, if_pos ⟨rfl, h⟩]

theorem arrOf_set {t : Thread} (r : Arrival) (h : b < t.arr.length) : arrOf { t with arr := t.arr.set b r } b = r := by
  simp [arrOf, h]

/-- The threads that wait for a generation are ready, and their arrivals no longer pending. -/
def releasedThread (b : Nat) (gen : BitVec 16) (n : Nat) (t : Thread) : Thread :=
  if t.wait = .barrier b gen then
    ({ t with wait := .ready, arr := t.arr.set b { pend := false, gen := some gen } }).seeStores b n else t

/-- A release as one partition group takes it. -/
def releaseAt (b : Nat) (gen : BitVec 16) (s : State) (k : Nat) : State :=
  if (s.pg k).threads.any fun t => decide (t.wait = .barrier b gen) then
    modPg (acquireActions s (s.pg k).core (barScope b)) k fun g =>
      { g with threads := g.threads.map (releasedThread b gen (acquireActions s (s.pg k).core (barScope b)).w.nextId) }
  else s

theorem releaseWaiters_eq (s : State) (pgs : List Nat) (b : Nat) (gen : BitVec 16) :
    releaseWaiters s pgs b gen = pgs.foldl (releaseAt b gen) s := by
  unfold releaseWaiters releaseAt releasedThread
  simp only [decide_eq_true_eq]

theorem map_releasedThread_of_none {gen : BitVec 16} {l : List Thread} (n : Nat)
    (h : ¬ (l.any fun t => decide (t.wait = .barrier b gen)) = true) : l.map (releasedThread b gen n) = l := by
  simp only [List.any_eq_true, decide_eq_true_eq, not_exists, not_and] at h
  exact (List.map_congr_left fun t ht => if_neg (h t ht)).trans (List.map_id' l)

theorem releaseAt_nextId (gen : BitVec 16) (k : Nat) : (releaseAt b gen s k).w.nextId = s.w.nextId := by
  unfold releaseAt
  exact ite_keeps (g := fun s : State => s.w.nextId) (acquireActions_nextId ..) rfl

theorem threads_releaseAt (gen : BitVec 16) (k j : Nat) : ((releaseAt b gen s k).pg j).threads
    = if j = k then (s.pg j).threads.map (releasedThread b gen s.w.nextId) else (s.pg j).threads := by
  unfold releaseAt
  split
  next =>
    rw [acquireActions_nextId, pg_modPg, pg_acquireActions, pg_acquireActions]
    split
    next hj => rw [hj]
    next => rfl
  next hnone =>
    split
    next hj => rw [hj, map_releasedThread_of_none _ hnone]
    next => rfl

theorem threads_releaseWaiters_other (gen : BitVec 16) {pgs : List Nat} {k : Nat} (h : k ∉ pgs) (s : State) :
    ((pgs.foldl (releaseAt b gen) s).pg k).threads = (s.pg k).threads := by
  induction pgs generalizing s with
  | nil => rfl
  | cons j rest ih =>
    obtain ⟨hj, hrest⟩ := List.ne_and_not_mem_of_not_mem_cons h
    rw [List.foldl_cons, ih hrest, threads_releaseAt, if_neg hj]

theorem threads_releaseWaiters (gen : BitVec 16) {pgs : List Nat} {k : Nat} (hnodup : pgs.Nodup) (hk : k ∈ pgs) (s : State) :
    ((pgs.foldl (releaseAt b gen) s).pg k).threads = (s.pg k).threads.map (releasedThread b gen s.w.nextId) := by
  induction pgs generalizing s with
  | nil => cases hk
  | cons j rest ih =>
    obtain ⟨hfresh, hrest⟩ := List.nodup_cons.1 hnodup
    rw [List.foldl_cons]
    by_cases hj : k = j
    · rw [threads_releaseWaiters_other gen (hj ▸ hfresh), threads_releaseAt, if_pos hj]
    · rw [ih hrest ((List.mem_cons.1 hk).resolve_left hj), threads_releaseAt, if_neg hj, releaseAt_nextId]

/-! The words as `exec` reads them, from their issue. -/

theorem exec_bara (w : Wd) (h : s.issue = some ix) : exec (.bara w) s = .next (arrivalWord s ix w.ctl (barNum s ix w.a)
    (retire (acceptFlags s ((activeOf s ix w.ctl).foldl (fun a t => (baraLane a ix (barNum s ix w.a) t).1) s) ix w.ctl) ix w.ctl)) := by
  show execBara w s = _
  rw [execBara, h]

/-- BARAW from its arrivals, the threads that were counted beside them. -/
def waitsAfter (s : State) (ix : Issue) (w : Wd) (r : State × List ThreadRef) : State :=
  fileFalse s (r.2.foldl (fun a t => barwLane a ix (barNum s ix w.a) t) r.1) ix w.ctl

theorem exec_baraw (w : Wd) (h : s.issue = some ix) : exec (.baraw w) s = .next (arrivalWord s ix w.ctl (barNum s ix w.a)
    (spendSlot (acceptFlags s (waitsAfter s ix w ((activeOf s ix w.ctl).foldl (arrival ix (barNum s ix w.a)) (s, []))) ix w.ctl) ix w.ctl)) := by
  show execBaraw w s = _
  rw [execBaraw, h]
  exact congrArg (fun f => Host.Outcome.next (arrivalWord s ix w.ctl (barNum s ix w.a)
    (spendSlot (acceptFlags s (waitsAfter s ix w ((activeOf s ix w.ctl).foldl f (s, []))) ix w.ctl) ix w.ctl)))
    (funext₂ (arrival_eq_match ix (barNum s ix w.a)))

end

/-- Settles O37: an arrival by misuse and release wait, a wait by its arrival, and what a release does to each partition group. -/
theorem barrierWords : Obligations.BarrierWords := by
  unfold Obligations.BarrierWords
  intro w misuse counted goes waits comes stays others
  have hcounted : counted = misuses := by
    funext s ix b t
    exact (misuses_eq_match s ix b t).symm
  have hcomes : comes = fun ix b a t => if misuses a ix b t then misuseAt a ix t else arriveBar a t b := by
    simp only [comes, hcounted]
    rfl
  have hgoes : ∀ s ix b, goes s ix b ↔ arrivalHeld s ix b (activeOf s ix w.ctl) = false := by
    intro s ix b
    simp only [goes, hcounted, arrivalHeld_eq_false_iff]
  have hstays : stays = fun ix b a t => barwLane a ix b t := by
    funext ix b a t
    exact (barwLane_eq a ix b t).symm
  have hothers : others = fun s ix a => fileFalse s a ix w.ctl := by
    funext s ix a
    exact (fileFalse_eq s a ix w.ctl).symm
  have hwaits : ∀ i s ix b run, exec i s = .next (arrivalWord s ix w.ctl b run) → waits i s ix b := by
    intro i s ix b run hexec hnot
    rw [hexec, arrivalWord_of_held run (fun h => hnot ((hgoes s ix b).2 h)), hcounted]
    rfl
  refine ⟨?bara, ?barw, ?baraw, filesAs_of_filingWord _ _ _ fun _ => rfl, fun s t b hlen hb => ?_, fun s pgs b gen k hnodup hk _ => ?_⟩
  case bara =>
    intro s ix hix b
    refine ⟨fun hgo => ?_, hwaits _ s ix b _ (exec_bara w hix), hwaits _ s ix b _ (exec_baraw w hix)⟩
    rw [exec_bara w hix, arrivalWord_of_goes _ ((hgoes s ix b).1 hgo), hcomes]
    simp only [fst_baraLane, b]
  case barw =>
    rw [hothers, hstays]
    exact filesAs_of_filingWord _ _ _ fun _ => rfl
  case baraw =>
    intro s ix hix b hgo r
    have hr : r = (activeOf s ix w.ctl).foldl (arrival ix b) (s, []) := by
      simp only [r, hcomes, hcounted]
      rfl
    rw [exec_baraw w hix, arrivalWord_of_goes _ ((hgoes s ix b).1 hgo), hothers, hstays, hr, waitsAfter]
  · rw [thread_arriveBar_self hlen, arrOf_set _ hb]
  · rw [releaseWaiters_eq, threads_releaseWaiters gen hnodup hk]
    rfl

end Sys2Proof.Machine

/-! What translations, reads at issue and a thread's end leave: the accesses in flight, and which launches there are (05 R94; 08 R178, R179). -/

namespace Sys2Proof.Machine

-- One proof after the other: the check's memory limit counts the stack of every thread that elaborates a proof.
set_option Elab.async false

/-- The accesses in flight and the numbers of the launches. -/
def sentAndListed (s : State) : List Acc × List Nat := (s.w.accs, s.w.launches.map Prod.fst)

section

variable (s : State)

/-! Walks and fills. -/

theorem sentAndListed_homeWrite (own : Option Nat) (pa : Nat) (bs : List Byte) :
    sentAndListed (homeWrite s own pa bs) = sentAndListed s := by
  unfold homeWrite
  exact ite_keeps rfl rfl

theorem sentAndListed_l2Fill (low : Bool) (die n : Nat) : sentAndListed (l2Fill low s die n).1 = sentAndListed s := by
  unfold l2Fill
  split <;> rfl

theorem sentAndListed_countWalk (made : Option (Nat × Nat)) (va : Nat) : sentAndListed (countWalk s made va) = sentAndListed s := by
  unfold countWalk
  split
  · rfl
  · exact ite_keeps rfl rfl

theorem sentAndListed_tableLine (die n : Nat) : sentAndListed (tableLine s die n).1 = sentAndListed s := by
  unfold tableLine l2Line
  split
  · exact sentAndListed_l2Fill ..
  · rfl

theorem sentAndListed_walkFrom (levels : List (Nat × Nat × Bool × Bool × Bool × Nat × Nat)) (die : Nat) (made : Option (Nat × Nat))
    (table va : Nat) : sentAndListed (walkFrom levels s die made table va).1 = sentAndListed s := by
  induction levels generalizing s table with
  | nil => rfl
  | cons x levels ih =>
    unfold walkFrom
    grind [sentAndListed_tableLine, sentAndListed_countWalk]

theorem sentAndListed_walkDie (die : Nat) (made : Option (Nat × Nat)) (space va : Nat) :
    sentAndListed (walkDie s die made space va).1 = sentAndListed s := by
  unfold walkDie
  split
  · rfl
  · exact sentAndListed_walkFrom ..

theorem sentAndListed_fillCoreTlb (core : Nat) (e : TlbEntry) : sentAndListed (fillCoreTlb s core e) = sentAndListed s := rfl

theorem sentAndListed_fillDieTlb (die : Nat) (e : TlbEntry) : sentAndListed (fillDieTlb s die e) = sentAndListed s := rfl

theorem sentAndListed_setAccessed (pte : Nat) : sentAndListed (setAccessed s pte) = sentAndListed s := sentAndListed_homeWrite ..

theorem sentAndListed_walkFill (core space va : Nat) (need : Need) :
    sentAndListed (walkFill s core space va need).1 = sentAndListed s := by
  unfold walkFill walk
  grind [sentAndListed_walkDie, sentAndListed_fillCoreTlb, sentAndListed_fillDieTlb, sentAndListed_setAccessed]

theorem sentAndListed_translate (core space a : Nat) (need : Need) :
    sentAndListed (translate s core space a need).1 = sentAndListed s := by
  unfold translate
  grind [sentAndListed_fillCoreTlb, sentAndListed_walkFill]

theorem sentAndListed_takeFrame (fuel die : Nat) : sentAndListed (takeFrame fuel s die).1 = sentAndListed s := by
  induction fuel generalizing s with
  | zero => rfl
  | succ k ih =>
    have hdie (k : Nat) (f : Die → Die) : sentAndListed (modDie s k f) = sentAndListed s := rfl
    unfold takeFrame
    grind

theorem sentAndListed_fillLeaf (pte frame : Nat) (nc x w r : Bool) :
    sentAndListed (fillLeaf s pte frame nc x w r) = sentAndListed s := sentAndListed_homeWrite ..

theorem sentAndListed_reportShortage (die : Nat) : sentAndListed (reportShortage s die) = sentAndListed s := by
  unfold reportShortage raiseEvent
  refine ite_keeps rfl ?_
  show sentAndListed (if s.replay.isSome then s else reportEvent s 1 die) = _
  exact ite_keeps rfl rfl

theorem sentAndListed_walkerFill (die space va pte : Nat) (nc x w r busy : Bool) :
    sentAndListed (walkerFill s die space va pte nc x w r busy).1 = sentAndListed s := by
  have hdie (a : State) (k : Nat) (f : Die → Die) : sentAndListed (modDie a k f) = sentAndListed a := rfl
  unfold walkerFill
  grind [sentAndListed_takeFrame, sentAndListed_fillLeaf, sentAndListed_reportShortage, sentAndListed_homeWrite]

theorem sentAndListed_demandFill (core space a : Nat) : sentAndListed (demandFill s core space a).1 = sentAndListed s := by
  unfold demandFill walk
  grind [sentAndListed_walkDie, sentAndListed_walkerFill]

/-! The checks of an access, and the pages of a word's lanes. -/

theorem sentAndListed_keepPage (va : Nat) (need : Need) (t : Target) : sentAndListed (keepPage s va need t) = sentAndListed s := rfl

theorem sentAndListed_checkAccess (pg va n : Nat) (need : Need) (locked : Bool) :
    sentAndListed (checkAccess s pg va n need locked).1 = sentAndListed s := by
  show sentAndListed (translateOnce s _ _ va need).1 = _
  unfold translateOnce
  grind [sentAndListed_translate, sentAndListed_keepPage]

theorem sentAndListed_pageTargets (core space : Nat) (need : Need) (vas : List Nat) :
    sentAndListed (pageTargets s core space need vas).1 = sentAndListed s :=
  foldl_keeps (g := fun r : State × List (Nat × Target) => sentAndListed r.1)
    (fun _ _ => ite_keeps (g := fun r : State × List (Nat × Target) => sentAndListed r.1) rfl (sentAndListed_translate ..)) vas (s, [])

theorem sentAndListed_checkLanes (pg : Nat) (ts : List ThreadRef) (ea : ThreadRef → Nat) (n : Nat) (need : Need) :
    sentAndListed (checkLanes s pg ts ea n need).1 = sentAndListed s := sentAndListed_pageTargets ..

end

end Sys2Proof.Machine

/-! Reduction objects (14 R308, R309): the lanes split by their checks, and one access for each that passes. -/

namespace Sys2Proof.Machine

-- One proof after the other: the check's memory limit counts the stack of every thread that elaborates a proof.
set_option Elab.async false

/-- Lanes, those that pass apart from those that trap: each refused one with the trap of its refusal, each passed one at its address. -/
structure LanesSplit (ea : ThreadRef → Nat) (kind : ThreadRef → Except Trap AccKind) (ts : List ThreadRef) (c : Checked) : Prop where
  perm : (c.ok.map (·.1) ++ c.traps.map (·.1)).Perm ts
  ok : (c.ok.map (·.1)).Sublist ts
  traps : (c.traps.map (·.1)).Sublist ts
  passed : ∀ x ∈ c.ok, x.2.1 = ea x.1 ∧ ∃ k, kind x.1 = .ok k
  refused : ∀ t ∈ ts, ∀ e, kind t = .error e → (t, e) ∈ c.traps

section

variable {ea : ThreadRef → Nat} {kind : ThreadRef → Except Trap AccKind} {ts : List ThreadRef} {c : Checked} {t : ThreadRef}

theorem LanesSplit.nil : LanesSplit ea kind [] { ok := [], traps := [] } where
  perm := .nil
  ok := .slnil
  traps := .slnil
  passed := by rintro x ⟨⟩
  refused := by rintro t ⟨⟩

theorem LanesSplit.trap (h : LanesSplit ea kind ts c) {e : Trap} (he : ∀ e', kind t = .error e' → e' = e) :
    LanesSplit ea kind (ts ++ [t]) { c with traps := c.traps ++ [(t, e)] } where
  perm := by
    rw [List.map_append, ← List.append_assoc]
    exact h.perm.append_right [t]
  ok := h.ok.trans (List.sublist_append_left ts [t])
  traps := by
    rw [List.map_append]
    exact h.traps.append_right [t]
  passed := h.passed
  refused := by
    intro r hr e' hkind
    rcases List.mem_append.1 hr with hr | hr
    · exact List.mem_append_left _ (h.refused r hr e' hkind)
    · obtain rfl := List.mem_singleton.1 hr
      rw [he e' hkind]
      exact List.mem_append_right _ (List.mem_singleton_self _)

theorem LanesSplit.pass (h : LanesSplit ea kind ts c) {k : AccKind} (hk : kind t = .ok k) (x : Target) :
    LanesSplit ea kind (ts ++ [t]) { c with ok := c.ok ++ [(t, ea t, x)] } where
  perm := by
    rw [List.map_append, List.append_assoc]
    exact (List.perm_append_comm.append_left _).trans (by rw [← List.append_assoc]; exact h.perm.append_right [t])
  ok := by
    rw [List.map_append]
    exact h.ok.append_right [t]
  traps := h.traps.trans (List.sublist_append_left ts [t])
  passed := by
    intro y hy
    rcases List.mem_append.1 hy with hy | hy
    · exact h.passed y hy
    · obtain rfl := List.mem_singleton.1 hy
      exact ⟨rfl, k, hk⟩
  refused := by
    intro r hr e' hkind
    rcases List.mem_append.1 hr with hr | hr
    · exact h.refused r hr e' hkind
    · obtain rfl := List.mem_singleton.1 hr
      rw [hk] at hkind
      cases hkind

end

theorem sentAndListed_checkObject (s : State) (pg va n : Nat) : sentAndListed (checkObject s pg va n).1 = sentAndListed s := by
  unfold checkObject
  refine ite_keeps (g := fun r : State × Except Trap Target => sentAndListed r.1) rfl ?_
  refine foldl_keeps (g := fun r : State × Except Trap Target => sentAndListed r.1) (fun r p => ?_) _ (s, .ok (.fail 0))
  obtain ⟨a, e | t⟩ := r
  · rfl
  · have hcheck := sentAndListed_checkAccess a pg p.1 p.2 .readWrite true
    dsimp only
    split <;> next h => rw [h] at hcheck; exact hcheck

section

variable (ix : Issue) (ea : ThreadRef → Nat) (kind : ThreadRef → Except Trap AccKind) (span : ThreadRef → Nat)

/-- One more lane of a REDOBJ word: what it is refused for, then the checks of its object. -/
def addObject (acc : State × Checked) (t : ThreadRef) : State × Checked :=
  match kind t with
  | .error e => (acc.1, { acc.2 with traps := acc.2.traps ++ [(t, e)] })
  | .ok _ =>
    match checkObject acc.1 ix.pg (ea t) (span t) with
    | (s, .error e) => (s, { acc.2 with traps := acc.2.traps ++ [(t, e)] })
    | (s, .ok x) => (s, { acc.2 with ok := acc.2.ok ++ [(t, ea t, x)] })

theorem addObject_spec {acc : State × Checked} {ts : List ThreadRef} (h : LanesSplit ea kind ts acc.2) (t : ThreadRef) :
    LanesSplit ea kind (ts ++ [t]) (addObject ix ea kind span acc t).2
    ∧ sentAndListed (addObject ix ea kind span acc t).1 = sentAndListed acc.1 := by
  unfold addObject
  cases hkind : kind t with
  | error e => exact ⟨h.trap fun e' he => Except.error.inj (he.symm.trans hkind), rfl⟩
  | ok k =>
    have hkeeps := sentAndListed_checkObject acc.1 ix.pg (ea t) (span t)
    dsimp only
    rcases hcheck : checkObject acc.1 ix.pg (ea t) (span t) with ⟨a, e | x⟩ <;> rw [hcheck] at hkeeps
    · exact ⟨h.trap (fun e' he => nomatch hkind.symm.trans he), hkeeps⟩
    · exact ⟨h.pass hkind x, hkeeps⟩

theorem foldl_addObject_spec (s : State) (ts : List ThreadRef) :
    LanesSplit ea kind ts (ts.foldl (addObject ix ea kind span) (s, { ok := [], traps := [] })).2
    ∧ sentAndListed (ts.foldl (addObject ix ea kind span) (s, { ok := [], traps := [] })).1 = sentAndListed s := by
  induction ts using List.reverseRecOn with
  | nil => exact ⟨.nil, rfl⟩
  | append_singleton ts t ih =>
    obtain ⟨hsplit, hkeeps⟩ := ih
    rw [List.foldl_concat]
    obtain ⟨hsplit', hkeeps'⟩ := addObject_spec ix ea kind span hsplit t
    exact ⟨hsplit', hkeeps'.trans hkeeps⟩

end

section

variable (ix : Issue) (c : Ctl) (scope : Scope) (ord : MemOrd) (kind : ThreadRef → Except Trap AccKind)

/-- The access of one lane that passes. -/
def sendObject (a : State) (x : ThreadRef × Nat × Target) : State :=
  match kind x.1 with
  | .error _ => a
  | .ok k => pushAcc (countLine a ix.core x.2.1 2 ix.lid x.2.2.isWindow) ix c
      { kind := k, bytes := 64, scope := scope, ord := ord, nt := false } x.2.1 x.2.2 [(x.1, x.2.1)]
      (fun _ => 0) (fun _ => 0) fun _ => some { regs := [], vals := [], preds := [], raise := 0 }

theorem sendObject_of_ok (a : State) {x : ThreadRef × Nat × Target} {k : AccKind} (h : kind x.1 = .ok k) :
    ∃ b : Acc, b.va = x.2.1 ∧ b.kind = k ∧ (sendObject ix c scope ord kind a x).w.accs = a.w.accs ++ [b] := by
  obtain ⟨b, ⟨hva, hkind, -⟩, hview⟩ := pushAcc_spec (countLine a ix.core x.2.1 2 ix.lid x.2.2.isWindow) ix c
    { kind := k, bytes := 64, scope := scope, ord := ord, nt := false } (fun _ => 0) (fun _ => 0)
    (fun _ => some { regs := [], vals := [], preds := [], raise := 0 }) x.2.2 x.2.1 [(x.1, x.2.1)]
  refine ⟨b, hva, hkind, ?_⟩
  have hcount := accs_of_sendingView (sendingView_of_uncounted (uncounted_countLine a ix.core x.2.1 2 ix.lid x.2.2.isWindow))
  rw [sendObject, h]
  exact (accs_of_sendingView hview).trans (congrArg (· ++ [b]) hcount)

theorem foldl_sendObject_spec (k : ThreadRef → AccKind) {ok : List (ThreadRef × Nat × Target)} (h : ∀ x ∈ ok, kind x.1 = .ok (k x.1))
    (a : State) : ∃ news : List Acc, (ok.foldl (sendObject ix c scope ord kind) a).w.accs = a.w.accs ++ news
      ∧ news.map (·.va) = ok.map (fun x => x.2.1) ∧ news.map (·.kind) = ok.map fun x => k x.1 := by
  induction ok generalizing a with
  | nil => exact ⟨[], (List.append_nil _).symm, rfl, rfl⟩
  | cons x ok ih =>
    obtain ⟨hx, hok⟩ := List.forall_mem_cons.1 h
    obtain ⟨b, hva, hkind, hsent⟩ := sendObject_of_ok ix c scope ord kind a hx
    obtain ⟨news, hnews, hvas, hkinds⟩ := ih hok (sendObject ix c scope ord kind a x)
    refine ⟨b :: news, ?_, ?_, ?_⟩
    · rw [List.foldl_cons, hnews, hsent, List.append_assoc, List.singleton_append]
    · rw [List.map_cons, List.map_cons, hva, hvas]
    · rw [List.map_cons, List.map_cons, hkind, hkinds]

end

section

variable {s : State} {ix : Issue} {w : Wd} {scope : Scope} {ord : MemOrd} {kind : State → ThreadRef → Except Trap AccKind}
  {span : State → ThreadRef → Nat}

/-- The lanes of a REDOBJ word split by their checks, and the state that the checks leave. -/
def objectLanes (s : State) (ix : Issue) (w : Wd) (kind : State → ThreadRef → Except Trap AccKind) (span : State → ThreadRef → Nat) :
    State × Checked :=
  (byLane (activeOf s ix w.ctl)).foldl (addObject ix (fun t => effAddr s t w.b w.c) (kind s) (span s)) (s, { ok := [], traps := [] })

theorem redobjWord_eq (h : s.issue = some ix) : redobjWord s w scope ord kind span
    = .next (let d := (objectLanes s ix w kind span).2.ok.foldl (sendObject ix w.ctl scope ord (kind s)) (objectLanes s ix w kind span).1
        let u := takeTraps (spendSlot d ix w.ctl) ix (objectLanes s ix w kind span).2.traps
        if (objectLanes s ix w kind span).2.ok.isEmpty then advance u ix else modGroup u ix.part ix.pos fun g => { g with hold := .result }) := by
  rw [redobjWord, h]
  rfl

/-- A REDOBJ word: its lanes split by their checks, and those that pass have one access each in flight. -/
theorem redobjWord_spec (h : s.issue = some ix) {k : ThreadRef → AccKind} (hk : ∀ t k', kind s t = .ok k' → k' = k t) :
    ∃ (d : State) (r : Checked), redobjWord s w scope ord kind span = .next (let u := takeTraps (spendSlot d ix w.ctl) ix r.traps
        if r.ok.isEmpty then advance u ix else modGroup u ix.part ix.pos fun g => { g with hold := .result })
      ∧ LanesSplit (fun t => effAddr s t w.b w.c) (kind s) (byLane (activeOf s ix w.ctl)) r
      ∧ ∃ news, d.w.accs = s.w.accs ++ news ∧ news.map (·.va) = r.ok.map (fun x => effAddr s x.1 w.b w.c)
        ∧ news.map (·.kind) = r.ok.map fun x => k x.1 := by
  obtain ⟨hsplit, hkeeps⟩ := foldl_addObject_spec ix (fun t => effAddr s t w.b w.c) (kind s) (span s) s (byLane (activeOf s ix w.ctl))
  have hpassed : ∀ x ∈ (objectLanes s ix w kind span).2.ok, kind s x.1 = .ok (k x.1) := by
    intro x hx
    obtain ⟨-, k', hk'⟩ := hsplit.passed x hx
    rw [hk', hk x.1 k' hk']
  obtain ⟨news, hnews, hvas, hkinds⟩ := foldl_sendObject_spec ix w.ctl scope ord (kind s) k hpassed (objectLanes s ix w kind span).1
  refine ⟨_, (objectLanes s ix w kind span).2, redobjWord_eq h, hsplit, news, ?_, ?_, hkinds⟩
  · exact hnews.trans (congrArg (fun v => v.1 ++ news) hkeeps)
  · exact hvas.trans (List.map_congr_left fun x hx => (hsplit.passed x hx).1)

end

/-! What the two words refuse at once. -/

/-- The access of a REDOBJ.init, refused where its address or its count is out of order. -/
def initKind (w : Wd) (ty : Ty) (s : State) (t : ThreadRef) : Except Trap AccKind :=
  if effAddr s t w.b w.c % 64 ≠ 0 then .error (plainTrap 0x05 (effAddr s t w.b w.c))
  else if (srcWord s t w.a).toNat = 0 ∨ 65536 < (srcWord s t w.a).toNat then .error (plainTrap 0x01 (srcWord s t w.a).toNat)
  else .ok (.roInit ty (srcWord s t w.a).toNat)

/-- The access of a REDOBJ.fold, refused where its address is out of order. -/
def foldKind (w : Wd) (ty : Ty) (s : State) (t : ThreadRef) : Except Trap AccKind :=
  if effAddr s t w.b w.c % 64 ≠ 0 then .error (plainTrap 0x05 (effAddr s t w.b w.c)) else .ok (.roFold ty)

theorem exec_redobjInit (w : Wd) (ty : Ty) (scope : Scope) (ord : MemOrd) (s : State) : exec (.redobjInit w ty scope ord) s
    = redobjWord s w scope ord (initKind w ty) fun s t => 64 + slotBytes ty * (srcWord s t w.a).toNat := rfl

theorem exec_redobjFold (w : Wd) (ty : Ty) (scope : Scope) (ord : MemOrd) (s : State) : exec (.redobjFold w ty scope ord) s
    = redobjWord s w scope ord (foldKind w ty) fun _ _ => 64 := rfl

/-- Settles O28: the lanes of both words are split by what they are refused for and by the checks of their object. -/
theorem reductionObjectWords : Obligations.ReductionObjectWords := by
  unfold Obligations.ReductionObjectWords
  intro w ty scope ord s ix hix ea count form
  have hform : ∀ (i : Instr) (k : ThreadRef → AccKind) (counted : Bool) (kind : State → ThreadRef → Except Trap AccKind)
      (span : State → ThreadRef → Nat), exec i s = redobjWord s w scope ord kind span →
      (∀ t k', kind s t = .ok k' → k' = k t) → (∀ t, ea t % 64 ≠ 0 → kind s t = .error (plainTrap 0x05 (ea t))) →
      (∀ t, ea t % 64 = 0 → counted = true → (count t = 0 ∨ 65536 < count t) → kind s t = .error (plainTrap 0x01 (count t))) →
      form i k counted := by
    intro i k counted kind span hexec hk hmis hcount
    obtain ⟨d, r, hrun, hsplit, hnews⟩ := redobjWord_spec (scope := scope) (ord := ord) (span := span) (w := w) hix hk
    have hmem (t : ThreadRef) : t ∈ activeOf s ix w.ctl → t ∈ byLane (activeOf s ix w.ctl) := (byLane_perm _).mem_iff.2
    exact ⟨d, r.ok, r.traps, hexec.trans hrun, hsplit.perm.trans (byLane_perm _), hsplit.ok, hsplit.traps,
      fun t ht hmod => hsplit.refused t (hmem t ht) _ (hmis t hmod),
      fun t ht hmod hc hbad => hsplit.refused t (hmem t ht) _ (hcount t hmod hc hbad), hnews⟩
  refine ⟨hform _ (fun t => .roInit ty (count t)) true _ _ (exec_redobjInit w ty scope ord s) ?_ ?_ ?_,
    hform _ (fun _ => .roFold ty) false _ _ (exec_redobjFold w ty scope ord s) ?_ ?_ ?_⟩
  · intro t k' hk
    unfold initKind at hk
    split_ifs at hk
    exact (Except.ok.inj hk).symm
  · exact fun t h => if_pos h
  · exact fun t hmod _ hbad => (if_neg (not_not.2 hmod)).trans (if_pos hbad)
  · intro t k' hk
    unfold foldKind at hk
    split_ifs at hk
    exact (Except.ok.inj hk).symm
  · exact fun t h => if_pos h
  · exact fun t _ hc => nomatch hc

end Sys2Proof.Machine

/-! Which launches there are: the reads of a thread and its end leave them (05 R94; 18 R329). -/

namespace Sys2Proof.Machine

-- One proof after the other: the check's memory limit counts the stack of every thread that elaborates a proof.
set_option Elab.async false

/-- The numbers of the launches. -/
def launchKeys (s : State) : List Nat := s.w.launches.map Prod.fst

theorem launchKeys_of_sentAndListed {a b : State} (h : sentAndListed a = sentAndListed b) : launchKeys a = launchKeys b :=
  congrArg Prod.snd h

theorem launchKeys_of_besideWork {a b : State} (h : besideWork a = besideWork b) : launchKeys a = launchKeys b := by
  change launchKeys (besideWork a) = launchKeys (besideWork b)
  rw [h]

theorem launchKeys_of_besideParts {a b : State} (h : besideParts a = besideParts b) : launchKeys a = launchKeys b := by
  change launchKeys (besideParts a) = launchKeys (besideParts b)
  rw [h]

section

variable (s : State)

theorem launchKeys_modLaunch (l : Nat) (f : Launch → Launch) : launchKeys (modLaunch s l f) = launchKeys s := by
  show List.map Prod.fst (tmod s.w.launches l f) = _
  rw [tmod, List.map_map]
  refine List.map_congr_left fun e _ => ?_
  rw [Function.comp_apply]
  split <;> rfl

/-! A read of a thread. -/

theorem launchKeys_homeWrite (own : Option Nat) (pa : Nat) (bs : List Byte) : launchKeys (homeWrite s own pa bs) = launchKeys s :=
  launchKeys_of_sentAndListed (sentAndListed_homeWrite ..)

theorem launchKeys_cacheLoad (core pa n : Nat) (nc : Bool) : launchKeys (cacheLoad s core pa n nc).1 = launchKeys s := by
  have hfill (low : Bool) (die n : Nat) := launchKeys_of_sentAndListed (sentAndListed_l2Fill s low die n)
  have hline (core n : Nat) : launchKeys (l1Line s core n).1 = launchKeys s := by
    unfold l1Line
    split
    · rfl
    · exact hfill ..
  grind [cacheLoad]

theorem launchKeys_countAccess (core va type lid : Nat) (win : Bool) : launchKeys (countAccess s core va type lid win) = launchKeys s := by
  unfold countAccess
  exact ite_keeps rfl rfl

theorem launchKeys_countLine (core va type lid : Nat) (win : Bool) : launchKeys (countLine s core va type lid win) = launchKeys s := by
  unfold countLine
  split
  · exact launchKeys_countAccess ..
  · exact ite_keeps rfl (launchKeys_countAccess ..)

theorem launchKeys_checkAccess (pg va n : Nat) (need : Need) (locked : Bool) :
    launchKeys (checkAccess s pg va n need locked).1 = launchKeys s := launchKeys_of_sentAndListed (sentAndListed_checkAccess ..)

theorem launchKeys_fillOnce (core space va : Nat) (need : Need) : launchKeys (fillOnce s core space va need).1 = launchKeys s := by
  have hfill (a : State) := launchKeys_of_sentAndListed (sentAndListed_demandFill a core space va)
  have htranslate (a : State) := launchKeys_of_sentAndListed (sentAndListed_translate a core space va need)
  have hkeep (a : State) (x : Target) : launchKeys (keepPage a va need x) = launchKeys a := rfl
  unfold fillOnce
  grind

theorem launchKeys_resolveNow (t : ThreadRef) (va n : Nat) (need : Need) (locked : Bool) :
    launchKeys (resolveNow s t va n need locked).1 = launchKeys s := by
  unfold resolveNow
  grind [launchKeys_checkAccess, launchKeys_fillOnce]

theorem launchKeys_appendLog (r : LogRec) : launchKeys (appendLog s r) = launchKeys s := by
  unfold appendLog
  dsimp only
  split_ifs
  · rfl
  · rfl
  · exact launchKeys_homeWrite (metAgain s r) none _ _

theorem launchKeys_stampOne (t : ThreadRef) (line : Nat) : launchKeys (stampOne s t line).1 = launchKeys s := by
  unfold stampOne
  dsimp only
  split_ifs
  · rfl
  · exact launchKeys_appendLog ..
  · rfl

theorem launchKeys_stampNow (t : ThreadRef) (acq : Bool) (tgt : Target) : launchKeys (stampNow s t acq tgt).1 = launchKeys s := by
  unfold stampNow
  grind [launchKeys_stampOne]

theorem launchKeys_readPiece (t : ThreadRef) (va n : Nat) (locked acq : Bool) {load : State → Nat → Nat → State × List Byte}
    (hload : ∀ a pa n, launchKeys (load a pa n).1 = launchKeys a) : launchKeys (readPiece s t va n locked acq load).1 = launchKeys s := by
  have hlines (a : State) (core pa : Nat) : launchKeys (homeOpLines a core pa) = launchKeys a := rfl
  unfold readPiece
  grind [launchKeys_resolveNow, launchKeys_stampNow, launchKeys_countLine]

theorem launchKeys_readLines (t : ThreadRef) (acq : Bool) (va n : Nat) : launchKeys (readLines s t acq va n).1 = launchKeys s := by
  refine foldl_keeps (g := fun r : State × Except Trap (List Byte) => launchKeys r.1) (fun r p => ?_) _ (s, .ok [])
  have hpiece (a : State) := launchKeys_readPiece a t p.1 p.2 true acq
    (load := fun s pa n => cacheLoad s (s.pg t.pg).core pa n false) fun a pa n => launchKeys_cacheLoad a _ pa n false
  grind

/-! A contained thread's end (18 R329; 10 R230). -/

theorem launchKeys_cvCount (t : ThreadRef) : launchKeys (cvCount s t).1 = launchKeys s := by
  unfold cvCount readNow
  grind [launchKeys_readLines]

theorem launchKeys_cvCloseTerm (t : ThreadRef) : launchKeys (cvCloseTerm s t).1 = launchKeys s := by
  unfold cvCloseTerm nextId
  grind [launchKeys, launchKeys_cvCount, launchKeys_checkAccess, launchKeys_countAccess]

theorem launchKeys_modBar (pg b : Nat) (f : Bar → Bar) : launchKeys (modBar s pg b f) = launchKeys s := by
  unfold modBar
  exact ite_keeps rfl (ite_keeps rfl (ite_keeps (launchKeys_modLaunch ..) (launchKeys_modLaunch ..)))

theorem launchKeys_checkBar (pg b : Nat) : launchKeys (checkBar s pg b) = launchKeys s := by
  have hreset (a : State) : launchKeys (resetRace a pg b) = launchKeys a := by
    unfold resetRace
    exact ite_keeps (foldl_keeps (g := launchKeys) (by intro _ _; rfl) _ a) rfl
  unfold checkBar
  refine ite_keeps (ite_keeps ?_ ?_) rfl
  · rw [hreset, launchKeys_modBar]
    exact foldl_keeps (g := launchKeys) (by intro _ _; rfl) _ s
  · rw [hreset, launchKeys_modBar]

theorem launchKeys_leaveBars (t : ThreadRef) : launchKeys (leaveBars s t) = launchKeys s := by
  unfold leaveBars checkAllBars
  refine (foldl_keeps (g := launchKeys) (fun _ _ => launchKeys_checkBar ..) _ _).trans (ite_keeps ?_ rfl)
  exact foldl_keeps (g := launchKeys) (fun _ _ => ite_keeps rfl (launchKeys_modBar ..)) _ s

theorem launchKeys_leaveGang (pg : Nat) : launchKeys (leaveGang s pg) = launchKeys s := by
  have hsettle (a : State) (cg : Nat) : launchKeys (settleGangs a cg) = launchKeys a := by
    unfold settleGangs
    dsimp only
    split
    · rfl
    · split
      · exact ite_keeps (g := launchKeys) rfl rfl
      · rfl
  have hclose (fuel : Nat) (a : State) (cg : Nat) (members : List Nat) : launchKeys (closeLatch fuel a cg members) = launchKeys a :=
    launchKeys_of_besideWork (besideWork_closeLatch fuel a cg members)
  exact (hsettle ..).trans (hclose ..)

theorem launchKeys_setPlace (t : ThreadRef) (pl : Place) : launchKeys (setPlace s t pl) = launchKeys s :=
  (launchKeys_of_besideParts (besideParts_setPlace s t pl)).trans rfl

theorem launchKeys_countTerm (lid : Nat) (cause : BitVec 8) : launchKeys (countTerm s lid cause) = launchKeys s :=
  (launchKeys_modLaunch ..).trans (launchKeys_modLaunch ..)

theorem launchKeys_settleStreams (pg : Nat) (qs : List Nat) :
    launchKeys (qs.foldl (fun a q => settleStream a pg q) s) = launchKeys s :=
  foldl_keeps (fun a q => by unfold settleStream; exact ite_keeps rfl rfl) qs s

theorem launchKeys_endThread (t : ThreadRef) (cause : BitVec 8) : launchKeys (endThread s t (some cause) true) = launchKeys s := by
  unfold endThread
  split
  · rfl
  · extract_lets g lr
    split
    next a fault hclose =>
    have ha : launchKeys a = launchKeys s := by
      rw [show a = (cvCloseTerm s t).1 from congrArg Prod.fst hclose.symm, launchKeys_cvCloseTerm]
    extract_lets s1 s2 s3 s4 s5 s6 s7 s8
    have hcount : launchKeys s1 = launchKeys a := launchKeys_countTerm ..
    have hplace : launchKeys s3 = launchKeys s1 := launchKeys_setPlace s2 t _
    clear_value s3
    have hfreed : launchKeys s5 = launchKeys s3 := ite_keeps rfl rfl
    clear_value s5
    have hbars : launchKeys s6 = launchKeys s5 := ite_keeps rfl (launchKeys_leaveBars s5 t)
    clear_value s6
    have hstreams : launchKeys s7 = launchKeys s6 := launchKeys_settleStreams s6 t.pg _
    have hall : launchKeys s7 = launchKeys s := by rw [hstreams, hbars, hfreed, hplace, hcount, ha]
    clear_value s7
    split
    · rw [launchKeys_leaveGang]
      exact (foldl_keeps (g := launchKeys) (by intro _ _; rfl) _ s8).trans hall
    · split
      · exact (launchKeys_leaveGang ..).trans hall
      · exact hall

theorem launchKeys_killThreads (pgs : List Nat) (cause : BitVec 8) : launchKeys (killThreads s pgs cause) = launchKeys s :=
  foldl_keeps (g := launchKeys) (fun a _ => foldl_keeps (g := launchKeys) (fun _ _ => launchKeys_endThread ..) _ a) pgs s

theorem launchKeys_unpackImage (lid : Nat) (dg : Option Nat) : launchKeys (unpackImage s lid dg) = launchKeys s := by
  unfold unpackImage
  split <;> rfl

end

/-! A launch that is listed is changed by a change of it. -/

theorem isSome_tget?_iff {α : Type} (t : Tab α) (k : Nat) : (tget? t k).isSome = true ↔ k ∈ t.map Prod.fst := by
  constructor
  · intro h
    obtain ⟨v, hv⟩ := Option.isSome_iff_exists.1 h
    exact List.mem_map_of_mem (f := Prod.fst) (mem_of_tget? hv)
  · intro h
    induction t with
    | nil => cases h
    | cons e r ih =>
      obtain ⟨j, v⟩ := e
      unfold tget?
      split
      · rfl
      next hj => exact ih ((List.mem_cons.1 h).resolve_left fun hk => hj hk.symm)

theorem launch_modLaunch_of_listed {s : State} {l : Nat} {f : Launch → Launch} (h : l ∈ launchKeys s) :
    (modLaunch s l f).launch l = f (s.launch l) := by
  obtain ⟨v, hv⟩ := Option.isSome_iff_exists.1 ((isSome_tget?_iff s.w.launches l).2 h)
  simp only [State.launch, modLaunch, tget, tget?_tmod, if_true, hv, Option.map_some, Option.getD_some]

/-- A launch that has been killed has `st.out` 3. -/
theorem out_killLaunch {s : State} {l : Nat} (h : l ∈ launchKeys s) : ((killLaunch s l).launch l).out = 3 := by
  unfold killLaunch
  rw [launch_modLaunch_of_listed]
  rw [killUnplaced, launchKeys_modLaunch]
  rw [foldl_keeps (g := launchKeys) (by intro _ _; rfl), launchKeys_killThreads, foldl_keeps (g := launchKeys) (by intro _ _; rfl),
    launchKeys_unpackImage]
  exact h

end Sys2Proof.Machine

/-! Pre-emption (18 R331-R334, R337; 24 R390, R391). -/

namespace Sys2Proof.Machine

-- One proof after the other: the check's memory limit counts the stack of every thread that elaborates a proof.
set_option Elab.async false

section

variable {s : State} {l n : Nat} {k : State → Nat → Nat → State}

/-! The events' and messages' meanings. -/

theorem exec_preemptGraceExpiry (lid : Nat) (s : State) : exec (.preemptGraceExpiry lid) s = execPreemptGraceExpiry lid s := rfl
theorem exec_preemptStopComplete (lid : Nat) (s : State) : exec (.preemptStopComplete lid) s = execPreemptStopComplete lid s := rfl
theorem exec_preemptStopAndSave (s : State) : exec .preemptStopAndSave s = preemptWord s 8 beginStop := rfl
theorem exec_restore (s : State) : exec .restore s = execRestore s := rfl

/-- What a notice does to a launch with a good context area: its end is set, and its partition groups are told. -/
def noticeTo (s : State) (l ctx : Nat) : State :=
  let a := modLaunch s l fun x => { x with run := .notice (s.clk + payNat s 8 8 * Config.clkPerUs) ctx }
  if (a.launch l).lr.trapvec = 0 then a else noticeLaunch a l (payNat s 8 8)

theorem exec_preemptWithNotice (s : State) : exec .preemptWithNotice s = preemptWord s 16 noticeTo := rfl

/-! A message that stops a launch, by its checks (18 R331, R333). -/

/-- The session that has asked for a launch's stop is remembered. -/
def asked (s : State) (l : Nat) : State := modLaunch s l fun x => { x with ask := x.ask ++ [(s.rx.conn, s.rx.tag)] }

theorem preemptWord_of_length (h : admitted s true) (hlen : s.rx.payload.length ≠ n) : preemptWord s n k = .next (answered s 3 0 []) :=
  gate_of_malformed h (decide_eq_false hlen)

theorem preemptWord_of_unknown (h : admitted s true) (hlen : s.rx.payload.length = n) (hl : namedLaunch s = none) :
    preemptWord s n k = .next (answered s 7 0 []) := by
  rw [preemptWord, gate_of_admitted h (payLen_of_length hlen)]
  simp only [hl]
  rfl

theorem preemptWord_of_unstoppable (h : admitted s true) (hlen : s.rx.payload.length = n) (hl : namedLaunch s = some l)
    (hstop : stoppable s l = false) : preemptWord s n k = .next (answered s 7 0 []) := by
  rw [preemptWord, gate_of_admitted h (payLen_of_length hlen)]
  simp only [hl, hstop]
  rfl

theorem preemptWord_of_badArea (h : admitted s true) (hlen : s.rx.payload.length = n) (hl : namedLaunch s = some l)
    (hstop : stoppable s l = true) (hbad : payNat s 0 8 % 4096 ≠ 0 ∨ 2 ^ 56 < payNat s 0 8 + contextSize s l) :
    preemptWord s n k = .next (answered s 3 (contextSize s l) []) := by
  rw [preemptWord, gate_of_admitted h (payLen_of_length hlen)]
  simp only [hl, hstop, if_pos hbad]
  rfl

/-- The answer or the stop after the pages of the area have been translated. -/
theorem preemptWord_of_goodArea (h : admitted s true) (hlen : s.rx.payload.length = n) (hl : namedLaunch s = some l)
    (hstop : stoppable s l = true) (hmod : payNat s 0 8 % 4096 = 0) (hend : payNat s 0 8 + contextSize s l ≤ 2 ^ 56) :
    preemptWord s n k = .next (match checkArea s l (payNat s 0 8) (contextSize s l) with
      | (a, some (c, va)) => if c = 0 then holdMsg a else respond a (accessStatus c) (va % 2 ^ 56 / 256) []
      | (a, none) => k (asked a l) l (payNat s 0 8)) := by
  have hgood : ¬ (payNat s 0 8 % 4096 ≠ 0 ∨ 2 ^ 56 < payNat s 0 8 + contextSize s l) := by omega
  rw [preemptWord, gate_of_admitted h (payLen_of_length hlen)]
  simp only [hl, hstop, if_neg hgood]
  rfl

/-! The notice to a partition group (18 R337). -/

theorem pgs_oweTrap (t : ThreadRef) (e : TqEntry) :
    (oweTrap s t e).w.pgs = (modThread s t fun x => { x with pendTrap := some e }).w.pgs := by
  unfold oweTrap
  split
  · rfl
  · split <;> rfl

theorem launches_oweTrap (t : ThreadRef) (e : TqEntry) : (oweTrap s t e).w.launches = s.w.launches := by
  unfold oweTrap
  split
  · rfl
  · split <;> rfl

theorem launches_noticePg (pk grace : Nat) : (noticePg s pk grace).w.launches = s.w.launches := by
  unfold noticePg
  split
  · rfl
  · exact launches_oweTrap ..

theorem tidsWhere_eq_of_map {g g' : PartGroup} {f : Thread → Bool} (h : g.threads.map f = g'.threads.map f) : tidsWhere g f = tidsWhere g' f := by
  have hmap (x : PartGroup) : tidsWhere x f = ((x.threads.map f).zipIdx.filter (·.1)).map (·.2) := by
    rw [tidsWhere, List.zipIdx_map, List.filter_map, List.map_map]
    rfl
  rw [hmap, hmap, h]

theorem lt_of_mem_tidsWhere {g : PartGroup} {f : Thread → Bool} {i : Nat} (h : i ∈ tidsWhere g f) : i < g.threads.length := by
  obtain ⟨⟨t, j⟩, hx, rfl⟩ := List.mem_map.1 h
  exact List.snd_lt_of_mem_zipIdx (List.mem_of_mem_filter hx)

/-- A notice to a partition group keeps which threads of each are live. -/
theorem live_noticePg (j grace pk : Nat) :
    tidsWhere ((noticePg s j grace).pg pk) Thread.live = tidsWhere (s.pg pk) Thread.live := by
  unfold noticePg
  split
  · rfl
  next i _ _ =>
    have hpg : (oweTrap s { pg := j, tid := i } (trapEntry s { pg := j, tid := i } (plainTrap 0x13 grace) (atHeader 0) false)).pg pk = _ :=
      congrArg (fun p => tget p pk PartGroup.none) (pgs_oweTrap ..)
    rw [hpg]
    refine tidsWhere_eq_of_map ?_
    show List.map _ ((modThread s _ _).pg pk).threads = _
    rw [modThread, pg_modPg]
    split
    next hpk =>
      rw [hpk]
      exact List.ext_getElem? fun m => by
        simp only [PartGroup.modThread, List.getElem?_map, List.getElem?_modify]
        cases (s.pg j).threads[m]? with
        | none => rfl
        | some t => by_cases him : i = m <;> simp [him, Thread.live]
    next => rfl

/-- A thread that owes PREEMPT with the grace as its value. -/
def owesPreempt (s : State) (t : ThreadRef) (grace : Nat) : Prop :=
  ∃ e, (s.thread t).pendTrap = some e ∧ e.cause = 0x13 ∧ e.val = word grace ∧ e.tid = t.tid

theorem owesPreempt_noticePg_self {pk i grace : Nat} (h : (tidsWhere (s.pg pk) Thread.live).head? = some i) :
    owesPreempt (noticePg s pk grace) { pg := pk, tid := i } grace := by
  obtain ⟨rest, hrest⟩ := List.head?_eq_some_iff.1 h
  have hlen : i < (s.pg pk).threads.length := lt_of_mem_tidsWhere (by rw [hrest]; exact List.mem_cons_self)
  refine ⟨trapEntry s { pg := pk, tid := i } (plainTrap 0x13 grace) (atHeader 0) false, ?_, rfl, rfl, rfl⟩
  unfold noticePg
  rw [hrest]
  dsimp only
  rw [thread_congr (pgs_oweTrap ..), thread_modThread, if_pos ⟨rfl, hlen⟩]

theorem pg_noticePg_other {j pk : Nat} (grace : Nat) (h : pk ≠ j) : (noticePg s j grace).pg pk = s.pg pk := by
  unfold noticePg
  split
  · rfl
  · rw [State.pg, pgs_oweTrap]
    show (modThread s _ _).pg pk = _
    rw [modThread, pg_modPg, if_neg h]

theorem owesPreempt_noticePg {j pk i grace : Nat} (hhead : (tidsWhere (s.pg pk) Thread.live).head? = some i)
    (h : owesPreempt s { pg := pk, tid := i } grace) : owesPreempt (noticePg s j grace) { pg := pk, tid := i } grace := by
  by_cases hj : pk = j
  · subst hj
    exact owesPreempt_noticePg_self hhead
  · unfold owesPreempt State.thread
    rw [pg_noticePg_other grace hj]
    exact h

/-- Each partition group of a list is told. -/
theorem owesPreempt_foldl_noticePg {pk i grace : Nat} {ks : List (Nat × PartGroup)} (hmem : ∃ g, (pk, g) ∈ ks)
    (hhead : (tidsWhere (s.pg pk) Thread.live).head? = some i) :
    owesPreempt (ks.foldl (fun a e => noticePg a e.1 grace) s) { pg := pk, tid := i } grace := by
  obtain ⟨g, hg⟩ := hmem
  obtain ⟨before, after, rfl⟩ := List.append_of_mem hg
  have hbefore : (tidsWhere ((before.foldl (fun a e => noticePg a e.1 grace) s).pg pk) Thread.live).head? = some i := by
    rw [foldl_keeps (g := fun a : State => tidsWhere (a.pg pk) Thread.live) fun _ _ => live_noticePg ..]
    exact hhead
  rw [List.foldl_append, List.foldl_cons]
  refine (List.foldlRecOn (motive := fun a : State => (tidsWhere (a.pg pk) Thread.live).head? = some i ∧ owesPreempt a { pg := pk, tid := i } grace)
    after _ ⟨?_, owesPreempt_noticePg_self hbefore⟩ fun a ⟨ha, howes⟩ e _ => ⟨?_, owesPreempt_noticePg ha howes⟩).2
  · rw [live_noticePg]
    exact hbefore
  · rw [live_noticePg]
    exact ha

/-- The partition groups of a launch that are on the device, told. -/
def toldOnDevice (s : State) (l grace : Nat) : State :=
  (s.w.pgs.filter fun e => decide (e.2.lid = l)).foldl (fun a e => noticePg a e.1 grace) s

theorem launches_toldOnDevice (l grace : Nat) : (toldOnDevice s l grace).w.launches = s.w.launches :=
  foldl_keeps (g := fun a : State => a.w.launches) (fun _ _ => launches_noticePg ..) _ s

theorem noticeLaunch_work (l grace : Nat) : (noticeLaunch s l grace).w.pgs = (toldOnDevice s l grace).w.pgs
    ∧ (noticeLaunch s l grace).w.launches = s.w.launches := by
  unfold noticeLaunch
  dsimp only
  split
  · exact ⟨rfl, launches_toldOnDevice ..⟩
  · exact ⟨rfl, (foldl_keeps (g := fun a : State => a.w.launches) (fun _ _ => launches_noticePg ..) _ _).trans (launches_toldOnDevice ..)⟩

theorem owesPreempt_noticeLaunch {pk i grace : Nat} {g : PartGroup} (hg : tget? s.w.pgs pk = some g) (hl : g.lid = l)
    (hhead : (tidsWhere g Thread.live).head? = some i) : owesPreempt (noticeLaunch s l grace) { pg := pk, tid := i } grace := by
  have hpg : s.pg pk = g := by rw [State.pg, tget, hg]; rfl
  unfold owesPreempt
  rw [thread_congr (noticeLaunch_work ..).1]
  exact owesPreempt_foldl_noticePg ⟨g, List.mem_filter.2 ⟨mem_of_tget? hg, decide_eq_true hl⟩⟩ (hpg ▸ hhead)

end

section

variable {s : State} {l n : Nat}

/-! A kill and a restore (18 R334; 24 R390). -/

theorem listed_of_namedLaunch (h : namedLaunch s = some l) : l ∈ launchKeys s := by
  unfold namedLaunch at h
  dsimp only at h
  split at h
  · cases h
  next hsome =>
    split_ifs at h
    obtain rfl := Option.some.inj h
    exact (isSome_tget?_iff ..).1 (Option.isSome_iff_exists.2 ⟨_, hsome⟩)

theorem execKill_of_unknown (h : admitted s true) (hl : namedLaunch s = none) : execKill s = .next (answered s 7 0 []) := by
  rw [execKill, gate_of_admitted h rfl]
  simp only [hl]
  rfl

theorem execKill_of_named (h : admitted s true) (hl : namedLaunch s = some l) :
    execKill s = .next (respond (answerAsk (killLaunch s l) l 7 0) 0 0 []) := by
  rw [execKill, gate_of_admitted h rfl]
  simp only [hl]

/-- The saved image that the message names. -/
def namedImage (s : State) : Option Image :=
  s.images.find? fun i => decide (i.va = s.rx.addr.toNat) && decide ((s.launch i.lid).run = .saved)
    && ((rxSpace s).isNone || decide (rxSpace s = some i.space))

theorem execRestore_of_unknown (h : admitted s true) (hi : namedImage s = none) : execRestore s = .next (answered s 7 0 []) := by
  rw [namedImage] at hi
  rw [execRestore, gate_of_admitted h rfl]
  simp only [hi]
  rfl

/-- The answer to the restore of an image. -/
def restoreAnswer (s : State) (i : Image) : State :=
  match restoreLaunch s i with
  | .error c => respond s 0 c []
  | .ok a => respond a 0 0 []

theorem execRestore_of_named {i : Image} (h : admitted s true) (hi : namedImage s = some i) :
    execRestore s = .next (restoreAnswer s i) := by
  rw [namedImage] at hi
  rw [execRestore, gate_of_admitted h rfl]
  simp only [hi]
  rfl

end

/-- Settles O47: the events by how a launch runs, the messages by their checks, and what a notice makes each partition group owe. -/
theorem preemptionEventsAndMessages : Obligations.PreemptionEventsAndMessages := by
  unfold Obligations.PreemptionEventsAndMessages
  intro s lid idle bad good asks
  have hbad : ∀ (i : Instr) (n : Nat) (k : State → Nat → Nat → State), admitted s true → exec i s = preemptWord s n k → bad i n := by
    intro i n k h hi
    refine ⟨fun hlen => ?_, fun hlen hl => ?_, fun l hlen hl hstop => ?_, fun l hlen hl hstop harea => ?_,
      fun l a c va hlen hl hstop hmod hend hcheck hc => ?_⟩
    · rw [hi, preemptWord_of_length h hlen]
    · rw [hi, preemptWord_of_unknown h hlen hl]
    · rw [hi, preemptWord_of_unstoppable h hlen hl hstop]
    · rw [hi, preemptWord_of_badArea h hlen hl hstop harea]
    · rw [hi, preemptWord_of_goodArea h hlen hl hstop hmod hend, hcheck]
      dsimp only
      rw [if_neg hc, accessStatus]
  have hgood : ∀ (i : Instr) (n : Nat) (k : State → Nat → Nat → State) (l : Nat) (a : State), admitted s true → exec i s = preemptWord s n k →
      good n l a → exec i s = .next (k (asked a l) l (payNat s 0 8)) := by
    rintro i n k l a h hi ⟨hlen, hl, hstop, hmod, hend, hcheck⟩
    rw [hi, preemptWord_of_goodArea h hlen hl hstop hmod hend, hcheck]
  refine ⟨fun hidle => ?_, fun d c hrun => ?_, fun hnot => ?_, fun c hrun hsettled => ?_, fun h => ⟨hbad _ 8 _ h (exec_preemptStopAndSave s),
    hbad _ 16 _ h (exec_preemptWithNotice s), fun l a hok => hgood _ 8 _ l a h (exec_preemptStopAndSave s) hok, ?_⟩,
    fun h hl => execKill_of_unknown h hl, fun l h hl => ⟨_, execKill_of_named h hl, rfl, out_killLaunch (listed_of_namedLaunch hl)⟩,
    fun h hnone => execRestore_of_unknown h ?_, fun i a h hi => ⟨fun hok => ?_, fun c herr => ?_⟩⟩
  · rw [exec_preemptGraceExpiry, execPreemptGraceExpiry]
    cases hrun : (s.launch lid).run with
    | notice d c => exact absurd hrun (hidle d c)
    | running | stopping | saved => rfl
  · rw [exec_preemptGraceExpiry, execPreemptGraceExpiry, hrun]
    simp only [Bool.or_eq_true, decide_eq_true_eq]
  · rw [exec_preemptStopComplete, execPreemptStopComplete]
    cases hrun : (s.launch lid).run with
    | stopping c =>
      dsimp only
      rw [if_neg]
      rw [hnot.resolve_left fun hne => hne c hrun]
      exact Bool.false_ne_true
    | running | notice | saved => rfl
  · rw [exec_preemptStopComplete, execPreemptStopComplete, hrun]
    exact if_pos hsettled
  · intro l a hok hlisted grace noticed
    have hrun := hgood _ 16 _ l a h (exec_preemptWithNotice s) hok
    have hvec : (noticed.launch l).lr = (a.launch l).lr :=
      (launch_modLaunch_frame (·.lr) (asks a l) l l (by intro _; rfl)).trans (launch_modLaunch_frame (·.lr) a l l (by intro _; rfl))
    refine ⟨fun hzero => hrun.trans ?_, fun hset => ⟨_, hrun.trans ?_, (noticeLaunch_work (s := noticed) l grace).2,
      fun pk g i hg hl hhead => owesPreempt_noticeLaunch (s := noticed) hg hl hhead⟩⟩
    · exact congrArg Host.Outcome.next (if_pos (by rw [← hvec] at hzero; exact hzero))
    · exact congrArg Host.Outcome.next (if_neg (by rw [← hvec] at hset; exact hset))
  · refine List.find?_eq_none.2 fun i hi hfound => hnone i hi ?_
    simp only [Bool.and_eq_true, decide_eq_true_eq] at hfound
    exact hfound.1
  · rw [exec_restore, execRestore_of_named h hi, restoreAnswer, hok]
  · rw [exec_restore, execRestore_of_named h hi, restoreAnswer, herr]
    rfl

end Sys2Proof.Machine

/-! Atomics performed at their home (14 R305-R307, R309). -/

namespace Sys2Proof.Machine

-- One proof after the other: the check's memory limit counts the stack of every thread that elaborates a proof.
set_option Elab.async false

/-- An atomic access of a type, and what each of its lanes makes of the value that it finds. -/
def Acc.stepsBy (a : Acc) (ty : Ty) (f : Nat → Lane → Nat) : Prop :=
  (∃ op, (a.kind = .atom op ty ∨ a.kind = .red op ty) ∧ f = fun (m : Nat) (l : Lane) => atomStep op ty m (l.val.toNat % 2 ^ ty.bits))
    ∨ (a.kind = .cas ty ∧ f = fun (m : Nat) (l : Lane) => if m = l.val.toNat % 2 ^ ty.bits then l.val2.toNat % 2 ^ ty.bits else m)
    ∨ (a.kind = .fred ty ∧ f = fun (m : Nat) (l : Lane) => fredStep ty m (l.val.toNat % 2 ^ ty.bits))

/-- One lane of a chain: its result is the value that it finds, and it leaves the next one. -/
def chainLane (ty : Ty) (f : Nat → Lane → Nat) (acc : State × Nat) (l : Lane) : State × Nat :=
  (readyPend acc.1 l.pend (loadWords ty acc.2), f acc.2 l)

section

variable {s : State} {a : Acc} {ty : Ty} {f : Nat → Lane → Nat}

theorem chain_eq (s : State) (a : Acc) (ty : Ty) (f : Nat → Lane → Nat) : chain s a ty f
    = homePut (a.lanes.foldl (chainLane ty f) (s, homeNat s a ty.bytes)).1 a ty.bytes
        (a.lanes.foldl (chainLane ty f) (s, homeNat s a ty.bytes)).2 := rfl

/-- An atomic access that does not wait has been stamped, and its lanes act one after the other. -/
theorem performAcc_of_steps (h : a.stepsBy ty f) (hgoes : (performAcc s a).2 = true) :
    (performAcc s a).1 = accDone (chain (stampedFor s a) a ty f) a := by
  have hchain : performAcc s a = if nodeBusy s a || frameHeld s a then (s, false) else
      match stampAll s (stampsNow s a) with
      | (s, false) => (s, false)
      | (u, true) => (accDone (chain u a ty f) a, true) := by
    rcases h with ⟨op, hkind | hkind, rfl⟩ | ⟨hkind, rfl⟩ | ⟨hkind, rfl⟩ <;> (unfold performAcc performEffect; rw [hkind]; rfl)
  rw [hchain] at hgoes ⊢
  split at hgoes
  · cases hgoes
  next hfree =>
    rw [if_neg hfree, stampedFor]
    rcases h : stampAll s (stampsNow s a) with ⟨u, b⟩
    rw [h] at hgoes
    cases b
    · cases hgoes
    · rfl

/-! The lanes of a chain. -/

variable {lanes : List Lane} {m : Nat} {p : Pend}

theorem foldl_chainLane_value (s : State) : (lanes.foldl (chainLane ty f) (s, m)).2 = lanes.foldl f m := by
  induction lanes generalizing s m with
  | nil => rfl
  | cons l lanes ih => exact ih _

theorem homeView_foldl_chainLane (s : State) : homeView (lanes.foldl (chainLane ty f) (s, m)).1
    = { homeView s with pends := (lanes.foldl (chainLane ty f) (s, m)).1.w.pends } := by
  have hkept : { homeView (lanes.foldl (chainLane ty f) (s, m)).1 with pends := [] } = { homeView s with pends := [] } := by
    refine foldl_keeps (g := fun r : State × Nat => { homeView r.1 with pends := [] }) (fun r l => ?_) lanes (s, m)
    dsimp only [chainLane]
    rw [homeView_readyPend]
  exact congrArg (fun v : HomeView => { v with pends := (lanes.foldl (chainLane ty f) (s, m)).1.w.pends }) hkept

theorem mem_foldl_chainLane_other (hp : p ∈ s.w.pends) (h : p.id ∉ lanes.filterMap (·.pend)) :
    p ∈ (lanes.foldl (chainLane ty f) (s, m)).1.w.pends := by
  induction lanes generalizing s m with
  | nil => exact hp
  | cons l lanes ih =>
    rw [List.mem_filterMap] at h
    refine ih (mem_readyPend_other _ hp fun hl => h ⟨l, List.mem_cons_self, hl⟩) fun hmem => h ?_
    obtain ⟨l', hl', hid⟩ := List.mem_filterMap.1 hmem
    exact ⟨l', List.mem_cons_of_mem _ hl', hid⟩

/-- Each lane's result is what the lanes before it left. -/
theorem mem_foldl_chainLane {l : Lane} {k : Nat} (hp : p ∈ s.w.pends) (hl : lanes[k]? = some l) (hid : l.pend = some p.id)
    (hnodup : (lanes.filterMap (·.pend)).Nodup) :
    p.given (loadWords ty ((lanes.take k).foldl f m)) ∈ (lanes.foldl (chainLane ty f) (s, m)).1.w.pends := by
  induction lanes generalizing s m k with
  | nil => cases hl
  | cons x lanes ih =>
    cases k with
    | zero =>
      obtain rfl : x = l := Option.some.inj hl
      rw [List.filterMap_cons, hid, List.nodup_cons] at hnodup
      have hready := mem_readyPend_same (loadWords ty m) hp
      rw [← hid] at hready
      exact mem_foldl_chainLane_other (s := readyPend s x.pend (loadWords ty m)) hready hnodup.1
    | succ k =>
      have hnodup' : (lanes.filterMap (·.pend)).Nodup := hnodup.sublist ((List.sublist_cons_self x lanes).filterMap _)
      have hmem : l ∈ lanes := List.mem_of_getElem? hl
      refine ih (mem_readyPend_other _ hp fun hx => ?_) hl hnodup'
      rw [List.filterMap_cons, hx, List.nodup_cons] at hnodup
      exact hnodup.1 (List.mem_filterMap.2 ⟨l, hmem, hid⟩)

/-! The chain at its home. -/

theorem homeNat_home (h : a.stage = .home) (n : Nat) : homeNat s a n = memNat s.w.mem a.pa n := if_neg (by rw [h]; decide)

theorem homeView_homePut (h : a.stage = .home) (n v : Nat) :
    homeView (homePut s a n v) = (homeView s).withMem (memWriteN s.w.mem a.pa (bytesOfNat n v)) := by
  rw [homePut, if_neg (by rw [h]; decide), homeView_homeOpLines, homeView_homeWrite]

theorem homeView_chain (h : a.stage = .home) : homeView (chain s a ty f) = { (homeView s).withMem (memWriteN s.w.mem a.pa
      (bytesOfNat ty.bytes (a.lanes.foldl f (memNat s.w.mem a.pa ty.bytes)))) with
    pends := (a.lanes.foldl (chainLane ty f) (s, memNat s.w.mem a.pa ty.bytes)).1.w.pends } := by
  have hlanes := homeView_foldl_chainLane (lanes := a.lanes) (ty := ty) (f := f) (m := memNat s.w.mem a.pa ty.bytes) s
  rw [chain_eq, homeNat_home h, homeView_homePut h, foldl_chainLane_value, hlanes,
    show (a.lanes.foldl (chainLane ty f) (s, memNat s.w.mem a.pa ty.bytes)).1.w.mem = s.w.mem from congrArg HomeView.mem hlanes]
  rfl

end

/-- Settles O27: the stamps write into the ring alone, the lanes fold over the value that stands, and the last one's is written. -/
theorem atomicsActInLaneOrder : Obligations.AtomicsActInLaneOrder := by
  unfold Obligations.AtomicsActInLaneOrder
  intro s a ty f hnow hsteps hgoes hwf hoff hnodup m
  obtain ⟨hstage, -⟩ := of_accNow hnow
  have hstamped : Stamped s (stampedFor s a) := stamped_stampAll s _
  have hdone := performAcc_of_steps hsteps hgoes
  set u := stampedFor s a
  have hvalue : memNat u.w.mem a.pa ty.bytes = m := by
    refine congrArg natOfBytes (memReadN_congr fun k hk hk' => hstamped.read hwf k ?_)
    exact hoff.imp (by omega) (by omega)
  have hview : homeView (performAcc s a).1 = { (homeView s).withMem (memWriteN u.w.mem a.pa (bytesOfNat ty.bytes (a.lanes.foldl f m))) with
      pends := (a.lanes.foldl (chainLane ty f) (u, m)).1.w.pends, accs := s.w.accs.filter fun b => b.id != a.id } := by
    have hchain := homeView_chain (s := u) (ty := ty) (f := f) hstage
    rw [hvalue, hstamped.view, HomeView.withMem_withMem] at hchain
    rw [hdone, homeView_accDone hstage, hchain, show (chain u a ty f).w.accs = s.w.accs from congrArg HomeView.accs hchain]
  have hmem : (performAcc s a).1.w.mem = memWriteN u.w.mem a.pa (bytesOfNat ty.bytes (a.lanes.foldl f m)) := congrArg HomeView.mem hview
  have huwf := hstamped.wf hwf
  refine ⟨_, homeAccessPerform_acc hnow, ?value, fun k hout hring => ?frame, fun k l hl p hp hid => ?result, congrArg HomeView.accs hview⟩
  case value => rw [hmem, memNat_memWriteN_bytesOfNat _ _ _ _ huwf]
  case frame =>
    rw [hmem, memRead_memWriteN_other u.w.mem a.pa k _ huwf (by rw [length_bytesOfNat]; exact hout)]
    exact hstamped.read hwf k hring
  case result =>
    rw [show (performAcc s a).1.w.pends = _ from congrArg HomeView.pends hview]
    refine mem_foldl_chainLane ?_ hl hid hnodup
    rw [show u.w.pends = s.w.pends from congrArg HomeView.pends hstamped.view]
    exact hp

end Sys2Proof.Machine

/-! The words of reprojection, worklists, traversal, textures and images (13 R279, R280, R284-R293). -/

namespace Sys2Proof.Machine

-- One proof after the other: the check's memory limit counts the stack of every thread that elaborates a proof.
set_option Elab.async false

/-! A word that registers one operation for each lane under a tag (13 R279). -/

theorem actsOnEngine_of_tagOpWord {i : Instr} {w : Wd} {k : EngKind} {n : Nat} {bad : List Byte → Nat → Option (BitVec 8 × Nat)}
    {locks : EngOp → Nat → List RLock} (hi : ∀ s, exec i s = tagOpWord s w k n bad fun s ix o => locks o (s.cg ix.cg).slot) :
    actsOnEngine i w.ctl fun s ix a t b =>
      match readDescAcq a t (effAddr s t w.b w.c) n n with
      | (x, .error tr) => tr.again = none ∧ b = trapAt x ix t.tid tr
      | (x, .ok d) => match bad d (effAddr s t w.b w.c) with
        | some r => b = tagFail x ix.cg (resNum (s.launch ix.lid).lr w.a) r.1 r.2
        | none =>
          let r := newOp x ix t k (resNum (s.launch ix.lid).lr w.a) d (effAddr s t w.b w.c)
          b = offerEngOp r.2 { r.1 with locks := locks r.1 (r.2.cg ix.cg).slot } := by
  refine actsOnEngine_of_engineWord_fixed hi fun s ix a t b => ?_
  dsimp only
  rcases readDescAcq a t (effAddr s t w.b w.c) n n with ⟨x, tr | d⟩
  · exact fun h => .inr ⟨x, tr, rfl, h⟩
  · dsimp only
    cases bad d (effAddr s t w.b w.c) with
    | none | some r => exact fun h => .inl (congrArg (·, none) h.symm)

/-! Traversals (13 R286). -/

theorem fetchNode_of_misaligned {s : State} {t : ThreadRef} {va : Nat} (first : Bool) (h : va % 64 ≠ 0) :
    fetchNode s t va first = (s, .bad (plainTrap 0x05 va)) := if_pos h

theorem traceRun_of_misaligned {s : State} {tv : Trav} {n : Nat} {rest : List Nat} (k : Nat) (first : Bool) (hstack : tv.stack = n :: rest)
    (h : nodeVa tv.root n % 64 ≠ 0) : traceRun (k + 1) s tv first = (s, .bad (plainTrap 0x05 (nodeVa tv.root n))) := by
  unfold traceRun
  rw [hstack]
  dsimp only
  rw [fetchNode_of_misaligned first h]

theorem nodeVa_zero {root : Nat} (h : root < 2 ^ 64) : nodeVa root 0 = root := Nat.mod_eq_of_lt h

theorem traceLane_of_misaligned {s : State} {ix : Issue} {w : Wd} {any : Bool} {s0 : State} {t : ThreadRef}
    (h : (srcPair s0 t w.c).toNat % 64 ≠ 0) : traceLane s ix w any s0 t = (s, some (plainTrap 0x05 (srcPair s0 t w.c).toNat)) := by
  have hroot := nodeVa_zero (srcPair s0 t w.c).isLt
  unfold traceLane
  dsimp only
  rw [traceRun_of_misaligned (2 ^ 20) true rfl (by rw [hroot]; exact h)]
  dsimp only
  rw [hroot]

/-! Node updates (13 R288). -/

/-- The access that updates one node. -/
def sendNode (ix : Issue) (c : Ctl) (ws : ThreadRef → List Word) (a : State) (x : ThreadRef × Nat × Target) : State :=
  pushAcc a ix c { kind := .node (ws x.1), bytes := 64, scope := .dev, ord := .rel, nt := false } x.2.1 x.2.2 [(x.1, x.2.1)]
    (fun _ => 0) (fun _ => 0) fun _ => none

theorem foldl_sendNode_spec (ix : Issue) (c : Ctl) (ws : ThreadRef → List Word) (ok : List (ThreadRef × Nat × Target)) (a : State) :
    ∃ news : List Acc, (ok.foldl (sendNode ix c ws) a).w.accs = a.w.accs ++ news
      ∧ news.map (fun b => (b.va, b.bytes, b.kind)) = ok.map fun x => (x.2.1, 64, AccKind.node (ws x.1)) := by
  induction ok generalizing a with
  | nil => exact ⟨[], (List.append_nil _).symm, rfl⟩
  | cons x ok ih =>
    obtain ⟨b, ⟨hva, hkind, hbytes, -⟩, hview⟩ := pushAcc_spec a ix c
      { kind := .node (ws x.1), bytes := 64, scope := .dev, ord := .rel, nt := false } (fun _ => 0) (fun _ => 0) (fun _ => none)
      x.2.2 x.2.1 [(x.1, x.2.1)]
    obtain ⟨news, hnews, hmap⟩ := ih (sendNode ix c ws a x)
    refine ⟨b :: news, ?_, ?_⟩
    · rw [List.foldl_cons, hnews, sendNode, accs_of_sendingView hview, List.append_assoc, List.singleton_append]
    · rw [List.map_cons, List.map_cons, hmap, hva, hkind, hbytes]

/-- The lines that node updates request, counted. -/
def nodeLines (s : State) (ix : Issue) (ok : List (ThreadRef × Nat × Target)) : State :=
  (dedup (ok.map fun x => (x.2.1 / 128, x.2.2.isWindow))).foldl (fun s l => countLine s ix.core (l.1 * 128) 1 ix.lid l.2) s

theorem accs_nodeLines (s : State) (ix : Issue) (ok : List (ThreadRef × Nat × Target)) : (nodeLines s ix ok).w.accs = s.w.accs :=
  accs_of_sendingView (sendingView_of_uncounted (foldl_keeps (g := uncounted) (fun _ _ => uncounted_countLine ..) _ s))

/-- The words that a lane of ASUPD brings. -/
def nodeWords (s : State) (w : Wd) (t : ThreadRef) : List Word := (List.range 15).map fun i => regOf s t (vNum w.a + 1 + i)

/-- The checks of the lanes of ASUPD. -/
def nodeLanes (s : State) (ix : Issue) (w : Wd) : State × Checked :=
  checkLanes s ix.pg (activeOf s ix w.ctl) (fun t => effAddr s t w.b w.c) 64 .readWrite

theorem exec_asupd {s : State} {ix : Issue} (w : Wd) (hix : s.issue = some ix) : exec (.asupd w) s
    = .next (retire (acceptFlags s (takeTraps ((nodeLanes s ix w).2.ok.foldl (sendNode ix w.ctl (nodeWords s w))
        (nodeLines (nodeLanes s ix w).1 ix (nodeLanes s ix w).2.ok)) ix (nodeLanes s ix w).2.traps) ix w.ctl) ix w.ctl) := by
  show execAsupd w s = _
  rw [execAsupd, hix]
  rfl

/-! Images (13 R291, R293). -/

/-- One lane of an image word: its descriptor is read, unless a lane before it waits. -/
def addElem (w : Wd) (ty : Ty) (acc : State × Except Again (List (ThreadRef × Option Nat) × List (ThreadRef × Trap))) (t : ThreadRef) :
    State × Except Again (List (ThreadRef × Option Nat) × List (ThreadRef × Trap)) :=
  match acc with
  | (s, .error e) => (s, .error e)
  | (s, .ok (l, traps)) =>
    match readTx s t (srcPair s t w.c).toNat with
    | (s, .ok d) => (s, .ok (l ++ [(t, imAddr d ty (srcPair s t w.b))], traps))
    | (s, .error e) => (s, match e.again with
      | some why => .error why
      | none => .ok (l, traps ++ [(t, e)]))

theorem imElems_eq (ts : List ThreadRef) (s : State) (w : Wd) (ty : Ty) : imElems ts s w ty = ts.foldl (addElem w ty) (s, .ok ([], [])) := rfl

theorem foldl_addElem_of_waits (ts : List ThreadRef) (s : State) (w : Wd) (ty : Ty) (why : Again) :
    ts.foldl (addElem w ty) (s, .error why) = (s, .error why) := by
  induction ts with
  | nil => rfl
  | cons t ts ih => exact ih

/-- Where no lane waits each lane has its element or its trap. -/
theorem perm_of_foldl_addElem {w : Wd} {ty : Ty} {ts : List ThreadRef} {s a : State} {l l' : List (ThreadRef × Option Nat)}
    {tr tr' : List (ThreadRef × Trap)} (h : ts.foldl (addElem w ty) (s, .ok (l, tr)) = (a, .ok (l', tr'))) :
    (l'.map (·.1) ++ tr'.map (·.1)).Perm (l.map (·.1) ++ tr.map (·.1) ++ ts) := by
  induction ts generalizing s l tr with
  | nil =>
    obtain ⟨-, h⟩ := Prod.mk.inj h
    obtain ⟨rfl, rfl⟩ := Prod.mk.inj (Except.ok.inj h)
    rw [List.append_nil]
  | cons t ts ih =>
    rw [List.foldl_cons, addElem] at h
    rcases hread : readTx s t (srcPair s t w.c).toNat with ⟨x, e | d⟩ <;> rw [hread] at h
    · dsimp only at h
      cases hagain : e.again with
      | some why =>
        rw [hagain, foldl_addElem_of_waits] at h
        cases (Prod.mk.inj h).2
      | none =>
        rw [hagain] at h
        refine (ih h).trans ?_
        rw [List.map_append, List.append_assoc, List.append_assoc, List.append_assoc]
        rfl
    · refine (ih h).trans ?_
      rw [List.map_append, List.append_assoc, List.append_assoc, List.append_assoc]
      refine List.Perm.append_left _ ?_
      show (t :: (tr.map (·.1) ++ ts)).Perm _
      exact List.perm_middle.symm

theorem imElems_perm {ts : List ThreadRef} {s a : State} {w : Wd} {ty : Ty} {l : List (ThreadRef × Option Nat)} {tr : List (ThreadRef × Trap)}
    (h : imElems ts s w ty = (a, .ok (l, tr))) : (l.map (·.1) ++ tr.map (·.1)).Perm ts := by
  rw [imElems_eq] at h
  exact perm_of_foldl_addElem (l := []) (tr := []) h

/-- Where the elements of an image word lie. -/
def elemAddr (l : List (ThreadRef × Option Nat)) (t : ThreadRef) : Nat := ((l.find? fun x => x.1 = t).bind (·.2)).getD 0

theorem imageWord_of_elems {s a : State} {ix : Issue} {w : Wd} {sh : AccShape} {ty : Ty} {need : Need} {val : State → ThreadRef → DWord}
    {out : ThreadRef → Option LaneOut} {outside : State → Issue → ThreadRef → State} {l : List (ThreadRef × Option Nat)}
    {tr : List (ThreadRef × Trap)} (hix : s.issue = some ix) (h : imElems (byLane (activeOf s ix w.ctl)) s w ty = (a, .ok (l, tr))) :
    imageWord s w sh ty need val out outside = .next (
      let r := checkLanes a ix.pg ((l.filter fun x => x.2.isSome).map (·.1)) (elemAddr l) ty.bytes need
      retire (acceptFlags s (takeTraps ((l.filter fun x => x.2.isNone).foldl (fun x y => outside x ix y.1)
        (pushAccs r.1 ix w.ctl sh r.2.ok (val s) (fun _ => 0) out)) ix (tr ++ r.2.traps)) ix w.ctl) ix w.ctl) := by
  rw [imageWord, hix]
  dsimp only
  rw [h]
  rfl

/-! Texture words (13 R292). -/

/-- One lane of a texture word. -/
def texLane (w : Wd) (f : State → ThreadRef → List Byte → DWord → State × Except Trap (List Nat)) (s : State) (ix : Issue) (a : State)
    (t : ThreadRef) : State × Option Trap :=
  match readTx a t (srcPair s t w.c).toNat with
  | (x, .error e) => (x, some e)
  | (x, .ok d) =>
    match f x t d (srcPair s t w.b) with
    | (y, .error e) => (y, some e)
    | (y, .ok v) => (pushResult y ix w.ctl 0 true true t
        { regs := (List.range 4).map fun i => vNum w.a + i, vals := v.map word, preds := [], raise := 0 }, none)

theorem texWord_eq (s : State) (w : Wd) (f : State → ThreadRef → List Byte → DWord → State × Except Trap (List Nat)) :
    texWord s w f = actWord s w.ctl (texLane w f s) := rfl

/-- Settles O40: the engine's words and the lanes' steps one by one, an image word by the elements of its lanes. -/
theorem reuseRayAndTextureWords : Obligations.ReuseRayAndTextureWords := by
  unfold Obligations.ReuseRayAndTextureWords
  intro w anyHit ty scope ord c ea tagged four tex image lock
  have htagged : ∀ i k bad locks, (∀ s, exec i s = tagOpWord s w k 64 bad fun s ix o => locks o (s.cg ix.cg).slot) → tagged i k bad locks :=
    fun i k bad locks hi => actsOnEngine_of_tagOpWord hi
  have htex : ∀ i f, (∀ s, exec i s = texWord s w f) → tex i f := by
    intro i f hi
    refine actsByLane_of_actWord_fixed i c (texLane w f) _ (fun s => (hi s).trans (texWord_eq s w f)) fun s ix a t b => ?_
    unfold texLane
    rcases readTx a t (srcPair s t w.c).toNat with ⟨x, tr | d⟩
    · exact fun h => .inr ⟨x, tr, rfl, h⟩
    · dsimp only [four]
      rcases f x t d (srcPair s t w.b) with ⟨y, tr | v⟩
      · exact fun h => .inr ⟨y, tr, rfl, h⟩
      · exact fun h => .inl (congrArg (·, none) h.symm)
  have himage : ∀ i sh need v out outside, (∀ s, exec i s = imageWord s w sh ty need v out outside) → image i sh need v out outside :=
    fun i sh need v out outside hi s ix a l tr hix h =>
      ⟨(imElems_perm h).trans (byLane_perm _), (hi s).trans (imageWord_of_elems hix h)⟩
  clear_value tagged tex image
  refine ⟨htagged _ _ _ _ fun _ => rfl, htagged _ _ _ _ fun _ => rfl,
    actsByLane_of_actWord_fixed _ _ (fun s ix a t => traceLane a ix w anyHit s t) _ (fun _ => rfl) fun _ _ _ _ _ h => h,
    fun s ix s0 t h => traceLane_of_misaligned h, fun s ix hix => ?asupd, htex _ _ fun _ => rfl, htex _ _ fun _ => rfl,
    himage _ _ _ _ _ _ fun _ => rfl, himage _ _ _ _ _ _ fun _ => rfl⟩
  case asupd =>
    obtain ⟨-, -, -, -, honce, hpasses, hmisaligned, -⟩ :=
      everyLaneIsCheckedOnce s ix.pg (activeOf s ix c) (fun t => effAddr s t w.b w.c) 64 .readWrite
    obtain ⟨news, hnews, hmap⟩ := foldl_sendNode_spec ix c (nodeWords s w) (nodeLanes s ix w).2.ok
      (nodeLines (nodeLanes s ix w).1 ix (nodeLanes s ix w).2.ok)
    have hchecked : (nodeLanes s ix w).1.w.accs = s.w.accs := congrArg Prod.fst (sentAndListed_checkLanes ..)
    refine ⟨_, (nodeLanes s ix w).2.ok, (nodeLanes s ix w).2.traps, exec_asupd w hix, honce, hmisaligned, news, ?_, hmap.trans ?_⟩
    · rw [hnews, accs_nodeLines, hchecked]
    · exact List.map_congr_left fun x hx => congrArg (·, 64, AccKind.node (nodeWords s w x.1)) (hpasses x hx).1

end Sys2Proof.Machine
